-- ==== Sys2Proof/Word.lean ====
section
/-! DEFINITION. Sys2Proof/Word.lean: the word types (R11, R15, R25) and the sparse map type in which State holds what is
mostly at its default value. -/

namespace Sys2Proof

/-- A byte of memory. -/
abbrev Byte := BitVec 8
/-- A 32-bit register value, instruction word or control word. -/
abbrev Word := BitVec 32
/-- A 64-bit value, held in an even pair (R11). -/
abbrev DWord := BitVec 64
/-- A lane mask: bit l stands for lane l (R6). -/
abbrev Mask := BitVec 32
/-- A SHA-384 value: a measurement register, a digest, a nonce (R404). -/
abbrev Digest := BitVec 384

/-- A sparse map with keys in rising order, held as plain data. An absent key reads as the value each use names. -/
abbrev AMap (α : Type) := List (Nat × α)

end Sys2Proof
end

