-- ==== Sys2Proof/Syntax.lean ====
section
/-! DEFINITION. Sys2Proof/Syntax.lean: the register codes (R25) and the ONE inductive of the opcode table. A row with a word is
a constructor over the fields the instruction uses (a field it does not use is ignored, R24, and is not held); a row without a
word is a step of the machine, over the numbers that say where it happens and what comes from outside. -/

namespace Sys2Proof

/-- The 8-bit register field (R25). -/
inductive Reg where
  /-- v0 to v127, vector registers. -/
  | v (n : Fin 128)
  /-- s0 to s63, scalar registers of the warp. -/
  | s (n : Fin 64)
  /-- p0 to p7, per-lane predicates; p7 reads 1. -/
  | p (n : Fin 8)
  /-- 0xC8 to 0xDF, special registers (R29), counted from 0xC8. -/
  | x (n : Fin 24)
  /-- k0 to k15, constants (R31). -/
  | k (n : Fin 16)
  /-- 0xF0 to 0xFE, reserved: an illegal-operand fault wherever the field is used. -/
  | rsv (n : Fin 15)
  /-- 0xFF, reads zero, writes discarded. -/
  | z
deriving DecidableEq, Repr

/-- The five engine queues, numbered as the trap record numbers them (R208, R330). -/
inductive EngineQueue where
  | cq0 | cq1 | mq | pq | fq
deriving DecidableEq, Repr

/-- The units of a core that power down and carry a taint bit (R325, R327). -/
inductive PowerUnit where
  /-- The register file of a quadrant. -/
  | regFile (quad : Nat)
  /-- One register granule of a quadrant, as a unit of scrubbing. -/
  | granule (quad g : Nat)
  /-- A scratchpad group (R219). -/
  | scratchGroup (g : Nat)
  /-- The matrix array. -/
  | matrix
  /-- The L1. -/
  | l1
deriving DecidableEq, Repr

/-- One fabric packet: the header of R353, whose type is the header's byte 0 (R352), with its operand bytes and payload. -/
structure Packet where
  kind : BitVec 8
  sectors : BitVec 4
  phase : Bool
  /-- Header byte 1 [2:0], which must be zero. -/
  spare : BitVec 3
  tag : BitVec 16
  module : BitVec 8
  slice : BitVec 8
  /-- Bytes 6 and 7: operation, element type, rounding, ftz, sat. -/
  opWord : BitVec 16
  /-- Bytes 8 to 15: the offset at the node. -/
  offset : BitVec 64
  /-- Bytes 16 to 31: the byte-enable mask, or the operand and the expected value. -/
  operands : BitVec 128
  /-- Payload bytes, lowest address first. -/
  payload : List Byte
deriving DecidableEq, Repr

/-- A frame as it travels (R354): its packets, payloads encrypted, and its trailer: the sequence number and the AES-256-GCM tag. -/
structure Frame where
  seq : Nat
  packets : List Packet
  tag : BitVec 128
deriving DecidableEq, Repr

/-- One millisecond sample of a slice (R396): junction temperature in degrees, voltage and current of four rails, module power. -/
structure Sensor where
  temp : Nat
  volts : List Nat
  amps : List Nat
  power : Nat
deriving DecidableEq, Repr

/-- A firmware image as staged (R407): security version, and whether its two signatures and its body digest verify. -/
structure FirmwareImage where
  version : Nat
  digest : BitVec 384
  ecdsaOk : Bool
  lmsOk : Bool
  bodyOk : Bool
deriving DecidableEq, Repr

/-- A rectangle of slices: first and last row, first and last column (R4, R381). -/
structure Rect where
  row0 : Nat
  row1 : Nat
  col0 : Nat
  col1 : Nat
deriving DecidableEq, Repr

/-- What the boot steps of R379 gave: a failure, or the loader's bytes, its digest and its load. -/
inductive BootResult where
  | failed
  | loader (bytes : List Byte) (digest : BitVec 384)
deriving DecidableEq, Repr

/-- The opcode table: one constructor per row. -/
inductive Instr where
  /-- ILL (R54). Always raises an illegal-instruction fault, so an all-zero word never executes. -/
  | ill
  /-- NOP (R54). Issues with no effect other than its slot control. -/
  | nop
  /-- BRA (R55). Per-lane branch to B + 16 × off24; the active lanes take it, and a divergent branch splits the gang. -/
  | bra (off : BitVec 24)
  /-- SBRA (R56). Uniform branch of the whole gang, taken when the value of field d is nonzero. -/
  | sbra (c : Reg) (off : BitVec 16)
  /-- BRX (R139). Indirect per-lane branch; every active lane's target is checked before any lane moves. -/
  | brx (a : Reg)
  /-- CALL (R140). Per-lane call to a relative target that writes the link pair. -/
  | call (d : Reg) (off : BitVec 16)
  /-- CALLX (R140). Indirect per-lane call, checked as BRX, that writes the link pair. -/
  | callx (d : Reg) (a : Reg)
  /-- RET (R140). Per-lane return to the address held in a pair. -/
  | ret (a : Reg)
  /-- JOIN (R141). Pushes a rejoin entry onto the gang's reconvergence stack. -/
  | join (off : BitVec 16)
  /-- MEET (R142). Rejoin point: the gang pops its entry, parks, merges or serves a pending destination. -/
  | meet
  /-- SWITCH (R145). Multi-way per-lane transfer through a table of entries that follows the instruction. -/
  | switch (d : Reg) (n : BitVec 16)
  /-- WSYNC (R144). Warp-wide rendezvous that completes when every live lane waits. -/
  | wsync (n : BitVec 16)
  /-- EXIT (R57). Retires the active lanes of the gang. -/
  | exit
  /-- TRAP (R58). Halts the gang with a trap record of cause trap instruction when any lane is active. -/
  | trap (n : BitVec 16)
  /-- YIELD (R59). Makes the gang ineligible for max(1, n) cycles and ends the warp's greedy hold. -/
  | yield (n : BitVec 16)
  /-- EXEC (R143). Removes lanes from the gang's mask and holds them in the top stack entry. -/
  | exec (a : Reg)
  /-- MOV (R61). Copies a to d, or sets a predicate from a. -/
  | mov (d : Reg) (a : Reg)
  /-- MOVI (R61). Writes the sign-extended immediate. -/
  | movi (d : Reg) (n : BitVec 16)
  /-- MOVH (R61). Writes imm16 into bits [31:16] of d and keeps bits [15:0]. -/
  | movh (d : Reg) (n : BitVec 16)
  /-- ADD (R62). Element-wise add under the mode's element type. -/
  | add (d : Reg) (a : Reg) (b : Reg)
  /-- SUB (R62). Element-wise subtract. -/
  | sub (d : Reg) (a : Reg) (b : Reg)
  /-- MUL (R62). Element-wise multiply. -/
  | mul (d : Reg) (a : Reg) (b : Reg)
  /-- MULH (R62). High half of the integer product. -/
  | mulh (d : Reg) (a : Reg) (b : Reg)
  /-- MAD (R62). Fused multiply-add into the old d. -/
  | mad (d : Reg) (a : Reg) (b : Reg)
  /-- NEG (R62). Element-wise negate. -/
  | neg (d : Reg) (a : Reg)
  /-- ABS (R62). Element-wise absolute value. -/
  | abs (d : Reg) (a : Reg)
  /-- MIN (R63). Element-wise minimum. -/
  | min (d : Reg) (a : Reg) (b : Reg)
  /-- MAX (R63). Element-wise maximum. -/
  | max (d : Reg) (a : Reg) (b : Reg)
  /-- DIV (R64). Element-wise division. -/
  | div (d : Reg) (a : Reg) (b : Reg)
  /-- REM (R64). Element-wise remainder. -/
  | rem (d : Reg) (a : Reg) (b : Reg)
  /-- CLAMP (R63). Writes Min(Max(old d, a), b). -/
  | clamp (d : Reg) (a : Reg) (b : Reg)
  /-- SEL (R65). Selects a or b per lane by the guard predicate. -/
  | sel (d : Reg) (a : Reg) (b : Reg)
  /-- AND (R66). Bitwise and. -/
  | and (d : Reg) (a : Reg) (b : Reg)
  /-- OR (R66). Bitwise or. -/
  | or (d : Reg) (a : Reg) (b : Reg)
  /-- XOR (R66). Bitwise exclusive or. -/
  | xor (d : Reg) (a : Reg) (b : Reg)
  /-- NOT (R66). Bitwise complement. -/
  | not (d : Reg) (a : Reg)
  /-- SHL (R67). Element-wise shift left. -/
  | shl (d : Reg) (a : Reg) (b : Reg)
  /-- SHR (R67). Element-wise logical shift right. -/
  | shr (d : Reg) (a : Reg) (b : Reg)
  /-- SAR (R67). Element-wise arithmetic shift right. -/
  | sar (d : Reg) (a : Reg) (b : Reg)
  /-- ROL (R67). Element-wise rotate left. -/
  | rol (d : Reg) (a : Reg) (b : Reg)
  /-- FSH (R67). Funnel shift of a and b by the old d element. -/
  | fsh (d : Reg) (a : Reg) (b : Reg)
  /-- CLZ (R68). Counts leading zeros per element. -/
  | clz (d : Reg) (a : Reg)
  /-- POPC (R68). Counts one bits per element. -/
  | popc (d : Reg) (a : Reg)
  /-- BREV (R68). Reverses the bits of each element. -/
  | brev (d : Reg) (a : Reg)
  /-- BFX (R69). Extracts a bit field. -/
  | bfx (d : Reg) (a : Reg) (b : Reg)
  /-- BFI (R69). Inserts a bit field into d. -/
  | bfi (d : Reg) (a : Reg) (b : Reg)
  /-- CMP (R71). Sets a predicate from a comparison of a with b under a condition. -/
  | cmp (c : BitVec 5) (p : BitVec 3) (a : Reg) (b : Reg)
  /-- PLOG (R73). Sets a predicate by a truth table of two predicates. -/
  | plog (t : BitVec 4) (p : BitVec 3) (a : Reg) (b : Reg)
  /-- CVT (R74). Converts part of the elements from a source type to the mode's type. -/
  | cvt (d : Reg) (a : Reg) (part : BitVec 3) (t : BitVec 5)
  /-- RND (R77). Rounds each element to an integral value. -/
  | rnd (d : Reg) (a : Reg)
  /-- RCP (R79). Reciprocal per element. -/
  | rcp (d : Reg) (a : Reg)
  /-- RSQ (R79). Reciprocal square root per element. -/
  | rsq (d : Reg) (a : Reg)
  /-- SQRT (R79). Correctly rounded square root per element. -/
  | sqrt (d : Reg) (a : Reg)
  /-- EX2 (R79). Base-2 exponential per element. -/
  | ex2 (d : Reg) (a : Reg)
  /-- LG2 (R79). Base-2 logarithm per element. -/
  | lg2 (d : Reg) (a : Reg)
  /-- SIN (R79). Sine per element. -/
  | sin (d : Reg) (a : Reg)
  /-- COS (R79). Cosine per element. -/
  | cos (d : Reg) (a : Reg)
  /-- TANH (R79). Hyperbolic tangent per element. -/
  | tanh (d : Reg) (a : Reg)
  /-- FCLS (R78). Writes the floating-point class of each element. -/
  | fcls (d : Reg) (a : Reg)
  /-- ADDC (R70). Adds with carry held in the guard predicate. -/
  | addc (d : Reg) (a : Reg) (b : Reg)
  /-- MODE (R82). Writes the old mode to d and loads the mode from a. -/
  | mode (d : Reg) (a : Reg)
  /-- MODEF (R83). Writes one field of the mode from imm16. -/
  | modef (f : BitVec 8) (n : BitVec 16)
  /-- VOTE (R147). Votes all, any, ballot or count over the active lanes. -/
  | vote (d : Reg) (a : Reg) (op : BitVec 8)
  /-- PICK_IDX (R148). Shuffle from an indexed lane. -/
  | pickIdx (d : Reg) (a : Reg) (b : Reg)
  /-- PICK_UP (R148). Shuffle from lane l − c. -/
  | pickUp (d : Reg) (a : Reg) (b : Reg)
  /-- PICK_DN (R148). Shuffle from lane l + c. -/
  | pickDn (d : Reg) (a : Reg) (b : Reg)
  /-- PICK_XOR (R148). Shuffle from lane l xor c. -/
  | pickXor (d : Reg) (a : Reg) (b : Reg)
  /-- SCAN (R149). Inclusive scan over the active lanes. -/
  | scan (d : Reg) (a : Reg) (op : BitVec 8)
  /-- SCANX (R149). Exclusive scan over the active lanes. -/
  | scanx (d : Reg) (a : Reg) (op : BitVec 8)
  /-- REDX (R149). Reduction over the active lanes. -/
  | redx (d : Reg) (a : Reg) (op : BitVec 8)
  /-- MATCH (R150). Writes the mask of active lanes with equal a values. -/
  | matchEq (d : Reg) (a : Reg)
  /-- V2S (R151). Moves one lane's value to a scalar. -/
  | v2s (d : Reg) (a : Reg) (b : Reg)
  /-- VMOVX (R153). Reads a register by computed number. -/
  | vmovx (d : Reg) (a : Reg) (b : Reg)
  /-- VSTX (R153). Writes a register by computed number. -/
  | vstx (d : Reg) (a : Reg) (b : Reg)
  /-- VGROW (R154). Asks for more register blocks for the warp. -/
  | vgrow (d : Reg) (n : BitVec 16)
  /-- VSHRINK (R155). Gives register blocks back. -/
  | vshrink (d : Reg) (n : BitVec 16)
  /-- SPAWN (R156). Offers one thread per active lane to the spawn bins and raises the tree counter. -/
  | spawn (d : Reg) (a : Reg) (b : Reg)
  /-- GRID (R157). Launches a grid of blocks from a scalar command group. -/
  | grid (a : Reg)
  /-- SMOV (R84). Scalar move. -/
  | smov (d : Reg) (a : Reg)
  /-- SMOVI (R84). Scalar move of a sign-extended immediate. -/
  | smovi (d : Reg) (n : BitVec 16)
  /-- SMOVH (R84). Writes imm16 into bits [31:16] of a scalar. -/
  | smovh (d : Reg) (n : BitVec 16)
  /-- SADD (R84). Scalar add. -/
  | sadd (d : Reg) (a : Reg) (b : Reg)
  /-- SSUB (R84). Scalar subtract. -/
  | ssub (d : Reg) (a : Reg) (b : Reg)
  /-- SMUL (R84). Scalar multiply, low half. -/
  | smul (d : Reg) (a : Reg) (b : Reg)
  /-- SMULH (R84). Scalar multiply, high half. -/
  | smulh (d : Reg) (a : Reg) (b : Reg)
  /-- SAND (R84). Scalar bitwise and. -/
  | sand (d : Reg) (a : Reg) (b : Reg)
  /-- SOR (R84). Scalar bitwise or. -/
  | sor (d : Reg) (a : Reg) (b : Reg)
  /-- SXOR (R84). Scalar bitwise exclusive or. -/
  | sxor (d : Reg) (a : Reg) (b : Reg)
  /-- SSHL (R84). Scalar shift left. -/
  | sshl (d : Reg) (a : Reg) (b : Reg)
  /-- SSHR (R84). Scalar logical shift right. -/
  | sshr (d : Reg) (a : Reg) (b : Reg)
  /-- SSAR (R84). Scalar arithmetic shift right. -/
  | ssar (d : Reg) (a : Reg) (b : Reg)
  /-- SSEQ (R84). Scalar set if equal. -/
  | sseq (d : Reg) (a : Reg) (b : Reg)
  /-- SSLT (R84). Scalar set if less than, signed. -/
  | sslt (d : Reg) (a : Reg) (b : Reg)
  /-- SSLTN (R84). Scalar set if less than, unsigned. -/
  | ssltn (d : Reg) (a : Reg) (b : Reg)
  /-- LD8 (R86). Per-lane load of 1 byte. -/
  | ld8 (d : Reg) (a : Reg) (off : BitVec 8)
  /-- LD16 (R86). Per-lane load of 2 bytes. -/
  | ld16 (d : Reg) (a : Reg) (off : BitVec 8)
  /-- LD32 (R86). Per-lane load of 4 bytes. -/
  | ld32 (d : Reg) (a : Reg) (off : BitVec 8)
  /-- LD64 (R86). Per-lane load of 8 bytes into a pair. -/
  | ld64 (d : Reg) (a : Reg) (off : BitVec 8)
  /-- LD128 (R86). Per-lane load of 16 bytes into four registers. -/
  | ld128 (d : Reg) (a : Reg) (off : BitVec 8)
  /-- ST8 (R86). Per-lane store of 1 byte. -/
  | st8 (d : Reg) (a : Reg) (off : BitVec 8)
  /-- ST16 (R86). Per-lane store of 2 bytes. -/
  | st16 (d : Reg) (a : Reg) (off : BitVec 8)
  /-- ST32 (R86). Per-lane store of 4 bytes. -/
  | st32 (d : Reg) (a : Reg) (off : BitVec 8)
  /-- ST64 (R86). Per-lane store of 8 bytes. -/
  | st64 (d : Reg) (a : Reg) (off : BitVec 8)
  /-- ST128 (R86). Per-lane store of 16 bytes. -/
  | st128 (d : Reg) (a : Reg) (off : BitVec 8)
  /-- LDS32 (R179). Scratchpad load of 4 bytes. -/
  | lds32 (d : Reg) (a : Reg) (off : BitVec 8)
  /-- LDS64 (R179). Scratchpad load of 8 bytes. -/
  | lds64 (d : Reg) (a : Reg) (off : BitVec 8)
  /-- LDS128 (R179). Scratchpad load of 16 bytes. -/
  | lds128 (d : Reg) (a : Reg) (off : BitVec 8)
  /-- STS32 (R179). Scratchpad store of 4 bytes. -/
  | sts32 (d : Reg) (a : Reg) (off : BitVec 8)
  /-- STS64 (R179). Scratchpad store of 8 bytes. -/
  | sts64 (d : Reg) (a : Reg) (off : BitVec 8)
  /-- STS128 (R179). Scratchpad store of 16 bytes. -/
  | sts128 (d : Reg) (a : Reg) (off : BitVec 8)
  /-- SLD (R91). Scalar load for the whole warp. -/
  | sld (d : Reg) (a : Reg) (off : BitVec 8)
  /-- SST (R91). Scalar store for the whole warp. -/
  | sst (d : Reg) (a : Reg) (off : BitVec 8)
  /-- LDW (R183). Per-lane 16-byte cistern read of the tree's bound generation. -/
  | ldw (d : Reg) (a : Reg) (off : BitVec 8)
  /-- PREF (R184). Prefetches lines into the L1 and L2 or the L2 only. -/
  | pref (h : BitVec 8) (a : Reg) (off : BitVec 8)
  /-- FETCH_ADD (R188). Atomic add at the home that returns the old value. -/
  | fetchAdd (d : Reg) (a : Reg) (b : Reg)
  /-- FETCH_MIN (R188). Atomic minimum at the home. -/
  | fetchMin (d : Reg) (a : Reg) (b : Reg)
  /-- FETCH_MAX (R188). Atomic maximum at the home. -/
  | fetchMax (d : Reg) (a : Reg) (b : Reg)
  /-- FETCH_AND (R188). Atomic and at the home. -/
  | fetchAnd (d : Reg) (a : Reg) (b : Reg)
  /-- FETCH_OR (R188). Atomic or at the home. -/
  | fetchOr (d : Reg) (a : Reg) (b : Reg)
  /-- FETCH_XOR (R188). Atomic exclusive or at the home. -/
  | fetchXor (d : Reg) (a : Reg) (b : Reg)
  /-- FETCH_XCHG (R188). Atomic exchange at the home. -/
  | fetchXchg (d : Reg) (a : Reg) (b : Reg)
  /-- CAS (R189). Compare-and-swap at the home. -/
  | cas (d : Reg) (a : Reg) (b : Reg)
  /-- RED (R190). Reduction that enters the combining buffer or goes to its home. -/
  | red (op : BitVec 8) (a : Reg) (b : Reg)
  /-- CPY (R193). Enqueues a copy from memory into the scratchpad. -/
  | cpy (q : BitVec 8) (a : Reg)
  /-- CPYO (R193). Enqueues a copy from the scratchpad out to memory. -/
  | cpyo (q : BitVec 8) (a : Reg)
  /-- BINIT (R197). Initialises a barrier object with an expected count. -/
  | binit (a : Reg) (b : Reg)
  /-- BARV (R199). Arrives at a barrier object with the active lane count. -/
  | barv (d : Reg) (a : Reg)
  /-- BEXP (R199). Adds to the bytes expected in the barrier's phase. -/
  | bexp (a : Reg) (b : Reg)
  /-- BWAIT (R200). Waits while the barrier's phase equals b. -/
  | bwait (d : Reg) (a : Reg) (b : Reg)
  /-- BWAITY (R200). Waits on a barrier phase and then goes to a continuation bundle. -/
  | bwaity (d : Reg) (a : Reg) (off : BitVec 8)
  /-- BWAITT (R200). Waits on a barrier phase with a cycle limit. -/
  | bwaitt (d : Reg) (a : Reg) (b : Reg)
  /-- WATCH (R202). Reads a word and arms a monitor on its line in one step. -/
  | watch (d : Reg) (a : Reg) (off : BitVec 8)
  /-- WSLEEP (R203). Sleeps on the gang's monitor and writes a status. -/
  | wsleep (d : Reg) (a : Reg)
  /-- FENCE (R207). Performs REL and then ACQ at a scope. -/
  | fence (n : BitVec 16)
  /-- REL (R206). Release at a scope: flushes, waits for writes, publishes a signature. -/
  | rel (n : BitVec 16)
  /-- ACQ (R207). Acquire at a scope: waits for lc = 0 and invalidates matching L1 lines. -/
  | acq (n : BitVec 16)
  /-- WAITC (R92). Holds the gang until a counter is at or below imm16. -/
  | waitc (c : Reg) (n : BitVec 16)
  /-- QFENCE (R208). Enters an ordering marker into the named engine queues. -/
  | qfence (n : BitVec 16)
  /-- PACK (R245). Packs register elements into blocks of a plane tile. -/
  | pack (d : Reg) (a : Reg) (b : Reg)
  /-- UNPACK (R247). Unpacks blocks of a plane tile into registers. -/
  | unpack (d : Reg) (a : Reg) (b : Reg)
  /-- MLDB (R251). Checks and enqueues a load of the stationary B into mq. -/
  | mldb (a : Reg)
  /-- MMAC (R251). Checks and enqueues a matrix multiply-accumulate into mq. -/
  | mmac (set : BitVec 8) (a : Reg)
  /-- MRD (R258). Checks and enqueues an accumulator readout through the epilogue. -/
  | mrd (clr : Bool) (set : Bool) (a : Reg)
  /-- MZERO (R251). Enqueues a reset of the named accumulator sets. -/
  | mzero (n : BitVec 16)
  /-- MANCH (R251). Enqueues a reset of accumulators to a fixed anchor. -/
  | manch (set : BitVec 8) (a : Reg)
  /-- EPI (R256). Checks and enqueues new epilogue words. -/
  | epi (a : Reg)
  /-- MFENCE (R259). Closes the batch at issue and enqueues its fence. -/
  | mfence (a : Reg)
  /-- MTEST (R260). Enqueues a test of every unfenced sub-array. -/
  | mtest
  /-- MSTAT (R261). Reads matrix status, optionally clearing it. -/
  | mstat (d : Reg) (n : BitVec 16)
  /-- GATH (R291). Enqueues a row gather on pq. -/
  | gath (d : Reg) (a : Reg)
  /-- POOL (R292). Enqueues a gather-and-pool on pq. -/
  | pool (d : Reg) (a : Reg)
  /-- MCRED (R295). Enqueues a multicast reduction over an address group on fq. -/
  | mcred (d : Reg) (a : Reg)
  /-- MCST (R295). Enqueues a multicast store to every group member on fq. -/
  | mcst (d : Reg) (a : Reg)
  /-- AGQ (R298). Reads an address group's state. -/
  | agq (d : Reg) (n : BitVec 16)
  /-- WBCAST (R299). Enqueues a weight broadcast into every member's cistern. -/
  | wbcast (d : Reg) (a : Reg)
  /-- DGST (R299). Enqueues a SHA-384 digest check of a cistern range. -/
  | dgst (d : Reg) (a : Reg)
  /-- TOPEN (R300). Opens a new version of a tensor. -/
  | topen (d : Reg) (a : Reg)
  /-- TCOMMIT (R300). Commits an open tensor after its CXL stores are acknowledged. -/
  | tcommit (d : Reg) (a : Reg)
  /-- GATE (R284). Calls into another domain through a gate table entry. -/
  | gate (d : Reg) (n : BitVec 16)
  /-- GRET (R286). Returns from a gate and restores the caller's frame. -/
  | gret
  /-- TREEQ (R288). Reads the tree counter, tree status or counter address. -/
  | treeq (d : Reg) (n : BitVec 16)
  /-- SCRUB (R289). Zeroes registers, predicates, scratchpad or matrix state as the mask selects. -/
  | scrub (m : BitVec 8) (a : Reg) (b : Reg)
  /-- CSRR (R304). Reads a CSR. -/
  | csrr (d : Reg) (a : Reg)
  /-- CSRW (R304). Writes a CSR and returns its old value. -/
  | csrw (d : Reg) (a : Reg) (b : Reg)
  /-- CSRS (R304). Sets CSR bits. -/
  | csrs (d : Reg) (a : Reg) (b : Reg)
  /-- CSRC (R304). Clears CSR bits. -/
  | csrc (d : Reg) (a : Reg) (b : Reg)
  /-- TRET (R305). Returns from a trap to TEPC and restores the interrupt enable. -/
  | tret
  /-- WFI (R305). Waits until an interrupt is pending. -/
  | wfi
  /-- SIPI (R305). Sends a message to another service or firmware core. -/
  | sipi (a : Reg) (b : Reg)
  /-- TLBI_ALL (R306). Removes every TLB entry of the partition. -/
  | tlbiAll
  /-- TLBI_DOM (R306). Removes the TLB entries of one domain. -/
  | tlbiDom (a : Reg)
  /-- TLBI_VA (R306). Removes one domain's entries that translate an address. -/
  | tlbiVa (a : Reg) (b : Reg)
  /-- TLBI_VAALL (R306). Removes the entries of every domain that translate an address. -/
  | tlbiVaall (b : Reg)
  /-- DSLW (R316). Writes a domain slot image, or resets a domain. -/
  | dslw (a : Reg) (b : Reg)
  /-- DPRE (R307). Pre-empts a domain on the named cores. -/
  | dpre (d : Reg) (a : Reg) (b : Reg)
  /-- CTXS (R307). Saves a halted domain's context to a save area. -/
  | ctxs (a : Reg) (b : Reg)
  /-- CTXL (R307). Restores a domain's context from a save area. -/
  | ctxl (a : Reg) (b : Reg)
  /-- WSWAP (R308). Toggles the partition's current cistern generation bit of a pair. -/
  | wswap (d : Reg) (n : BitVec 16)
  /-- HGMB (R308). Hands a 256-byte request to the headgate controller and waits for its response. -/
  | hgmb (d : Reg) (a : Reg)
  /-- SNAP (R308). Fires the partition's trigger net with a tag. -/
  | snap (n : BitVec 16)
  /-- BRK (R308). Breakpoint: halts the gang or enters TVEC with cause BRK. -/
  | brk (n : BitVec 16)
  /-- STALL_RUNOUT (R17). A gang's stall count runs out and it becomes eligible again. -/
  | stallRunout (core : Nat) (w : Nat) (g : Nat)
  /-- YIELD_RUNOUT (R59). A gang's yield period ends and it becomes eligible again. -/
  | yieldRunout (core : Nat) (w : Nat) (g : Nat)
  /-- AGEING_THRESHOLD (R135). A gang's ageing counter reaches 1,024 and it joins the threshold order. -/
  | ageingThreshold (core : Nat) (w : Nat) (g : Nat)
  /-- MEET_PARK_EXPIRY (R142). A parked gang's park limit expires and it pops its entry and continues. -/
  | meetParkExpiry (core : Nat) (w : Nat) (g : Nat)
  /-- VGROW_GRANT (R109). A blocked VGROW request is granted when freed granules serve it. -/
  | vgrowGrant (core : Nat) (quad : Nat)
  /-- BIN_TIMER_EXPIRY (R112). A spawn bin's timer expires and it launches a loose warp. -/
  | binTimerExpiry (core : Nat) (bin : Nat)
  /-- LOOSE_WARP_PLACE (R114). A waiting bin's loose warp is placed when a slot, granules and a window are free. -/
  | looseWarpPlace (core : Nat) (bin : Nat)
  /-- LAUNCH_REQUEST (R121). A firmware lane's seed launch request reaches the dispatcher. -/
  | launchRequest (slice : Nat) (lane : Nat)
  /-- DISPATCH_BLOCK (R124). The dispatcher places a block on a core. -/
  | dispatchBlock (part : Nat)
  /-- WARP_RETIRE (R117). A warp with wld and all counters at zero retires and frees its resources. -/
  | warpRetire (core : Nat) (w : Nat)
  /-- LOAD_SECTOR_LAND (R218). A sector of a load lands and is written into its destination; the last one completes the load. -/
  | loadSectorLand (core : Nat) (id : Nat) (sector : Nat)
  /-- SCRATCHPAD_LOAD_RETURN (R181). The words of a scratchpad load arrive at its destination. -/
  | scratchpadLoadReturn (core : Nat) (id : Nat)
  /-- STORE_ACK (R88). A store's sectors are acknowledged at their home and sc counts down. -/
  | storeAck (core : Nat) (id : Nat)
  /-- HOME_LOAD (R228). A load request is performed at its home. -/
  | homeLoad (core : Nat) (id : Nat) (line : Nat)
  /-- HOME_STORE (R228). A store takes its place in coherence order at its home. -/
  | homeStore (core : Nat) (id : Nat) (line : Nat)
  /-- HOME_ATOMIC (R188). An atomic, CAS or reduction is performed indivisibly at its home. -/
  | homeAtomic (core : Nat) (id : Nat) (lane : Nat)
  /-- ATOMIC_RETURN (R188). An atomic's old values land in its destination and lc counts down. -/
  | atomicReturn (core : Nat) (id : Nat)
  /-- MONITOR_DROP (R204). A home drops a monitor and the sleeper wakes with status 4. -/
  | monitorDrop (core : Nat) (w : Nat) (g : Nat)
  /-- WSLEEP_TIMEOUT (R203). A WSLEEP's limit expires with status 2. -/
  | wsleepTimeout (core : Nat) (w : Nat) (g : Nat)
  /-- BWAITT_TIMEOUT (R200). A BWAITT's limit expires before the phase completes. -/
  | bwaittTimeout (core : Nat) (w : Nat) (g : Nat)
  /-- COMBINING_ENTRY_EXPIRY (R190). A combining buffer entry is flushed 2,048 cycles after its creation. -/
  | combiningEntryExpiry (core : Nat) (id : Nat)
  /-- REL_DRAIN_DONE (R206). A waiting release finds its writes performed and publishes its signature. -/
  | relDrainDone (core : Nat) (w : Nat) (g : Nat)
  /-- ACQ_WAIT_DONE (R207). A waiting acquire finds lc at zero and invalidates matching lines. -/
  | acqWaitDone (core : Nat) (w : Nat) (g : Nat)
  /-- TRANSLATION_WALK (R343). The slice translation service starts a table walk for a queued miss. -/
  | translationWalk (slice : Nat)
  /-- TRANSLATION_ANSWER (R343). A walk ends and answers every miss its leaf covers. -/
  | translationAnswer (slice : Nat) (idx : Nat)
  /-- REMOTE_ATOMIC_TIMEOUT (R361). A remote atomic with no response after 8,800 cycles completes with poisoned data. -/
  | remoteAtomicTimeout (core : Nat) (id : Nat)
  /-- COPY_START (R193). A queued copy command starts once the warp's earlier accesses are done. -/
  | copyStart (core : Nat) (q : Nat)
  /-- COPY_CHUNK (R194). A copy chunk is translated and checked before its bytes move. -/
  | copyChunk (core : Nat) (q : Nat)
  /-- COPY_PIECE_LAND (R193). A CPY piece is written into the scratchpad and counted at the barrier. -/
  | copyPieceLand (core : Nat) (q : Nat) (piece : Nat)
  /-- COPYO_PIECE_ACK (R193). A CPYO piece is acknowledged at its home and counted at the barrier. -/
  | copyoPieceAck (core : Nat) (q : Nat) (piece : Nat)
  /-- ENGINE_FAULT_DELIVER (R194). A later engine fault is taken by the warp's lowest live gang at its next instruction boundary. -/
  | engineFaultDeliver (core : Nat) (w : Nat)
  /-- QFENCE_RELEASE (R208). Operations held behind a queue marker start once earlier operations complete. -/
  | qfenceRelease (core : Nat) (id : Nat)
  /-- MLDB_RUN (R254). MLDB runs in mq and loads the stationary B. -/
  | mldbRun (core : Nat)
  /-- MMAC_RUN (R254). MMAC runs in mq and adds terms into the accumulators. -/
  | mmacRun (core : Nat)
  /-- MRD_RUN (R257). MRD runs the epilogue over the accumulators and writes the outputs. -/
  | mrdRun (core : Nat)
  /-- MZERO_RUN (R254). MZERO runs in mq and clears the named sets. -/
  | mzeroRun (core : Nat)
  /-- MANCH_RUN (R254). MANCH runs in mq and sets the anchors. -/
  | manchRun (core : Nat)
  /-- EPI_RUN (R278). EPI runs in mq and takes the epilogue words for later MRDs. -/
  | epiRun (core : Nat)
  /-- MTEST_RUN (R260). MTEST runs in mq and tests and fences the sub-arrays. -/
  | mtestRun (core : Nat) (fails : BitVec 8)
  /-- MFENCE_RUN (R259). MFENCE completes after its batch and the self-test and makes its engine arrival. -/
  | mfenceRun (core : Nat) (fail : Bool)
  /-- SCRUB_MATRIX_RUN (R289). A SCRUB with m[3] runs in mq and resets the matrix state. -/
  | scrubMatrixRun (core : Nat)
  /-- SELF_TEST_IDLE (R279). The sequencer tests a sub-array after 256 idle cycles. -/
  | selfTestIdle (core : Nat) (fail : Bool)
  /-- BATCH_REOPEN (R311). A restored open batch reopens once no other batch is open. -/
  | batchReopen (core : Nat)
  /-- GATH_RUN (R292). The pool engine gathers rows for a GATH command. -/
  | gathRun (slice : Nat)
  /-- POOL_RUN (R292). The pool engine gathers and pools rows for a POOL command. -/
  | poolRun (slice : Nat)
  /-- POOL_ROW_ARRIVE (R372). A requested row arrives at the pool engine and is accepted. -/
  | poolRowArrive (slice : Nat) (row : Nat)
  /-- MCRED_RUN (R296). The collective engine checks the group and reduces members' elements at the nodes. -/
  | mcredRun (slice : Nat)
  /-- MCST_RUN (R297). The collective engine checks the group and stores to every member. -/
  | mcstRun (slice : Nat)
  /-- WBCAST_RUN (R299). The collective engine multicasts a range into every member's cistern. -/
  | wbcastRun (slice : Nat)
  /-- DGST_RUN (R299). The engine digests a cistern range and verifies or quarantines it. -/
  | dgstRun (slice : Nat)
  /-- ENGINE_COMMAND_COMPLETE (R290). An engine command publishes its writes, writes its status and makes its arrival. -/
  | engineCommandComplete (slice : Nat) (q : EngineQueue)
  /-- GATE_PROCEED (R284). A GATE whose counters reach zero writes its frame and enters the target domain. -/
  | gateProceed (core : Nat) (w : Nat)
  /-- DPRE_COMPLETE (R336). Pre-emption completes when every warp of the domain is halted. -/
  | dpreComplete (core : Nat)
  /-- WARP_HALT (R336). A pre-empted warp halts once no atomic of it is outstanding. -/
  | warpHalt (core : Nat) (w : Nat)
  /-- UNIT_SCRUB_DONE (R325). A unit's scrub completes and held requests for it proceed. -/
  | unitScrubDone (core : Nat) (unit : PowerUnit)
  /-- UNIT_WAKE (R327). A power-gated unit wakes and is scrubbed when its taint bit is set. -/
  | unitWake (core : Nat) (unit : PowerUnit)
  /-- DEFERRED_TRAP_RECORD (R331). A second gang's record is written after the first disposition has been acted on. -/
  | deferredTrapRecord (core : Nat) (w : Nat)
  /-- NOTIFICATION_DRAIN (R334). A queued compute-core trap notification sets IPEND[1] once the bit is clear. -/
  | notificationDrain (slice : Nat)
  /-- SERVICE_INTERRUPT (R334). A service core enters TVEC for an enabled pending interrupt. -/
  | serviceInterrupt (core : Nat)
  /-- WFI_WAKE (R305). A WFI resumes when an interrupt becomes pending. -/
  | wfiWake (core : Nat)
  /-- SIPI_DELIVER (R305). A waiting SIPI writes IMSG and sets IPEND[0] once the target bit is clear. -/
  | sipiDeliver (core : Nat)
  /-- DISPOSITION_RESUME (R309). A disposition of 1 reaching its home resumes the gang. -/
  | dispositionResume (core : Nat) (w : Nat)
  /-- DISPOSITION_KILL (R309). A disposition of 2 reaching its home retires the gang's live lanes. -/
  | dispositionKill (core : Nat) (w : Nat)
  /-- DISPOSITION_HANDLER (R332). A disposition of 3 sends the gang to the domain's registered handler. -/
  | dispositionHandler (core : Nat) (w : Nat)
  /-- MEMORY_ERROR (R335). An uncorrectable memory error, found by a request of a slice, poisons the line and sets IPEND[2]. -/
  | memoryError (slice : Nat) (pa : Nat)
  /-- ISCTL_WRITE (R126). A write of ISCTL changes the issue policy and ends every greedy hold. -/
  | isctlWrite (core : Nat)
  /-- IPEND_WRITE (R333). A write of IPEND clears the bits written as zero. -/
  | ipendWrite (core : Nat)
  /-- WATCH_REG_WRITE (R412). A write of WATCHn with en latches an address and domain from the mailbox. -/
  | watchRegWrite (core : Nat)
  /-- CSR_WRITE (R304). A write of a CSR with no behaviour of its own. -/
  | csrWrite (core : Nat)
  /-- DEBUG_HALT (R413). Mailbox op 1 halts every gang of the block. -/
  | debugHalt (core : Nat)
  /-- DEBUG_RESUME (R413). Mailbox op 2 resumes the gangs of the block. -/
  | debugResume (core : Nat)
  /-- DEBUG_STEP (R413). Mailbox op 3 issues one instruction of a halted gang and halts it again. -/
  | debugStep (core : Nat)
  /-- DEBUG_DUMP (R413). Mailbox op 4 writes the gang's state into the dump area. -/
  | debugDump (core : Nat)
  /-- DEBUG_ARM (R413). Mailbox op 5 clears the latched snapshots and re-arms the trigger. -/
  | debugArm (core : Nat)
  /-- DEBUG_READ (R413). Mailbox op 6 copies a warp slot's snapshot. -/
  | debugRead (core : Nat)
  /-- DEBUG_BAD_COMMAND (R413). A mailbox command with an unknown op gives status 4. -/
  | debugBadCommand (core : Nat)
  /-- PACKET_FETCH (R416). A firmware lane reads wake, acquires and reads its next packet. -/
  | packetFetch (slice : Nat) (lane : Nat)
  /-- PACKET_NOP (R387). A NOP packet is parsed and completes. -/
  | packetNop (slice : Nat) (lane : Nat)
  /-- PACKET_SEED (R387). A SEED packet sets the tree counter and posts a launch. -/
  | packetSeed (slice : Nat) (lane : Nat)
  /-- PACKET_SIGNAL (R387). A SIGNAL packet completes and adds to its signal. -/
  | packetSignal (slice : Nat) (lane : Nat)
  /-- PACKET_WAITSIG (R387). A WAITSIG packet blocks its queue until the signal reaches the operand. -/
  | packetWaitsig (slice : Nat) (lane : Nat)
  /-- PACKET_CISTERN (R387). A CISTERN packet starts a copy into the cistern. -/
  | packetCistern (slice : Nat) (lane : Nat)
  /-- PACKET_QUERY (R395). A QUERY packet reports the journaled outcome of an identifier. -/
  | packetQuery (slice : Nat) (lane : Nat)
  /-- CISTERN_WRITE_START (R222). A waiting cistern write starts once no bound tree blocks it. -/
  | cisternWriteStart (idx : Nat)
  /-- QUANTUM_END (R391). At a quantum end the firmware core chooses its resident queues afresh. -/
  | quantumEnd (slice : Nat)
  /-- FIRMWARE_RESTART (R392). A firmware service restart reinitialises the firmware cores and advances the generation. -/
  | firmwareRestart (part : Nat)
  /-- KERNEL_SETUP (R380). HGMB service 0x0001 names the kernel's root, queue table, index, quantum and journal. -/
  | kernelSetup (core : Nat)
  /-- RESIZE (R381). HGMB service 0x0002 resizes the partition one slice at a time. -/
  | resize (core : Nat)
  /-- REINTERLEAVE_GROUP (R383). A group of 64 granules moves to the new slice set. -/
  | reinterleaveGroup (part : Nat)
  /-- SET_OWNER (R322). HGMB service 0x0010 changes POT entries of frames. -/
  | setOwner (core : Nat)
  /-- SEAL_FRAMES (R401). HGMB service 0x0011 seals frames into a protected domain and measures them. -/
  | sealFrames (core : Nat)
  /-- GROUP_REGISTER (R363). HGMB service 0x0020 registers a member of an address group. -/
  | groupRegister (core : Nat)
  /-- GROUP_WITHDRAW (R364). HGMB service 0x0021 withdraws the caller's registration. -/
  | groupWithdraw (core : Nat)
  /-- MEMBER_ABSENT (R365). A member becomes absent on reset, withdrawal or failed liveness. -/
  | memberAbsent (group : Nat) (member : Nat)
  /-- TENSOR_DEFINE (R369). HGMB service 0x0030 defines or undefines a tensor table entry. -/
  | tensorDefine (core : Nat)
  /-- MANIFEST_SUBMIT (R373). HGMB service 0x0040 verifies a signed weight manifest. -/
  | manifestSubmit (core : Nat)
  /-- CISTERN_PAIRING (R224). HGMB service 0x0042 pairs or unpairs cistern regions. -/
  | cisternPairing (core : Nat)
  /-- CISTERN_LOAD (R224). HGMB service 0x0043 copies HBM bytes into the cistern. -/
  | cisternLoad (core : Nat)
  /-- KEY_ROTATE_REQUEST (R356). HGMB service 0x0050 asks for a rotation of fabric stream keys. -/
  | keyRotateRequest (core : Nat)
  /-- PEER_WINDOW (R359). HGMB service 0x0060 exports or closes a peer window. -/
  | peerWindow (core : Nat)
  /-- BIND_KEY_SLOT (R408). HGMB service 0x0070 binds or wipes a key slot. -/
  | bindKeySlot (core : Nat)
  /-- REGISTER_OWNER_KEY (R400). HGMB service 0x0071 registers a model owner key. -/
  | registerOwnerKey (core : Nat)
  /-- EXTEND_MEASUREMENT (R404). HGMB service 0x0080 extends a partition measurement register. -/
  | extendMeasurement (core : Nat)
  /-- MEASUREMENT_REPORT (R405). HGMB service 0x0081 writes a signed MEASUREMENTS response. -/
  | measurementReport (core : Nat)
  /-- MIGRATION_EXPORT (R409). HGMB service 0x0090 exports a protected domain. -/
  | migrationExport (core : Nat)
  /-- MIGRATION_IMPORT (R409). HGMB service 0x0091 imports a protected domain bundle. -/
  | migrationImport (core : Nat)
  /-- MIGRATION_RECEIPT (R409). The destination's receipt or a cancellation makes the source erase the domain. -/
  | migrationReceipt (part : Nat) (did : BitVec 16)
  /-- DEBUG_UNLOCK (R411). HGMB service 0x00A0 unlocks the module for debug with a token. -/
  | debugUnlock (core : Nat)
  /-- DEBUG_CHALLENGE (R410). HGMB service 0x00A1 writes a fresh challenge. -/
  | debugChallenge (core : Nat)
  /-- RETURN_MODULE (R402). HGMB service 0x00A2 moves the lifecycle to returned. -/
  | returnModule (core : Nat)
  /-- SPDM_GET_VERSION (R405). SPDM GET_VERSION request answered by the headgate. -/
  | spdmGetVersion (req : Nat)
  /-- SPDM_GET_CAPABILITIES (R405). SPDM GET_CAPABILITIES request. -/
  | spdmGetCapabilities (req : Nat)
  /-- SPDM_NEGOTIATE_ALGORITHMS (R405). SPDM NEGOTIATE_ALGORITHMS request. -/
  | spdmNegotiateAlgorithms (req : Nat) (supported : Bool)
  /-- SPDM_GET_DIGESTS (R405). SPDM GET_DIGESTS request. -/
  | spdmGetDigests (req : Nat)
  /-- SPDM_GET_CERTIFICATE (R405). SPDM GET_CERTIFICATE request. -/
  | spdmGetCertificate (req : Nat) (slot : Nat)
  /-- SPDM_CHALLENGE (R405). SPDM CHALLENGE request signed by the alias key. -/
  | spdmChallenge (req : Nat) (nonce : BitVec 384)
  /-- SPDM_GET_MEASUREMENTS (R405). SPDM GET_MEASUREMENTS request. -/
  | spdmGetMeasurements (req : Nat) (part : Nat) (did : BitVec 16) (nonce : BitVec 384)
  /-- SPDM_KEY_EXCHANGE (R405). SPDM KEY_EXCHANGE request opening a session. -/
  | spdmKeyExchange (req : Nat) (session : Nat)
  /-- SPDM_FINISH (R405). SPDM FINISH request completing a session. -/
  | spdmFinish (req : Nat)
  /-- SPDM_END_SESSION (R405). SPDM END_SESSION request. -/
  | spdmEndSession (req : Nat)
  /-- SPDM_KEY_DELIVERY (R408). A vendor-defined SPDM message delivers a tenant key into a slot. -/
  | spdmKeyDelivery (session : Nat) (slot : BitVec 8) (key : BitVec 256)
  /-- FRAME_RECEIVE (R355). A fabric frame is received, authenticated and accepted or dropped for replay. -/
  | frameReceive (port : Nat) (frame : Frame)
  /-- PORT_DOWN (R355). After 16 replays of one frame the port goes down and retrains. -/
  | portDown (port : Nat)
  /-- PORT_RETRAIN (R362). A fabric port finishes retraining and takes requests again. -/
  | portRetrain (port : Nat)
  /-- KEY_ROTATION (R356). The headgate installs a new stream key and the sender toggles the key phase. -/
  | keyRotation (port : Nat)
  /-- FABRIC_READ_RESPONSE (R352). A read response packet completes its request. -/
  | fabricReadResponse (port : Nat) (pkt : Packet)
  /-- FABRIC_WRITE_ACK (R352). A write acknowledgement packet completes its write. -/
  | fabricWriteAck (port : Nat) (pkt : Packet)
  /-- FABRIC_ATOMIC_RESPONSE (R352). An atomic response packet returns the old value. -/
  | fabricAtomicResponse (port : Nat) (pkt : Packet)
  /-- FABRIC_MULTICAST_LINE (R352). An inbound multicast store line is written and published. -/
  | fabricMulticastLine (port : Nat) (pkt : Packet)
  /-- FABRIC_ERROR_RESPONSE (R362). An error response completes its request with poison or a drop. -/
  | fabricErrorResponse (port : Nat) (pkt : Packet)
  /-- WINDOW_ACCESS (R359). An inbound peer window access passes the sluice and is performed at the home. -/
  | windowAccess (port : Nat) (pkt : Packet)
  /-- CXL_HOST_REQUEST (R368). A host request to an accelerator-owned region transfers ownership to the processor. -/
  | cxlHostRequest (part : Nat) (region : Nat)
  /-- CXL_REGION_RECLAIM (R368). A module request to a processor-owned region reclaims ownership after host writeback. -/
  | cxlRegionReclaim (part : Nat) (region : Nat)
  /-- REFRESH_WINDOW (R225). A cistern refresh window opens for one array for 96 cycles. -/
  | refreshWindow (die : Nat)
  /-- CISTERN_SCRUB (R375). The cistern scrubber checks a recorded range and corrects or quarantines it. -/
  | cisternScrub (die : Nat) (sound : Bool)
  /-- SENSOR_SAMPLE (R396). The management controller samples temperatures, rails and power each millisecond. -/
  | sensorSample (slice : Nat) (reading : Sensor)
  /-- POWER_QUOTA_UPDATE (R397). Every 10 µs the power limiter sets the issue quota. -/
  | powerQuotaUpdate (q : Nat)
  /-- POWER_LIMIT_SET (R397). A PLDM request sets the module power limit. -/
  | powerLimitSet (watts : Nat)
  /-- FIRMWARE_UPDATE (R399). A PLDM firmware image is staged and verified by the headgate. -/
  | firmwareUpdate (image : FirmwareImage)
  /-- MODULE_RESET (R404). Module reset measures firmware and takes a staged image into use. -/
  | moduleReset
  /-- PARTITION_FORM (R379). The headgate forms a partition and boots its loader. -/
  | partitionForm (part : Nat) (rect : Rect) (boot : BootResult)
  /-- BOOT_RETRY (R379). A failed boot step is retried one second later. -/
  | bootRetry (part : Nat) (boot : BootResult)
  /-- PARTITION_RESET (R378). A partition's slices are reset without affecting others. -/
  | partitionReset (part : Nat)
  /-- GRET_PROCEED (R286). A GRET whose lc, sc and ec have reached zero releases, restores the top gate frame, acquires for the caller, writes 0 to the GATE's d register and continues after the GATE. -/
  | gretProceed (core : Nat) (w : Nat)
  /-- MEMBER_RETURN (R365). An absent group member boots again: nothing changes if its measurement is the recorded one, and the group enters PEER-CHANGED if it differs. -/
  | memberReturn (group : Nat) (member : Nat) (meas : BitVec 384)
  /-- UNIT_POWER_DOWN (R327). An idle register file, scratchpad group, matrix array or L1 powers down and keeps only its taint bit in always-on logic. -/
  | unitPowerDown (core : Nat) (unit : PowerUnit)
  /-- FRAME_REPLAY (R355). The sending end of a fabric stream replays from the first frame that was not acknowledged after the receiver dropped a frame. -/
  | frameReplay (port : Nat)
deriving DecidableEq, Repr

end Sys2Proof
end

