-- ==== Sys2Proof/Decode.lean ====
section
/-! DEFINITION. Sys2Proof/Decode.lean: the decoder of one instruction word (R23 to R25, R36), total and rejecting by name, and
the encoder written from the same encoding tables. -/

namespace Sys2Proof

/-- Why a word is not an instruction: no such opcode (R36), or a field value that the encoding tables refuse with an
illegal-operand fault before any operand is read (PLOG d[7], R73; MRD d[7:2], R250; TLBI kind, R302). -/
inductive DecodeError where
  | opcode
  | operand
deriving DecidableEq, Repr

/-- A register field (R25). -/
def Reg.ofByte (c : BitVec 8) : Reg :=
  let n := c.toNat
  if h : n < 0x80 then .v ⟨n, h⟩
  else if h : n < 0xC0 then .s ⟨n - 0x80, by omega⟩
  else if h : n < 0xC8 then .p ⟨n - 0xC0, by omega⟩
  else if h : n < 0xE0 then .x ⟨n - 0xC8, by omega⟩
  else if h : n < 0xF0 then .k ⟨n - 0xE0, by omega⟩
  else if h : n < 0xFF then .rsv ⟨n - 0xF0, by omega⟩
  else .z

/-- The code of a register (R25). -/
def Reg.code : Reg → Nat
  | .v n => n.val
  | .s n => 0x80 + n.val
  | .p n => 0xC0 + n.val
  | .x n => 0xC8 + n.val
  | .k n => 0xE0 + n.val
  | .rsv n => 0xF0 + n.val
  | .z => 0xFF

/-- The field of a register. -/
def Reg.toByte (r : Reg) : BitVec 8 := BitVec.ofNat 8 r.code

/-- Field d, bits [23:16] (R23). -/
def fD (w : Word) : Reg := Reg.ofByte (w.extractLsb' 16 8)
/-- Field a, bits [15:8] (R23). -/
def fA (w : Word) : Reg := Reg.ofByte (w.extractLsb' 8 8)
/-- Field b, bits [7:0] (R23). -/
def fB (w : Word) : Reg := Reg.ofByte (w.extractLsb' 0 8)

/-- The TLBI of a kind (R302). -/
def decodeTlbi (kind : Nat) (w : Word) : Except DecodeError Instr :=
  match kind with
  | 0 => .ok .tlbiAll
  | 1 => .ok (.tlbiDom (fA w))
  | 2 => .ok (.tlbiVa (fA w) (fB w))
  | 3 => .ok (.tlbiVaall (fB w))
  | _ => .error .operand

/-- The instruction a word of an opcode holds (R36). -/
def decodeOp (op : Nat) (w : Word) : Except DecodeError Instr :=
  match op with
  | 0x00 => .ok .ill
  | 0x01 => .ok .nop
  | 0x02 => .ok (.bra (w.extractLsb' 0 24))
  | 0x03 => .ok (.sbra (fD w) (w.extractLsb' 0 16))
  | 0x04 => .ok (.brx (fA w))
  | 0x05 => .ok (.call (fD w) (w.extractLsb' 0 16))
  | 0x06 => .ok (.callx (fD w) (fA w))
  | 0x07 => .ok (.ret (fA w))
  | 0x08 => .ok (.join (w.extractLsb' 0 16))
  | 0x09 => .ok .meet
  | 0x0A => .ok (.switch (fD w) (w.extractLsb' 0 16))
  | 0x0B => .ok (.wsync (w.extractLsb' 0 16))
  | 0x0C => .ok .exit
  | 0x0D => .ok (.trap (w.extractLsb' 0 16))
  | 0x0E => .ok (.yield (w.extractLsb' 0 16))
  | 0x0F => .ok (.exec (fA w))
  | 0x10 => .ok (.mov (fD w) (fA w))
  | 0x11 => .ok (.movi (fD w) (w.extractLsb' 0 16))
  | 0x12 => .ok (.movh (fD w) (w.extractLsb' 0 16))
  | 0x13 => .ok (.add (fD w) (fA w) (fB w))
  | 0x14 => .ok (.sub (fD w) (fA w) (fB w))
  | 0x15 => .ok (.mul (fD w) (fA w) (fB w))
  | 0x16 => .ok (.mulh (fD w) (fA w) (fB w))
  | 0x17 => .ok (.mad (fD w) (fA w) (fB w))
  | 0x18 => .ok (.neg (fD w) (fA w))
  | 0x19 => .ok (.abs (fD w) (fA w))
  | 0x1A => .ok (.min (fD w) (fA w) (fB w))
  | 0x1B => .ok (.max (fD w) (fA w) (fB w))
  | 0x1C => .ok (.div (fD w) (fA w) (fB w))
  | 0x1D => .ok (.rem (fD w) (fA w) (fB w))
  | 0x1E => .ok (.clamp (fD w) (fA w) (fB w))
  | 0x1F => .ok (.sel (fD w) (fA w) (fB w))
  | 0x20 => .ok (.and (fD w) (fA w) (fB w))
  | 0x21 => .ok (.or (fD w) (fA w) (fB w))
  | 0x22 => .ok (.xor (fD w) (fA w) (fB w))
  | 0x23 => .ok (.not (fD w) (fA w))
  | 0x24 => .ok (.shl (fD w) (fA w) (fB w))
  | 0x25 => .ok (.shr (fD w) (fA w) (fB w))
  | 0x26 => .ok (.sar (fD w) (fA w) (fB w))
  | 0x27 => .ok (.rol (fD w) (fA w) (fB w))
  | 0x28 => .ok (.fsh (fD w) (fA w) (fB w))
  | 0x29 => .ok (.clz (fD w) (fA w))
  | 0x2A => .ok (.popc (fD w) (fA w))
  | 0x2B => .ok (.brev (fD w) (fA w))
  | 0x2C => .ok (.bfx (fD w) (fA w) (fB w))
  | 0x2D => .ok (.bfi (fD w) (fA w) (fB w))
  | 0x2E => .ok (.cmp (w.extractLsb' 19 5) (w.extractLsb' 16 3) (fA w) (fB w))
  | 0x2F => if w.getLsbD 23 then .error .operand else .ok (.plog (w.extractLsb' 19 4) (w.extractLsb' 16 3) (fA w) (fB w))
  | 0x30 => .ok (.cvt (fD w) (fA w) (w.extractLsb' 5 3) (w.extractLsb' 0 5))
  | 0x31 => .ok (.rnd (fD w) (fA w))
  | 0x32 => .ok (.rcp (fD w) (fA w))
  | 0x33 => .ok (.rsq (fD w) (fA w))
  | 0x34 => .ok (.sqrt (fD w) (fA w))
  | 0x35 => .ok (.ex2 (fD w) (fA w))
  | 0x36 => .ok (.lg2 (fD w) (fA w))
  | 0x37 => .ok (.sin (fD w) (fA w))
  | 0x38 => .ok (.cos (fD w) (fA w))
  | 0x39 => .ok (.tanh (fD w) (fA w))
  | 0x3A => .ok (.fcls (fD w) (fA w))
  | 0x3B => .ok (.addc (fD w) (fA w) (fB w))
  | 0x3C => .ok (.mode (fD w) (fA w))
  | 0x3D => .ok (.modef (w.extractLsb' 16 8) (w.extractLsb' 0 16))
  | 0x40 => .ok (.vote (fD w) (fA w) (w.extractLsb' 0 8))
  | 0x41 => .ok (.pickIdx (fD w) (fA w) (fB w))
  | 0x42 => .ok (.pickUp (fD w) (fA w) (fB w))
  | 0x43 => .ok (.pickDn (fD w) (fA w) (fB w))
  | 0x44 => .ok (.pickXor (fD w) (fA w) (fB w))
  | 0x45 => .ok (.scan (fD w) (fA w) (w.extractLsb' 0 8))
  | 0x46 => .ok (.scanx (fD w) (fA w) (w.extractLsb' 0 8))
  | 0x47 => .ok (.redx (fD w) (fA w) (w.extractLsb' 0 8))
  | 0x48 => .ok (.matchEq (fD w) (fA w))
  | 0x49 => .ok (.v2s (fD w) (fA w) (fB w))
  | 0x4A => .ok (.vmovx (fD w) (fA w) (fB w))
  | 0x4B => .ok (.vstx (fD w) (fA w) (fB w))
  | 0x4C => .ok (.vgrow (fD w) (w.extractLsb' 0 16))
  | 0x4D => .ok (.vshrink (fD w) (w.extractLsb' 0 16))
  | 0x4E => .ok (.spawn (fD w) (fA w) (fB w))
  | 0x4F => .ok (.grid (fA w))
  | 0x50 => .ok (.smov (fD w) (fA w))
  | 0x51 => .ok (.smovi (fD w) (w.extractLsb' 0 16))
  | 0x52 => .ok (.smovh (fD w) (w.extractLsb' 0 16))
  | 0x53 => .ok (.sadd (fD w) (fA w) (fB w))
  | 0x54 => .ok (.ssub (fD w) (fA w) (fB w))
  | 0x55 => .ok (.smul (fD w) (fA w) (fB w))
  | 0x56 => .ok (.smulh (fD w) (fA w) (fB w))
  | 0x57 => .ok (.sand (fD w) (fA w) (fB w))
  | 0x58 => .ok (.sor (fD w) (fA w) (fB w))
  | 0x59 => .ok (.sxor (fD w) (fA w) (fB w))
  | 0x5A => .ok (.sshl (fD w) (fA w) (fB w))
  | 0x5B => .ok (.sshr (fD w) (fA w) (fB w))
  | 0x5C => .ok (.ssar (fD w) (fA w) (fB w))
  | 0x5D => .ok (.sseq (fD w) (fA w) (fB w))
  | 0x5E => .ok (.sslt (fD w) (fA w) (fB w))
  | 0x5F => .ok (.ssltn (fD w) (fA w) (fB w))
  | 0x60 => .ok (.ld8 (fD w) (fA w) (w.extractLsb' 0 8))
  | 0x61 => .ok (.ld16 (fD w) (fA w) (w.extractLsb' 0 8))
  | 0x62 => .ok (.ld32 (fD w) (fA w) (w.extractLsb' 0 8))
  | 0x63 => .ok (.ld64 (fD w) (fA w) (w.extractLsb' 0 8))
  | 0x64 => .ok (.ld128 (fD w) (fA w) (w.extractLsb' 0 8))
  | 0x65 => .ok (.st8 (fD w) (fA w) (w.extractLsb' 0 8))
  | 0x66 => .ok (.st16 (fD w) (fA w) (w.extractLsb' 0 8))
  | 0x67 => .ok (.st32 (fD w) (fA w) (w.extractLsb' 0 8))
  | 0x68 => .ok (.st64 (fD w) (fA w) (w.extractLsb' 0 8))
  | 0x69 => .ok (.st128 (fD w) (fA w) (w.extractLsb' 0 8))
  | 0x6A => .ok (.lds32 (fD w) (fA w) (w.extractLsb' 0 8))
  | 0x6B => .ok (.lds64 (fD w) (fA w) (w.extractLsb' 0 8))
  | 0x6C => .ok (.lds128 (fD w) (fA w) (w.extractLsb' 0 8))
  | 0x6D => .ok (.sts32 (fD w) (fA w) (w.extractLsb' 0 8))
  | 0x6E => .ok (.sts64 (fD w) (fA w) (w.extractLsb' 0 8))
  | 0x6F => .ok (.sts128 (fD w) (fA w) (w.extractLsb' 0 8))
  | 0x70 => .ok (.sld (fD w) (fA w) (w.extractLsb' 0 8))
  | 0x71 => .ok (.sst (fD w) (fA w) (w.extractLsb' 0 8))
  | 0x72 => .ok (.ldw (fD w) (fA w) (w.extractLsb' 0 8))
  | 0x73 => .ok (.pref (w.extractLsb' 16 8) (fA w) (w.extractLsb' 0 8))
  | 0x74 => .ok (.fetchAdd (fD w) (fA w) (fB w))
  | 0x75 => .ok (.fetchMin (fD w) (fA w) (fB w))
  | 0x76 => .ok (.fetchMax (fD w) (fA w) (fB w))
  | 0x77 => .ok (.fetchAnd (fD w) (fA w) (fB w))
  | 0x78 => .ok (.fetchOr (fD w) (fA w) (fB w))
  | 0x79 => .ok (.fetchXor (fD w) (fA w) (fB w))
  | 0x7A => .ok (.fetchXchg (fD w) (fA w) (fB w))
  | 0x7B => .ok (.cas (fD w) (fA w) (fB w))
  | 0x7C => .ok (.red (w.extractLsb' 16 8) (fA w) (fB w))
  | 0x7D => .ok (.cpy (w.extractLsb' 16 8) (fA w))
  | 0x7E => .ok (.cpyo (w.extractLsb' 16 8) (fA w))
  | 0x80 => .ok (.binit (fA w) (fB w))
  | 0x81 => .ok (.barv (fD w) (fA w))
  | 0x82 => .ok (.bexp (fA w) (fB w))
  | 0x83 => .ok (.bwait (fD w) (fA w) (fB w))
  | 0x84 => .ok (.bwaity (fD w) (fA w) (w.extractLsb' 0 8))
  | 0x85 => .ok (.bwaitt (fD w) (fA w) (fB w))
  | 0x86 => .ok (.watch (fD w) (fA w) (w.extractLsb' 0 8))
  | 0x87 => .ok (.wsleep (fD w) (fA w))
  | 0x88 => .ok (.fence (w.extractLsb' 0 16))
  | 0x89 => .ok (.rel (w.extractLsb' 0 16))
  | 0x8A => .ok (.acq (w.extractLsb' 0 16))
  | 0x8B => .ok (.waitc (fD w) (w.extractLsb' 0 16))
  | 0x8C => .ok (.qfence (w.extractLsb' 0 16))
  | 0x90 => .ok (.pack (fD w) (fA w) (fB w))
  | 0x91 => .ok (.unpack (fD w) (fA w) (fB w))
  | 0x92 => .ok (.mldb (fA w))
  | 0x93 => .ok (.mmac (w.extractLsb' 16 8) (fA w))
  | 0x94 => if w.extractLsb' 18 6 = 0 then .ok (.mrd (w.getLsbD 17) (w.getLsbD 16) (fA w)) else .error .operand
  | 0x95 => .ok (.mzero (w.extractLsb' 0 16))
  | 0x96 => .ok (.manch (w.extractLsb' 16 8) (fA w))
  | 0x97 => .ok (.epi (fA w))
  | 0x98 => .ok (.mfence (fA w))
  | 0x99 => .ok .mtest
  | 0x9A => .ok (.mstat (fD w) (w.extractLsb' 0 16))
  | 0xA0 => .ok (.gath (fD w) (fA w))
  | 0xA1 => .ok (.pool (fD w) (fA w))
  | 0xA2 => .ok (.mcred (fD w) (fA w))
  | 0xA3 => .ok (.mcst (fD w) (fA w))
  | 0xA4 => .ok (.agq (fD w) (w.extractLsb' 0 16))
  | 0xA5 => .ok (.wbcast (fD w) (fA w))
  | 0xA6 => .ok (.dgst (fD w) (fA w))
  | 0xA7 => .ok (.topen (fD w) (fA w))
  | 0xA8 => .ok (.tcommit (fD w) (fA w))
  | 0xB0 => .ok (.gate (fD w) (w.extractLsb' 0 16))
  | 0xB1 => .ok .gret
  | 0xB2 => .ok (.treeq (fD w) (w.extractLsb' 0 16))
  | 0xB3 => .ok (.scrub (w.extractLsb' 16 8) (fA w) (fB w))
  | 0xC0 => .ok (.csrr (fD w) (fA w))
  | 0xC1 => .ok (.csrw (fD w) (fA w) (fB w))
  | 0xC2 => .ok (.csrs (fD w) (fA w) (fB w))
  | 0xC3 => .ok (.csrc (fD w) (fA w) (fB w))
  | 0xC4 => .ok .tret
  | 0xC5 => .ok .wfi
  | 0xC6 => .ok (.sipi (fA w) (fB w))
  | 0xC7 => decodeTlbi (w.extractLsb' 16 8).toNat w
  | 0xC8 => .ok (.dslw (fA w) (fB w))
  | 0xC9 => .ok (.dpre (fD w) (fA w) (fB w))
  | 0xCA => .ok (.ctxs (fA w) (fB w))
  | 0xCB => .ok (.ctxl (fA w) (fB w))
  | 0xCC => .ok (.wswap (fD w) (w.extractLsb' 0 16))
  | 0xCD => .ok (.hgmb (fD w) (fA w))
  | 0xCE => .ok (.snap (w.extractLsb' 0 16))
  | 0xCF => .ok (.brk (w.extractLsb' 0 16))
  | _ => .error .opcode

/-- The instruction a word holds: its opcode is bits [31:24] (R23). -/
def decode (w : Word) : Except DecodeError Instr := decodeOp (w.extractLsb' 24 8).toNat w

/-- The word of an instruction, with every unused field zero (R24); a step without a word has none. -/
def encode (i : Instr) : Option Word :=
  match i with
  | .ill => some (0x00#8 ++ 0#8 ++ 0#8 ++ 0#8)
  | .nop => some (0x01#8 ++ 0#8 ++ 0#8 ++ 0#8)
  | .bra off => some (0x02#8 ++ off)
  | .sbra c off => some (0x03#8 ++ c.toByte ++ off)
  | .brx a => some (0x04#8 ++ 0#8 ++ a.toByte ++ 0#8)
  | .call d off => some (0x05#8 ++ d.toByte ++ off)
  | .callx d a => some (0x06#8 ++ d.toByte ++ a.toByte ++ 0#8)
  | .ret a => some (0x07#8 ++ 0#8 ++ a.toByte ++ 0#8)
  | .join off => some (0x08#8 ++ 0#8 ++ off)
  | .meet => some (0x09#8 ++ 0#8 ++ 0#8 ++ 0#8)
  | .switch d n => some (0x0A#8 ++ d.toByte ++ n)
  | .wsync n => some (0x0B#8 ++ 0#8 ++ n)
  | .exit => some (0x0C#8 ++ 0#8 ++ 0#8 ++ 0#8)
  | .trap n => some (0x0D#8 ++ 0#8 ++ n)
  | .yield n => some (0x0E#8 ++ 0#8 ++ n)
  | .exec a => some (0x0F#8 ++ 0#8 ++ a.toByte ++ 0#8)
  | .mov d a => some (0x10#8 ++ d.toByte ++ a.toByte ++ 0#8)
  | .movi d n => some (0x11#8 ++ d.toByte ++ n)
  | .movh d n => some (0x12#8 ++ d.toByte ++ n)
  | .add d a b => some (0x13#8 ++ d.toByte ++ a.toByte ++ b.toByte)
  | .sub d a b => some (0x14#8 ++ d.toByte ++ a.toByte ++ b.toByte)
  | .mul d a b => some (0x15#8 ++ d.toByte ++ a.toByte ++ b.toByte)
  | .mulh d a b => some (0x16#8 ++ d.toByte ++ a.toByte ++ b.toByte)
  | .mad d a b => some (0x17#8 ++ d.toByte ++ a.toByte ++ b.toByte)
  | .neg d a => some (0x18#8 ++ d.toByte ++ a.toByte ++ 0#8)
  | .abs d a => some (0x19#8 ++ d.toByte ++ a.toByte ++ 0#8)
  | .min d a b => some (0x1A#8 ++ d.toByte ++ a.toByte ++ b.toByte)
  | .max d a b => some (0x1B#8 ++ d.toByte ++ a.toByte ++ b.toByte)
  | .div d a b => some (0x1C#8 ++ d.toByte ++ a.toByte ++ b.toByte)
  | .rem d a b => some (0x1D#8 ++ d.toByte ++ a.toByte ++ b.toByte)
  | .clamp d a b => some (0x1E#8 ++ d.toByte ++ a.toByte ++ b.toByte)
  | .sel d a b => some (0x1F#8 ++ d.toByte ++ a.toByte ++ b.toByte)
  | .and d a b => some (0x20#8 ++ d.toByte ++ a.toByte ++ b.toByte)
  | .or d a b => some (0x21#8 ++ d.toByte ++ a.toByte ++ b.toByte)
  | .xor d a b => some (0x22#8 ++ d.toByte ++ a.toByte ++ b.toByte)
  | .not d a => some (0x23#8 ++ d.toByte ++ a.toByte ++ 0#8)
  | .shl d a b => some (0x24#8 ++ d.toByte ++ a.toByte ++ b.toByte)
  | .shr d a b => some (0x25#8 ++ d.toByte ++ a.toByte ++ b.toByte)
  | .sar d a b => some (0x26#8 ++ d.toByte ++ a.toByte ++ b.toByte)
  | .rol d a b => some (0x27#8 ++ d.toByte ++ a.toByte ++ b.toByte)
  | .fsh d a b => some (0x28#8 ++ d.toByte ++ a.toByte ++ b.toByte)
  | .clz d a => some (0x29#8 ++ d.toByte ++ a.toByte ++ 0#8)
  | .popc d a => some (0x2A#8 ++ d.toByte ++ a.toByte ++ 0#8)
  | .brev d a => some (0x2B#8 ++ d.toByte ++ a.toByte ++ 0#8)
  | .bfx d a b => some (0x2C#8 ++ d.toByte ++ a.toByte ++ b.toByte)
  | .bfi d a b => some (0x2D#8 ++ d.toByte ++ a.toByte ++ b.toByte)
  | .cmp c p a b => some (0x2E#8 ++ (c ++ p) ++ a.toByte ++ b.toByte)
  | .plog t p a b => some (0x2F#8 ++ (0#1 ++ t ++ p) ++ a.toByte ++ b.toByte)
  | .cvt d a part t => some (0x30#8 ++ d.toByte ++ a.toByte ++ (part ++ t))
  | .rnd d a => some (0x31#8 ++ d.toByte ++ a.toByte ++ 0#8)
  | .rcp d a => some (0x32#8 ++ d.toByte ++ a.toByte ++ 0#8)
  | .rsq d a => some (0x33#8 ++ d.toByte ++ a.toByte ++ 0#8)
  | .sqrt d a => some (0x34#8 ++ d.toByte ++ a.toByte ++ 0#8)
  | .ex2 d a => some (0x35#8 ++ d.toByte ++ a.toByte ++ 0#8)
  | .lg2 d a => some (0x36#8 ++ d.toByte ++ a.toByte ++ 0#8)
  | .sin d a => some (0x37#8 ++ d.toByte ++ a.toByte ++ 0#8)
  | .cos d a => some (0x38#8 ++ d.toByte ++ a.toByte ++ 0#8)
  | .tanh d a => some (0x39#8 ++ d.toByte ++ a.toByte ++ 0#8)
  | .fcls d a => some (0x3A#8 ++ d.toByte ++ a.toByte ++ 0#8)
  | .addc d a b => some (0x3B#8 ++ d.toByte ++ a.toByte ++ b.toByte)
  | .mode d a => some (0x3C#8 ++ d.toByte ++ a.toByte ++ 0#8)
  | .modef f n => some (0x3D#8 ++ f ++ n)
  | .vote d a op => some (0x40#8 ++ d.toByte ++ a.toByte ++ op)
  | .pickIdx d a b => some (0x41#8 ++ d.toByte ++ a.toByte ++ b.toByte)
  | .pickUp d a b => some (0x42#8 ++ d.toByte ++ a.toByte ++ b.toByte)
  | .pickDn d a b => some (0x43#8 ++ d.toByte ++ a.toByte ++ b.toByte)
  | .pickXor d a b => some (0x44#8 ++ d.toByte ++ a.toByte ++ b.toByte)
  | .scan d a op => some (0x45#8 ++ d.toByte ++ a.toByte ++ op)
  | .scanx d a op => some (0x46#8 ++ d.toByte ++ a.toByte ++ op)
  | .redx d a op => some (0x47#8 ++ d.toByte ++ a.toByte ++ op)
  | .matchEq d a => some (0x48#8 ++ d.toByte ++ a.toByte ++ 0#8)
  | .v2s d a b => some (0x49#8 ++ d.toByte ++ a.toByte ++ b.toByte)
  | .vmovx d a b => some (0x4A#8 ++ d.toByte ++ a.toByte ++ b.toByte)
  | .vstx d a b => some (0x4B#8 ++ d.toByte ++ a.toByte ++ b.toByte)
  | .vgrow d n => some (0x4C#8 ++ d.toByte ++ n)
  | .vshrink d n => some (0x4D#8 ++ d.toByte ++ n)
  | .spawn d a b => some (0x4E#8 ++ d.toByte ++ a.toByte ++ b.toByte)
  | .grid a => some (0x4F#8 ++ 0#8 ++ a.toByte ++ 0#8)
  | .smov d a => some (0x50#8 ++ d.toByte ++ a.toByte ++ 0#8)
  | .smovi d n => some (0x51#8 ++ d.toByte ++ n)
  | .smovh d n => some (0x52#8 ++ d.toByte ++ n)
  | .sadd d a b => some (0x53#8 ++ d.toByte ++ a.toByte ++ b.toByte)
  | .ssub d a b => some (0x54#8 ++ d.toByte ++ a.toByte ++ b.toByte)
  | .smul d a b => some (0x55#8 ++ d.toByte ++ a.toByte ++ b.toByte)
  | .smulh d a b => some (0x56#8 ++ d.toByte ++ a.toByte ++ b.toByte)
  | .sand d a b => some (0x57#8 ++ d.toByte ++ a.toByte ++ b.toByte)
  | .sor d a b => some (0x58#8 ++ d.toByte ++ a.toByte ++ b.toByte)
  | .sxor d a b => some (0x59#8 ++ d.toByte ++ a.toByte ++ b.toByte)
  | .sshl d a b => some (0x5A#8 ++ d.toByte ++ a.toByte ++ b.toByte)
  | .sshr d a b => some (0x5B#8 ++ d.toByte ++ a.toByte ++ b.toByte)
  | .ssar d a b => some (0x5C#8 ++ d.toByte ++ a.toByte ++ b.toByte)
  | .sseq d a b => some (0x5D#8 ++ d.toByte ++ a.toByte ++ b.toByte)
  | .sslt d a b => some (0x5E#8 ++ d.toByte ++ a.toByte ++ b.toByte)
  | .ssltn d a b => some (0x5F#8 ++ d.toByte ++ a.toByte ++ b.toByte)
  | .ld8 d a off => some (0x60#8 ++ d.toByte ++ a.toByte ++ off)
  | .ld16 d a off => some (0x61#8 ++ d.toByte ++ a.toByte ++ off)
  | .ld32 d a off => some (0x62#8 ++ d.toByte ++ a.toByte ++ off)
  | .ld64 d a off => some (0x63#8 ++ d.toByte ++ a.toByte ++ off)
  | .ld128 d a off => some (0x64#8 ++ d.toByte ++ a.toByte ++ off)
  | .st8 d a off => some (0x65#8 ++ d.toByte ++ a.toByte ++ off)
  | .st16 d a off => some (0x66#8 ++ d.toByte ++ a.toByte ++ off)
  | .st32 d a off => some (0x67#8 ++ d.toByte ++ a.toByte ++ off)
  | .st64 d a off => some (0x68#8 ++ d.toByte ++ a.toByte ++ off)
  | .st128 d a off => some (0x69#8 ++ d.toByte ++ a.toByte ++ off)
  | .lds32 d a off => some (0x6A#8 ++ d.toByte ++ a.toByte ++ off)
  | .lds64 d a off => some (0x6B#8 ++ d.toByte ++ a.toByte ++ off)
  | .lds128 d a off => some (0x6C#8 ++ d.toByte ++ a.toByte ++ off)
  | .sts32 d a off => some (0x6D#8 ++ d.toByte ++ a.toByte ++ off)
  | .sts64 d a off => some (0x6E#8 ++ d.toByte ++ a.toByte ++ off)
  | .sts128 d a off => some (0x6F#8 ++ d.toByte ++ a.toByte ++ off)
  | .sld d a off => some (0x70#8 ++ d.toByte ++ a.toByte ++ off)
  | .sst d a off => some (0x71#8 ++ d.toByte ++ a.toByte ++ off)
  | .ldw d a off => some (0x72#8 ++ d.toByte ++ a.toByte ++ off)
  | .pref h a off => some (0x73#8 ++ h ++ a.toByte ++ off)
  | .fetchAdd d a b => some (0x74#8 ++ d.toByte ++ a.toByte ++ b.toByte)
  | .fetchMin d a b => some (0x75#8 ++ d.toByte ++ a.toByte ++ b.toByte)
  | .fetchMax d a b => some (0x76#8 ++ d.toByte ++ a.toByte ++ b.toByte)
  | .fetchAnd d a b => some (0x77#8 ++ d.toByte ++ a.toByte ++ b.toByte)
  | .fetchOr d a b => some (0x78#8 ++ d.toByte ++ a.toByte ++ b.toByte)
  | .fetchXor d a b => some (0x79#8 ++ d.toByte ++ a.toByte ++ b.toByte)
  | .fetchXchg d a b => some (0x7A#8 ++ d.toByte ++ a.toByte ++ b.toByte)
  | .cas d a b => some (0x7B#8 ++ d.toByte ++ a.toByte ++ b.toByte)
  | .red op a b => some (0x7C#8 ++ op ++ a.toByte ++ b.toByte)
  | .cpy q a => some (0x7D#8 ++ q ++ a.toByte ++ 0#8)
  | .cpyo q a => some (0x7E#8 ++ q ++ a.toByte ++ 0#8)
  | .binit a b => some (0x80#8 ++ 0#8 ++ a.toByte ++ b.toByte)
  | .barv d a => some (0x81#8 ++ d.toByte ++ a.toByte ++ 0#8)
  | .bexp a b => some (0x82#8 ++ 0#8 ++ a.toByte ++ b.toByte)
  | .bwait d a b => some (0x83#8 ++ d.toByte ++ a.toByte ++ b.toByte)
  | .bwaity d a off => some (0x84#8 ++ d.toByte ++ a.toByte ++ off)
  | .bwaitt d a b => some (0x85#8 ++ d.toByte ++ a.toByte ++ b.toByte)
  | .watch d a off => some (0x86#8 ++ d.toByte ++ a.toByte ++ off)
  | .wsleep d a => some (0x87#8 ++ d.toByte ++ a.toByte ++ 0#8)
  | .fence n => some (0x88#8 ++ 0#8 ++ n)
  | .rel n => some (0x89#8 ++ 0#8 ++ n)
  | .acq n => some (0x8A#8 ++ 0#8 ++ n)
  | .waitc c n => some (0x8B#8 ++ c.toByte ++ n)
  | .qfence n => some (0x8C#8 ++ 0#8 ++ n)
  | .pack d a b => some (0x90#8 ++ d.toByte ++ a.toByte ++ b.toByte)
  | .unpack d a b => some (0x91#8 ++ d.toByte ++ a.toByte ++ b.toByte)
  | .mldb a => some (0x92#8 ++ 0#8 ++ a.toByte ++ 0#8)
  | .mmac set a => some (0x93#8 ++ set ++ a.toByte ++ 0#8)
  | .mrd clr set a => some (0x94#8 ++ (0#6 ++ BitVec.ofBool clr ++ BitVec.ofBool set) ++ a.toByte ++ 0#8)
  | .mzero n => some (0x95#8 ++ 0#8 ++ n)
  | .manch set a => some (0x96#8 ++ set ++ a.toByte ++ 0#8)
  | .epi a => some (0x97#8 ++ 0#8 ++ a.toByte ++ 0#8)
  | .mfence a => some (0x98#8 ++ 0#8 ++ a.toByte ++ 0#8)
  | .mtest => some (0x99#8 ++ 0#8 ++ 0#8 ++ 0#8)
  | .mstat d n => some (0x9A#8 ++ d.toByte ++ n)
  | .gath d a => some (0xA0#8 ++ d.toByte ++ a.toByte ++ 0#8)
  | .pool d a => some (0xA1#8 ++ d.toByte ++ a.toByte ++ 0#8)
  | .mcred d a => some (0xA2#8 ++ d.toByte ++ a.toByte ++ 0#8)
  | .mcst d a => some (0xA3#8 ++ d.toByte ++ a.toByte ++ 0#8)
  | .agq d n => some (0xA4#8 ++ d.toByte ++ n)
  | .wbcast d a => some (0xA5#8 ++ d.toByte ++ a.toByte ++ 0#8)
  | .dgst d a => some (0xA6#8 ++ d.toByte ++ a.toByte ++ 0#8)
  | .topen d a => some (0xA7#8 ++ d.toByte ++ a.toByte ++ 0#8)
  | .tcommit d a => some (0xA8#8 ++ d.toByte ++ a.toByte ++ 0#8)
  | .gate d n => some (0xB0#8 ++ d.toByte ++ n)
  | .gret => some (0xB1#8 ++ 0#8 ++ 0#8 ++ 0#8)
  | .treeq d n => some (0xB2#8 ++ d.toByte ++ n)
  | .scrub m a b => some (0xB3#8 ++ m ++ a.toByte ++ b.toByte)
  | .csrr d a => some (0xC0#8 ++ d.toByte ++ a.toByte ++ 0#8)
  | .csrw d a b => some (0xC1#8 ++ d.toByte ++ a.toByte ++ b.toByte)
  | .csrs d a b => some (0xC2#8 ++ d.toByte ++ a.toByte ++ b.toByte)
  | .csrc d a b => some (0xC3#8 ++ d.toByte ++ a.toByte ++ b.toByte)
  | .tret => some (0xC4#8 ++ 0#8 ++ 0#8 ++ 0#8)
  | .wfi => some (0xC5#8 ++ 0#8 ++ 0#8 ++ 0#8)
  | .sipi a b => some (0xC6#8 ++ 0#8 ++ a.toByte ++ b.toByte)
  | .tlbiAll => some (0xC7#8 ++ 0#8 ++ 0#8 ++ 0#8)
  | .tlbiDom a => some (0xC7#8 ++ 1#8 ++ a.toByte ++ 0#8)
  | .tlbiVa a b => some (0xC7#8 ++ 2#8 ++ a.toByte ++ b.toByte)
  | .tlbiVaall b => some (0xC7#8 ++ 3#8 ++ 0#8 ++ b.toByte)
  | .dslw a b => some (0xC8#8 ++ 0#8 ++ a.toByte ++ b.toByte)
  | .dpre d a b => some (0xC9#8 ++ d.toByte ++ a.toByte ++ b.toByte)
  | .ctxs a b => some (0xCA#8 ++ 0#8 ++ a.toByte ++ b.toByte)
  | .ctxl a b => some (0xCB#8 ++ 0#8 ++ a.toByte ++ b.toByte)
  | .wswap d n => some (0xCC#8 ++ d.toByte ++ n)
  | .hgmb d a => some (0xCD#8 ++ d.toByte ++ a.toByte ++ 0#8)
  | .snap n => some (0xCE#8 ++ 0#8 ++ n)
  | .brk n => some (0xCF#8 ++ 0#8 ++ n)
  | .stallRunout _ _ _ => none
  | .yieldRunout _ _ _ => none
  | .ageingThreshold _ _ _ => none
  | .meetParkExpiry _ _ _ => none
  | .vgrowGrant _ _ => none
  | .binTimerExpiry _ _ => none
  | .looseWarpPlace _ _ => none
  | .launchRequest _ _ => none
  | .dispatchBlock _ => none
  | .warpRetire _ _ => none
  | .loadSectorLand _ _ _ => none
  | .scratchpadLoadReturn _ _ => none
  | .storeAck _ _ => none
  | .homeLoad _ _ _ => none
  | .homeStore _ _ _ => none
  | .homeAtomic _ _ _ => none
  | .atomicReturn _ _ => none
  | .monitorDrop _ _ _ => none
  | .wsleepTimeout _ _ _ => none
  | .bwaittTimeout _ _ _ => none
  | .combiningEntryExpiry _ _ => none
  | .relDrainDone _ _ _ => none
  | .acqWaitDone _ _ _ => none
  | .translationWalk _ => none
  | .translationAnswer _ _ => none
  | .remoteAtomicTimeout _ _ => none
  | .copyStart _ _ => none
  | .copyChunk _ _ => none
  | .copyPieceLand _ _ _ => none
  | .copyoPieceAck _ _ _ => none
  | .engineFaultDeliver _ _ => none
  | .qfenceRelease _ _ => none
  | .mldbRun _ => none
  | .mmacRun _ => none
  | .mrdRun _ => none
  | .mzeroRun _ => none
  | .manchRun _ => none
  | .epiRun _ => none
  | .mtestRun _ _ => none
  | .mfenceRun _ _ => none
  | .scrubMatrixRun _ => none
  | .selfTestIdle _ _ => none
  | .batchReopen _ => none
  | .gathRun _ => none
  | .poolRun _ => none
  | .poolRowArrive _ _ => none
  | .mcredRun _ => none
  | .mcstRun _ => none
  | .wbcastRun _ => none
  | .dgstRun _ => none
  | .engineCommandComplete _ _ => none
  | .gateProceed _ _ => none
  | .dpreComplete _ => none
  | .warpHalt _ _ => none
  | .unitScrubDone _ _ => none
  | .unitWake _ _ => none
  | .deferredTrapRecord _ _ => none
  | .notificationDrain _ => none
  | .serviceInterrupt _ => none
  | .wfiWake _ => none
  | .sipiDeliver _ => none
  | .dispositionResume _ _ => none
  | .dispositionKill _ _ => none
  | .dispositionHandler _ _ => none
  | .memoryError _ _ => none
  | .isctlWrite _ => none
  | .ipendWrite _ => none
  | .watchRegWrite _ => none
  | .csrWrite _ => none
  | .debugHalt _ => none
  | .debugResume _ => none
  | .debugStep _ => none
  | .debugDump _ => none
  | .debugArm _ => none
  | .debugRead _ => none
  | .debugBadCommand _ => none
  | .packetFetch _ _ => none
  | .packetNop _ _ => none
  | .packetSeed _ _ => none
  | .packetSignal _ _ => none
  | .packetWaitsig _ _ => none
  | .packetCistern _ _ => none
  | .packetQuery _ _ => none
  | .cisternWriteStart _ => none
  | .quantumEnd _ => none
  | .firmwareRestart _ => none
  | .kernelSetup _ => none
  | .resize _ => none
  | .reinterleaveGroup _ => none
  | .setOwner _ => none
  | .sealFrames _ => none
  | .groupRegister _ => none
  | .groupWithdraw _ => none
  | .memberAbsent _ _ => none
  | .tensorDefine _ => none
  | .manifestSubmit _ => none
  | .cisternPairing _ => none
  | .cisternLoad _ => none
  | .keyRotateRequest _ => none
  | .peerWindow _ => none
  | .bindKeySlot _ => none
  | .registerOwnerKey _ => none
  | .extendMeasurement _ => none
  | .measurementReport _ => none
  | .migrationExport _ => none
  | .migrationImport _ => none
  | .migrationReceipt _ _ => none
  | .debugUnlock _ => none
  | .debugChallenge _ => none
  | .returnModule _ => none
  | .spdmGetVersion _ => none
  | .spdmGetCapabilities _ => none
  | .spdmNegotiateAlgorithms _ _ => none
  | .spdmGetDigests _ => none
  | .spdmGetCertificate _ _ => none
  | .spdmChallenge _ _ => none
  | .spdmGetMeasurements _ _ _ _ => none
  | .spdmKeyExchange _ _ => none
  | .spdmFinish _ => none
  | .spdmEndSession _ => none
  | .spdmKeyDelivery _ _ _ => none
  | .frameReceive _ _ => none
  | .portDown _ => none
  | .portRetrain _ => none
  | .keyRotation _ => none
  | .fabricReadResponse _ _ => none
  | .fabricWriteAck _ _ => none
  | .fabricAtomicResponse _ _ => none
  | .fabricMulticastLine _ _ => none
  | .fabricErrorResponse _ _ => none
  | .windowAccess _ _ => none
  | .cxlHostRequest _ _ => none
  | .cxlRegionReclaim _ _ => none
  | .refreshWindow _ => none
  | .cisternScrub _ _ => none
  | .sensorSample _ _ => none
  | .powerQuotaUpdate _ => none
  | .powerLimitSet _ => none
  | .firmwareUpdate _ => none
  | .moduleReset => none
  | .partitionForm _ _ _ => none
  | .bootRetry _ _ => none
  | .partitionReset _ => none
  | .gretProceed _ _ => none
  | .memberReturn _ _ _ => none
  | .unitPowerDown _ _ => none
  | .frameReplay _ => none

/-- The instruction that the decoder reads from the table's bits: an instruction is one 32-bit word. -/
def decodeTableWord (nbits w : Nat) : Option Instr :=
  if nbits ≤ 32 then
    match decode (BitVec.ofNat 32 w) with
    | .ok i => some i
    | .error _ => none
  else none

end Sys2Proof
end

