-- ==== Sys2Proof/Config.lean ====
section
/-! DEFINITION. Sys2Proof/Config.lean: what the spec leaves open or to the implementation. Every constant here has no body: no proof
can see a value. Each is named in the assumption log. -/

namespace Sys2Proof.Config

/-- Which of the results that lie within the bound of R80 a special function gives: opcode, element type, operand. -/
opaque sfuPick : Nat → Nat → Nat → Nat

/-- Which of the results within the bound of R257 the epilogue's activation gives: function, operand. -/
opaque actPick : Nat → Nat → Nat

/-- A value that the spec leaves free: the number of the use. -/
opaque freeNat : Nat → Nat

/-- Whether a choice that the spec leaves open falls one way: the number of the use. -/
opaque freeBool : Nat → Bool

/-- SHA-384 of a string of bytes (R299, R401, R404). -/
opaque sha384 : List Byte → Digest

/-- Whether a weight manifest is signed by a key: the key, the manifest (R373). -/
opaque manifestOk : List Byte → List Byte → Bool

/-- The digests that a manifest lists (R373). -/
opaque manifestDigests : List Byte → List Digest

/-- Whether both signatures of a debug token verify against the key hashes in fuses (R411). -/
opaque tokenOk : List Byte → Bool

/-- The fuse that disables debug (R411). -/
opaque debugDisabled : Bool

/-- The unique device secret in fuses (R403). -/
opaque deviceSecret : BitVec 256

/-- HMAC-SHA-384 of a message under a key (R403). -/
opaque hmac384 : List Byte → List Byte → Digest

/-- The ECDSA P-384 public key that goes with a seed (R403). -/
opaque p384Public : Digest → List Byte

/-- The ECDSA P-384 signature of a message by the key of a seed (R403, R405). -/
opaque p384Sign : Digest → List Byte → List Byte

/-- The certificate of the DeviceID key that the fuses hold (R403). -/
opaque deviceCertificate : List Byte

/-- The encoding of a response of SPDM 1.3 to a requester: the message code and its contents (R405). -/
opaque spdmEncode : Nat → List Byte → List Byte

/-- Whether a requester's signature verifies in a mutual authentication (R405): the number of the use. -/
opaque requesterOk : Nat → Bool

/-- The signing key that a tenant has delivered with its first key slot (R409): the session. -/
opaque tenantKey : Nat → List Byte

/-- Whether a migration policy is signed by a tenant's key: the key, the policy (R409). -/
opaque policySigned : List Byte → List Byte → Bool

/-- Whether a policy allows a destination: the policy, the destination's registers 0 to 2, its lifecycle (R409). -/
opaque policyAllows : List Byte → List Digest → Nat → Bool

/-- The device that the headgate attests across a migration, if the two reports pass: its identifier, its registers 0 to 2, its lifecycle (R409): the
number of the use. -/
opaque peerAttested : Nat → Option (Digest × List Digest × Nat)

/-- The transport key of two devices and an export nonce (R409): source, destination, nonce. -/
opaque transportKey : Digest → Digest → Digest → BitVec 256

/-- Whether a receipt of an export's nonce is signed by its destination (R409): the nonce, the number of the use. -/
opaque receiptOk : Digest → Nat → Bool

/-- The debug token that arrives through the management controller (R410): the number of the use. -/
opaque managerToken : Nat → List Byte

/-- Whether both signatures of a partition's loader verify, with its rollback counter (R379): the loader, the fused counter. -/
opaque loaderOk : List Byte → Nat → Bool

/-- The recovery image that the network gives, if it gives one (R407): the number of the use. -/
opaque recoveryImage : Nat → Option FirmwareImage

/-- Whether the headgate gives a partition, when it forms it, a CXL port that is free (R367, R376). -/
opaque cxlGiven : Nat → Nat → Bool

/-- The bytes of the CXL window of a partition (R367). -/
opaque cxlWindow : Nat → Nat

/-- A fresh number that nothing outside can predict: nonces and challenges (R405, R410). -/
opaque fresh : Nat → Digest

/-- The check value of a save area under the headgate's key (R338): save serial. -/
opaque checkValue : Nat → DWord

/-- The measurement of the running firmware, configuration and microcode (R404): register number. -/
opaque measured : Nat → Digest

/-- The phase of a die's refresh sequencer at module reset (R225): the die. -/
opaque refreshPhase : Nat → Nat

/-- What cid reads on a service or firmware core, which R3 gives no module-wide number. -/
opaque serviceCid : Nat → Nat

/-- Whether a reservoir node backs an offset of its pooled memory (R358): node and offset. -/
opaque nodeBacks : Nat → Nat → Bool

/-- AES-256 of a block under a key (R354, R370, R409). -/
opaque aes256 : BitVec 256 → BitVec 128 → BitVec 128

/-- The tag of AES-256-GCM, as a little-endian number of its bytes: key, 96-bit nonce, authenticated bytes, ciphertext (R354, R370, R409). -/
opaque gcmTag : BitVec 256 → Nat → List Byte → List Byte → BitVec 128

/-- The key of a fabric stream, derived in the headgate's session with the node (R356, R406): port, session, whether the module sends, number. -/
opaque linkKey : Nat → Nat → Bool → Nat → BitVec 256

/-- Whether a 2 MiB region of a partition's HBM lies in the range that it exports to its host (R368): partition, region. -/
opaque hostExports : Nat → Nat → Bool

/-- The cycles that the fetch of a SWITCH table bundle takes (R145, R161): the number of the use. -/
opaque fetchDelay : Nat → Nat

end Sys2Proof.Config
end

