-- ==== Sys2Proof/Machine/Map.lean ====
section
/-! DEFINITION. Sys2Proof/Machine/Map.lean: the operations of sparse maps with rising keys, of the sets of memory cells built on
them, and the byte order of multi-byte values (R11). -/

namespace Sys2Proof.Machine

/-- The value at a key, if any. -/
def AMap.get? {α : Type} : AMap α → Nat → Option α
  | [], _ => none
  | (k, v) :: m, n => if k = n then some v else AMap.get? m n

/-- The value at a key, or the default. -/
def AMap.getD {α : Type} (m : AMap α) (n : Nat) (d : α) : α := (AMap.get? m n).getD d

/-- Insert or replace, keeping keys in rising order. -/
def AMap.put {α : Type} : AMap α → Nat → α → AMap α
  | [], n, a => [(n, a)]
  | (k, v) :: m, n, a =>
    if n < k then (n, a) :: (k, v) :: m
    else if n = k then (n, a) :: m
    else (k, v) :: AMap.put m n a

/-- Remove a key. -/
def AMap.del {α : Type} (m : AMap α) (n : Nat) : AMap α := m.filter fun (k, _) => decide (k ≠ n)

/-- Write a value, listing it only when it differs from the default. -/
def AMap.putD {α : Type} [DecidableEq α] (m : AMap α) (n : Nat) (a d : α) : AMap α :=
  if a = d then AMap.del m n else AMap.put m n a

/-- Change the value at a key that is present. -/
def AMap.modify {α : Type} (m : AMap α) (n : Nat) (f : α → α) : AMap α :=
  m.map fun (k, v) => if k = n then (k, f v) else (k, v)

/-- Keep the entries that pass. -/
def AMap.keep {α : Type} (m : AMap α) (p : Nat → α → Bool) : AMap α := m.filter fun (k, v) => p k v

/-! ## Cells: bytes by address, zero where not listed -/

/-- The byte at an address: zero where none is listed. -/
def cellRead (m : List Host.Cell) (a : Nat) : Byte := AMap.getD m a 0

/-- Write one byte. -/
def cellWrite (m : List Host.Cell) (a : Nat) (b : Byte) : List Host.Cell := AMap.putD m a b 0

/-- Addresses strictly rising. -/
def cellsRise : List Host.Cell → Bool
  | [] => true
  | [_] => true
  | (a, _) :: (b, y) :: m => decide (a < b) && cellsRise ((b, y) :: m)

/-- The canonical form: addresses strictly rising, and no listed byte zero. -/
def Memory.wf (m : List Host.Cell) : Bool := cellsRise m && m.all fun (_, b) => decide (b ≠ 0)

/-- n bytes from an address, lowest first. -/
def cellsRead (m : List Host.Cell) (a : Nat) : Nat → List Byte
  | 0 => []
  | n + 1 => cellRead m a :: cellsRead m (a + 1) n

/-- Write bytes from an address, lowest first. -/
def cellsWrite (m : List Host.Cell) (a : Nat) : List Byte → List Host.Cell
  | [] => m
  | b :: bs => cellsWrite (cellWrite m a b) (a + 1) bs

/-- The cells of an address range. -/
def cellsIn (m : List Host.Cell) (a n : Nat) : List Host.Cell := m.filter fun (k, _) => a ≤ k && k < a + n

/-- The cells outside an address range: the range becomes zero. -/
def cellsClear (m : List Host.Cell) (a n : Nat) : List Host.Cell := m.filter fun (k, _) => !(a ≤ k && k < a + n)

/-- Little-endian value of bytes (R11). -/
def leNat : List Byte → Nat
  | [] => 0
  | b :: bs => b.toNat + 256 * leNat bs

/-- The n low bytes of a value, least significant first (R11). -/
def natLe : Nat → Nat → List Byte
  | 0, _ => []
  | n + 1, x => BitVec.ofNat 8 x :: natLe n (x / 256)

/-- The little-endian value of n bytes at an address. -/
def cellsNat (m : List Host.Cell) (a n : Nat) : Nat := leNat (cellsRead m a n)

/-! ## Bit fields -/

/-- Bits [hi:lo] of a natural number (R12). -/
def bitsN (x hi lo : Nat) : Nat := x / 2 ^ lo % 2 ^ (hi + 1 - lo)

/-- Bits [hi:lo] of a word, as a number. -/
def bitsW {n : Nat} (x : BitVec n) (hi lo : Nat) : Nat := bitsN x.toNat hi lo

/-- A signed reading of the low n bits. -/
def sextN (x n : Nat) : Int := let y := x % 2 ^ n; if 2 * y < 2 ^ n then (y : Int) else (y : Int) - 2 ^ n

/-- The low w bits of an integer, as a natural number. -/
def wrapN (v : Int) (w : Nat) : Nat := (v % ((2 ^ w : Nat) : Int)).toNat

/-- PopCount (R39). -/
def popN : Nat → Nat → Nat
  | 0, _ => 0
  | n + 1, x => x % 2 + popN n (x / 2)

def popCount (m : Mask) : Nat := popN 32 m.toNat

/-- The lanes of a mask in ascending order (R39). -/
def lanesOf (m : Mask) : List Nat := (List.range 32).filter fun l => m.getLsbD l

/-- The mask of the lanes that pass. -/
def maskOf (p : Nat → Bool) : Mask := BitVec.ofNat 32 ((List.range 32).foldl (fun acc l => if p l then acc + 2 ^ l else acc) 0)

/-- Lowest lane of a mask. -/
def firstLane (m : Mask) : Nat := ((lanesOf m).head?).getD 32

/-- Bit l alone. -/
def bitMask (l : Nat) : Mask := BitVec.ofNat 32 (2 ^ l)

/-- ceil(a / b). -/
def ceilDiv (a b : Nat) : Nat := (a + b - 1) / b

/-- Replace the elements of a list that pass. -/
def mapIf {α : Type} (p : α → Bool) (f : α → α) (l : List α) : List α := l.map fun a => if p a then f a else a

/-- 32-bit word of a number. -/
def w32 (n : Nat) : Word := BitVec.ofNat 32 n

/-- The two halves of a 64-bit value. -/
def loW (x : DWord) : Word := x.truncate 32
def hiW (x : DWord) : Word := (x >>> 32).truncate 32
def pairW (lo hi : Word) : DWord := hi ++ lo

end Sys2Proof.Machine
end

