-- ==== Sys2Proof/Machine/Num.lean ====
section
/-! DEFINITION. Sys2Proof/Machine/Num.lean: element types, their encodings, rounding and the exact values behind every float result
("Numbers, rounding and exact sums", R265 to R274; R51, R52, R63, R64, R74 to R78). -/

namespace Sys2Proof.Machine

/-- The element types, in the order of their codes (R33). -/
inductive EType where
  | i8 | i16 | i32 | i64 | n8 | n16 | n32 | n64 | f16 | bf16 | f32 | f64 | e4m3 | e5m2 | e2m1
deriving DecidableEq, Repr

/-- The type of a code; codes 15 to 31 name none (R33). -/
def etypeOf : Nat → Option EType
  | 0 => some .i8 | 1 => some .i16 | 2 => some .i32 | 3 => some .i64
  | 4 => some .n8 | 5 => some .n16 | 6 => some .n32 | 7 => some .n64
  | 8 => some .f16 | 9 => some .bf16 | 10 => some .f32 | 11 => some .f64
  | 12 => some .e4m3 | 13 => some .e5m2 | 14 => some .e2m1
  | _ => none

/-- Element width in bits (R265, R266). -/
def EType.width : EType → Nat
  | .i8 | .n8 | .e4m3 | .e5m2 => 8
  | .i16 | .n16 | .f16 | .bf16 => 16
  | .i32 | .n32 | .f32 => 32
  | .i64 | .n64 | .f64 => 64
  | .e2m1 => 4

/-- A 64-bit type: its element occupies an even pair (R33, R48). -/
def EType.is64 (t : EType) : Bool := t.width = 64

/-- Elements per operand: per 32-bit register, or one for a 64-bit type (R39, R62). -/
def EType.elems (t : EType) : Nat := if t.is64 then 1 else 32 / t.width

def EType.isSigned : EType → Bool
  | .i8 | .i16 | .i32 | .i64 => true
  | _ => false

def EType.isUnsigned : EType → Bool
  | .n8 | .n16 | .n32 | .n64 => true
  | _ => false

def EType.isInt (t : EType) : Bool := t.isSigned || t.isUnsigned

/-- f16, bf16, f32 and f64, the "float" types of R60. -/
def EType.isFloat : EType → Bool
  | .f16 | .bf16 | .f32 | .f64 => true
  | _ => false

def EType.isNarrow : EType → Bool
  | .e4m3 | .e5m2 | .e2m1 => true
  | _ => false

/-- Fraction bits M (R266). -/
def EType.fracBits : EType → Nat
  | .f16 => 10 | .bf16 => 7 | .f32 => 23 | .f64 => 52 | .e4m3 => 3 | .e5m2 => 2 | .e2m1 => 1
  | _ => 0

/-- Exponent bits E (R266). -/
def EType.expBits : EType → Nat
  | .f16 => 5 | .bf16 => 8 | .f32 => 8 | .f64 => 11 | .e4m3 => 4 | .e5m2 => 5 | .e2m1 => 2
  | _ => 0

/-- Bias (R266). -/
def EType.bias : EType → Nat
  | .f16 => 15 | .bf16 => 127 | .f32 => 127 | .f64 => 1023 | .e4m3 => 7 | .e5m2 => 15 | .e2m1 => 1
  | _ => 0

/-- Magnitude bits of the largest finite value (R76, R266). -/
def EType.maxFinite : EType → Nat
  | .f16 => 0x7BFF | .bf16 => 0x7F7F | .f32 => 0x7F7FFFFF | .f64 => 0x7FEFFFFFFFFFFFFF
  | .e4m3 => 0x7E | .e5m2 => 0x7B | .e2m1 => 0x7
  | _ => 0

/-- Magnitude bits of an infinity; e4m3 and e2m1 have none (R266). -/
def EType.infBits : EType → Option Nat
  | .f16 => some 0x7C00 | .bf16 => some 0x7F80 | .f32 => some 0x7F800000 | .f64 => some 0x7FF0000000000000
  | .e5m2 => some 0x7C
  | _ => none

/-- The canonical quiet NaN (R52); e2m1 and the integer types have none, and 0 stands in (R75). -/
def EType.qnan : EType → Nat
  | .f16 => 0x7E00 | .bf16 => 0x7FC0 | .f32 => 0x7FC00000 | .f64 => 0x7FF8000000000000 | .e4m3 => 0x7F | .e5m2 => 0x7E
  | _ => 0

/-- The sign bit of a float type. -/
def EType.signBit (t : EType) : Nat := 2 ^ (t.width - 1)

/-- What a float encoding stands for (R267): a NaN, an infinity, or a signed multiple n × 2^e. -/
inductive FVal where
  | nan
  | inf (neg : Bool)
  | num (neg : Bool) (n : Nat) (e : Int)
deriving DecidableEq, Repr

/-- Sign of an encoding. -/
def fNeg (t : EType) (x : Nat) : Bool := x / t.signBit % 2 = 1

/-- Magnitude bits of an encoding. -/
def fMag (t : EType) (x : Nat) : Nat := x % t.signBit

/-- NaN test (R266). -/
def fIsNan (t : EType) (x : Nat) : Bool :=
  match t with
  | .e4m3 => fMag t x = 0x7F
  | .e2m1 => false
  | _ => match t.infBits with
    | some i => i < fMag t x
    | none => false

/-- Value(x, t) for a float type (R267). -/
def fValue (t : EType) (x : Nat) : FVal :=
  if fIsNan t x then .nan
  else if t.infBits = some (fMag t x) then .inf (fNeg t x)
  else
    let f := fMag t x % 2 ^ t.fracBits
    let e := fMag t x / 2 ^ t.fracBits
    if e = 0 then .num (fNeg t x) f (1 - (t.bias : Int) - t.fracBits)
    else .num (fNeg t x) (2 ^ t.fracBits + f) ((e : Int) - t.bias - t.fracBits)

/-- A subnormal encoding: exponent field zero, fraction not. -/
def fIsSub (t : EType) (x : Nat) : Bool := decide (0 < fMag t x) && decide (fMag t x < 2 ^ t.fracBits)

/-- Flush a subnormal to a zero of the same sign (R52 steps 1 and 5). -/
def fFlush (ftz : Bool) (t : EType) (x : Nat) : Nat := if ftz && fIsSub t x then x - fMag t x else x

/-- Set the quiet bit of a NaN (R52 step 2, R267). -/
def fQuiet (t : EType) (x : Nat) : Nat :=
  match t with
  | .e4m3 | .e2m1 => x
  | _ => if x / 2 ^ (t.fracBits - 1) % 2 = 1 then x else x + 2 ^ (t.fracBits - 1)

/-- Put a sign on magnitude bits. -/
def fSign (t : EType) (neg : Bool) (mag : Nat) : Nat := if neg then t.signBit + mag else mag

/-- A non-zero exact magnitude n / d × 2^e with an infinitesimal of sign eps beside it (R272). -/
structure Exact where
  neg : Bool
  n : Nat
  d : Nat := 1
  e : Int := 0
  eps : Int := 0
deriving DecidableEq, Repr

/-- 2^k as a factor pair: (2^k, 1) or (1, 2^-k). -/
def pow2Pair (k : Int) : Nat × Nat := if 0 ≤ k then (2 ^ k.toNat, 1) else (1, 2 ^ (-k).toNat)

/-- The exact magnitude as a fraction; the infinitesimal becomes one part in 2^70 of the lowest place, which no rounding of the
formats of R266 can tell from it. -/
def Exact.frac (x : Exact) : Nat × Nat :=
  let (u, v) := pow2Pair x.e
  let n := x.n * u
  let d := x.d * v
  if x.eps = 0 then (n, d) else ((((n * 2 ^ 70 : Nat) : Int) + (if x.neg then -x.eps else x.eps)).toNat, d * 2 ^ 70)

/-- floor(log2(n / d)) for n, d > 0. -/
def log2Frac (n d : Nat) : Int :=
  let l : Int := (Nat.log2 n : Int) - Nat.log2 d
  let (u, v) := pow2Pair l
  if d * u ≤ n * v then l else l - 1

/-- Whether rm rounds m + r / d (0 ≤ r < d) up in magnitude (R268 step 3). -/
def roundsUp (rm : Nat) (neg : Bool) (m r d : Nat) : Bool :=
  if r = 0 then false
  else match rm with
    | 0 => decide (d < 2 * r) || (decide (2 * r = d) && decide (m % 2 = 1))
    | 1 => false
    | 2 => !neg
    | 3 => neg
    | _ => decide (d ≤ 2 * r)

/-- n / d rounded to an integer by rm. -/
def roundNat (rm : Nat) (neg : Bool) (n d : Nat) : Nat := n / d + (if roundsUp rm neg (n / d) (n % d) d then 1 else 0)

/-- The magnitude bits of |x| rounded to type t on the grid without an upper bound (R268 steps 1 to 3). -/
def roundMag (t : EType) (rm : Nat) (x : Exact) : Nat :=
  let (n, d) := x.frac
  if n = 0 then 0 else
  let qmin : Int := 1 - (t.bias : Int) - t.fracBits
  let q := max (log2Frac n d - t.fracBits) qmin
  let (u, v) := pow2Pair q
  let m := roundNat rm x.neg (n * v) (d * u)
  if m < 2 ^ t.fracBits then m
  else
    let (m, q) := if m = 2 ^ (t.fracBits + 1) then (2 ^ t.fracBits, q + 1) else (m, q)
    ((q + t.fracBits + t.bias).toNat) * 2 ^ t.fracBits + (m - 2 ^ t.fracBits)

/-- Whether rounding goes toward zero for a value of that sign (R76). -/
def towardZero (rm : Nat) (neg : Bool) : Bool := rm = 1 || (rm = 2 && neg) || (rm = 3 && !neg)

/-- The result of an overflow (R76). -/
def overflowBits (t : EType) (rm : Nat) (sat neg : Bool) : Nat :=
  if t = .e2m1 || sat || towardZero rm neg then fSign t neg t.maxFinite
  else match t.infBits with
    | some i => fSign t neg i
    | none => fSign t neg 0x7F

/-- What an infinity becomes in type t (R52 step 6, R76): in e4m3, which has none, a NaN whatever the rounding (DESIGN CHOICE, log entry 47: R76 speaks
of overflow only). -/
def infResult (t : EType) (sat neg : Bool) : Nat :=
  if t = .e2m1 || sat then fSign t neg t.maxFinite
  else match t.infBits with
    | some i => fSign t neg i
    | none => fSign t neg 0x7F

/-- Round(v, t, rm) with overflow by R76 (R268). -/
def roundTo (t : EType) (rm : Nat) (sat : Bool) (x : Exact) : Nat :=
  let m := roundMag t rm x
  if t.maxFinite < m then overflowBits t rm sat x.neg else fSign t x.neg m

/-- The rounding, saturation and flush fields of a mode. -/
structure FMode where
  rm : Nat
  sat : Bool
  ftz : Bool
deriving DecidableEq, Repr

/-- A float result before encoding: a given NaN encoding, the canonical NaN, an infinity, a signed zero, or a non-zero value. -/
inductive FRes where
  | bits (x : Nat)
  | invalid
  | inf (neg : Bool)
  | zero (neg : Bool)
  | val (x : Exact)
deriving DecidableEq, Repr

/-- R52 steps 3 to 6. -/
def fFinish (t : EType) (m : FMode) : FRes → Nat
  | .bits x => x
  | .invalid => t.qnan
  | .inf neg => infResult t m.sat neg
  | .zero neg => fSign t neg 0
  | .val x =>
    let r := fFlush m.ftz t (roundTo t m.rm m.sat x)
    if m.sat && t.infBits = some (fMag t r) then fSign t x.neg t.maxFinite else r

/-- A signed dyadic number as an Exact. -/
def exactOf (v : Int) (e : Int) (d : Nat := 1) (eps : Int := 0) : Exact := { neg := decide (v < 0), n := v.natAbs, d := d, e := e, eps := eps }

/-- Sum of two dyadic numbers. -/
def dyAdd (a : Int) (ea : Int) (b : Int) (eb : Int) : Int × Int :=
  let m := min ea eb
  (a * ((2 ^ (ea - m).toNat : Nat) : Int) + b * ((2 ^ (eb - m).toNat : Nat) : Int), m)

def signed (neg : Bool) (n : Nat) : Int := if neg then -(n : Int) else n

/-- The sum of two values (R52): an exact zero of opposite signs is +0, or −0 toward −∞. -/
def addVals (rm : Nat) : FVal → FVal → FRes
  | .nan, _ | _, .nan => .invalid
  | .inf a, .inf b => if a = b then .inf a else .invalid
  | .inf a, _ => .inf a
  | _, .inf b => .inf b
  | .num s n e, .num s' n' e' =>
    let (v, ev) := dyAdd (signed s n) e (signed s' n') e'
    if v = 0 then (if n = 0 && n' = 0 && s = s' then .zero s else .zero (rm = 3)) else .val (exactOf v ev)

def negVal : FVal → FVal
  | .nan => .nan
  | .inf a => .inf (!a)
  | .num s n e => .num (!s) n e

/-- The product of two values, exact. -/
def mulVals : FVal → FVal → FVal
  | .nan, _ | _, .nan => .nan
  | .inf a, .inf b => .inf (a != b)
  | .inf a, .num s n _ => if n = 0 then .nan else .inf (a != s)
  | .num s n _, .inf b => if n = 0 then .nan else .inf (s != b)
  | .num s n e, .num s' n' e' => .num (s != s') (n * n') (e + e')

def valRes : FVal → FRes
  | .nan => .invalid
  | .inf a => .inf a
  | .num s n e => if n = 0 then .zero s else .val { neg := s, n := n, e := e }

/-- Division of values (R64). -/
def divVals : FVal → FVal → FRes
  | .nan, _ | _, .nan => .invalid
  | .inf _, .inf _ => .invalid
  | .inf a, .num s _ _ => .inf (a != s)
  | .num s _ _, .inf b => .zero (s != b)
  | .num s n e, .num s' n' e' =>
    if n' = 0 then (if n = 0 then .invalid else .inf (s != s'))
    else if n = 0 then .zero (s != s')
    else .val { neg := s != s', n := n, d := n', e := e - e' }

/-- Remainder a − b × trunc(a / b), exact, with the sign of a (R64). -/
def remVals : FVal → FVal → FRes
  | .nan, _ | _, .nan => .invalid
  | .inf _, _ => .invalid
  | .num s n e, .inf _ => if n = 0 then .zero s else .val { neg := s, n := n, e := e }
  | .num s n e, .num _ n' e' =>
    if n' = 0 then .invalid
    else
      let m := min e e'
      let r := (n * 2 ^ (e - m).toNat) % (n' * 2 ^ (e' - m).toNat)
      if r = 0 then .zero s else .val { neg := s, n := r, e := m }

/-- Integer square root, by bits. -/
def isqrtGo : Nat → Nat → Nat → Nat
  | 0, _, r => r
  | k + 1, n, r => if (r + 2 ^ k) * (r + 2 ^ k) ≤ n then isqrtGo k n (r + 2 ^ k) else isqrtGo k n r

def isqrt (n : Nat) : Nat := isqrtGo (Nat.log2 n / 2 + 1) n 0

/-- Square root of n × 2^e: 120 places and a sticky bit, which round as the exact root does in every format of R266. -/
def sqrtExact (n : Nat) (e : Int) : Exact :=
  let odd := e % 2 = 1
  let n := if odd then 2 * n else n
  let e := if odd then e - 1 else e
  let s := isqrt (n * 2 ^ 240)
  { neg := false, n := 2 * s + (if s * s = n * 2 ^ 240 then 0 else 1), e := e / 2 - 121 }

def sqrtVal : FVal → FRes
  | .nan => .invalid
  | .inf false => .inf false
  | .inf true => .invalid
  | .num s n e => if n = 0 then .zero s else if s then .invalid else .val (sqrtExact n e)

/-- The first NaN of the inputs, quieted (R52 step 2). -/
def firstNan (t : EType) : List Nat → Option Nat
  | [] => none
  | x :: xs => if fIsNan t x then some (fQuiet t x) else firstNan t xs

/-- A float operation by R52: flush, NaN rule, the operation, the finish. -/
def floatOp (t : EType) (m : FMode) (f : List FVal → FRes) (xs : List Nat) : Nat :=
  let xs := xs.map (fFlush m.ftz t)
  match firstNan t xs with
  | some x => fFinish t m (.bits x)
  | none => fFinish t m (f (xs.map (fValue t)))

/-! ## Comparison (R63, R71, R72) -/

/-- Signed integer value of an element (R265). -/
def intValue (t : EType) (x : Nat) : Int := if t.isSigned then sextN x t.width else (x % 2 ^ t.width : Nat)

def intMin (t : EType) : Int := if t.isSigned then -((2 ^ (t.width - 1) : Nat) : Int) else 0
def intMax (t : EType) : Int := if t.isSigned then ((2 ^ (t.width - 1) : Nat) : Int) - 1 else ((2 ^ t.width : Nat) : Int) - 1

/-- SatInt (R39). -/
def satInt (t : EType) (v : Int) : Int := if v < intMin t then intMin t else if intMax t < v then intMax t else v

/-- An integer element result (R51). -/
def intResult (t : EType) (sat : Bool) (v : Int) : Nat := wrapN (if sat then satInt t v else v) t.width

/-- a < b for values that are not NaN, with −0 equal to +0. -/
def fLess : FVal → FVal → Bool
  | .nan, _ | _, .nan => false
  | .inf a, .inf b => a && !b
  | .inf a, .num .. => a
  | .num .., .inf b => !b
  | .num s n e, .num s' n' e' =>
    let m := min e e'
    decide (signed s n * ((2 ^ (e - m).toNat : Nat) : Int) < signed s' n' * ((2 ^ (e' - m).toNat : Nat) : Int))

/-- The order of minimumNumber and maximumNumber: −0 below +0 (R63). -/
def fBelow (t : EType) (x y : Nat) : Bool :=
  let a := fValue t x
  let b := fValue t y
  fLess a b || (!fLess b a && fNeg t x && !fNeg t y)

/-- MIN or MAX of two elements (R63); an infinite result under sat is the largest finite value (R52 step 6, R77). -/
def minMax (isMax : Bool) (t : EType) (m : FMode) (x y : Nat) : Nat :=
  if t.isInt then
    let lt := decide (intValue t x < intValue t y)
    if isMax then (if lt then y else x) else (if lt then x else y)
  else
    let x := fFlush m.ftz t x
    let y := fFlush m.ftz t y
    let r := if fIsNan t x then (if fIsNan t y then t.qnan else y)
      else if fIsNan t y then x
      else
        let lt := fBelow t x y
        if isMax then (if lt then y else x) else (if lt then x else y)
    if m.sat && t.infBits = some (fMag t r) then fSign t (fNeg t r) t.maxFinite else r

/-! ## Conversions (R74 to R78) -/

/-- An exact magnitude rounded to an integer. -/
def roundInt (rm : Nat) (x : Exact) : Int :=
  let (n, d) := x.frac
  signed x.neg (roundNat rm x.neg n d)

/-- The NaN of a float source in a float destination (R75). -/
def cvtNan (ts td : EType) (x : Nat) : Nat :=
  match td with
  | .e5m2 => fSign td (fNeg ts x) 0x7E
  | .e4m3 => fSign td (fNeg ts x) 0x7F
  | .e2m1 => 0
  | _ =>
    let f := fMag ts x % 2 ^ ts.fracBits
    let g := if td.fracBits < ts.fracBits then f / 2 ^ (ts.fracBits - td.fracBits) else f * 2 ^ (td.fracBits - ts.fracBits)
    fQuiet td (fSign td (fNeg ts x) ((td.infBits.getD 0) + g))

/-- A real result converted to type td (R75, R257 step 5). -/
def convReal (td : EType) (m : FMode) : FRes → Nat
  | .bits x => x
  | .invalid => td.qnan
  | .inf neg => if td.isInt then wrapN (if neg then intMin td else intMax td) td.width else fFinish td m (.inf neg)
  | .zero neg => if td.isInt then 0 else fSign td neg 0
  | .val x => if td.isInt then wrapN (satInt td (roundInt m.rm x)) td.width else fFinish td m (.val x)

/-- cv (R75). -/
def cvtElem (ts td : EType) (m : FMode) (x : Nat) : Nat :=
  if ts.isInt then
    let v := intValue ts x
    if td.isInt then intResult td m.sat v
    else if v = 0 then 0 else fFinish td m (.val (exactOf v 0))
  else
    let x := fFlush m.ftz ts x
    match fValue ts x with
    | .nan => if td.isInt then 0 else cvtNan ts td x
    | .inf neg => convReal td m (.inf neg)
    | .num s n e => if n = 0 then convReal td m (.zero s) else convReal td m (.val { neg := s, n := n, e := e })

/-- RND (R77). -/
def rndVal (rm : Nat) : FVal → FRes
  | .nan => .invalid
  | .inf a => .inf a
  | .num s n e =>
    if n = 0 then .zero s
    else
      let v := roundInt rm { neg := s, n := n, e := e }
      if v = 0 then .zero s else .val (exactOf v 0)

/-- FCLS (R78, R267). -/
def fclass (t : EType) (x : Nat) : Nat :=
  if fIsNan t x then
    (match t with
     | .e4m3 => 1
     | _ => if x / 2 ^ (t.fracBits - 1) % 2 = 1 then 1 else 0)
  else if t.infBits = some (fMag t x) then (if fNeg t x then 2 else 9)
  else if fMag t x = 0 then (if fNeg t x then 5 else 6)
  else if fIsSub t x then (if fNeg t x then 4 else 7)
  else if fNeg t x then 3 else 8

/-! ## Exact sums (R149, R190, R274) -/

/-- What an exact float sum has gathered: number of operands, exact sum, infinities, whether all were zeros of one sign, first NaN. -/
structure Sum where
  count : Nat := 0
  v : Int := 0
  e : Int := 0
  posInf : Bool := false
  negInf : Bool := false
  negZeros : Nat := 0
  posZeros : Nat := 0
  nan : Bool := false
deriving DecidableEq, Repr

def Sum.addVal (s : Sum) : FVal → Sum
  | .nan => { s with count := s.count + 1, nan := true }
  | .inf neg => { s with count := s.count + 1, posInf := s.posInf || !neg, negInf := s.negInf || neg }
  | .num neg n e =>
    let (v, ev) := if n = 0 then (s.v, s.e) else dyAdd s.v s.e (signed neg n) e
    { s with count := s.count + 1, v := v, e := ev,
             negZeros := s.negZeros + (if n = 0 && neg then 1 else 0), posZeros := s.posZeros + (if n = 0 && !neg then 1 else 0) }

/-- The sum rounded once (R274); the caller has dealt with NaN operands. -/
def Sum.res (rm : Nat) (s : Sum) : FRes :=
  if s.nan then .invalid
  else if s.posInf && s.negInf then .invalid
  else if s.posInf then .inf false
  else if s.negInf then .inf true
  else if s.v ≠ 0 then .val (exactOf s.v s.e)
  else if s.count = s.posZeros then .zero false
  else if s.count = s.negZeros then .zero true
  else .zero (rm = 3)

/-! ## Elements of an operand (R33, R39, R265) -/

/-- Elem(x, i, t). -/
def elemOf (t : EType) (x i : Nat) : Nat := x / 2 ^ (t.width * i) % 2 ^ t.width

/-- Ins(x, i, t, e). -/
def insElem (t : EType) (x i e : Nat) : Nat :=
  x - elemOf t x i * 2 ^ (t.width * i) + (e % 2 ^ t.width) * 2 ^ (t.width * i)

/-- An operand built from its elements. -/
def buildElems (t : EType) (f : Nat → Nat) : Nat → Nat
  | 0 => 0
  | n + 1 => buildElems t f n + (f n % 2 ^ t.width) * 2 ^ (t.width * n)

/-- An operation applied element by element. -/
def perElem (t : EType) (f : Nat → Nat → Nat → Nat) (x y c : Nat) : Nat :=
  buildElems t (fun i => f (elemOf t x i) (elemOf t y i) (elemOf t c i)) t.elems

end Sys2Proof.Machine
end

