-- ==== Sys2Proof/Machine/State.lean ====
section
/-! DEFINITION. Sys2Proof/Machine/State.lean: everything the spec gives the module, as plain data; the faults and refusals;
and the state after module reset. Each structure cites the rule that names its fields. -/

namespace Sys2Proof.Machine

/-! ## Gangs and warps -/

/-- One entry of a lane's operand latch with the number of instructions its gang has issued since the push (R20). -/
structure LatchEntry where
  val : Word
  age : Nat
deriving DecidableEq, Repr

/-- An entry of the reconvergence stack: rejoin address, lane mask, tag, held lanes (R141, R143, R165). -/
structure StackEntry where
  rejoin : DWord
  mask : Mask
  tag : Nat
  held : Mask := 0
deriving DecidableEq, Repr

/-- A destination that found no gang table entry (R169). -/
structure PendRecord where
  dest : DWord
  lanes : Mask
  mode : Word
  depth : Nat
deriving DecidableEq, Repr

/-- Why a gang is held at issue (R167). -/
inductive HoldCause where
  | register | counter | tlbMiss | tableFetch | spawnBin | queueFull | batch | scrub | flush | drain
  /-- A request to a Type 2 region that the processor owns, or to a granule that is being moved: its key (R368, R383). -/
  | host (key : Nat)
deriving DecidableEq, Repr

/-- Which barrier wait a gang is in, with what its wake writes or where it goes (R200). -/
inductive BarWait where
  | bwait (d : Reg) | bwaity (target : DWord) | bwaitt (d : Reg)
deriving DecidableEq, Repr

/-- A valid entry of a gate table (R283): target domain, argument registers, entry address, window. -/
structure GateEntry where
  target : BitVec 16
  nargs : Nat
  entry : DWord
  base : Nat
  bytes : Nat
deriving DecidableEq, Repr

/-- What a waiting gang waits for (R167). -/
inductive WaitCause where
  /-- BWAIT, BWAITY, BWAITT: core address of the object, phase, kind, remaining limit (R200). -/
  | barrier (obj : Nat) (phase : BitVec 16) (kind : BarWait) (left : Option Nat)
  /-- WSLEEP: destination and remaining limit (R203). -/
  | sleep (d : Reg) (left : Option Nat)
  /-- WAITC: it holds its gang at issue (R92). -/
  | counter
  /-- VGROW: blocks asked for and destination (R109, R154). -/
  | vgrow (n : Nat) (d : Reg)
  /-- WSYNC and its id (R144). -/
  | wsync (id : BitVec 16)
  /-- REL, ACQ or FENCE: which halves remain, the scope, and the number of the core's first later access or command (R205). -/
  | fence (rel acq : Bool) (scope mark : Nat)
  /-- GATE before its step 7: destination, checked entry, and the number of the core's first later access or command (R284). -/
  | gate (d : Reg) (e : GateEntry) (mark : Nat)
  /-- GRET before its restore (R286). -/
  | gret (mark : Nat)
  /-- A supervisor instruction waiting for its completion (R302). -/
  | supervisor
  /-- An access that matched a watch register and is not yet performed (R414). -/
  | watchpoint (n : Nat)
deriving DecidableEq, Repr

/-- The state of a gang (R167). Halted gangs carry the flags of `Gang`; an ended gang has no entry. -/
inductive GangStatus where
  | ready
  | stalled
  | held (c : HoldCause)
  | waiting (c : WaitCause)
  /-- Parked at MEET with the remaining park limit (R142). -/
  | parked (left : Nat)
deriving DecidableEq, Repr

/-- A line monitor armed by WATCH (R202, R204). -/
structure Monitor where
  line : Nat
  did : BitVec 16
  /-- A write reached the line after the read. -/
  hit : Bool := false
  /-- Dropped by its home, or disarmed by a context save. -/
  lost : Bool := false
deriving DecidableEq, Repr

/-- A recent producer for the stall check: register code and the stall cycles still missing (R18, R132). -/
structure Recent where
  code : Nat
  left : Nat
deriving DecidableEq, Repr

/-- A pending result of fixed latency in the scoreboard: register code, the lanes of the gang that writes it, cycles until it is readable
(R18, R132, R136). -/
structure Pend where
  code : Nat
  lanes : Mask
  left : Nat
deriving DecidableEq, Repr

/-- A trap: cause word, failing lanes, address, extra word, queue number and group words (R329, R330). -/
structure Trap where
  cause : Nat
  detail : Nat := 0
  n : BitVec 16 := 0
  lanes : Option Mask := none
  addr : DWord := 0
  extra : Word := 0
  queue : Nat := 0
  group : List Word := []
deriving DecidableEq, Repr

/-- What a gang holds (R165). -/
structure Gang where
  pc : DWord := 0
  mask : Mask := 0
  mode : Word := 0x27
  stack : List StackEntry := []
  pending : List PendRecord := []
  ageing : Nat := 0
  /-- The core's cycle in which its counter became 1,024 (R135). -/
  thresholdAt : Option Nat := none
  /-- Its own scoreboard, whatever lanes it holds now: fixed-latency results of its instructions that are not yet readable, and its accesses, by gang
  table entry and number (R132, R165). -/
  own : List Pend := []
  board : List (Nat × Nat) := []
  /-- Cycles of its stall count or yield that have not run out (R17, R59). -/
  stall : Nat := 0
  yielded : Bool := false
  status : GangStatus := .ready
  /-- Halted by a trap whose record stands or waits to be written (R331). -/
  trapped : Bool := false
  /-- Halted by mailbox op 1 (R413). -/
  dbgHalt : Bool := false
  /-- One instruction to issue under mailbox op 3 (R413). -/
  stepping : Bool := false
  /-- The latched high half of the cycle count (R30). -/
  clkHigh : Option Word := none
  monitor : Option Monitor := none
  /-- Its WATCH that has not returned, by access (R202). -/
  watching : Option Nat := none
  recent : List Recent := []
  /-- The core's cycle of its last issue (R127). -/
  lastIssue : Nat := 0
  /-- Lanes of a held SPAWN that have not entered a bin (R156). -/
  spawnLeft : Option Mask := none
  /-- It has issued from its bundle; a merge outside a MEET needs that it has not (R175). -/
  inBundle : Bool := false
  /-- The instruction and control word in which it waits, for a record written then (R330). -/
  insn : Word := 0
  ctl : Word := 0
deriving DecidableEq, Repr

/-- A warp's view of the scratchpad: where it begins, its size, the domain that owns it (R180, R285), and the core's groups that its addresses
run through in order, which a restore may have moved apart (R219, R339). -/
structure View where
  base : Nat := 0
  size : Nat := 0
  did : BitVec 16 := 0
  groups : List Nat := List.range 16
deriving DecidableEq, Repr

/-- A gate frame (R284 step 7). -/
structure GateFrame where
  nargs : Nat
  vregs : AMap Word
  vpoison : AMap Mask
  sregs : AMap Word
  spoison : AMap Mask
  preds : AMap Mask
  ppoison : AMap Mask
  mode : Word
  stack : List StackEntry
  ret : DWord
  dst : Reg
  caller : BitVec 16
  view : View
deriving DecidableEq, Repr

/-- A trap record that is not yet written (R331, R334): gang entry, trap, and the addresses its record names. -/
structure Deferred where
  entry : Nat
  trap : Trap
  pc : DWord
  resume : DWord
  insn : Word
  ctl : Word
  gmask : Mask
  mode : Word
  active : Mask
deriving DecidableEq, Repr

/-- A resident warp (R6, R27, R29, R101, R165). Registers that read zero are not listed. -/
structure Warp where
  /-- The order in which it became resident (R94). -/
  age : Nat := 0
  /-- Launching domain and domain in force (R102, R317). -/
  did : BitVec 16 := 0
  didNow : BitVec 16 := 0
  wid : Nat := 0
  blk : Option Nat := none
  blkx : Nat := 0
  blky : Nat := 0
  blkz : Nat := 0
  nwarp : Nat := 1
  arga : Word := 0
  argb : Word := 0
  tree : Option Nat := none
  meetLimit : Nat := 512
  blocks : Nat := 1
  /-- Vector registers, key 32 × register + lane (R27). -/
  vregs : AMap Word := []
  /-- Scalar registers (R28). -/
  sregs : AMap Word := []
  /-- Predicates p0 to p6 as lane masks (R25). -/
  preds : AMap Mask := []
  /-- Poison tags: mask of lanes, by register code (R90). -/
  vpoison : AMap Mask := []
  spoison : AMap Mask := []
  ppoison : AMap Mask := []
  /-- Operand latches by lane, newest first (R20). -/
  latch : AMap (List LatchEntry) := []
  /-- Fixed-latency results that are not yet readable (R18, R132). -/
  pend : List Pend := []
  /-- Lanes that have not exited (R29). -/
  wld : Mask := 0
  lc : Nat := 0
  sc : Nat := 0
  ec : Nat := 0
  /-- The gang table, entries 0 to 7 (R160). -/
  gangs : AMap Gang := []
  /-- Next reconvergence tag (R141). -/
  tag : Nat := 0
  /-- Matrix status bits (R261). -/
  mstat : BitVec 6 := 0
  frames : List GateFrame := []
  /-- Domains in which it has run through gates (R118). -/
  gated : List (BitVec 16) := []
  view : View := {}
  /-- The window of a loose warp (R114). -/
  baseView : View := {}
  /-- Lanes the warp was launched with, for a loose warp (R113, R116). -/
  loose : Option Nat := none
  /-- Pre-empted: halted by DPRE (R336). -/
  preempt : Bool := false
  halted : Bool := false
  /-- A disposition written while the domain was halted by DPRE (R336). -/
  lateDisp : Nat := 0
  /-- Traps that a later instruction boundary takes (R194). -/
  engineFaults : List Deferred := []
  /-- The slot's record is written and not yet disposed of; records that wait (R331). -/
  recordLive : Option Nat := none
  liveTrap : Option Deferred := none
  deferred : List Deferred := []
deriving DecidableEq, Repr

/-! ## Memory accesses in flight -/

/-- The operations performed at a home (R185, R353). -/
inductive AtomOp where
  | add | min | max | and | or | xor | xchg | cas
deriving DecidableEq, Repr

/-- What an access in flight is (R88, R180, R183, R188, R202). -/
inductive AccKind where
  | load | ldw | store | lds | watch
  /-- A prefetch into the L1 (R184). -/
  | pref
  | atomic (op : AtomOp)
  | red (op : AtomOp)
  /-- A reduction whose lanes stand in the combining buffer or have left it as merged operations (R190). -/
  | gathered
  /-- A combining-buffer entry on its way to its home (R190). -/
  | merged (op : AtomOp)
deriving DecidableEq, Repr

/-- Where the data of an access lands. -/
inductive Dest where
  | none
  /-- Vector register, registers each lane fills, sign extension of a narrow load (R86). -/
  | vec (r n : Nat) (signed : Bool)
  /-- Scalar register and how many (R91). -/
  | scal (r n : Nat)
deriving DecidableEq, Repr

/-- One lane's part of an access: physical key, bytes, data to store or data got. -/
structure LaneAcc where
  lane : Nat
  pa : Nat
  /-- The virtual address, for the replay of a load (R336). -/
  va : DWord := 0
  size : Nat
  val : BitVec 128 := 0
  expect : DWord := 0
  done : Bool := false
  /-- The 32-bit words of the value that are marked uncorrectable, as bits. -/
  poison : Nat := 0
  /-- The fabric tag of its request (R353). -/
  tag : Option Nat := none
  /-- Its request has left through its port (R352). -/
  sent : Bool := false
deriving DecidableEq, Repr

/-- One 128-byte line of an access (R217): its sectors, those that hit, whether its request was performed at the home, the home's
bytes, the own-core stores to apply to the fill (R216), the sectors that will fill the L1, the sectors that have landed. -/
structure LinePart where
  line : Nat
  sectors : List Nat := []
  hits : List Nat := []
  performed : Bool := false
  snap : List Host.Cell := []
  snapPoison : List Nat := []
  overlay : List Host.Cell := []
  fills : List Nat := []
  landed : List Nat := []
  /-- The fabric tag of its request (R353). -/
  tag : Option Nat := none
  /-- Its request has left through its port (R352). -/
  sent : Bool := false
deriving DecidableEq, Repr

/-- The value a combining-buffer entry holds (R190): an integer, or the exact float sum with its infinities, and the first NaN. -/
structure Combined where
  int : DWord := 0
  sum : Sum := {}
  nan : Option DWord := none
deriving DecidableEq, Repr

/-- An access in flight of a core, in the order of issue. -/
structure Access where
  id : Nat
  w : Nat := 0
  g : Nat := 0
  /-- Age of the warp that issued it: tells a later warp in the slot apart. -/
  warpAge : Nat := 0
  did : BitVec 16 := 0
  kind : AccKind
  dest : Dest := .none
  /-- The mode at issue (R186). -/
  mode : Word := 0
  lanes : List LaneAcc := []
  parts : List LinePart := []
  combined : Combined := {}
  /-- Access and lane of the reductions that a merged operation performs (R190). -/
  contributors : List (Nat × Nat) := []
  /-- The watch register that the access matched (R414). -/
  watch : Option Nat := none
  /-- The core's cycle count at its issue. -/
  born : DWord := 0
  /-- Abandoned by a pre-emption and kept for replay (R336). -/
  abandoned : Bool := false
  /-- A later store, atomic, CAS or reduction of its warp to overlapping bytes has issued (R336 step 2). -/
  overtaken : Bool := false
deriving DecidableEq, Repr

/-- An entry of the combining buffer, in order of creation (R190). -/
structure CombineEntry where
  pa : Nat
  width : Nat
  op : AtomOp
  etype : Nat
  rnd : Nat
  ftz : Bool
  did : BitVec 16
  val : Combined := {}
  contributors : List (Nat × Nat) := []
  /-- The core's cycle count at its creation. -/
  born : DWord := 0
deriving DecidableEq, Repr

/-- An L1 line, in a way of its set, with its valid sectors (R216). -/
structure L1Sector where
  sector : Nat
  bytes : List Host.Cell := []
  /-- Its 32-bit words that are marked uncorrectable. -/
  poison : List Nat := []
deriving DecidableEq, Repr

structure L1Line where
  line : Nat
  did : BitVec 16
  way : Nat
  used : Nat
  sectors : List L1Sector := []
deriving DecidableEq, Repr

/-- A TLB entry (R341 to R343): virtual base and size, frame, permissions; and, where a core holds a part of a page, the page's base and size. -/
structure TlbEntry where
  did : BitVec 16
  va : Nat
  size : Nat
  pa : Nat
  w : Bool
  x : Bool
  leafVa : Nat := 0
  leafSize : Nat := 0
deriving DecidableEq, Repr

/-- An answer of the translation service that refuses: the fault a miss takes at its next try (R87, R321, R341). -/
structure TlbRefusal where
  did : BitVec 16
  page : Nat
  cause : Nat
  detail : Nat
  /-- The translation, where only the frame's owner refuses it. -/
  leaf : Option TlbEntry := none
deriving DecidableEq, Repr

/-- A miss that waits or is walked (R343). -/
structure Miss where
  core : Nat
  did : BitVec 16
  page : Nat
  walking : Bool := false
deriving DecidableEq, Repr

/-! ## Engines -/

/-- What a command of an engine queue does. -/
inductive EngineOp where
  | cpy | cpyo
  | mldb | mmac (set : Nat) | mrd (set : Nat) (clr : Bool) | mzero (mask : Nat) | manch (mask : Nat) (anchor : Int) | epi
  | mfence | mtest | scrubMatrix
  | gath | pool | mcred | mcst | wbcast | dgst
  /-- A QFENCE marker and its number (R208). -/
  | marker (id : Nat)
deriving DecidableEq, Repr

/-- A member's registration in a group (R363). -/
structure Member where
  module : Nat
  etype : Nat
  op : Nat
  mask : DWord
  /-- Where the buffer begins in its first page, and the keys of its 4 KiB pages. -/
  buffer : Nat
  frames : List Nat := []
  length : Nat
  part : Nat := 0
  did : BitVec 16 := 0
  present : Bool := true
  meas : Digest := 0
deriving DecidableEq, Repr

/-- An address group (R294, R363 to R365). -/
structure Group where
  members : List Member := []
  formed : Bool := false
  changed : Bool := false
  generation : Nat := 0
  nodes : List Nat := []
  /-- Nodes of the set that have gone down since the group was formed. -/
  lost : List Nat := []
deriving DecidableEq, Repr

/-- A command in an engine queue (R193, R251, R290). -/
structure Command where
  id : Nat
  op : EngineOp
  core : Nat := 0
  w : Nat := 0
  warpAge : Nat := 0
  did : BitVec 16 := 0
  /-- The batch of an mq operation (R252). -/
  batch : Nat := 0
  /-- The segment of its batch (R253). -/
  seg : Nat := 0
  /-- The scalars read at issue (R251). -/
  group : List Word := []
  view : View := {}
  /-- The instruction that issued it, for a record (R194, R330). -/
  pc : DWord := 0
  insn : Word := 0
  ctl : Word := 0
  /-- The barrier object's core address when enabled. -/
  barrier : Option Nat := none
  started : Bool := false
  /-- It stands between chunk boundaries (R195, R336). -/
  busy : Bool := false
  /-- Chunks of its stream that have been translated (R193), or performed by a collective command (R290). -/
  chunked : Nat := 0
  /-- Pieces of the last chunk that have landed, by first byte of the stream. -/
  landed : List Nat := []
  /-- Physical keys of the last chunk's pieces. -/
  pages : AMap Nat := []
  /-- The number of the core's first access after the last chunk left (R229). -/
  mark : Nat := 0
  /-- Rows accepted by the pool engine (R372). -/
  rows : List Nat := []
  rowPoison : List Nat := []
  /-- Bytes of the rows accepted, by place in the list (R372). -/
  data : AMap (List Byte) := []
  /-- Result: status word, written before completion (R294). -/
  status : Option Nat := none
  error : Bool := false
  ran : Bool := false
  publish : List Nat := []
  /-- The group as it stood when the command started, without what it has lost since (R366). -/
  snap : Option Group := none
deriving DecidableEq, Repr

/-- An accumulator of the matrix engine (R249). -/
structure Acc where
  a : Int := 0
  anchor : Option Int := none
  below : Bool := false
  span : Bool := false
  nan : Bool := false
deriving DecidableEq, Repr

/-- The stationary B: format, nkb, and for each column its block exponents and mantissas (R249, R254). -/
structure Stationary where
  fmt : Nat
  nkb : Nat
  exps : List (List Nat)
  mants : List (List Int)
deriving DecidableEq, Repr

/-- An open batch (R252). -/
structure Batch where
  serial : Nat := 0
  w : Nat
  warpAge : Nat
  did : BitVec 16
  /-- Sub-arrays that computed an MMAC of the batch (R281). -/
  used : BitVec 8 := 0
  /-- An MTEST fenced a sub-array that had computed an MMAC of the batch (R281). -/
  flag : Bool := false
deriving DecidableEq, Repr

/-- The contents of the matrix engine, reset as R253 says: B, the accumulator sets by 16 × row + column, the epilogue, and their domain. -/
structure Contents where
  b : Option Stationary := none
  acc0 : AMap Acc := []
  acc1 : AMap Acc := []
  /-- Control word, scale, bias address, lo, hi (R256). -/
  epi : List Word := [0x0A00, 0, 0, 0, 0]
  /-- The scratchpad view through which the EPI's addresses are read. -/
  epiView : View := {}
  did : BitVec 16 := 0
deriving DecidableEq, Repr

/-- The matrix engine of a core (R249, R256, R279). A segment is a run of batches that begins with a reset of R253 and is named after its
first batch. -/
structure Matrix extends Contents where
  /-- The segment whose contents are in the engine, and contents of others that operations in mq or the next batch will find. -/
  seg : Nat := 0
  aside : AMap Contents := []
  /-- The batch open at issue, and batches of which an MMAC or an MTEST has run (R252, R281). -/
  batch : Option Batch := none
  runs : List Batch := []
  /-- At issue: batches numbered so far, the domain of the last one, nkb of its most recent MLDB, its epilogue control word (R254, R258). -/
  batches : Nat := 0
  issueDid : BitVec 16 := 0
  issuedNkb : Option Nat := none
  issuedEpi : Word := 0x0A00
  /-- The segment of the batch issued last. -/
  issueSeg : Nat := 0
  /-- Cycles in which no batch was open and mq was empty, since the last test (R279). -/
  idle : Nat := 0
  fenced : BitVec 8 := 0
  pointer : Nat := 0
deriving DecidableEq, Repr

/-! ## Cores -/

/-- A domain slot: its image w0 to w7 (R315) and its four board positions for scopes 2 to 5 (R235). -/
structure Slot where
  w0 : Word := 0
  w1 : Word := 0x40000
  w2 : Word := 0
  w3 : Word := 0
  w4 : Word := 0
  w5 : Word := 0
  w6 : Word := 0
  w7 : Word := 0
  pos : List Nat := [0, 0, 0, 0]
  /-- Granules of the reserve that are lent, by quadrant (R109). -/
  lent : List Nat := [0, 0, 0, 0]
  /-- Halted by DPRE (R336). -/
  halted : Bool := false
  /-- CTXS has saved it (R310). -/
  saved : Bool := false
deriving DecidableEq, Repr

/-- A spawn bin (R111, R112). -/
structure Bin where
  entry : DWord
  did : BitVec 16
  tree : Option Nat
  threads : List (Word × Word)
  /-- It launches a warp that waits for a place, and accepts no new threads (R114). -/
  closed : Bool := false
  timer : Nat := 0
  /-- The dispatcher's cycle from which it waits (R120). -/
  since : Nat := 0
deriving DecidableEq, Repr

/-- A resident block (R101, R117). -/
structure Block where
  grid : Nat := 0
  did : BitVec 16 := 0
  tree : Option Nat := none
  /-- Warps that have not retired. -/
  live : Nat := 1
  view : View := {}
deriving DecidableEq, Repr

/-- A supervisor instruction that waits for its completion step (R302). -/
inductive SvcOp where
  /-- CSRW, CSRS, CSRC: target core, CSR number, kind 0 write, 1 set, 2 clear, value, destination (R304). -/
  | csr (target num kind : Nat) (val : Word) (d : Reg)
  | wfi
  | sipi (target : Nat) (msg : Word)
  /-- DPRE: cores, domain, destination, warps to be halted (R307). -/
  | dpre (cores : List Nat) (did : BitVec 16) (n : Nat) (d : Reg)
  /-- HGMB: service, physical keys of the request and of its part in a second page, bytes in the first, destination (R308). -/
  | hgmb (num req next split : Nat) (d : Reg)
deriving DecidableEq, Repr

/-- The CSRs of a service or firmware core (R333). -/
structure SvcRegs where
  ie : Bool := false
  pie : Bool := false
  tvec : DWord := 0
  tepc : DWord := 0
  tcause : Word := 0
  tval : DWord := 0
  ipend : BitVec 3 := 0
  ienable : BitVec 3 := 0
  imsg : Word := 0
  /-- What TVAL takes for IPEND[1] and IPEND[2] (R333). -/
  trapAddr : DWord := 0
  errAddr : DWord := 0
  /-- Stopped by a fetch that failed at TVEC (R334). -/
  stopped : Bool := false
  op : Option SvcOp := none
deriving DecidableEq, Repr

/-- A watch register and what it latched from the mailbox (R412). -/
structure WatchReg where
  reg : Word := 0
  addr : DWord := 0
  did : BitVec 16 := 0
deriving DecidableEq, Repr

/-- A snapshot of a warp slot (R413, R415). -/
structure Snapshot where
  tag : Word
  clk : DWord
  wld : Mask
  lc : Nat
  sc : Nat
  ec : Nat
  gangs : AMap (DWord × Mask)
deriving DecidableEq, Repr

/-- The three profiles of a core (R37). -/
inductive Profile where
  | compute | service | firmware
deriving DecidableEq, Repr

/-- A core of any profile. Warp slot w = 16 × quadrant + slot (R324). -/
structure Core where
  warps : AMap Warp := []
  slots : AMap Slot := []
  /-- Scratchpad bytes by core byte address (R219), and words marked uncorrectable (R181). -/
  scratch : List Host.Cell := []
  scratchPoison : AMap Bool := []
  l1 : List L1Line := []
  l1Clock : Nat := 0
  tlb : List TlbEntry := []
  refusals : List TlbRefusal := []
  inflight : List Access := []
  nextId : Nat := 0
  combine : List CombineEntry := []
  cq0 : List Command := []
  cq1 : List Command := []
  mq : List Command := []
  matrix : Matrix := {}
  bins : AMap Bin := []
  /-- Restored bins that wait for a free number (R111, R338). -/
  binsBack : List Bin := []
  blocks : AMap Block := []
  /-- ISCTL (R126). -/
  isctl : Word := 0x08000000
  /-- Cycle count (R9, R29). -/
  clk : DWord := 0
  /-- Per quadrant: warp slot of the greedy hold and of the last issue (R96, R97, R127). -/
  greedy : AMap Nat := []
  lastWarp : AMap Nat := []
  /-- Cycles until a furrow is free, key 8 × quadrant + furrow (R130). -/
  furrows : AMap Nat := []
  /-- SWITCH table bundles that gangs of the core have asked for, by domain and address: cycles until they are here (R145, R161). -/
  tables : AMap Nat := []
  /-- Warps that have still to enter a quadrant, one in each cycle (R125). -/
  entering : AMap Nat := []
  residents : Nat := 0
  /-- Granules free, refilled reserve, per quadrant and slot are derived; units being scrubbed (R325). -/
  scrubbing : List PowerUnit := []
  tainted : List PowerUnit := []
  asleep : List PowerUnit := []
  svc : SvcRegs := {}
  watch : AMap WatchReg := []
  /-- DBGMB (R412). -/
  dbgmb : Word := 0
  /-- The mailbox command that a store to offset 0 has started (R413). -/
  mailbox : Option Word := none
  snaps : AMap Snapshot := []
  /-- Board positions of a service or firmware core (R235). -/
  pos : List Nat := [0, 0, 0, 0]
  /-- Writes performed on the core since the last publication, by domain and scope 2 to 5: line keys (R206, R234). -/
  written : List (BitVec 16 × List (List Nat)) := []
  /-- What acquires of a domain at other scopes have made visible on the core since its last publication at a scope from 2 to 5: domain,
  scope, signature (R237, R238). -/
  heard : List (BitVec 16 × Nat × BitVec 2048) := []
  /-- Held at reset: the core runs nothing (R9, R376). -/
  held : Bool := true
  /-- Blocks that have entered the core so far. -/
  blockSerial : Nat := 0
deriving DecidableEq, Repr

/-! ## The slice, the partition and the module -/

/-- A publication on a board (R233): identifier and signature. -/
structure Publication where
  did : BitVec 16
  sig : BitVec 2048
deriving DecidableEq, Repr

/-- A signature board: number of publications ever made, and those held, newest first. -/
structure Board where
  count : Nat := 0
  held : List Publication := []
deriving DecidableEq, Repr

/-- A firmware lane and its resident queue (R391, R416): the queue's table index, a fetched packet. -/
structure Lane where
  queue : Nat
  packet : Option (BitVec 512) := none
  /-- The index of the fetched packet. -/
  index : Nat := 0
deriving DecidableEq, Repr

/-- A compute-core trap notification (R309, R334). -/
structure Notice where
  core : Nat
  w : Nat
  record : DWord
deriving DecidableEq, Repr

/-- A slice (R3). -/
structure Slice where
  part : Option Nat := none
  board : Board := {}
  misses : List Miss := []
  service : List TlbEntry := []
  notices : List Notice := []
  pq : List Command := []
  fq : List Command := []
  lanes : AMap Lane := []
  /-- The lanes that the running lock-step step still has to serve, each with the cycle of the step in which the serving of its type ends, and the
  cycles since the step began (R416). -/
  serving : List (Nat × Nat) := []
  stepAge : Nat := 0
  /-- The firmware core's cycle in which its last quantum ended (R122). -/
  swapAt : Nat := 0
  /-- Cycles until the dispatcher may place a block on the slice (R124). -/
  cool : Nat := 0
  /-- Temperature and rails as sampled (R396). -/
  sensor : Option Sensor := none
  quota : Nat := 64
deriving DecidableEq, Repr

/-- A tree of work (R116, R222, R288). -/
structure Tree where
  part : Nat
  did : BitVec 16
  /-- Physical key of the counter and its virtual address. -/
  counter : Nat
  counterVa : DWord
  slice : Nat
  lane : Nat
  queue : Nat
  prio : Nat
  blocks : Nat
  meet : Nat
  /-- Current-generation bits bound at dispatch (R222). -/
  bound : List Nat := []
  /-- Cistern regions read (R222). -/
  read : List Nat := []
  dispatched : Bool := false
  /-- The signature of the lines that its retired units published, and of all that their domains had not published at scope 5 (R118, R388). -/
  wrote : BitVec 2048 := 0
  wroteSys : BitVec 2048 := 0
  /-- The seeding packet, for its completion (R388). -/
  packet : BitVec 512 := 0
  done : Bool := false
deriving DecidableEq, Repr

/-- A launch descriptor's contents (R389). -/
structure Desc where
  entry : DWord
  vblocks : Nat
  nwarp : Nat
  bars : Nat
  allot : Nat
  meet : Nat
  gates : Nat := 0
deriving DecidableEq, Repr

/-- A grid that waits for the placement of its blocks (R104, R123). -/
structure Grid where
  id : Nat
  tree : Option Nat
  did : BitVec 16
  desc : Desc
  gx : Nat := 1
  gy : Nat := 1
  gz : Nat := 1
  arga : Word := 0
  argb : Word := 0
  /-- Blocks dispatched so far. -/
  next : Nat := 0
  prio : Nat := 0
  /-- The slice tried first (R124). -/
  slice : Nat := 0
  seed : Bool := false
  /-- The dispatcher's cycle in which it arrived, and its rank among requests that arrive together (R121). -/
  came : Nat := 0
  rank : Nat := 0
deriving DecidableEq, Repr

/-- A launch request of a firmware lane that has not reached the dispatcher (R121). -/
structure Launch where
  slice : Nat
  lane : Nat
  grid : Grid
  /-- The dispatcher's cycle in which it reaches it (R121, R416). -/
  due : Nat := 0
deriving DecidableEq, Repr

/-- What the firmware knows of a queue besides its descriptor (R385, R391). -/
structure QueueInfo where
  /-- Blocked at WAITSIG: signal key and operand (R387). -/
  blocked : Option (Nat × DWord) := none
  lastResident : Nat := 0
  slice : Nat := 0
  /-- Trees and cistern copies of earlier packets not yet complete (R386). -/
  open_ : List Nat := []
deriving DecidableEq, Repr

/-- A journal entry (R394): identifier, status word, result word. -/
structure JEntry where
  id : DWord
  status : Nat
  result : Word
deriving DecidableEq, Repr

/-- A resize in progress (R381 to R383): target slices, and the first granule of the group being moved. -/
structure Resize where
  target : List Nat
  old : List Nat
  /-- The slices at the end of the whole request. -/
  goal : List Nat
  moving : Nat := 0
  total : Nat := 0
deriving DecidableEq, Repr

/-- A partition (R376). -/
structure Partition where
  slices : List Nat := []
  /-- HBM slices in the interleave in force below and above the moved granule (R383). -/
  resize : Option Resize := none
  root : Nat := 0
  queueTable : DWord := 0
  queueCount : Nat := 0
  index : DWord := 0
  indexCount : Nat := 0
  quantum : Nat := 1100000
  journalVa : DWord := 0
  journalSize : Nat := 0
  /-- Entries ever written to the ring, and the service generation in which the journal was named (R380, R394). -/
  journalNext : Nat := 0
  journalGen : Option (BitVec 16) := none
  journal : List JEntry := []
  /-- Highest discarded sequence number, by generation (R394). -/
  discarded : AMap Nat := []
  generation : BitVec 16 := 0
  queues : AMap QueueInfo := []
  /-- Settings of service 0x0001 that take effect at the next quantum end of every slice, and the slices for which they have (R380). -/
  setup : Option (List Word) := none
  adopted : List Nat := []
  /-- Pairs whose current-generation bit is 1 (R222). -/
  current : List Nat := []
  board : Board := {}
  podBoard : Board := {}
  systemBoard : Board := {}
  launches : List Launch := []
  /-- Cycles of the dispatcher (R121). -/
  clk : Nat := 0
  grids : List Grid := []
  nextGrid : Nat := 0
  /-- Measurement registers 8 to 15 (R404). -/
  measures : AMap Digest := []
  ownerKeys : List (List Byte) := []
  /-- Digests of accepted manifests (R373). -/
  manifests : List Digest := []
  /-- The trigger net has fired and is not re-armed (R415). -/
  fired : Bool := false
  /-- Boot attempts left and whether the loader runs (R379). -/
  bootTries : Nat := 0
  booted : Bool := false
  /-- CXL Type 2 regions owned by the processor (R368). -/
  hostOwned : List Nat := []
  /-- The dispatcher's cycle of each Type 2 region's last transfer (R368). -/
  moved : AMap Nat := []
  /-- Measurement of each protected domain (R401), and domains whose slot has ever been valid (R400). -/
  domMeasures : AMap Digest := []
  domSeen : List Nat := []
  /-- Bytes of its CXL window (R367). -/
  cxlBytes : Nat := 0
deriving DecidableEq, Repr

/-- A page ownership table entry (R320). -/
structure PotEntry where
  world : Bool := false
  owner : BitVec 16 := 0xFFFF
  /-- The partition that set a pod frame (R322). -/
  setter : Option Nat := none
deriving DecidableEq, Repr

/-- A tensor table entry (R369, R371). -/
structure Tensor where
  slot : Nat
  owner : BitVec 16
  base : Nat
  length : Nat
  mac : Nat
  version : Nat := 0
  open_ : Bool := false
  /-- Lines of the open version that a store has named, and those of which bytes have been written (R371). -/
  lines : List Nat := []
  done : List Nat := []
deriving DecidableEq, Repr

/-- A key slot (R408). -/
structure KeySlot where
  key : BitVec 256 := 0
  part : Nat := 0
  did : BitVec 16 := 0
  session : Nat := 0
  bound : Bool := false
deriving DecidableEq, Repr

/-- A fabric port: the two stream ends on the module's side (R354 to R356). -/
structure Port where
  up : Bool := false
  /-- Frames accepted and frames sent since the port came up. -/
  rxSeq : Nat := 0
  txSeq : Nat := 0
  /-- Frames sent and not acknowledged, oldest first. -/
  unacked : List Frame := []
  /-- Consecutive replays of the frame that is expected. -/
  replays : Nat := 0
  /-- A frame was dropped and its replay is awaited. -/
  dropped : Bool := false
  /-- Key phase and key slots of the receiving end and of the sending end: the number of the key that each slot holds. -/
  rxPhase : Bool := false
  rxActive : Nat := 0
  rxPending : Option Nat := none
  txPhase : Bool := false
  txActive : Nat := 0
  txPending : Option Nat := none
  /-- Keys that the headgate has installed on the port, and the session with its node in which they are derived (R406). -/
  keys : Nat := 0
  session : Nat := 0
  /-- Frames sent and frames received under the active keys. -/
  frames : Nat := 0
  rxFrames : Nat := 0
  /-- Consecutive replays of the oldest frame sent that is not acknowledged. -/
  txReplays : Nat := 0
  /-- A rotation that was asked for waits until the port can rotate (R356). -/
  rotateDue : Bool := false
  /-- Packets accepted and not yet acted on, oldest first. -/
  inbox : List Packet := []
deriving DecidableEq, Repr

/-- An exported peer window (R359). -/
structure Window where
  node : Nat
  win : Nat
  part : Nat
  base : Nat
  length : Nat
  r : Bool
  w : Bool
  importers : DWord
deriving DecidableEq, Repr

/-- A cistern write that waits or runs (R222). -/
structure CisternWrite where
  part : Nat
  /-- The domain whose write it is (R233). -/
  did : BitVec 16 := 0
  offset : Nat
  bytes : List Byte := []
  /-- Lines of the bytes that are marked uncorrectable. -/
  bad : List Nat := []
  /-- Keys of the 4 KiB pages that are read as the write starts, for a copy whose bytes are not here yet. -/
  pages : List Nat := []
  /-- Lines of the range that are not written (R299). -/
  skip : List Nat := []
  /-- The packet to complete, or the service core waiting in HGMB, or an engine command. -/
  packet : Option (Nat × BitVec 16 × BitVec 512) := none
  core : Option Nat := none
  queue : Option Nat := none
  command : Option Nat := none
deriving DecidableEq, Repr

/-- A recorded digest of a cistern range (R299, R375). -/
structure CisternRange where
  offset : Nat
  pages : Nat
  digest : Digest
deriving DecidableEq, Repr

/-- A saved context (R338): what CTXS packed for the domain. -/
structure Saved where
  serial : Nat
  /-- The core that saved it. -/
  core : Nat
  part : Nat
  area : Nat
  did : BitVec 16
  world : Bool
  rcount : Nat
  groups : Nat
  warps : AMap Warp := []
  blocks : AMap Block := []
  inflight : List Access := []
  scratch : List Host.Cell := []
  scratchPoison : AMap Bool := []
  bins : AMap Bin := []
  cq0 : List Command := []
  cq1 : List Command := []
  mq : List Command := []
  pq : List Command := []
  fq : List Command := []
  matrix : Option Matrix := none
  groupList : List Nat := []
  exporting : Bool := false
  /-- What its domains on the core had still to publish: domain, scope, signature (R118, R237, R239). -/
  heard : List (BitVec 16 × Nat × BitVec 2048) := []
deriving DecidableEq, Repr

/-- A batch restored and not yet reopened (R311). -/
structure Reopen where
  core : Nat
  matrix : Matrix
  mq : List Command
deriving DecidableEq, Repr

/-- A migration export in progress (R409). -/
structure Export where
  part : Nat
  did : BitVec 16
  area : Nat
  nonce : Digest
  /-- The destination's identifier (R403). -/
  dest : Digest := 0
deriving DecidableEq, Repr

/-- An SPDM endpoint's session state (R405). -/
structure Spdm where
  version : Bool := false
  capabilities : Bool := false
  algorithms : Bool := false
  session : Option Nat := none
  finished : Bool := false
  /-- The requester has authenticated itself too. -/
  bothSides : Bool := false
  /-- The last response: its message code and its body. -/
  code : Nat := 0
  body : List Byte := []
deriving DecidableEq, Repr

/-- An entry of the event log (R398): the event (0 formation, 1 resize, 2 partition reset, 3 boot failure, 4 service-core stop, 5 firmware
service restart, 6 port retrain, 7 thermal, 8 power, 9 firmware update), the partition, the slice. -/
structure LogEntry where
  event : Nat
  part : Nat
  slice : Nat
deriving DecidableEq, Repr

/-- Where the instruction being executed stands: core, warp slot, gang table entry. -/
structure Cursor where
  core : Nat := 0
  w : Nat := 0
  g : Nat := 0
deriving DecidableEq, Repr

/-- The module. Absent cores, slices and so on are in their reset state. -/
structure State where
  /-- The model's own: where the next instruction executes, its word and its bundle's control word. -/
  cur : Cursor := {}
  insn : Word := 0
  ctl : Word := 0
  /-- The model's own: steps that the surroundings or the schedule put next, oldest first. -/
  agenda : List Instr := []
  /-- The model's own: whose turn it is, as 2 × (4 × core + quadrant), and 1 more while the turn is one for events. -/
  turn : Nat := 0
  /-- The model's own: the gangs that the issue slot has still to issue in the present cycle (R127). -/
  pair : List Cursor := []
  /-- The model's own: counts the steps that the schedule has taken by itself. -/
  next : Nat := 0
  /-- The model's own: counts uses of free values. -/
  free : Nat := 0
  /-- Compute cores 0 to 511, service cores 512 + 4 × slice + n, firmware cores 640 + slice (R3). -/
  cores : AMap Core := []
  slices : AMap Slice := []
  parts : AMap Partition := []
  /-- Memory by physical key (R213): every byte of HBM, cistern, reservoir nodes and CXL tier that is not zero. -/
  mem : List Host.Cell := []
  /-- 32-bit words of memory marked uncorrectable (R90), by physical key div 4. -/
  memPoison : AMap Bool := []
  /-- Dispositions that have been stored, oldest first: core, warp slot, value (R309, R331). -/
  disposals : List (Nat × Nat × Nat) := []
  /-- Page ownership by physical key div 65,536 (R320). -/
  pot : AMap PotEntry := []
  trees : AMap Tree := []
  nextTree : Nat := 0
  groups : AMap Group := []
  tensors : AMap Tensor := []
  keySlots : AMap KeySlot := []
  ports : AMap Port := []
  /-- CXL ports, 2 × die + j, with the partition to which the headgate has assigned each one (R3, R367, R376). -/
  cxlPorts : AMap Nat := []
  windows : List Window := []
  /-- Pairs of cistern regions that are paired (R224). -/
  paired : List Nat := []
  unverified : AMap Bool := []
  quarantined : AMap Bool := []
  ranges : List CisternRange := []
  cisternWrites : List CisternWrite := []
  /-- Per die: cycles of the refresh sequencer, beyond a phase that is not known (R225). -/
  refresh : AMap Nat := []
  saved : List Saved := []
  reopen : List Reopen := []
  nextSerial : Nat := 1
  liveSerials : List Nat := []
  exports : List Export := []
  importNonces : List Digest := []
  /-- Lifecycle (R402): 0 blank, 1 production, 2 debug-open, 3 returned. -/
  lifecycle : Nat := 1
  /-- The lifecycle that the fuses hold (R402). -/
  fuses : Nat := 1
  /-- Measurement registers 0 to 7 (R404). -/
  measures : AMap Digest := []
  challenge : Option Digest := none
  /-- Steps 4 to 7 of R411: the service core that waits, and the digest of the accepted token, if there was one. -/
  unlock : Option (Nat × Option Digest) := none
  debugOpen : Bool := false
  /-- What the debug port has been notified of, oldest first: core, warp slot, gang (R415). -/
  debugNotices : List (Nat × Nat × Nat) := []
  /-- Lines of tensors that an unlock has undefined, as first line and count: they read as uncorrectable until they are written (R408). -/
  lost : List (Nat × Nat) := []
  /-- The fused rollback counter and the staged image (R399, R407). -/
  rollback : Nat := 0
  staged : Option FirmwareImage := none
  firmware : Option FirmwareImage := none
  /-- Power limit in watts (R397). -/
  powerLimit : Nat := 11000
  quota : Nat := 64
  log : List LogEntry := []
  spdm : AMap Spdm := []
  /-- The next fabric tag (R353). -/
  nextTag : Nat := 0
  /-- The number of this module in its pod (R353). -/
  moduleId : Nat := 0
deriving DecidableEq, Repr

/-- Why the machine stops. -/
inductive Fault where
  /-- Raised by every instruction meaning when the cursor names no live gang: no instruction can stand there. Safe: no step
  reaches it, because the issue choice takes live gangs only. -/
  | noGang
deriving DecidableEq, Repr

/-- Why an instruction has no meaning. -/
inductive Refusal where
  /-- An arm of the dispatch that is not written. Safe: a claim about it cannot be proved. -/
  | notModelled (mnemonic : String)
deriving DecidableEq, Repr

/-- The module right after reset: no partition is formed, every core is held at reset, every memory byte reads zero, every
register holds the value its rule gives. -/
def State.reset : State := {}

end Sys2Proof.Machine
end

