-- ==== Sys2Proof/Machine/Ops.lean ====
section
/-! DEFINITION. Sys2Proof/Machine/Ops.lean: the named operations over cores, warps, gangs, registers and memory that every meaning
calls; taking a trap (R329 to R331, R334) and returning from one (R305, R309). -/

namespace Sys2Proof.Machine

/-! ## Cores, slices, partitions (R3) -/

def isCompute (k : Nat) : Bool := k < 512
def isService (k : Nat) : Bool := 512 ≤ k && k < 640
def isFirmware (k : Nat) : Bool := 640 ≤ k

/-- The slice of a core. -/
def coreSlice (k : Nat) : Nat := if k < 512 then k / 16 else if k < 640 then (k - 512) / 4 else (k - 640) % 32

/-- The CXL ports that the headgate has assigned to a partition (R367, R376). -/
def cxlPortsOf (s : State) (p : Nat) : List Nat := (s.cxlPorts.filter fun e => decide (e.2 = p)).map Prod.fst

/-- The ways in which a partition's CXL window interleaves over its ports: 1, 2, 4, 8 or 16 (R367). -/
def cxlWays (s : State) (p : Nat) : Nat := 2 ^ Nat.log2 (min 16 (cxlPortsOf s p).length)

/-- The CXL port that serves a byte of a partition's CXL window, in 4 KiB granules (R367); none where the partition has no port. -/
def cxlPortAt (s : State) (p off : Nat) : Option Nat := (cxlPortsOf s p)[off / 4096 % cxlWays s p]?

/-- The Ethernet port of a slice has the slice's number; a partition's ports are those of its slices (R3, R376). -/
def ethernetPorts (s : State) (p : Nat) : List Nat := match AMap.get? s.parts p with | some pt => pt.slices | none => []

/-- The die of a slice (R2). -/
def sliceDie (n : Nat) : Nat := 4 * (n / 16) + (n % 8) / 2

def coreAt (s : State) (k : Nat) : Core := AMap.getD s.cores k {}
def State.setCore (s : State) (k : Nat) (c : Core) : State := { s with cores := AMap.put s.cores k c }
def State.modCore (s : State) (k : Nat) (f : Core → Core) : State := s.setCore k (f (coreAt s k))
def sliceAt (s : State) (n : Nat) : Slice := AMap.getD s.slices n {}
def State.modSlice (s : State) (n : Nat) (f : Slice → Slice) : State := { s with slices := AMap.put s.slices n (f (sliceAt s n)) }
def partAt (s : State) (p : Nat) : Partition := AMap.getD s.parts p {}
def State.modPart (s : State) (p : Nat) (f : Partition → Partition) : State := { s with parts := AMap.put s.parts p (f (partAt s p)) }

/-- The partition of a core; cores in no partition are held at reset. -/
def corePart (s : State) (k : Nat) : Nat := ((sliceAt s (coreSlice k)).part).getD 0

def warpAt (s : State) (k w : Nat) : Option Warp := AMap.get? (coreAt s k).warps w
def gangAt (s : State) (k w g : Nat) : Option Gang := (warpAt s k w).bind fun wp => AMap.get? wp.gangs g
def State.modWarp (s : State) (k w : Nat) (f : Warp → Warp) : State :=
  s.modCore k fun c => { c with warps := AMap.modify c.warps w f }
def State.modGang (s : State) (k w g : Nat) (f : Gang → Gang) : State :=
  s.modWarp k w fun wp => { wp with gangs := AMap.modify wp.gangs g f }

/-- The valid slot of a domain on a core (R315). -/
def slotOf (c : Core) (did : BitVec 16) : Option (Nat × Slot) :=
  c.slots.find? fun (_, sl) => sl.w0.getLsbD 31 && decide (bitsW sl.w0 15 0 = did.toNat)

/-- The world of a domain on a core: 1 protected; the kernel's is 0 (R317). -/
def worldOf (c : Core) (did : BitVec 16) : Bool :=
  match slotOf c did with
  | some (_, sl) => sl.w0.getLsbD 16
  | none => false

/-- State of a domain has been written into units of a core: those of a protected domain are tainted (R327). -/
def Core.taint (c : Core) (did : BitVec 16) (us : List PowerUnit) : Core :=
  if worldOf c did then { c with tainted := c.tainted ++ us.filter fun u => !c.tainted.contains u } else c

/-! ## The instruction's place -/

/-- The gang that executes, with the state around it. -/
structure Ctx where
  s : State
  k : Nat
  c : Core
  w : Nat
  wp : Warp
  g : Nat
  gn : Gang
deriving DecidableEq, Repr

/-- The gang that the cursor names, if it lives. -/
def ctxOf (s : State) : Option Ctx :=
  match AMap.get? (coreAt s s.cur.core).warps s.cur.w with
  | none => none
  | some wp =>
    match AMap.get? wp.gangs s.cur.g with
    | none => none
    | some gn => some { s := s, k := s.cur.core, c := coreAt s s.cur.core, w := s.cur.w, wp := wp, g := s.cur.g, gn := gn }

/-- The state with the executing warp replaced. -/
def Ctx.setWarp (x : Ctx) (wp : Warp) : State := x.s.modWarp x.k x.w fun _ => wp
/-- The state with the executing gang changed. -/
def Ctx.modGang (x : Ctx) (f : Gang → Gang) : State := x.s.modGang x.k x.w x.g f

def Ctx.part (x : Ctx) : Nat := corePart x.s x.k
def Ctx.did (x : Ctx) : BitVec 16 := x.wp.didNow
def Ctx.world (x : Ctx) : Bool := worldOf x.c x.wp.didNow

/-! ## Addresses of slots (R15) -/

/-- The bundle that holds a slot. -/
def bundleOf (pc : DWord) : DWord := pc &&& ~~~15#64
/-- Slot number of a program counter, 0 to 2; word 0 is the control word. -/
def slotNo (pc : DWord) : Nat := (pc.toNat / 4 % 4) - 1
/-- The slot after a slot. -/
def nextSlot (pc : DWord) : DWord := if pc.toNat / 4 % 4 = 3 then bundleOf pc + 20 else pc + 4
/-- Slot 0 of the bundle an offset away (R24). -/
def relTarget (pc : DWord) (off : Int) : DWord := bundleOf pc + BitVec.ofInt 64 (16 * off) + 4
/-- A target's bundle address as its slot 0. -/
def slot0 (bundle : DWord) : DWord := bundle + 4

/-! ## The mode register (R32 to R35) -/

/-- The firmware core reads lstep as 1 (R35). -/
def Ctx.mode (x : Ctx) : Word := if isFirmware x.k then x.gn.mode ||| 0x20000 else x.gn.mode

def modeGp (m : Word) : Nat := bitsW m 2 0
def modeGinv (m : Word) : Bool := m.getLsbD 3
def modeEtype (m : Word) : EType := (etypeOf (bitsW m 8 4)).getD .i32
def modeRnd (m : Word) : Nat := bitsW m 11 9
def modeSat (m : Word) : Bool := m.getLsbD 12
def modeFtz (m : Word) : Bool := m.getLsbD 13
def modeEdge (m : Word) : Nat := bitsW m 15 14
def modeSchk (m : Word) : Bool := m.getLsbD 16
def modeLstep (m : Word) : Bool := m.getLsbD 17
def modeF (m : Word) : FMode := { rm := modeRnd m, sat := modeSat m, ftz := modeFtz m }

/-- A value that the mode register accepts (R32 to R34). -/
def modeOk (m : Word) : Bool := decide (m.toNat < 2 ^ 18) && (etypeOf (bitsW m 8 4)).isSome && decide (modeRnd m ≤ 4)

def Ctx.t (x : Ctx) : EType := modeEtype x.mode
def Ctx.fm (x : Ctx) : FMode := modeF x.mode
def Ctx.is64 (x : Ctx) : Bool := x.t.is64

/-! ## Predicates and active lanes (R25, R35) -/

def allLanes : Mask := 0xFFFFFFFF

/-- The lanes of a mask that pass. -/
def laneWhere (m : Mask) (p : Nat → Bool) : Mask := maskOf fun l => m.getLsbD l && p l

/-- The mask of a predicate; p7 reads 1 in every lane. -/
def predMask (wp : Warp) (n : Nat) : Mask := if n = 7 then allLanes else AMap.getD wp.preds n 0

/-- Write a predicate's mask; writes to p7 are ignored. -/
def Warp.setPred (wp : Warp) (n : Nat) (m : Mask) : Warp := if n = 7 then wp else { wp with preds := AMap.putD wp.preds n m 0 }

/-- The lanes whose guard holds, whatever the lane mask. -/
def guardMask (wp : Warp) (mode : Word) : Mask := if modeGinv mode then ~~~(predMask wp (modeGp mode)) else predMask wp (modeGp mode)

/-- Active(l) as a mask (R35). -/
def Ctx.active (x : Ctx) : Mask := x.gn.mask &&& guardMask x.wp x.mode

/-! ## Special registers and constants (R29, R31) -/

/-- The furrows of a lane mask. -/
def furrowsOf (m : Mask) : Nat :=
  (List.range 8).foldl (fun acc f => if (List.range 4).any (fun j => m.getLsbD (4 * f + j)) then acc + 2 ^ f else acc) 0

/-- fmask (R29): furrows used, and those of them shared with another gang of the warp. -/
def fmaskOf (wp : Warp) (g : Nat) : Nat :=
  match AMap.get? wp.gangs g with
  | none => 0
  | some gn =>
    let f := furrowsOf gn.mask
    let others := wp.gangs.foldl (fun acc (i, h) => if i = g then acc else acc ||| furrowsOf h.mask) 0
    f + 256 * (f &&& others)

/-- The count of a die's refresh sequencer within its 16 windows of 1,536 cycles (R225). -/
def refreshCount (s : State) (die : Nat) : Nat := (AMap.getD s.refresh die 0 + Config.refreshPhase die) % 24576

/-- The array whose refresh window is open on a die, for 96 cycles of each 1,536 (R225). -/
def refreshOpen (s : State) (die : Nat) : Option Nat := if refreshCount s die % 1536 < 96 then some (refreshCount s die / 1536) else none

/-- cref (R29, R225) of the core's die: the array of the window that is open or comes next, and the cycles until it begins. -/
def crefOf (s : State) (k : Nat) : Word :=
  let die := sliceDie (coreSlice k)
  match refreshOpen s die with
  | some n => w32 (n + 16)
  | none => w32 ((refreshCount s die / 1536 + 1) % 16 + 65536 * (1536 - refreshCount s die % 1536))

/-- A special register in a lane, counted from 0xC8 (R29). In a warp of no tree, tree reads 0 (DESIGN CHOICE, log entry 30: the spec gives
that zero for TREEQ only). -/
def specialReg (x : Ctx) (l : Nat) : Nat → Word
  | 0 => w32 l
  | 1 => w32 (l / 4)
  | 2 => w32 x.wp.wid
  | 3 => w32 (popCount x.gn.mask)
  | 4 => x.gn.mask
  | 5 => w32 (fmaskOf x.wp x.g)
  | 6 => w32 x.wp.blkx
  | 7 => w32 x.wp.blky
  | 8 => w32 x.wp.blkz
  | 9 => w32 x.wp.nwarp
  | 10 => w32 (if isCompute x.k then x.k else Config.serviceCid x.k)
  | 11 => w32 (x.w / 16)
  | 12 => w32 (coreSlice x.k)
  | 13 => w32 (x.did.toNat + (if x.world then 65536 else 0))
  | 14 => x.wp.wld
  | 15 => loW x.c.clk
  | 16 => x.gn.clkHigh.getD (hiW x.c.clk)
  | 17 => w32 x.wp.lc
  | 18 => w32 x.wp.sc
  | 19 => w32 x.wp.ec
  | 20 => crefOf x.s x.k
  | 21 => w32 (x.wp.tree.getD 0)
  | 22 => x.wp.arga
  | _ => x.wp.argb

/-- A constant (R31). -/
def constReg : Nat → Word
  | 0 => 0 | 1 => 1 | 2 => 2 | 3 => 4 | 4 => 8 | 5 => 16 | 6 => 32 | 7 => 0xFFFFFFFF
  | 8 => 0x3F800000 | 9 => 0xBF800000 | 10 => 0x3F000000 | 11 => 0x40000000
  | 12 => 0x7F800000 | 13 => 0xFF800000 | 14 => 0x7FC00000 | _ => 0x80000000

/-! ## Registers (R25 to R28, R48) -/

def Warp.vreg (wp : Warp) (n l : Nat) : Word := AMap.getD wp.vregs (32 * n + l) 0
def Warp.sreg (wp : Warp) (n : Nat) : Word := AMap.getD wp.sregs n 0

/-- The 32-bit value of a register field in a lane. -/
def Ctx.rd (x : Ctx) (l : Nat) : Reg → Word
  | .v n => x.wp.vreg n l
  | .s n => x.wp.sreg n
  | .p n => if (predMask x.wp n).getLsbD l then 1 else 0
  | .x n => specialReg x l n
  | .k n => constReg n
  | .rsv _ => 0
  | .z => 0

/-- The 64-bit value of a register field in a lane (R48). -/
def Ctx.rd64 (x : Ctx) (l : Nat) : Reg → DWord
  | .v n => pairW (x.wp.vreg n l) (x.wp.vreg (n + 1) l)
  | .s n => pairW (x.wp.sreg n) (x.wp.sreg (n + 1))
  | .k n => if n.val < 8 then (constReg n).signExtend 64 else (constReg n).setWidth 64
  | r => (x.rd l r).setWidth 64

/-- Write one vector register of one lane; a write clears the poison tag (R90). -/
def Warp.setV (wp : Warp) (n l : Nat) (v : Word) : Warp :=
  { wp with vregs := AMap.putD wp.vregs (32 * n + l) v 0,
            vpoison := AMap.putD wp.vpoison n (AMap.getD wp.vpoison n 0 &&& ~~~(bitMask l)) 0 }

/-- Write one scalar register. -/
def Warp.setS (wp : Warp) (n : Nat) (v : Word) : Warp :=
  { wp with sregs := AMap.putD wp.sregs n v 0, spoison := AMap.del wp.spoison n }

/-- Write n registers from a field on, least significant first, in a lane. -/
def Warp.dstN (wp : Warp) (l : Nat) (r : Reg) : Nat → Nat → Warp
  | 0, _ => wp
  | n + 1, x =>
    let wp := Warp.dstN wp l r n x
    match r with
    | .v i => wp.setV (i + n) l (w32 (x / 2 ^ (32 * n)))
    | .s i => wp.setS (i + n) (w32 (x / 2 ^ (32 * n)))
    | _ => wp

/-- Dst(f, l, x) in every lane of a mask: n registers each (R39). A predicate takes 1 where the value is not zero (R61). -/
def Warp.dst (wp : Warp) (lanes : Mask) (r : Reg) (n : Nat) (f : Nat → Nat) : Warp :=
  match r with
  | .p i => wp.setPred i (maskOf fun l => if lanes.getLsbD l then decide (f l ≠ 0) else (predMask wp i).getLsbD l)
  | _ => (lanesOf lanes).foldl (fun wp l => wp.dstN l r n (f l)) wp

/-- One write of a scalar field: n registers (R84). -/
def Warp.dstS (wp : Warp) (r : Reg) (n : Nat) (x : Nat) : Warp := wp.dstN 0 r n x

/-! ## Memory by physical key (R213) -/

/-- The key of a physical address: HBM and CXL addresses are the partition's own, cistern and pod addresses the module's. -/
def physKey (part : Nat) (pa : Nat) : Nat :=
  if pa / 2 ^ 48 % 16 = 0 ∨ pa / 2 ^ 48 % 16 = 3 then part * 2 ^ 52 + pa else pa

def paOf (key : Nat) : Nat := key % 2 ^ 52
def paKind (key : Nat) : Nat := key / 2 ^ 48 % 16

/-- One byte of memory. -/
def memByte (s : State) (key : Nat) : Byte := cellRead s.mem key
/-- n bytes as a little-endian number. -/
def memNat (s : State) (key n : Nat) : Nat := cellsNat s.mem key n
def memWord (s : State) (key : Nat) : Word := w32 (memNat s key 4)

/-- The 32-bit words that a byte range touches. -/
def wordsOf (a n : Nat) : List Nat := if n = 0 then [] else (List.range ((a + n - 1) / 4 - a / 4 + 1)).map (a / 4 + ·)

/-- Whether a range holds a word marked uncorrectable. -/
def memPoisoned (s : State) (key n : Nat) : Bool := (wordsOf key n).any fun k => AMap.getD s.memPoison k false

/-- Store bytes; a word that is written whole is no longer marked uncorrectable. -/
def memPut (s : State) (key : Nat) (bs : List Byte) : State :=
  { s with mem := cellsWrite s.mem key bs,
           memPoison := s.memPoison.filter fun (k, _) => !(key ≤ 4 * k && 4 * k + 4 ≤ key + bs.length) }

def memPutNat (s : State) (key n v : Nat) : State := memPut s key (natLe n v)

/-- Mark the words of a range uncorrectable. -/
def memMark (s : State) (key n : Nat) : State :=
  { s with memPoison := (wordsOf key n).foldl (fun m k => AMap.put m k true) s.memPoison }

/-- Zero a range. -/
def memZero (s : State) (key n : Nat) : State :=
  { s with mem := cellsClear s.mem key n, memPoison := s.memPoison.filter fun (k, _) => !(key ≤ 4 * k && 4 * k < key + n) }

/-- The line of a key (R217). -/
def lineOf (key : Nat) : Nat := key / 128

/-! ## Signature boards (R233 to R236) -/

/-- The two bits that a line sets (R234). -/
def sigBits (key : Nat) : Nat × Nat :=
  let l := bitsN (paOf key) 51 7
  let c0 := bitsN l 10 0
  let c1 := bitsN l 21 11
  let c2 := bitsN l 32 22
  let c3 := bitsN l 43 33
  let c4 := bitsN l 44 44
  (c0 ^^^ c1 ^^^ c2 ^^^ c3 ^^^ c4, (c0 + 3 * c1 + 5 * c2 + 7 * c3 + c4) % 2048)

/-- The signature of a list of lines. -/
def signatureOf (lines : List Nat) : BitVec 2048 :=
  BitVec.ofNat 2048 (lines.foldl (fun acc l => let (a, b) := sigBits (128 * l); acc ||| 2 ^ a ||| 2 ^ b) 0)

/-- Whether a line matches a signature (R234). -/
def sigMatches (sig : BitVec 2048) (line : Nat) : Bool :=
  let (a, b) := sigBits (128 * line)
  sig.getLsbD a && sig.getLsbD b

/-- Add a publication to a board that holds n. -/
def Board.publish (b : Board) (n : Nat) (p : Publication) : Board := { count := b.count + 1, held := (p :: b.held).take n }

/-- The board of a scope from 2 to 5 as seen from a slice (R233). -/
def boardOf (s : State) (slice part scope : Nat) : Board :=
  match scope with
  | 2 => (sliceAt s slice).board
  | 3 => (partAt s part).board
  | 4 => (partAt s part).podBoard
  | _ => (partAt s part).systemBoard

/-- Publish to the board of a scope. -/
def publishAt (s : State) (slice part scope : Nat) (p : Publication) : State :=
  match scope with
  | 2 => s.modSlice slice fun sl => { sl with board := sl.board.publish 64 p }
  | 3 => s.modPart part fun pt => { pt with board := pt.board.publish 256 p }
  | 4 => s.modPart part fun pt => { pt with podBoard := pt.podBoard.publish 256 p }
  | _ => s.modPart part fun pt => { pt with systemBoard := pt.systemBoard.publish 256 p }

/-- An engine's or the fabric's write publishes to every board it can be read through (R236). -/
def publishWide (s : State) (slice part : Nat) (did : BitVec 16) (lines : List Nat) : State :=
  let p : Publication := { did := did, sig := signatureOf lines }
  [2, 3, 4, 5].foldl (fun s n => publishAt s slice part n p) s

/-! ## The debug mailbox and the trigger net (R412 to R415) -/

/-- The key of a core's debug mailbox, when it has one: a frame owned by 0xFFFF (R412). -/
def mailboxKey (s : State) (k : Nat) : Option Nat :=
  let m := (coreAt s k).dbgmb
  let key := physKey (corePart s k) (65536 * m.toNat)
  if m = 0 ∨ (AMap.getD s.pot (key / 65536) {}).owner ≠ 0xFFFF then none else some key

/-- The cores of a partition that hold state. -/
def coresOfPart (s : State) (p : Nat) : List Nat :=
  (s.cores.map Prod.fst).filter fun k => decide ((sliceAt s (coreSlice k)).part = some p)

/-- Whether the mailbox of any core of the partition enables a trigger source. -/
def triggerEnabled (s : State) (p bit : Nat) : Bool :=
  (coresOfPart s p).any fun k => match mailboxKey s k with
    | some a => (memWord s (a + 8)).getLsbD bit
    | none => false

/-- A warp that holds a protected domain's state: its own domain is protected, or one whose gates it is in or has called through (R284, R413; DEDUCED for
the last two, log entry 96). -/
def protectedWarp (c : Core) (wp : Warp) : Bool := worldOf c wp.didNow || worldOf c wp.did || wp.frames.any fun fr => worldOf c fr.caller

/-- What a warp's snapshot latches; a protected warp latches zeros apart from the tag (R413, R415). -/
def snapshotOf (c : Core) (wp : Warp) (tag : Word) : Snapshot :=
  if protectedWarp c wp then { tag := tag, clk := 0, wld := 0, lc := 0, sc := 0, ec := 0, gangs := [] }
  else { tag := tag, clk := c.clk, wld := wp.wld, lc := wp.lc, sc := wp.sc, ec := wp.ec, gangs := wp.gangs.map fun (g, gn) => (g, gn.pc, gn.mask) }

/-- The trigger net fires: every armed snapshot of the partition latches; later firings wait for op 5 (R415). -/
def fireTrigger (s : State) (p : Nat) (tag : Word) : State :=
  if (partAt s p).fired then s
  else
    let s := s.modPart p fun pt => { pt with fired := true }
    (coresOfPart s p).foldl (fun s k => s.modCore k fun c => { c with snaps := c.warps.map fun (w, wp) => (w, snapshotOf c wp tag) }) s

/-- Fire on a source if a mailbox enables it. -/
def fireIf (s : State) (p bit : Nat) : State := if triggerEnabled s p bit then fireTrigger s p 0xFFFF else s

/-- An entry of the event log; a full log discards its oldest (R398). -/
def State.logEvent (s : State) (event part slice : Nat) : State :=
  { s with log := (if 4096 ≤ s.log.length then s.log.drop 1 else s.log) ++ [{ event := event, part := part, slice := slice }] }

/-! ## Taking a trap (R329 to R331, R334) -/

/-- The cause word (R329). -/
def Trap.causeWord (t : Trap) : Word := w32 (t.cause % 256 + 256 * (t.detail % 256) + 65536 * t.n.toNat)

/-- The address of the record of a warp slot in a domain area (R324). -/
def recordPa (sl : Slot) (w : Nat) : Nat := (pairW sl.w6 sl.w7).toNat + 256 * w

/-- The 64 words of a trap record (R330). -/
def recordWords (d : Deferred) (w slot : Nat) (did : BitVec 16) (world : Bool) (depth : Nat) : List Word :=
  let t := d.trap
  [t.causeWord, w32 (65536 * d.entry + 256 * w + slot), loW d.pc, hiW d.pc, loW d.resume, hiW d.resume,
   t.lanes.getD d.active, d.gmask, loW t.addr, hiW t.addr, d.insn, d.ctl, d.mode,
   w32 (131072 * depth + (if world then 65536 else 0) + did.toNat), t.extra, 0, w32 t.queue]
  ++ (t.group ++ List.replicate (8 - t.group.length) 0)

/-- Bytes of words. -/
def wordsBytes (ws : List Word) : List Byte := ws.flatMap fun w => natLe 4 w.toNat

/-- Write a record, release it at scope 3 and post its notification (R309, R331). -/
def writeRecord (s : State) (k w : Nat) (d : Deferred) : State :=
  match warpAt s k w with
  | none => s
  | some wp =>
    match slotOf (coreAt s k) wp.didNow with
    | none => s
    | some (n, sl) =>
      let pa := recordPa sl w
      let key := physKey (corePart s k) pa
      let ws := recordWords d w n wp.didNow (sl.w0.getLsbD 16) wp.frames.length
      let s := memPut s key (wordsBytes (ws ++ List.replicate (64 - ws.length) 0))
      let s := publishAt s (coreSlice k) (corePart s k) 3 { did := wp.didNow, sig := signatureOf [lineOf key, lineOf key + 1] }
      let s := s.modSlice (coreSlice k) fun sl => { sl with notices := sl.notices ++ [{ core := k, w := w, record := BitVec.ofNat 64 pa }] }
      s.modWarp k w fun wp => { wp with recordLive := some d.entry, liveTrap := some d }

/-- The state a gang resumes to: a hold is tried again (R167). -/
def GangStatus.beforeHalt : GangStatus → GangStatus
  | .held _ => .ready
  | st => st

/-- A trap of a compute core's gang (R331): the gang halts; its record is written, unless the slot's record still stands or the
slice's 64 notifications are queued. -/
def trapCompute (s : State) (k w : Nat) (d : Deferred) : State :=
  let s := s.modGang k w d.entry fun gn => { gn with trapped := true, stepping := false, status := gn.status.beforeHalt }
  let s := fireIf s (corePart s k) 2
  match warpAt s k w with
  | none => s
  | some wp =>
    if wp.recordLive.isSome || !wp.deferred.isEmpty || decide (64 ≤ (sliceAt s (coreSlice k)).notices.length) then
      s.modWarp k w fun wp => { wp with deferred := wp.deferred ++ [d] }
    else writeRecord s k w d

/-- The 10-bit slot control of slot n (R16). -/
def slotCtl (ctl : Word) (n : Nat) : Nat := if n = 0 then bitsW ctl 29 20 else if n = 1 then bitsW ctl 19 10 else bitsW ctl 9 0

/-- The state of a gang that is free to go on: stalled while a stall count or yield has cycles left (R17, R22, R167). -/
def Gang.goOn (gn : Gang) : Gang := { gn with status := if gn.stall = 0 then .ready else .stalled }

/-- A service or firmware core enters TVEC (R334); the stall count of the instruction that transfers control applies there (R22). -/
def enterTvec (s : State) (k w g : Nat) (tcause : Word) (tval epc : DWord) (rest : Nat := 0) : State :=
  let s := s.modCore k fun c =>
    { c with svc := { c.svc with tepc := epc, tcause := tcause, tval := tval, pie := c.svc.ie, ie := false, op := none } }
  s.modGang k w g fun gn => Gang.goOn { gn with pc := slot0 (coreAt s k).svc.tvec, stall := max gn.stall rest }

/-- TVAL of a synchronous entry: the fault address, or n for TRAP and BRK (R333). -/
def Trap.tval (t : Trap) : DWord := if t.cause = 0x12 ∨ t.cause = 0x13 then t.n.setWidth 64 else t.addr

/-- Taking a trap in a state s at a resume address, the ONE operation for every cause: the record and the halt on a compute core (R331), TVEC on a service or
firmware core (R334). -/
def takeTrapAt (x : Ctx) (s : State) (t : Trap) (resume : DWord) : State :=
  if isCompute x.k then
    trapCompute s x.k x.w { entry := x.g, trap := t, pc := x.gn.pc, resume := resume, insn := x.s.insn, ctl := x.s.ctl,
                            gmask := x.gn.mask, mode := x.mode, active := x.active }
  else
    enterTvec (fireIf s x.part 2) x.k x.w x.g (w32 (t.cause + 256 * t.detail)) t.tval resume (bitsN (slotCtl x.s.ctl (slotNo x.gn.pc)) 9 6 - 1)

/-- The trap of an instruction that changes nothing (R38): it resumes at the instruction. -/
def takeTrap (x : Ctx) (t : Trap) : State := takeTrapAt x x.s t x.gn.pc

/-- The trap of an instruction that has completed, in the state it left: it resumes where the gang goes on (R58, R329). -/
def trapAfter (x : Ctx) (s : State) (t : Trap) : State :=
  takeTrapAt x s t (match gangAt s x.k x.w x.g with | some gn => gn.pc | none => nextSlot x.gn.pc)

/-- Return from TVEC: TRET (R305). -/
def leaveTvec (s : State) (k w g : Nat) : State :=
  let s' := s.modCore k fun c => { c with svc := { c.svc with ie := c.svc.pie } }
  s'.modGang k w g fun gn => { gn with pc := (coreAt s k).svc.tepc }

/-! ## Translation buffers (R87, R341, R343) -/

/-- What a core's TLB answers for an address. -/
inductive TlbAns where
  /-- Bits [63:57] differ from bit 56. -/
  | notCanonical
  | hit (e : TlbEntry)
  /-- The translation service has refused the page: cause and detail. -/
  | refused (cause detail : Nat)
  | miss
deriving DecidableEq, Repr

/-- Bits [63:57] equal bit 56 (R87). -/
def canonical (va : DWord) : Bool := bitsW va 63 57 = (if va.getLsbD 56 then 127 else 0)

/-- The 4 KiB page of an address: VA[56:12]. -/
def pageOf (va : DWord) : Nat := bitsW va 56 12

/-- VA[56:0] as a number. -/
def vaNat (va : DWord) : Nat := va.toNat % 2 ^ 57

/-- Whether an entry translates an address for a domain. -/
def TlbEntry.covers (e : TlbEntry) (did : BitVec 16) (va : Nat) : Bool :=
  decide (e.did = did) && decide (e.va ≤ va) && decide (va < e.va + e.size)

/-- Whether an entry is a piece of a page that translates an address for a domain. -/
def TlbEntry.ofPage (e : TlbEntry) (did : BitVec 16) (va : Nat) : Bool :=
  e.covers did va || (decide (e.did = did) && decide (e.leafVa ≤ va) && decide (va < e.leafVa + e.leafSize))

def tlbLook (c : Core) (did : BitVec 16) (va : DWord) : TlbAns :=
  if !canonical va then .notCanonical
  else match c.tlb.find? fun e => e.covers did (vaNat va) with
    | some e => .hit e
    | none => match c.refusals.find? fun r => decide (r.did = did) && decide (r.page = pageOf va) with
      | some r => .refused r.cause r.detail
      | none => .miss

/-- The translation of an address for a domain, whether its frame's owner allows it or not. -/
def leafOf (c : Core) (did : BitVec 16) (va : DWord) : Option TlbEntry :=
  match tlbLook c did va with
  | .hit e => some e
  | .refused _ _ => (c.refusals.find? fun r => decide (r.did = did) && decide (r.page = pageOf va)).bind TlbRefusal.leaf
  | _ => none

/-- The physical address that an entry gives. -/
def TlbEntry.paOf (e : TlbEntry) (va : DWord) : Nat := e.pa + (vaNat va - e.va)

/-- Queue a miss at the slice's translation service, unless it waits there; it joins a walk of its key; up to 4,096 wait (R343). -/
def queueMiss (s : State) (k : Nat) (did : BitVec 16) (va : DWord) : State :=
  s.modSlice (coreSlice k) fun sl =>
    if sl.misses.any (fun m => decide (m.core = k) && decide (m.did = did) && decide (m.page = pageOf va)) || decide (4096 ≤ sl.misses.length)
    then sl
    else { sl with misses := sl.misses ++ [{ core := k, did := did, page := pageOf va,
                                             walking := sl.misses.any fun m => m.walking && decide (m.did = did) && decide (m.page = pageOf va) }] }

/-! ## What an instruction answers -/

/-- Why an instruction does not complete now. -/
inductive Stop where
  /-- It traps before it changes any state (R38). -/
  | trap (t : Trap)
  /-- Its gang is held at issue (R167). -/
  | hold (c : HoldCause)
  /-- Its gang is held for translations, which it asks for (R87). -/
  | miss (did : BitVec 16) (vas : List DWord)
  /-- Its gang waits, with its program counter at the instruction (R167). -/
  | wait (c : WaitCause)
deriving DecidableEq, Repr

def Ctx.setStatus (x : Ctx) (st : GangStatus) : State := x.modGang fun gn => { gn with status := st }

/-- A fault takes every refusal out of its core's TLB: its next try asks again for each page it needs (R87, R344). -/
def dropAllRefusals (s : State) (k : Nat) : State := s.modCore k fun c => { c with refusals := [] }

/-- A refusal of a page that a prefetch has met is taken out of the TLB. -/
def dropRefusals (s : State) (k : Nat) (addr : DWord) : State :=
  s.modCore k fun c => { c with refusals := c.refusals.filter fun r => !decide (r.page = pageOf addr) }

/-- The outcome of a meaning's body. -/
def settle (x : Ctx) : Except Stop State → Host.Outcome State Fault Refusal
  | .ok s => .next s
  | .error (.trap t) => .next (dropAllRefusals (takeTrap x t) x.k)
  | .error (.hold c) => .next (x.setStatus (.held c))
  | .error (.miss did vas) => .next (vas.foldl (fun s va => queueMiss s x.k did va) (x.setStatus (.held .tlbMiss)))
  | .error (.wait c) => .next (x.setStatus (.waiting c))

/-- Run a body at the cursor's gang. -/
def run (s : State) (body : Ctx → Except Stop State) : Host.Outcome State Fault Refusal :=
  match ctxOf s with
  | none => .fault .noGang
  | some x => settle x (body x)

/-- A trap of a cause and detail. -/
def trapOf {α : Type} (cause : Nat) (detail : Nat := 0) : Except Stop α := .error (.trap { cause := cause, detail := detail })

/-- A check: the trap unless the condition holds. -/
def need (b : Bool) (t : Trap) : Except Stop Unit := if b then .ok () else .error (.trap t)

end Sys2Proof.Machine
end

