-- ==== Sys2Proof/Machine/Operands.lean ====
section
/-! DEFINITION. Sys2Proof/Machine/Operands.lean: the slot control (R17), the operand latch and neighbour selects (R20, R21), every
operand form, the checks every instruction shares in the order of R38, and retiring an instruction. -/

namespace Sys2Proof.Machine

/-! ## Slot control (R16, R17) -/

def Ctx.ctl (x : Ctx) : Nat := slotCtl x.s.ctl (slotNo x.gn.pc)
/-- The stall count in force: at least one cycle. -/
def Ctx.stall (x : Ctx) : Nat := max 1 (bitsN x.ctl 9 6)
def Ctx.yieldBit (x : Ctx) : Bool := bitsN x.ctl 5 5 = 1
def Ctx.hold (x : Ctx) : Nat := bitsN x.ctl 4 3
def Ctx.asel (x : Ctx) : Nat := bitsN x.ctl 2 1
def Ctx.blatch (x : Ctx) : Bool := bitsN x.ctl 0 0 = 1

/-! ## The operand latch (R20) -/

def Warp.latchOf (wp : Warp) (l : Nat) : List LatchEntry := AMap.getD wp.latch l []

/-- The newest entry of a lane that has not expired. -/
def Warp.newest (wp : Warp) (l : Nat) : Option Word :=
  match wp.latchOf l with
  | e :: _ => if e.age < 2 then some e.val else none
  | [] => none

/-- Whether a lane of the mask holds an entry that has not expired. -/
def Warp.latchLive (wp : Warp) (m : Mask) : Bool := (lanesOf m).any fun l => (wp.newest l).isSome

/-- Push a value in a lane; the oldest of three is discarded. -/
def Warp.push (wp : Warp) (l : Nat) (v : Word) : Warp :=
  { wp with latch := AMap.put wp.latch l ((LatchEntry.mk v 0 :: wp.latchOf l).take 3) }

/-- An entry after one more instruction of its gang. -/
def LatchEntry.older (e : LatchEntry) : LatchEntry := { e with age := e.age + 1 }

/-- One more instruction of the gang has issued: entries age, and those that have seen two expire. -/
def Warp.ageLatch (wp : Warp) (m : Mask) : Warp :=
  let aged := wp.latch.map fun (l, es) =>
    if m.getLsbD l then (l, (es.map LatchEntry.older).filter fun e => decide (e.age < 2)) else (l, es)
  { wp with latch := aged.filter fun (_, es) => !es.isEmpty }

/-- Clear every entry of the lanes of a mask. -/
def Warp.clearLatch (wp : Warp) (m : Mask) : Warp := { wp with latch := wp.latch.filter fun (l, _) => !(m.getLsbD l) }

/-! ## Neighbour selects (R21) -/

/-- The lane whose register a neighbour select reads in lane l, or none for zero; the edge policy applies outside the gang. -/
def neighbour (x : Ctx) (left : Bool) (l : Nat) : Option Nat :=
  let inGang := fun m => x.gn.mask.getLsbD m
  let direct := if left then (if l = 0 then none else some (l - 1)) else (if l = 31 then none else some (l + 1))
  match direct.filter inGang with
  | some m => some m
  | none =>
    match modeEdge x.mode with
    | 0 => some l
    | 2 => ((List.range 32).map fun i => if left then (l + 31 - i) % 32 else (l + 1 + i) % 32).find? inGang
    | _ => none

/-- Whether a neighbour select of a lane leaves the gang. -/
def neighbourOut (x : Ctx) (left : Bool) (l : Nat) : Bool :=
  let direct := if left then (if l = 0 then none else some (l - 1)) else (if l = 31 then none else some (l + 1))
  (direct.filter fun m => x.gn.mask.getLsbD m).isNone

/-! ## Src (R39) -/

/-- Field a of a lane after a-select, where rd reads the field in a lane. -/
def srcSel (x : Ctx) (rd : Nat → Word) (l : Nat) : Word :=
  match x.asel with
  | 0 => rd l
  | 1 => match neighbour x true l with | some m => rd m | none => 0
  | 2 => match neighbour x false l with | some m => rd m | none => 0
  | _ => (x.wp.newest l).getD 0

/-- Src(a, l). -/
def srcA (x : Ctx) (a : Reg) (l : Nat) : Word := srcSel x (fun m => x.rd m a) l
/-- Src(b, l). -/
def srcB (x : Ctx) (b : Reg) (l : Nat) : Word := if x.blatch then (x.wp.newest l).getD 0 else x.rd l b

/-- Operand a under the element type in force: 32 or 64 bits (R48). -/
def opA (x : Ctx) (a : Reg) (l : Nat) : Nat := if x.is64 then (x.rd64 l a).toNat else (srcA x a l).toNat
/-- Operand b under the element type in force. -/
def opB (x : Ctx) (b : Reg) (l : Nat) : Nat := if x.is64 then (x.rd64 l b).toNat else (srcB x b l).toNat
/-- The old destination under the element type in force. -/
def opD (x : Ctx) (d : Reg) (l : Nat) : Nat := if x.is64 then (x.rd64 l d).toNat else (x.rd l d).toNat

/-! ## Register classes (R25, R26, R47) -/

def Reg.isV : Reg → Bool | .v _ => true | _ => false
def Reg.isS : Reg → Bool | .s _ => true | _ => false
def Reg.isP : Reg → Bool | .p _ => true | _ => false
def Reg.isZ : Reg → Bool | .z => true | _ => false
/-- Every class a source accepts: any but the reserved codes. -/
def Reg.any : Reg → Bool | .rsv _ => false | _ => true
/-- A vector ALU destination. -/
def Reg.vz (r : Reg) : Bool := Reg.isV r || Reg.isZ r
/-- A scalar destination. -/
def Reg.sz (r : Reg) : Bool := Reg.isS r || Reg.isZ r
/-- s, k, uniform x and z: a field read once (R84, R197, R302). -/
def Reg.unif : Reg → Bool
  | .s _ => true
  | .k _ => true
  | .x n => decide (2 ≤ n.val)
  | .z => true
  | _ => false
/-- An even v or s pair that holds an address (R86). -/
def Reg.addrPair : Reg → Bool
  | .v n => n.val % 2 = 0
  | .s n => n.val % 2 = 0
  | _ => false
/-- An even scalar pair (R91). -/
def Reg.spair : Reg → Bool
  | .s n => n.val % 2 = 0
  | _ => false

/-- A field that names n registers starts at a multiple of n (R27, R48, R86). -/
def alignedReg (r : Reg) (n : Nat) : Bool :=
  match r with
  | .v i => i.val % n = 0
  | .s i => i.val % n = 0
  | _ => true

/-- The codes of the n registers a field names. -/
def regCodes (r : Reg) (n : Nat) : List Nat :=
  match r with
  | .v i => (List.range n).map (i.val + ·)
  | .s i => (List.range n).map (0x80 + i.val + ·)
  | .p i => [0xC0 + i.val]
  | _ => []

/-! ## Forms and checks (R17, R26, R27, R37, R38, R49, R90, R132) -/

/-- What the shared checks need to know of an instruction. -/
structure Form where
  op : Nat
  /-- Fields have classes the instruction accepts, and no reserved value; fields a and b apart from latch reads. -/
  classes : Bool := true
  a : Reg := .z
  b : Reg := .z
  /-- Registers read at a and at b; 0 when the field is not used. -/
  aw : Nat := 0
  bw : Nat := 0
  aOk : Bool := true
  bOk : Bool := true
  /-- The field is a 32-bit source read separately in each acting lane (R17). -/
  aLane : Bool := false
  bLane : Bool := false
  /-- It has a latchable result (R17). -/
  res : Bool := false
  /-- Other registers it reads. -/
  more : List (Reg × Nat) := []
  writes : List (Reg × Nat) := []
  /-- It acts under the guard or reads it as data (R132). -/
  guard : Bool := true
  /-- The element type in force is accepted (R49), or the mode value written is legal. -/
  typed : Bool := true
  /-- Fixed latency of its results; 0 when variable or none (R136). -/
  lat : Nat := 0
  /-- Cycles from its issue until a result of variable latency is readable (R197). -/
  vlat : Nat := 0
  /-- Lanes whose registers it reads; none: the active lanes. -/
  acts : Option Mask := none
  /-- Its registers are read once, whatever the lanes. -/
  once : Bool := false
  /-- The poison check of field a is the instruction's own (R148). -/
  ownPoison : Bool := false
  /-- Codes of further registers that it waits for (R153, R155). -/
  waits : List Nat := []
  /-- Codes of registers whose values the checks before the stall check read. -/
  early : List Nat := []
  /-- Register number to which the per-lane field b is added; the sum must lie in the allocation (R153). -/
  indexed : Option Nat := none
  /-- The lane that each lane takes field a from, by lane (R148). -/
  from_ : Option (List Nat) := none
  /-- The edge policy does not apply (R148). -/
  noEdge : Bool := false
deriving DecidableEq, Repr

def Form.lanes (f : Form) (x : Ctx) : Mask := f.acts.getD x.active

/-- The registers read through the register file, with how many. -/
def Form.reads (f : Form) (x : Ctx) : List (Reg × Nat) :=
  (if x.asel ≠ 3 ∧ f.aw ≠ 0 then [(f.a, f.aw)] else []) ++ (if !x.blatch && decide (f.bw ≠ 0) then [(f.b, f.bw)] else []) ++ f.more

/-- The fate of a code on a profile (R36, R37): some cause, or it executes. -/
def profileFault (k op : Nat) : Option Nat :=
  if op = 0 ∨ op = 0x3E ∨ op = 0x3F ∨ op = 0x7F ∨ (0x8D ≤ op ∧ op ≤ 0x8F) ∨ (0x9B ≤ op ∧ op ≤ 0x9F) ∨ (0xA9 ≤ op ∧ op ≤ 0xAF)
      ∨ (0xB4 ≤ op ∧ op ≤ 0xBF) ∨ 0xD0 ≤ op then some 0x01
  else if isCompute k then (if 0xC0 ≤ op ∧ op ≤ 0xCE then some 0x04 else none)
  else if (0x4C ≤ op ∧ op ≤ 0x4F) ∨ (0x90 ≤ op ∧ op ≤ 0x9A) ∨ op = 0xB0 ∨ op = 0xB1 then some 0x01
  else if isFirmware k ∧ op = 0xCD then some 0x04
  else none

/-- The slot control names no operand or result that the instruction lacks (R17). -/
def slotOk (x : Ctx) (f : Form) : Bool :=
  (x.hold != 1 || f.aLane) && (x.hold != 2 || f.bLane) && (x.hold != 3 || f.res)
  && (x.asel == 0 || f.aLane) && (!(x.asel == 1 || x.asel == 2) || Reg.isV f.a) && (!x.blatch || f.bLane)

/-- The lane in which field a is read for a lane (R148). -/
def Form.laneA (f : Form) (l : Nat) : Nat := match f.from_ with | some ls => ls.getD l l | none => l

/-- The lanes whose latch read finds no entry (R20). -/
def latchMissing (x : Ctx) (f : Form) : Mask :=
  laneWhere (f.lanes x) fun l => (x.asel == 3 && (x.wp.newest (f.laneA l)).isNone) || (x.blatch && (x.wp.newest l).isNone)

/-- The lanes whose computed register number is at or beyond the allocation (R153). -/
def indexOut (x : Ctx) (f : Form) : Mask :=
  match f.indexed with
  | some n => laneWhere (f.lanes x) fun l => decide (8 * x.wp.blocks ≤ n + (srcB x f.b l).toNat)
  | none => 0

/-- The illegal-operand check (R26, R27). -/
def operandOk (x : Ctx) (f : Form) : Bool :=
  f.classes && (x.asel == 3 || f.aOk) && (x.blatch || f.bOk) && slotOk x f
  && (f.reads x ++ f.writes).all fun (r, n) => Reg.any r && alignedReg r n

/-- The register-bound check (R27). -/
def boundOk (x : Ctx) (f : Form) : Bool :=
  ((f.reads x ++ f.writes).all fun (r, n) => match r with
    | .v i => decide (i.val + n ≤ 8 * x.wp.blocks)
    | _ => true) && f.indexed.all fun n => decide (n < 8 * x.wp.blocks)

/-- The lanes whose neighbour select leaves the gang under the fault policy (R21). -/
def edgeMissing (x : Ctx) (f : Form) : Mask :=
  if !f.noEdge && (x.asel == 1 || x.asel == 2) && modeEdge x.mode == 3 then laneWhere (f.lanes x) (neighbourOut x (x.asel == 1)) else 0

/-- The register codes an instruction reads or writes, its guard included (R132). -/
def Form.codes (f : Form) (x : Ctx) : List Nat :=
  (f.reads x ++ f.writes).flatMap (fun (r, n) => regCodes r n) ++ (if f.guard then [0xC0 + modeGp x.mode] else []) ++ f.waits

/-- The stall counts fall short of a fixed-latency producer (R18, R132). -/
def stallShort (x : Ctx) (f : Form) : Bool :=
  modeSchk x.mode && x.gn.recent.any fun r => decide (0 < r.left) && (f.codes x).contains r.code

/-- The registers an access in flight will write, for the gang that issued it and for those that hold its lanes (R88, R132, R165). -/
def accessPending (x : Ctx) (ac : Access) (code : Nat) : Bool :=
  decide (ac.w = x.w) && decide (ac.warpAge = x.wp.age) && match ac.dest with
    | .vec r n _ => decide (r ≤ code) && decide (code < r + n) && (x.gn.board.contains (ac.g, ac.id) || ac.lanes.any fun la => x.gn.mask.getLsbD la.lane)
    | .scal r n => decide (0x80 + r ≤ code) && decide (code < 0x80 + r + n)
    | .none => false

/-- A fixed-latency result of a register is pending for the gang: a scalar for every gang of the warp, a vector register or predicate for
the gang that writes it and those that hold lanes of it (R18, R85, R132, R165). -/
def fixedPending (x : Ctx) (code : Nat) : Bool :=
  x.gn.own.any (fun p => decide (p.code = code))
  || x.wp.pend.any fun p => decide (p.code = code) && (decide (0x80 ≤ code ∧ code < 0xC0) || decide (p.lanes &&& x.gn.mask ≠ 0))

/-- Some of the registers have a pending result (R18). -/
def pendingOn (x : Ctx) (codes : List Nat) : Bool := codes.any fun c => fixedPending x c || x.c.inflight.any fun ac => accessPending x ac c

/-- A register it reads or writes has a pending result (R18). -/
def pendingHit (x : Ctx) (f : Form) : Bool := pendingOn x (f.codes x)

/-- A check before the stall check reads a register whose value an access in flight will write: the gang waits first (R18). -/
def earlyHit (x : Ctx) (f : Form) : Bool := f.early.any fun c => x.c.inflight.any fun ac => accessPending x ac c

/-- The source registers that are tagged poisoned, by code, each with the lanes in which it is read so (R90), in the order a, b, then the others. -/
def poisonRows (x : Ctx) (f : Form) : List (Nat × Mask) :=
  let m := f.lanes x
  let lanesFor := fun (i : Nat) (isA : Bool) =>
    let tag := AMap.getD x.wp.vpoison i 0
    if isA && (x.asel == 1 || x.asel == 2) then
      maskOf fun l => m.getLsbD l && (match neighbour x (x.asel == 1) l with | some n => tag.getLsbD n | none => false)
    else tag &&& m
  let scan := fun (r : Reg) (n : Nat) (isA : Bool) => (List.range n).filterMap fun j => match r with
    | .v i => let p := lanesFor (i + j) isA; if p = 0 then none else some (i.val + j, p)
    | .s i => let p := AMap.getD x.wp.spoison (i + j) 0; if p = 0 || (m = 0 && !f.once) then none else some (0x80 + i.val + j, m)
    | _ => none
  let rs := (if x.asel ≠ 3 ∧ f.aw ≠ 0 ∧ !f.ownPoison then [(f.a, f.aw, true)] else []) ++ (if !x.blatch && decide (f.bw ≠ 0) then [(f.b, f.bw, false)] else [])
    ++ f.more.map fun (r, n) => (r, n, false)
  rs.flatMap fun (r, n, isA) => scan r n isA

/-- The poisoned register that hold 01 would push in the lanes that act, with those lanes: VMOVX and V2S read it besides what they move (R17, R90). -/
def holdPoison (x : Ctx) (f : Form) : Option (Nat × Mask) :=
  if x.hold = 1 then (poisonRows x { f with ownPoison := false, bw := 0, more := [] }).head? else none

/-- The register that a poison-consumed fault names, with its own lanes: the first (DESIGN CHOICE, log entry 31: R90 gives no order). -/
def poisonOf (x : Ctx) (f : Form) : Option (Nat × Mask) := (poisonRows x f).head?

/-- The checks of R38 up to the stall check, in order; then the scoreboard (R18) and poison (R90). -/
def check (x : Ctx) (f : Form) : Except Stop Unit := do
  need (decide (bitsW x.s.ctl 31 30 < 2)) { cause := 0x02 }
  match profileFault x.k f.op with
  | some c => trapOf c
  | none => .ok ()
  if earlyHit x f then .error (.hold .register)
  need (operandOk x f) { cause := 0x03 }
  need (decide (latchMissing x f = 0)) { cause := 0x03, lanes := some (latchMissing x f) }
  need (boundOk x f) { cause := 0x06 }
  need (decide (indexOut x f = 0)) { cause := 0x06, lanes := some (indexOut x f) }
  need f.typed { cause := 0x05 }
  need (decide (edgeMissing x f = 0)) { cause := 0x05, lanes := some (edgeMissing x f) }
  need (!stallShort x f) { cause := 0x0B }
  if pendingHit x f then .error (.hold .register)
  match poisonOf x f with
  | some (code, m) => .error (.trap { cause := 0x11, lanes := some m, extra := w32 code })
  | none => .ok ()

/-- The checks of an access with per-lane addresses: where a source is poisoned, every lane in which one is fails, and the record has the address of
the lowest (step 1 of R87 and R180). -/
def checkMem (x : Ctx) (f : Form) (va : Nat → DWord) : Except Stop Unit :=
  match check x f with
  | .error (.trap t) =>
    if t.cause = 0x11 then
      let bad := (poisonRows x f).foldl (fun m r => m ||| r.2) 0
      .error (.trap { t with lanes := some bad, addr := va (firstLane bad) })
    else .error (.trap t)
  | r => r

/-! ## Retiring an instruction -/

/-- Bank-conflict cycles: registers read per bank beyond the first (R131). A VMOVX counts field a's own register and not the registers numbered
a + x that its lanes read (DESIGN CHOICE, log entry 83: R131 and R153 do not say). -/
def conflicts (x : Ctx) (f : Form) : Nat :=
  let rs := (if x.asel = 0 ∧ f.aw ≠ 0 then [(f.a, f.aw)] else []) ++ (if !x.blatch && decide (f.bw ≠ 0) then [(f.b, f.bw)] else []) ++ f.more
  let codes := (rs.flatMap fun (r, n) => if Reg.isV r then regCodes r n else []).eraseDups
  ((List.range 4).map fun b => (codes.filter fun c => c % 4 = b).length - 1).foldl max 0

/-- The codes of the registers it writes, the ignored p7 apart. -/
def Form.writeCodes (f : Form) : List Nat := (f.writes.flatMap fun (r, n) => regCodes r n).filter fun c => decide (c ≠ 0xC7)

/-- Fixed-latency results still short after this instruction's own stall count (R132). -/
def nextRecent (x : Ctx) (f : Form) : List Recent :=
  let fresh := if f.lat = 0 then [] else f.writeCodes.map fun c => { code := c, left := f.lat + conflicts x f : Recent }
  let old := x.gn.recent.filter fun r => !(fresh.any fun q => q.code = r.code)
  ((fresh ++ old).map fun r => { r with left := r.left - x.stall }).filter fun r => decide (0 < r.left)

/-- Whether an opcode is a per-lane instruction that uses its gang's furrows (R130, R136). -/
def usesFurrows (op : Nat) : Bool := (0x10 ≤ op && op ≤ 0x2E) || (0x30 ≤ op && op ≤ 0x3B) || (0x40 ≤ op && op ≤ 0x4B)

/-- The cycles for which it occupies its furrows: the latency table's figure and the conflict cycles (R130, R131, R136). -/
def occupancy (x : Ctx) (f : Form) : Nat :=
  if usesFurrows f.op then (if f.lat = 28 then 8 else if f.lat = 14 then 4 else if f.lat = 10 then 2 else 1) + conflicts x f else 1

/-- The furrow keys of its gang on its core. -/
def Ctx.furrowKeys (x : Ctx) : List Nat := ((List.range 8).filter fun i => (furrowsOf x.gn.mask).testBit i).map (8 * (x.w / 16) + ·)

/-- The cycles from its issue to its start: until every furrow of its mask is free (R130). -/
def startWait (x : Ctx) (f : Form) : Nat :=
  if usesFurrows f.op then (x.furrowKeys.map fun i => AMap.getD x.c.furrows i 0).foldl max 0 else 0

/-- The furrows after its issue. -/
def Core.occupy (c : Core) (x : Ctx) (f : Form) : Core :=
  if usesFurrows f.op then { c with furrows := x.furrowKeys.foldl (fun m i => AMap.putD m i (startWait x f + occupancy x f) 0) c.furrows } else c

/-- The results that become pending with its issue; those of VSTX in its active lanes (R132, R136, R153). -/
def newPend (x : Ctx) (f : Form) : List Pend :=
  let left := startWait x f + max f.lat f.vlat + conflicts x f - 1
  if decide (max f.lat f.vlat = 0) || decide (left = 0) then []
  else f.writeCodes.map fun c => { code := c, lanes := if f.op = 0x4B then x.active else x.gn.mask, left := left }

/-- The gang after its instruction has issued, its program counter apart (R17, R19, R30, R59, R130, R134); an access of the instruction has the
core's next number (R165). -/
def Gang.issued (gn : Gang) (x : Ctx) (f : Form) (extra : Nat := 0) : Gang :=
  let rest := max (max (max (x.stall - 1) (occupancy x f - 1)) extra) (if x.yieldBit then 1 else 0)
  { gn with
    ageing := 0, thresholdAt := none, stall := rest, yielded := x.yieldBit || decide (0 < extra),
    status := if rest = 0 then .ready else .stalled,
    clkHigh := if (f.reads x).any (fun (r, _) => decide (r = .x 15)) then some (hiW x.c.clk) else gn.clkHigh,
    own := newPend x f ++ gn.own,
    board := (if f.lat = 0 && !f.writes.isEmpty then [(x.g, x.c.nextId)] else []) ++ gn.board.filter fun e => x.c.inflight.any fun ac => decide (ac.id = e.2),
    recent := nextRecent x f, lastIssue := x.c.clk.toNat }

/-- What hold pushes in each acting lane (R17, R20, R40). SEL and ADDC act in every lane of the gang's mask (R50) and push in all of them (DESIGN
CHOICE, log entry 84: R20 speaks of active lanes). For VMOVX hold 01 pushes field a's own register, as the frame of R40 reads it, and
not the register numbered a + x (DESIGN CHOICE, log entry 32: R153 does not say). -/
def holdPush (x : Ctx) (f : Form) (r : Nat → Word) (wp : Warp) : Warp :=
  match x.hold with
  | 0 => wp
  | 1 => (lanesOf (f.lanes x)).foldl (fun wp l => wp.push l (srcA x f.a l)) wp
  | 2 => (lanesOf (f.lanes x)).foldl (fun wp l => wp.push l (srcB x f.b l)) wp
  | _ => (lanesOf (f.lanes x)).foldl (fun wp l => wp.push l (r l)) wp

/-- The core after an issue: its furrows, and the warp's greedy hold, which a yield ends (R19, R130). -/
def Core.issuedBy (c : Core) (x : Ctx) (f : Form) (yields : Bool) : Core :=
  let c := c.occupy x f
  if yields && decide (AMap.get? c.greedy (x.w / 16) = some x.w) then { c with greedy := AMap.del c.greedy (x.w / 16) } else c

/-- The warp after an issue: latches age and take what hold pushes, results become pending. -/
def Warp.issuedBy (wp : Warp) (x : Ctx) (f : Form) (r : Nat → Word) : Warp :=
  let wp := holdPush x f r (wp.ageLatch x.gn.mask)
  { wp with pend := newPend x f ++ wp.pend }

/-- Retire the cursor's instruction in a state that holds its own effect: the gang moves to a program counter, latches age and take
what hold pushes, the issue is recorded; a single step halts again (R413). -/
def retireTo (x : Ctx) (f : Form) (s : State) (pc : DWord) (r : Nat → Word := fun _ => 0) (extra : Nat := 0) : State :=
  let s := s.modCore x.k fun c => c.issuedBy x f (x.yieldBit || decide (0 < extra))
  let s := s.modWarp x.k x.w fun wp => wp.issuedBy x f r
  let s := s.modGang x.k x.w x.g fun gn => { gn.issued x f extra with pc := pc, inBundle := decide (slotNo pc ≠ 0) }
  if x.gn.stepping then trapAfter x s { cause := 0x15 } else s

/-- The context without a pending single step, for an instruction that halts when all of it has been done. -/
def Ctx.noStep (x : Ctx) : Ctx := { x with gn := { x.gn with stepping := false } }

/-- A single step ends, in the state that the instruction left (R413); a gang that has ended halts nowhere. -/
def endStep (x : Ctx) (s : State) : State := if x.gn.stepping && (gangAt s x.k x.w x.g).isSome then trapAfter x s { cause := 0x15 } else s

/-- Retire to the next slot. -/
def retire (x : Ctx) (f : Form) (s : State) (r : Nat → Word := fun _ => 0) : State := retireTo x f s (nextSlot x.gn.pc) r

/-- The instruction has issued and its gang waits in it, with the program counter at it (R167); its stall count runs meanwhile (R17). -/
def beginWait (x : Ctx) (f : Form) (s : State) (c : WaitCause) : State :=
  let s := s.modCore x.k fun co => co.issuedBy x f x.yieldBit
  let s := s.modWarp x.k x.w fun wp => wp.issuedBy x { f with lat := 0 } (fun _ => 0)
  s.modGang x.k x.w x.g fun gn => { gn.issued x f with status := .waiting c, insn := x.s.insn, ctl := x.s.ctl }

/-- A gang that waits goes on at a program counter, once what is left of its stall count or yield has run out (R17, R19, R22); a single
step ends here (R413). -/
def wakeTo (s : State) (k w g : Nat) (pc : DWord) : State :=
  match gangAt s k w g with
  | none => s
  | some gn =>
    let s := s.modGang k w g fun gn => Gang.goOn { gn with pc := pc, inBundle := decide (slotNo pc ≠ 0) }
    if gn.stepping && isCompute k then
      trapCompute s k w { entry := g, trap := { cause := 0x15 }, pc := gn.pc, resume := pc, insn := gn.insn, ctl := gn.ctl,
                          gmask := gn.mask, mode := gn.mode, active := gn.mask }
    else s

/-- A gang that waits goes on at the next slot. -/
def wake (s : State) (k w g : Nat) : State :=
  match gangAt s k w g with
  | none => s
  | some gn => wakeTo s k w g (nextSlot gn.pc)

/-- A gang that waits in an instruction takes that instruction's trap: it resumes at the instruction (R38, R331). -/
def faultWaiting (s : State) (k w g : Nat) (t : Trap) : State :=
  match warpAt s k w, gangAt s k w g with
  | some wp, some gn =>
    let s := s.modGang k w g Gang.goOn
    if isCompute k then
      trapCompute s k w { entry := g, trap := t, pc := gn.pc, resume := gn.pc, insn := gn.insn, ctl := gn.ctl, gmask := gn.mask, mode := gn.mode,
                          active := gn.mask &&& guardMask wp gn.mode }
    else enterTvec (fireIf s (corePart s k) 2) k w g (w32 (t.cause + 256 * t.detail)) t.tval gn.pc
  | _, _ => s

end Sys2Proof.Machine
end

