-- ==== Sys2Proof/Machine/Special.lean ====
section
/-! DEFINITION. Sys2Proof/Machine/Special.lean: the special functions (R79 to R81) and the epilogue's activations (R257): the results that
lie within the stated bound, among which Config picks one. Real values are held as m × 2^e, exactly where they are dyadic, else so near that no
encoding stands within a bound of the one and outside a bound of the other. -/

namespace Sys2Proof.Machine

/-- A real number m × 2^e. -/
structure Dy where
  m : Int
  e : Int
deriving DecidableEq, Repr

def Dy.add (a b : Dy) : Dy := let (m, e) := dyAdd a.m a.e b.m b.e; { m := m, e := e }
def Dy.neg (a : Dy) : Dy := { a with m := -a.m }
def Dy.exact (a : Dy) : Exact := exactOf a.m a.e

/-- Places after the point of the fixed-point numbers below. -/
def fixP : Nat := 320

/-- ln 2 at 320 places. -/
def ln2Fix : Int := 1480553391661173448385607439722553250922680800745876974795605978609098082859138712941075737848984
/-- π at 480 places. -/
def piFix : Int := 9807262312027308209670433188918835507998242348779285001939787782752841194690228188362411542853276791620015003000463704887612936232611341761041845

/-- A dyadic number at 320 places. -/
def toFix (n e : Int) : Int := if 0 ≤ e + fixP then n * ((2 ^ (e + fixP).toNat : Nat) : Int) else n / ((2 ^ (-(e + fixP)).toNat : Nat) : Int)

def fixMul (a b : Int) : Int := a * b / ((2 ^ fixP : Nat) : Int)
def fixOne : Int := ((2 ^ fixP : Nat) : Int)

/-- e^y = Σ y^k / k!, for 0 ≤ y < 1. -/
def expGo : Nat → Int → Int → Int → Int → Int
  | 0, _, _, _, s => s
  | n + 1, y, k, t, s => let t := fixMul t y / k; expGo n y (k + 1) t (s + t)

/-- 2^v for a fixed-point v. -/
def exp2Fix (v : Int) : Dy :=
  let i := v / fixOne
  let r := v - i * fixOne
  { m := expGo 80 (fixMul r ln2Fix) 1 fixOne fixOne, e := i - fixP }

/-- Σ z^(2k+1) / (2k+1). -/
def atanhGo : Nat → Int → Int → Int → Int → Int
  | 0, _, _, _, s => s
  | n + 1, z2, k, t, s => atanhGo n z2 (k + 2) (fixMul t z2) (s + t / k)

/-- log2(n × 2^e) for n > 0. -/
def log2Fix (n : Nat) (e : Int) : Int :=
  let l := Nat.log2 n
  let x := toFix n (-(l : Int))
  let z := (x - fixOne) * fixOne / (x + fixOne)
  (e + l) * fixOne + 2 * atanhGo 110 (fixMul z z) 1 z 0 * fixOne / ln2Fix

/-- Σ of the alternating series of sine or cosine from term t with divisor k. -/
def sinGo : Nat → Int → Int → Int → Int → Int
  | 0, _, _, _, s => s
  | n + 1, y2, k, t, s => sinGo n y2 (k + 2) (-(fixMul t y2 / (k * (k + 1)))) (s + t)

/-- n × 2^e reduced to [0, 2π). -/
def reducePi (n e : Int) : Int :=
  let x := if 0 ≤ e + 480 then n * ((2 ^ (e + 480).toNat : Nat) : Int) else n / ((2 ^ (-(e + 480)).toNat : Nat) : Int)
  (x % (2 * piFix)) / ((2 ^ 160 : Nat) : Int)

def sinFix (n e : Int) : Int := let y := reducePi n e; sinGo 60 (fixMul y y) 2 y 0
def cosFix (n e : Int) : Int := let y := reducePi n e; sinGo 60 (fixMul y y) 1 fixOne 0

/-- e^−y for y ≥ 0, never 0. -/
def expNeg (y : Int) : Int :=
  if 400 * fixOne < y then 1
  else let d := exp2Fix (-(y * fixOne / ln2Fix)); max 1 (toFix d.m d.e)

/-- tanh at 320 places. -/
def tanhFix (y : Int) : Int :=
  let q := expNeg (2 * y.natAbs)
  let r := (fixOne - q) * fixOne / (fixOne + q)
  if y < 0 then -r else r

/-! ## Picking a result within a bound -/

/-- Where an encoding stands among the values of its type, in rising order: 0 is zero. -/
def keyOf (t : EType) (rm : Nat) (x : Dy) : Int :=
  let m := roundMag t rm x.exact
  if x.m < 0 then -(m : Int) else m

/-- The exponent of one ulp at a value: the spacing of the encodings in the binade that holds it, at least that of the subnormals (DESIGN CHOICE, log
entry 86: R80 bounds results in ulp and no rule says what one ulp is at a value; R268 gives the grid). -/
def ulpExp (t : EType) (x : Dy) : Int :=
  let (n, d) := x.exact.frac
  if n = 0 then 1 - (t.bias : Int) - t.fracBits else max (log2Frac n d - t.fracBits) (1 - (t.bias : Int) - t.fracBits)

/-- The encodings within b of x run between these keys. -/
def boundKeys (t : EType) (x b : Dy) : Int × Int :=
  (keyOf t 2 (x.add b.neg), keyOf t 3 (x.add b))

/-- The result at the picked place of the bound, with R52 steps 5 and 6. Past the largest finite value it is the infinity, or that value under sat,
whatever rnd (DESIGN CHOICE, log entry 43: R79 does not take rnd, R76 makes an overflow depend on it). -/
def pickBits (t : EType) (m : FMode) (x b : Dy) (pick : Nat) : Nat :=
  let (lo, hi) := boundKeys t x b
  let k := lo + (pick % (hi - lo + 1).toNat : Nat)
  let neg := decide (k < 0) || (decide (k = 0) && decide (x.m < 0))
  if t.maxFinite < k.natAbs then infResult t m.sat neg
  else fFlush m.ftz t (fSign t neg k.natAbs)

/-- n ulp at a value. -/
def ulps (t : EType) (n : Nat) (x : Dy) : Dy := { m := n, e := ulpExp t x }

/-- The eight special functions, by opcode (R79). -/
inductive SFun where
  | rcp | rsq | ex2 | lg2 | sin | cos | tanh
deriving DecidableEq, Repr

def SFun.code : SFun → Nat
  | .rcp => 0x32 | .rsq => 0x33 | .ex2 => 0x35 | .lg2 => 0x36 | .sin => 0x37 | .cos => 0x38 | .tanh => 0x39

/-- The special values (R81), or none for a value to be approximated. -/
def SFun.special (f : SFun) : FVal → Option FRes
  | .nan => some .invalid
  | .inf neg => some (match f with
    | .rcp => .zero neg
    | .rsq => if neg then .invalid else .zero false
    | .ex2 => if neg then .zero false else .inf false
    | .lg2 => if neg then .invalid else .inf false
    | .sin | .cos => .invalid
    | .tanh => .val { neg := neg, n := 1 })
  | .num neg n _ =>
    if n = 0 then some (match f with
      | .rcp | .rsq => .inf neg
      | .ex2 | .cos => .val { neg := false, n := 1 }
      | .lg2 => .inf true
      | .sin | .tanh => .zero neg)
    else if neg && (f = .rsq || f = .lg2) then some .invalid
    else none

/-- The value of a special function at n × 2^e, n ≠ 0; for a small argument sine and tanh lie just below it in magnitude, and cosine just below 1. -/
def SFun.approx (f : SFun) (neg : Bool) (n : Nat) (e : Int) : Dy :=
  let v := signed neg n
  let small := !decide (fixOne < toFix n (e + 60))
  let below : Dy := { m := signed neg (2 ^ 200 * n - 1), e := e - 200 }
  match f with
  | .rcp => { m := signed neg (2 ^ 300 / n), e := -300 - e }
  | .rsq =>
    let (n, e) := if e % 2 = 0 then (n, e) else (2 * n, e - 1)
    { m := isqrt (2 ^ 600 / n), e := -300 - e / 2 }
  | .ex2 =>
    let b : Int := 40000
    let x := toFix v e
    if b * fixOne < x then { m := 1, e := b } else if x < -b * fixOne then { m := 1, e := -b } else exp2Fix x
  | .lg2 => { m := log2Fix n e, e := -fixP }
  | .sin => if small then below else { m := sinFix v e, e := -fixP }
  | .cos => if small then { m := 2 ^ 200 - 1, e := -200 } else { m := cosFix v e, e := -fixP }
  | .tanh => if small then below else { m := tanhFix (toFix v e), e := -fixP }

/-- The bound of R80 at a value. -/
def SFun.bound (f : SFun) (t : EType) (neg : Bool) (n : Nat) (e : Int) (x : Dy) : Dy :=
  if t ≠ .f32 then ulps t 1 x
  else match f with
    | .rcp | .rsq => ulps t 1 x
    | .ex2 | .tanh => ulps t 2 x
    | .sin | .cos => { m := 1, e := -22 }
    | .lg2 =>
      let inside := !fLess (.num neg n e) (.num false 1 (-1)) && !fLess (.num false 1 1) (.num neg n e)
      if inside then { m := 1, e := -22 } else ulps t 2 x

/-- A special function of one element (R79 to R81, R52). -/
def sfuElem (f : SFun) (t : EType) (m : FMode) (x : Nat) : Nat :=
  let x := fFlush m.ftz t x
  if fIsNan t x then fQuiet t x
  else match f.special (fValue t x), fValue t x with
    | some r, _ => fFinish t { m with rm := 0 } r
    | none, .num neg n e =>
      let y := f.approx neg n e
      pickBits t m y (f.bound t neg n e y) (Config.sfuPick f.code t.width x)
    | none, _ => t.qnan

/-! ## The epilogue's activations (R257) -/

/-- √(2/π) at 320 places. -/
def sqrt2Pi : Int := isqrt ((2 * fixOne * ((2 ^ 480 : Nat) : Int) / piFix * fixOne).toNat)

/-- The limit functions at v = n × 2^e: x / (1 + e^−x), or x/2 × (1 + tanh(√(2/π)(x + 0.044715x³))) (R257). -/
def actApprox (silu : Bool) (neg : Bool) (n : Nat) (e : Int) : Dy :=
  let y := toFix (signed neg n) e
  let mag : Int := y.natAbs
  -- half the argument of the logistic function that both reduce to
  let arg := if silu then mag else 2 * fixMul sqrt2Pi (mag + fixMul (fixMul (fixMul mag mag) mag) (44715 * fixOne / 1000000))
  let big := decide (600 * fixOne < arg)
  if !neg then
    if big then { m := n * fixOne - 1, e := e - fixP }
    else { m := (n : Int) * (fixOne * fixOne / (fixOne + expNeg arg)), e := e - fixP }
  else
    -- x / (1 + e^arg) = x e^−arg / (1 + e^−arg)
    let d : Dy := if big then { m := 1, e := -2000 } else exp2Fix (-(arg * fixOne / ln2Fix))
    let q := toFix d.m d.e
    { m := -((n : Int) * (d.m * fixOne / (fixOne + q))), e := e + d.e }

/-- An activation of an f32 encoding, within 2 ulp. -/
def actElem (silu : Bool) (x : Nat) : FRes :=
  match fValue .f32 x with
  | .nan => .bits x
  | .inf neg => if neg then .zero true else .inf false
  | .num neg n e =>
    if n = 0 then .zero neg
    else
      let y := actApprox silu neg n e
      .bits (pickBits .f32 { rm := 0, sat := false, ftz := false } y (ulps .f32 2 y) (Config.actPick (if silu then 1 else 0) x))

end Sys2Proof.Machine
end

