-- ==== Sys2Proof/Machine/Flags.lean ====
section
/-! DEFINITION. Sys2Proof/Machine/Flags.lean: what is computed into predicates and counters: comparisons (R71, R72), predicate logic (R73),
the carry of ADDC (R70), the guard written by shuffles (R148), the counters lc, sc and ec (R39, R88); and the frames that the
vector and scalar ALU share (R40, R47, R48, R84). -/

namespace Sys2Proof.Machine

/-! ## Comparison (R71, R72) -/

/-- One relation between two elements: eq ne lt le gt ge uo or. -/
def relElem (rel : Nat) (t : EType) (ftz : Bool) (x y : Nat) : Bool :=
  if t.isInt then
    let a := intValue t x
    let b := intValue t y
    match rel with
    | 0 => decide (a = b) | 1 => decide (a ≠ b) | 2 => decide (a < b) | 3 => decide (a ≤ b) | 4 => decide (b < a) | 5 => decide (b ≤ a)
    | 6 => false | _ => true
  else
    let x := fFlush ftz t x
    let y := fFlush ftz t y
    let un := fIsNan t x || fIsNan t y
    let a := fValue t x
    let b := fValue t y
    match rel with
    | 0 => !un && !fLess a b && !fLess b a
    | 1 => un || fLess a b || fLess b a
    | 2 => fLess a b
    | 3 => !un && !fLess b a
    | 4 => fLess b a
    | 5 => !un && !fLess a b
    | 6 => un
    | _ => !un

/-- A condition over the elements of two operands (R71): all, any, or element 0. -/
def condHolds (cond : Nat) (t : EType) (ftz : Bool) (x y : Nat) : Bool :=
  let es := List.range t.elems
  let r := fun i => relElem (cond % 8) t ftz (elemOf t x i) (elemOf t y i)
  match cond / 8 with
  | 0 => es.all r
  | 1 => es.any r
  | _ => r 0

/-- Bit (Pred(a) × 2 + Pred(b)) of a truth table (R73). -/
def truthBit (tt : Nat) (a b : Bool) : Bool := tt / 2 ^ ((if a then 2 else 0) + (if b then 1 else 0)) % 2 = 1

/-! ## Counters (R39, R88, R133) -/

/-- The three counters of a warp. -/
inductive Counter where
  | lc | sc | ec
deriving DecidableEq, Repr

def Warp.count (wp : Warp) : Counter → Nat
  | .lc => wp.lc | .sc => wp.sc | .ec => wp.ec

/-- CountUp. -/
def Warp.countUp (wp : Warp) : Counter → Warp
  | .lc => { wp with lc := wp.lc + 1 } | .sc => { wp with sc := wp.sc + 1 } | .ec => { wp with ec := wp.ec + 1 }

/-- CountDown. -/
def Warp.countDown (wp : Warp) : Counter → Warp
  | .lc => { wp with lc := wp.lc - 1 } | .sc => { wp with sc := wp.sc - 1 } | .ec => { wp with ec := wp.ec - 1 }

/-- Issue is held while the counter is at 63 (R39, R133). -/
def needCount (x : Ctx) (c : Counter) : Except Stop Unit := if 63 ≤ x.wp.count c then .error (.hold .counter) else .ok ()

/-- Count down for the warp that is still in its slot, told by its age. -/
def countDownAt (s : State) (k w age : Nat) (c : Counter) : State :=
  s.modWarp k w fun wp => if wp.age = age then wp.countDown c else wp

/-! ## The frames of the ALU -/

/-- Registers of an operand under the element type in force (R48). -/
def Ctx.width (x : Ctx) : Nat := if x.is64 then 2 else 1

/-- The form of a typed per-lane ALU instruction: sources a and b as used, the destination read when it is a third input (R47, R60). -/
def aluForm (x : Ctx) (op : Nat) (d a b : Reg) (useA useB readD : Bool) (typed : Bool) (lat : Nat) : Form :=
  { op := op, classes := Reg.vz d, a := a, b := b, aw := if useA then x.width else 0, bw := if useB then x.width else 0,
    aLane := useA && !x.is64, bLane := useB && !x.is64, res := !x.is64, more := if readD then [(d, x.width)] else [],
    writes := [(d, x.width)], typed := typed, lat := lat }

/-- R40: check, compute in every acting lane, write, push what hold asks for. -/
def laneOp (x : Ctx) (f : Form) (d : Reg) (n : Nat) (r : Nat → Nat) : Except Stop State := do
  check x f
  return retire x f (x.setWarp (x.wp.dst (f.lanes x) d n r)) fun l => w32 (r l)

/-- A typed instruction that works element by element on a, b and the old d. -/
def elemOp (x : Ctx) (f : Form) (d : Reg) (e : Nat → Nat → Nat → Nat) : Except Stop State :=
  laneOp x f d x.width fun l => perElem x.t e (opA x f.a l) (opB x f.b l) (opD x d l)

/-- Latencies (R60, R136). -/
def latAdd (t : EType) : Nat := if t.isInt then 4 else if t.is64 then 10 else 5
def latMul (t : EType) : Nat := if t.is64 then 10 else if t.isInt then 4 else 5
def latDiv (t : EType) : Nat := if t.is64 then 28 else 14

/-- The form of a scalar ALU instruction (R84): read once, whatever the lanes. -/
def scalForm (x : Ctx) (op : Nat) (d a b : Reg) (useA useB : Bool) : Form :=
  { op := op, classes := Reg.sz d && (!useA || Reg.unif a) && (!useB || Reg.unif b), guard := false, once := true,
    more := (if useA then [(a, x.width)] else []) ++ (if useB then [(b, x.width)] else []), writes := [(d, x.width)], lat := 2 }

/-- A scalar source under w (R84). -/
def Ctx.scal (x : Ctx) (r : Reg) : Nat := if x.is64 then (x.rd64 0 r).toNat else (x.rd 0 r).toNat

/-- A scalar ALU instruction whose result is a function of its sources, mod 2^w. -/
def scalarOp (x : Ctx) (f : Form) (d : Reg) (r : Nat) : Except Stop State := do
  check x f
  return retire x f (x.setWarp (x.wp.dstS d x.width r))

/-- The width of scalar arithmetic: 64 under i64, n64 and f64. -/
def Ctx.bits (x : Ctx) : Nat := if x.is64 then 64 else 32

end Sys2Proof.Machine
end

