-- ==== Sys2Proof/Machine/VectorAlu.lean ====
section
/-! DEFINITION. Sys2Proof/Machine/VectorAlu.lean: opcodes 0x10 to 0x1F (R60 to R65). -/

namespace Sys2Proof.Machine

/-- integer and float, the types of the arithmetic instructions (R60). -/
def arithType (t : EType) : Bool := t.isInt || t.isFloat

/-- ADD of elements (R51, R52, R62). -/
def addElem (t : EType) (m : FMode) (x y : Nat) : Nat :=
  if t.isInt then intResult t m.sat (intValue t x + intValue t y)
  else floatOp t m (fun vs => match vs with | [a, b] => addVals m.rm a b | _ => .invalid) [x, y]

/-- SUB of elements. -/
def subElem (t : EType) (m : FMode) (x y : Nat) : Nat :=
  if t.isInt then intResult t m.sat (intValue t x - intValue t y)
  else floatOp t m (fun vs => match vs with | [a, b] => addVals m.rm a (negVal b) | _ => .invalid) [x, y]

/-- MUL of elements. -/
def mulElem (t : EType) (m : FMode) (x y : Nat) : Nat :=
  if t.isInt then intResult t m.sat (intValue t x * intValue t y)
  else floatOp t m (fun vs => match vs with | [a, b] => valRes (mulVals a b) | _ => .invalid) [x, y]

/-- MULH of elements: the high half of the integer product. -/
def mulhElem (t : EType) (x y : Nat) : Nat := wrapN ((intValue t x * intValue t y) / ((2 ^ t.width : Nat) : Int)) t.width

/-- MAD of elements: fused, one rounding. -/
def madElem (t : EType) (m : FMode) (x y c : Nat) : Nat :=
  if t.isInt then intResult t m.sat (intValue t x * intValue t y + intValue t c)
  else floatOp t m (fun vs => match vs with
    | [a, b, d] => (match mulVals a b with
      | .nan => .invalid
      | p => addVals m.rm p d)
    | _ => .invalid) [x, y, c]

/-- NEG: R51 for integers, the sign bit alone for every float type. -/
def negElem (t : EType) (m : FMode) (x : Nat) : Nat :=
  if t.isInt then intResult t m.sat (-(intValue t x)) else fSign t (!fNeg t x) (fMag t x)

/-- ABS. -/
def absElem (t : EType) (m : FMode) (x : Nat) : Nat :=
  if t.isInt then intResult t m.sat ((intValue t x).natAbs) else fMag t x

/-- DIV of elements (R64): toward zero; a zero divisor gives all ones. -/
def divElem (t : EType) (m : FMode) (x y : Nat) : Nat :=
  if t.isInt then
    let a := intValue t x
    let b := intValue t y
    if b = 0 then 2 ^ t.width - 1 else intResult t m.sat (Int.tdiv a b)
  else floatOp t m (fun vs => match vs with | [a, b] => divVals a b | _ => .invalid) [x, y]

/-- REM of elements (R64): the sign of a; a zero divisor gives the dividend. -/
def remElem (t : EType) (m : FMode) (x y : Nat) : Nat :=
  if t.isInt then
    let a := intValue t x
    let b := intValue t y
    if b = 0 then x else wrapN (Int.tmod a b) t.width
  else floatOp t m (fun vs => match vs with | [a, b] => remVals a b | _ => .invalid) [x, y]

/-- CLAMP of elements: Min(Max(d, a), b) (R63). -/
def clampElem (t : EType) (m : FMode) (x y c : Nat) : Nat := minMax false t m (minMax true t m c x) y

/-- MOV (R61): copies a, or sets a predicate where a is not zero. -/
def execMov (d a : Reg) (s : State) : Host.Outcome State Fault Refusal :=
  run s fun x =>
    let f := { aluForm x 0x10 d a .z true false false true 4 with classes := Reg.vz d || Reg.isP d, res := Reg.vz d && decide (x.width = 1) }
    laneOp x f d x.width fun l => opA x a l

/-- MOVI (R61): the sign-extended immediate, to a pair under a 64-bit type. -/
def execMovi (d : Reg) (n : BitVec 16) (s : State) : Host.Outcome State Fault Refusal :=
  run s fun x => laneOp x (aluForm x 0x11 d .z .z false false false true 4) d x.width fun _ => wrapN n.toInt x.bits

/-- MOVH (R61): bits [31:16] of the 32-bit register d, whatever the element type. -/
def execMovh (d : Reg) (n : BitVec 16) (s : State) : Host.Outcome State Fault Refusal :=
  run s fun x =>
    let f : Form := { op := 0x12, classes := Reg.vz d, res := true, more := [(d, 1)], writes := [(d, 1)], lat := 4 }
    laneOp x f d 1 fun l => n.toNat * 65536 + (x.rd l d).toNat % 65536

/-- ADD (R62). -/
def execAdd (d a b : Reg) (s : State) : Host.Outcome State Fault Refusal :=
  run s fun x => elemOp x (aluForm x 0x13 d a b true true false (arithType x.t) (latAdd x.t)) d fun p q _ => addElem x.t x.fm p q

/-- SUB (R62). -/
def execSub (d a b : Reg) (s : State) : Host.Outcome State Fault Refusal :=
  run s fun x => elemOp x (aluForm x 0x14 d a b true true false (arithType x.t) (latAdd x.t)) d fun p q _ => subElem x.t x.fm p q

/-- MUL (R62). -/
def execMul (d a b : Reg) (s : State) : Host.Outcome State Fault Refusal :=
  run s fun x => elemOp x (aluForm x 0x15 d a b true true false (arithType x.t) (latMul x.t)) d fun p q _ => mulElem x.t x.fm p q

/-- MULH (R62). -/
def execMulh (d a b : Reg) (s : State) : Host.Outcome State Fault Refusal :=
  run s fun x => elemOp x (aluForm x 0x16 d a b true true false x.t.isInt (latMul x.t)) d fun p q _ => mulhElem x.t p q

/-- MAD (R62). -/
def execMad (d a b : Reg) (s : State) : Host.Outcome State Fault Refusal :=
  run s fun x => elemOp x (aluForm x 0x17 d a b true true true (arithType x.t) (latMul x.t)) d fun p q c => madElem x.t x.fm p q c

/-- NEG (R62). -/
def execNeg (d a : Reg) (s : State) : Host.Outcome State Fault Refusal :=
  run s fun x => elemOp x (aluForm x 0x18 d a .z true false false true 4) d fun p _ _ => negElem x.t x.fm p

/-- ABS (R62). -/
def execAbs (d a : Reg) (s : State) : Host.Outcome State Fault Refusal :=
  run s fun x => elemOp x (aluForm x 0x19 d a .z true false false true 4) d fun p _ _ => absElem x.t x.fm p

/-- MIN (R63). -/
def execMin (d a b : Reg) (s : State) : Host.Outcome State Fault Refusal :=
  run s fun x => elemOp x (aluForm x 0x1A d a b true true false true 4) d fun p q _ => minMax false x.t x.fm p q

/-- MAX (R63). -/
def execMax (d a b : Reg) (s : State) : Host.Outcome State Fault Refusal :=
  run s fun x => elemOp x (aluForm x 0x1B d a b true true false true 4) d fun p q _ => minMax true x.t x.fm p q

/-- DIV (R64). -/
def execDiv (d a b : Reg) (s : State) : Host.Outcome State Fault Refusal :=
  run s fun x => elemOp x (aluForm x 0x1C d a b true true false (arithType x.t) (latDiv x.t)) d fun p q _ => divElem x.t x.fm p q

/-- REM (R64). -/
def execRem (d a b : Reg) (s : State) : Host.Outcome State Fault Refusal :=
  run s fun x => elemOp x (aluForm x 0x1D d a b true true false (arithType x.t) (latDiv x.t)) d fun p q _ => remElem x.t x.fm p q

/-- CLAMP (R63). -/
def execClamp (d a b : Reg) (s : State) : Host.Outcome State Fault Refusal :=
  run s fun x => elemOp x (aluForm x 0x1E d a b true true true true 4) d fun p q c => clampElem x.t x.fm p q c

/-- SEL (R65): in every lane of the gang, a where the guard holds, b elsewhere. -/
def execSel (d a b : Reg) (s : State) : Host.Outcome State Fault Refusal :=
  run s fun x =>
    let f := { aluForm x 0x1F d a b true true false true 4 with acts := some x.gn.mask }
    laneOp x f d x.width fun l => if x.active.getLsbD l then opA x a l else opB x b l

end Sys2Proof.Machine
end

