-- ==== Sys2Proof/Machine/Memory.lean ====
section
/-! DEFINITION. Sys2Proof/Machine/Memory.lean: the operations that every memory access shares: the checks of R87, the place of an address
(R213, R214, R221 to R223, R358), the L1 (R216), writes at a home with what they set off (R203, R413), the path of a core's requests (R229). -/

namespace Sys2Proof.Machine

/-! ## Places -/

/-- The HBM slices whose interleave is in force for a granule (R214, R383). -/
def hbmSlices (pt : Partition) (granule : Nat) : List Nat :=
  match pt.resize with
  | some r => if granule < r.moving then r.target else r.old
  | none => pt.slices

/-- The home slice of an HBM address among the slices of a partition (R214). -/
def hbmHome (slices : List Nat) (pa : Nat) : Nat :=
  let n := slices.length
  let g := bitsN pa 47 12
  let q := g / n
  let f := bitsN q 7 0 ^^^ bitsN q 15 8 ^^^ bitsN q 23 16
  slices.getD ((g % n + f) % n) 0

/-- The byte within the home slice's stack (R214). -/
def hbmLocal (n pa : Nat) : Nat := bitsN pa 47 12 / n * 4096 + bitsN pa 11 0

/-- The L2 bank of the home slice (R214). -/
def hbmBank (n pa : Nat) : Nat := bitsN pa 11 7 ^^^ bitsN (bitsN pa 47 12 / n) 4 0

/-- The home slice of a key that lies in HBM. -/
def homeSlice (s : State) (key : Nat) : Nat := hbmHome (hbmSlices (partAt s (key / 2 ^ 52)) (bitsN (paOf key) 47 12)) (paOf key)

/-- The slice that holds a cistern region (R223). -/
def regionSlice (r : Nat) : Nat :=
  let d := r / 24
  let j := r % 24 / 6
  8 * (2 * (d / 4) + j / 2) + (2 * (d % 4) + j % 2)

/-- The region of a cistern key (R221). -/
def cisternRegion (key : Nat) : Nat := bitsN (paOf key) 47 0 / 2 ^ 26

/-- Whether a cistern region belongs to a partition (R223). -/
def regionOf (s : State) (p r : Nat) : Bool := decide ((sliceAt s (regionSlice r)).part = some p)

/-- The key of a physical address as a tree sees it: a paired cistern region is read in the bound generation (R222). -/
def boundKey (s : State) (p : Nat) (tree : Option Nat) (pa : Nat) : Nat :=
  let key := physKey p pa
  if paKind key ≠ 1 then key
  else
    let pair := cisternRegion key / 2
    if !s.paired.contains pair then key
    else
      let bound := match tree.bind fun t => AMap.get? s.trees t with
        | some t => t.bound
        | none => (partAt s p).current
      let a := key - 2 ^ 26 * (cisternRegion key % 2)
      if bound.contains pair then a + 2 ^ 26 else a

/-- Where a pod address is performed (R358 to R360, R362). -/
inductive PodPlace where
  | at_ (key : Nat)
  | error (cause : Nat)
  /-- A window that another module exports: only its answer tells. -/
  | outside
deriving DecidableEq, Repr

/-- The port that leads to the node of a pod key. -/
def podPort (key : Nat) : Nat := bitsN (paOf key) 47 42

def podPlace (s : State) (key : Nat) (write : Bool) : PodPlace :=
  let k := podPort key
  let off := bitsN (paOf key) 41 0
  if !((AMap.getD s.ports k {}).up) then .error 4
  else if bitsN off 41 41 = 0 then (if Config.nodeBacks k off then .at_ key else .error 2)
  else match s.windows.find? fun w => decide (w.node = k) && decide (w.win = bitsN off 40 35) with
    | none => .outside
    | some w =>
      let b := bitsN off 34 0
      let target := physKey w.part (w.base + b)
      let owner := (AMap.getD s.pot (target / 65536) {}).owner
      if !w.importers.getLsbD s.moduleId || decide (w.length ≤ b) then .error 3
      else if write && (!w.w || decide (owner ≠ 0 ∧ owner ≠ 0xFFFF)) then .error 3
      else if !write && (!w.r || (AMap.getD s.pot (target / 65536) {}).world) then .error 3
      else .at_ target

/-- The tensor that maps a CXL key for a protected domain (R301, R369). -/
def tensorAt (s : State) (key : Nat) : Option (Nat × Tensor) :=
  if paKind key ≠ 3 then none else s.tensors.find? fun (_, t) => decide (t.base ≤ key) && decide (key < t.base + t.length)

/-! ## Reports and publications -/

/-- An uncorrectable error or a fabric error is reported at service core 0 of a slice (R335, R377); an earlier address stays. -/
def reportError (s : State) (slice pa : Nat) : State :=
  s.modCore (512 + 4 * slice) fun c =>
    { c with svc := { c.svc with ipend := c.svc.ipend ||| 4, errAddr := if c.svc.ipend.getLsbD 2 then c.svc.errAddr else BitVec.ofNat 64 pa } }

/-- The lines written on a core by a domain, per scope 2 to 5, with one more (R234). -/
def Core.wrote (c : Core) (did : BitVec 16) (line : Nat) : Core :=
  let add := fun (l : List Nat) => if l.contains line then l else l ++ [line]
  if c.written.any fun (d, _) => decide (d = did) then { c with written := c.written.map fun (d, ls) => if d = did then (d, ls.map add) else (d, ls) }
  else { c with written := c.written ++ [(did, [[line], [line], [line], [line]])] }

/-! ## Writes at a home -/

/-- The gangs whose monitor watches a line, as cursors (R203). -/
def watchersOf (s : State) (line : Nat) : List Cursor :=
  s.cores.flatMap fun (k, c) => c.warps.flatMap fun (w, wp) =>
    (wp.gangs.filter fun (_, gn) => match gn.monitor with | some m => decide (m.line = line) && !m.lost | none => false).map fun (g, _) =>
      { core := k, w := w, g := g }

/-- A WSLEEP ends with a status, its monitor disarmed (R203, R204). -/
def endSleep (s : State) (q : Cursor) (status : Nat) : State :=
  match gangAt s q.core q.w q.g with
  | none => s
  | some gn => match gn.status with
    | .waiting (.sleep d _) =>
      let s := s.modGang q.core q.w q.g fun gn => { gn with monitor := none }
      wake (s.modWarp q.core q.w fun wp => wp.dstS d 1 status) q.core q.w q.g
    | _ => s

/-- A write reaches a watched line: a sleeper wakes with status 0, a monitor whose gang does not sleep yet is hit (R203). -/
def wakeWatchers (s : State) (line : Nat) : State :=
  (watchersOf s line).foldl (fun s q =>
    match gangAt s q.core q.w q.g with
    | none => s
    | some gn => match gn.status with
      | .waiting (.sleep _ _) => endSleep s q 0
      | _ => s.modGang q.core q.w q.g fun gn => { gn with monitor := gn.monitor.map fun m => { m with hit := true } }) s

/-- The core whose debug mailbox has its command word at a key (R412, R413). -/
def mailboxCore (s : State) (key n : Nat) : Option Nat :=
  (s.cores.find? fun (k, _) => match mailboxKey s k with | some a => decide (a < key + n) && decide (key < a + 4) | none => false).map Prod.fst

/-- A store to a mailbox's command word starts a command, unless one is busy (R413). -/
def mailboxStore (s : State) (key n : Nat) : State :=
  match mailboxCore s key n with
  | none => s
  | some k => match mailboxKey s k with
    | none => s
    | some a => if memWord s (a + 4) = 1 then s else memPutNat (s.modCore k fun c => { c with mailbox := some (memWord s a &&& 0x7FFFFFFF) }) (a + 4) 4 1

/-- The key of the record of a warp slot, in the area of the domain in force (R324, R330). -/
def recordKey (s : State) (k w : Nat) : Option Nat :=
  (warpAt s k w).bind fun wp => (slotOf (coreAt s k) wp.didNow).map fun (_, sl) => physKey (corePart s k) (recordPa sl w)

/-- The warp slots whose record stands and has its disposition word in a range. -/
def recordsHit (s : State) (key n : Nat) : List (Nat × Nat) :=
  s.cores.flatMap fun (k, c) => (c.warps.filter fun (w, wp) => wp.recordLive.isSome &&
    match recordKey s k w with | some a => decide (a + 60 < key + n) && decide (key < a + 64) | none => false).map fun (w, _) => (k, w)

/-- Stores of dispositions are remembered in the order in which they reach their homes, the first for each record (R331); a value that names no
disposition is ignored (R309). -/
def dispositionStore (s : State) (key n : Nat) : State :=
  (recordsHit s key n).foldl (fun s e =>
    let v := match recordKey s e.1 e.2 with | some a => memNat s (a + 60) 4 | none => 0
    if decide (v = 0) || decide (3 < v) || s.disposals.any (fun d => decide (d.1 = e.1) && decide (d.2.1 = e.2)) then s
    else { s with disposals := s.disposals ++ [(e.1, e.2, v)] }) s

/-- Dispositions of some warp slots of a core are forgotten with the warps. -/
def dropDisposals (s : State) (k : Nat) (gone : Nat → Bool) : State := { s with disposals := s.disposals.filter fun d => !(decide (d.1 = k) && gone d.2.1) }

/-- Bytes are written at their home: the watchers of their lines, a debug mailbox and a trap record see the write. -/
def homeWrite (s : State) (key : Nat) (bs : List Byte) : State :=
  if bs.isEmpty then s
  else
    let s := dispositionStore (memPut s key bs) key bs.length
    let s := if key / 128 = (key + bs.length - 1) / 128 then wakeWatchers s (lineOf key) else
      ((List.range ((key + bs.length - 1) / 128 - key / 128 + 1)).map (key / 128 + ·)).foldl wakeWatchers s
    mailboxStore s key bs.length

def homeWriteNat (s : State) (key n v : Nat) : State := homeWrite s key (natLe n v)

/-- The oldest record that waits is written (R331), with the disposition that was kept for it while its domain was halted (R336). -/
def recordOut (s : State) (k w : Nat) (wp : Warp) (d : Deferred) (rest : List Deferred) : State :=
  let s := writeRecord (s.modWarp k w fun wp => { wp with deferred := rest, lateDisp := 0 }) k w d
  match recordKey s k w with
  | some key => if wp.lateDisp = 0 then s else homeWriteNat s (key + 60) 4 wp.lateDisp
  | none => s

/-- The lines that monitors watch. -/
def watchedLines (s : State) : List Nat :=
  (s.cores.flatMap fun (_, c) => c.warps.flatMap fun (_, wp) => wp.gangs.filterMap fun (_, gn) => gn.monitor.map fun m => m.line).eraseDups

/-- Lines written with contents that the spec does not lay out: free values. -/
def homeFill (s : State) (key lines : Nat) : State :=
  let s := (List.range lines).foldl (fun s i => memPutNat s (key + 128 * i) 128 (Config.freeNat (s.free + i))) s
  ((watchedLines s).filter fun l => decide (key / 128 ≤ l) && decide (l < key / 128 + lines)).foldl wakeWatchers { s with free := s.free + lines }

/-- An engine's write into memory: performed at its home and published to every board it can be read through (R236). -/
def engineWrite (s : State) (slice part : Nat) (did : BitVec 16) (key : Nat) (bs : List Byte) : State :=
  if bs.isEmpty then s
  else
    let s := homeWrite s key bs
    let lines := (List.range ((key + bs.length - 1) / 128 - key / 128 + 1)).map (key / 128 + ·)
    if paKind key = 0 then publishWide s (homeSlice s key) (key / 2 ^ 52) did lines else publishWide s slice part did lines

/-! ## The checks of R87 -/

/-- What an access asks of its pages. -/
structure Ask where
  size : Nat
  write : Bool
  /-- The translation detail that a page kind raises (R183, R187, R202). -/
  kindDetail : Nat → Option Nat := fun _ => none

/-- The entry that translates an address for a domain on a core. -/
def entryFor (c : Core) (did : BitVec 16) (va : DWord) : Option TlbEntry :=
  match tlbLook c did va with
  | .hit e => some e
  | _ => none

/-- The translation fault that an access takes on a page that is translated (R87 step 3, R183, R187, R202, R301). -/
def leafFault (s : State) (c : Core) (part : Nat) (did : BitVec 16) (tree : Option Nat) (ask : Ask) (wholeLine : Nat → Bool) (hitL1 : Nat → Bool)
    (e : TlbEntry) (va : DWord) : Option Nat :=
  let key := boundKey s part tree (e.paOf va)
  match ask.kindDetail (paKind key) with
  | some d => some d
  | none =>
    if ask.write && !e.w && decide (paKind key ≠ 1) then some 1
    else if !worldOf c did then none
    else match tensorAt s key with
      | none => none
      | some (_, t) =>
        if ask.write then (if t.open_ && wholeLine key && !t.lines.contains ((key - t.base) / 128) then none else some 7)
        else if t.open_ && !hitL1 key then some 6 else none

/-- The translation fault of an address, when it has one at step 3 of R87; it comes before the refusal of the frame's owner (step 4). -/
def step3 (s : State) (c : Core) (part : Nat) (did : BitVec 16) (tree : Option Nat) (ask : Ask) (wholeLine : Nat → Bool) (hitL1 : Nat → Bool)
    (va : DWord) : Option Nat :=
  match tlbLook c did va with
  | .notCanonical => some 9
  | .miss => none
  | .refused cause d => if cause = 0x08 then some d else (leafOf c did va).bind fun e => leafFault s c part did tree ask wholeLine hitL1 e va
  | .hit e => leafFault s c part did tree ask wholeLine hitL1 e va

/-- The checks of R87, steps 2 to 5, over lanes and their addresses; a missing translation holds the gang. For an access of the
whole warp the record names the active lanes (R91, R330). Where lanes fail step 3 with different details, the record has the lowest lane's
(DESIGN CHOICE, log entry 46: R87 does not say which). -/
def checkAccess (x : Ctx) (ask : Ask) (whole : Bool) (lanes : Mask) (va : Nat → DWord) (wholeLine hitL1 : Nat → Bool) : Except Stop Unit := do
  let fail := fun (bad : Mask) (cause detail : Nat) =>
    need (decide (bad = 0)) { cause := cause, detail := detail, lanes := if whole then none else some bad, addr := va (firstLane bad) }
  fail (laneWhere lanes fun l => decide ((va l).toNat % ask.size ≠ 0)) 0x0A 0
  let missing := laneWhere lanes fun l => decide (tlbLook x.c x.did (va l) = .miss)
  if missing ≠ 0 then .error (.miss x.did ((lanesOf missing).map va))
  let d3 := fun l => step3 x.s x.c x.part x.did x.wp.tree ask wholeLine hitL1 (va l)
  let bad3 := laneWhere lanes fun l => (d3 l).isSome
  fail bad3 0x08 ((d3 (firstLane bad3)).getD 0)
  fail (laneWhere lanes fun l => match tlbLook x.c x.did (va l) with | .refused c _ => decide (c = 0x09) | _ => false) 0x09 2
  fail (laneWhere lanes fun l => ask.write && (match entryFor x.c x.did (va l) with | some e => decide (paKind (e.paOf (va l)) = 1) | none => false)) 0x10 0

/-- The physical key of a translated address. -/
def keyFor (x : Ctx) (va : DWord) : Nat :=
  match entryFor x.c x.did va with
  | some e => boundKey x.s x.part x.wp.tree (e.paOf va)
  | none => 0

/-- A key lies in the dual-map window of a resize: its granule is being moved (R383). -/
def inDualMap (s : State) (key : Nat) : Bool :=
  paKind key = 0 && match (partAt s (key / 2 ^ 52)).resize with
    | some r => decide (r.moving ≤ bitsN (paOf key) 47 12) && decide (bitsN (paOf key) 47 12 < r.moving + 64) && decide (r.moving < r.total)
    | none => false

/-- Requests to a key are held: its CXL Type 2 region is the processor's, until it is reclaimed (R368), or it lies in the dual-map window, until
the group has moved (R383). -/
def keyShut (s : State) (key : Nat) : Bool := paKind key = 0 && ((partAt s (key / 2 ^ 52)).hostOwned.contains (paOf key / 2 ^ 21) || inDualMap s key)

/-- A request of an instruction is held, and for which key. -/
def hostHeld (x : Ctx) (keys : List Nat) : Bool := keys.any (keyShut x.s)
def shutCause (x : Ctx) (keys : List Nat) : HoldCause := .host ((keys.find? (keyShut x.s)).getD 0)

/-! ## The L1 (R216) -/

/-- Bytes written as a map that lists zeros too. -/
def rawWrite (m : List Host.Cell) (a : Nat) : List Byte → List Host.Cell
  | [] => m
  | b :: bs => rawWrite (AMap.put m a b) (a + 1) bs


/-- The way mask of a domain on a core; a service or firmware core's cache has one owner. -/
def wayMask (k : Nat) (c : Core) (did : BitVec 16) : Nat :=
  if isCompute k then (match slotOf c did with | some (_, sl) => bitsW sl.w2 31 16 | none => 0) else 0xFFFF

def setOf (line : Nat) : Nat := line % 128

/-- The valid sector of a domain's line. -/
def l1Sector (c : Core) (did : BitVec 16) (sector : Nat) : Option L1Sector :=
  (c.l1.find? fun ln => decide (ln.did = did) && decide (ln.line = sector / 4)).bind fun ln => ln.sectors.find? fun q => decide (q.sector = sector)

/-- A use of a line makes it the most recent. -/
def l1Touch (c : Core) (did : BitVec 16) (line : Nat) : Core :=
  { c with l1Clock := c.l1Clock + 1, l1 := mapIf (fun ln => decide (ln.did = did) && decide (ln.line = line)) (fun ln => { ln with used := c.l1Clock + 1 }) c.l1 }

/-- The way that a new line of a set takes: a free way of the mask, else the one used least recently. -/
def victimWay (c : Core) (mask set : Nat) : Option Nat :=
  let ways := (List.range 16).filter fun w => mask / 2 ^ w % 2 = 1
  let there := c.l1.filter fun ln => decide (setOf ln.line = set)
  match ways.find? fun w => !there.any fun ln => decide (ln.way = w) with
  | some w => some w
  | none => ((there.filter fun ln => ways.contains ln.way).foldl (fun (best : Option L1Line) ln => match best with
      | some b => if ln.used < b.used then some ln else some b
      | none => some ln) none).map fun ln => ln.way

/-- Fill a sector of a domain's line. -/
def l1Fill (k : Nat) (c : Core) (did : BitVec 16) (q : L1Sector) : Core :=
  let line := q.sector / 4
  let c := { c with l1Clock := c.l1Clock + 1 }
  let mine := fun (ln : L1Line) => decide (ln.did = did) && decide (ln.line = line)
  let put := fun (ln : L1Line) => { ln with used := c.l1Clock, sectors := q :: ln.sectors.filter fun r => decide (r.sector ≠ q.sector) }
  if c.asleep.contains .l1 || c.scrubbing.contains .l1 then c
  else if c.l1.any mine then { c.taint did [.l1] with l1 := mapIf mine put c.l1 }
  else match victimWay c (wayMask k c did) (setOf line) with
    | none => c
    | some w =>
      let kept := c.l1.filter fun ln => !(decide (setOf ln.line = setOf line) && decide (ln.way = w))
      { c.taint did [.l1] with l1 := kept ++ [{ line := line, did := did, way := w, used := c.l1Clock, sectors := [q] }] }

/-- Bytes stored into the sectors of a domain's line that are present. -/
def l1Store (c : Core) (did : BitVec 16) (key : Nat) (bs : List Byte) : Core :=
  let put := fun (q : L1Sector) =>
    { q with bytes := cellsWrite q.bytes key bs, poison := q.poison.filter fun w => !(decide (key ≤ 4 * w) && decide (4 * w + 4 ≤ key + bs.length)) }
  let line := fun (ln : L1Line) => { ln with sectors := mapIf (fun q => decide (q.sector = key / 32)) put ln.sectors }
  { c with l1 := mapIf (fun ln => decide (ln.did = did) && decide (ln.line = key / 128)) line c.l1 }

/-- Sectors that pass leave the L1, and fills of them that are in flight do not enter it. -/
def l1Drop (c : Core) (did : Option (BitVec 16)) (p : Nat → Bool) : Core :=
  let hit := fun (d : BitVec 16) => match did with | some e => decide (d = e) | none => true
  let strip := fun (ln : L1Line) => if hit ln.did then { ln with sectors := ln.sectors.filter fun q => !p q.sector } else ln
  { c with l1 := (c.l1.map strip).filter fun ln => !ln.sectors.isEmpty,
           inflight := c.inflight.map fun ac => if hit ac.did then { ac with parts := ac.parts.map fun pt => { pt with fills := pt.fills.filter fun q => !p q } } else ac }

/-! ## Accesses -/

/-- The distinct elements of a list of numbers, rising. -/
def insertNat (n : Nat) : List Nat → List Nat
  | [] => [n]
  | m :: l => if n < m then n :: m :: l else if n = m then m :: l else m :: insertNat n l
def risingNat (l : List Nat) : List Nat := l.foldl (fun acc n => insertNat n acc) []

/-- The line parts of an access, in ascending order (R217). -/
def linesOf (lanes : List LaneAcc) : List (Nat × List Nat) :=
  (risingNat (lanes.map fun la => la.pa / 128)).map fun ln =>
    (ln, risingNat ((lanes.filter fun la => decide (la.pa / 128 = ln)).map fun la => la.pa / 32))

/-- Requests to pod addresses carry fabric tags (R353). -/
def tagFor (tag line : Nat) : Option Nat := if paKind (128 * line) = 2 then some (tag % 65536) else none

/-- Number the requests of an access. -/
def tagParts (s : State) (parts : List LinePart) : List LinePart × Nat :=
  parts.foldl (fun (acc, t) p => (acc ++ [{ p with tag := tagFor t p.line }], if paKind (128 * p.line) = 2 then t + 1 else t)) ([], s.nextTag)
def tagLanes (s : State) (lanes : List LaneAcc) : List LaneAcc × Nat :=
  lanes.foldl (fun (acc, t) la => (acc ++ [{ la with tag := tagFor t (la.pa / 128) }], if paKind la.pa = 2 then t + 1 else t)) ([], s.nextTag)

/-- Put an access at the end of a core's path, with its requests numbered. -/
def pushAccess (s : State) (k : Nat) (ac : Access) : State :=
  let (parts, t1) := tagParts s ac.parts
  let (lanes, t2) := if ac.parts.isEmpty then tagLanes s ac.lanes else (ac.lanes, t1)
  let s := { s with nextTag := max t1 t2 }
  s.modCore k fun c => { c with inflight := c.inflight ++ [{ ac with id := c.nextId, born := c.clk, parts := parts, lanes := lanes }], nextId := c.nextId + 1 }

/-- A tree has read a cistern region (R222). -/
def markRead (s : State) (tree : Option Nat) (keys : List Nat) : State :=
  match tree with
  | none => s
  | some t => { s with trees := AMap.modify s.trees t fun tr =>
      { tr with read := (keys.filter fun k => decide (paKind k = 1)).foldl (fun l k => insertNat (cisternRegion k) l) tr.read } }

/-- Whether an access still has a request for a line to send or perform (R229). -/
def Access.requests (ac : Access) (line : Nat) : Bool :=
  match ac.kind with
  | .lds | .gathered => false
  | .load | .ldw | .store | .watch | .pref => !ac.abandoned && ac.parts.any fun p => decide (p.line = line) && !p.performed
  | .atomic _ | .red _ | .merged _ => ac.lanes.any fun la => decide (la.pa / 128 = line) && !la.done

/-- Whether a piece of a copy that left the core before an access has still to be performed on a line (R229). -/
def Command.pieceOn (q : Command) (id line : Nat) : Bool :=
  q.started && decide (q.mark ≤ id) && q.pages.any fun (off, key) => decide (key / 128 = line) && !q.landed.contains off

/-- No earlier access of the core waits before a number to request a line (R229). -/
def clearBefore (c : Core) (id line : Nat) : Bool := !(c.inflight.filter fun ac => decide (ac.id < id)).any fun ac => ac.requests line

/-- No earlier request of the core to a line waits before an access (R229). -/
def firstOnPath (c : Core) (id line : Nat) : Bool :=
  !(c.inflight.takeWhile fun ac => decide (ac.id ≠ id)).any (fun ac => ac.requests line) && !(c.cq0 ++ c.cq1).any fun q => q.pieceOn id line

def accessAt (s : State) (k id : Nat) : Option Access := (coreAt s k).inflight.find? fun ac => decide (ac.id = id)
def State.modAccess (s : State) (k id : Nat) (f : Access → Access) : State :=
  s.modCore k fun c => { c with inflight := mapIf (fun ac => decide (ac.id = id)) f c.inflight }
def dropAccess (s : State) (k id : Nat) : State := s.modCore k fun c => { c with inflight := c.inflight.filter fun ac => decide (ac.id ≠ id) }

/-! ## The combining buffer (R190) -/

/-- Whether an entry holds a byte of a range. -/
def CombineEntry.overlaps (e : CombineEntry) (key n : Nat) : Bool := decide (e.pa < key + n) && decide (key < e.pa + e.width / 8)

/-- The mode fields of a buffered reduction, as a mode word. -/
def CombineEntry.mode (e : CombineEntry) : Word := w32 (16 * e.etype + 512 * e.rnd + (if e.ftz then 8192 else 0))

/-- Entries that pass leave for their homes as merged operations. -/
def flushEntries (s : State) (k : Nat) (p : CombineEntry → Bool) : State :=
  let out := (coreAt s k).combine.filter p
  let s := s.modCore k fun c => { c with combine := c.combine.filter fun e => !p e }
  out.foldl (fun s e => pushAccess s k { id := 0, did := e.did, kind := .merged e.op, mode := e.mode, combined := e.val, contributors := e.contributors,
                                         lanes := [{ lane := 0, pa := e.pa, size := e.width / 8 }] }) s

/-- Whether a warp, told by slot and age, contributed to an entry. -/
def contributed (c : Core) (w age : Nat) (e : CombineEntry) : Bool :=
  e.contributors.any fun (id, _) => c.inflight.any fun ac => decide (ac.id = id) && decide (ac.w = w) && decide (ac.warpAge = age)

/-- A merged operation or a reduction on some of the bytes is on its way. -/
def mergedOver (c : Core) (ranges : List (Nat × Nat)) : Bool :=
  c.inflight.any fun ac => match ac.kind with
    | .merged _ | .red _ => ac.lanes.any fun la => ranges.any fun (k, n) => decide (la.pa < k + n) && decide (k < la.pa + la.size)
    | _ => false

/-- An access to bytes that the combining buffer holds, or that a merged operation or a reduction on its way will write, waits: the entries
are flushed and the gang held until they have been performed (R89, R190). -/
def flushFor (x : Ctx) (ranges : List (Nat × Nat)) (same : CombineEntry → Bool) : Option State :=
  let p := fun e => !same e && ranges.any fun (k, n) => e.overlaps k n
  if x.c.combine.any p || mergedOver x.c ranges then
    some ((flushEntries x.s x.k p).modGang x.k x.w x.g fun gn => { gn with status := .held .flush })
  else none

/-! ## Watchpoints (R412, R414) -/

/-- Whether some bytes overlap the range of an enabled watch register of a kind and space. -/
def WatchReg.matches_ (r : WatchReg) (did : BitVec 16) (space : Bool) (kind : Nat) (ranges : List (Nat × Nat)) : Bool :=
  let n := 2 ^ bitsW r.reg 27 24
  let base := r.addr.toNat / n * n
  r.reg.getLsbD 31 && decide (r.did = did) && (r.reg.getLsbD 28 == space) && (decide (bitsW r.reg 30 29 = 3) || decide (bitsW r.reg 30 29 = kind))
  && ranges.any fun (a, k) => decide (base < a + k) && decide (a < base + n)

/-- The lowest watch register that an access of the gang matches; a protected domain matches none. -/
def watchHit (x : Ctx) (space : Bool) (kind : Nat) (ranges : List (Nat × Nat)) : Option Nat :=
  if x.world || !isCompute x.k then none
  else (x.c.watch.find? fun (_, r) => r.matches_ x.did space kind ranges).map Prod.fst

/-- The trap of a watch register. -/
def watchTrap (n : Nat) : Trap := { cause := 0x14, detail := n }

/-- An access that matched a watch register has been performed: its gang halts (R414). -/
def watchDone (s : State) (k : Nat) (ac : Access) : State :=
  match ac.watch, gangAt s k ac.w ac.g with
  | some n, some gn =>
    if gn.status = .waiting (.watchpoint n) then
      let s := s.modGang k ac.w ac.g fun gn => Gang.goOn { gn with pc := nextSlot gn.pc, inBundle := decide (slotNo (nextSlot gn.pc) ≠ 0) }
      let act := gn.mask &&& (match warpAt s k ac.w with | some wp => guardMask wp gn.mode | none => 0)
      let s := trapCompute s k ac.w { entry := ac.g, trap := watchTrap n, pc := gn.pc, resume := nextSlot gn.pc, insn := gn.insn, ctl := gn.ctl,
                                      gmask := gn.mask, mode := gn.mode, active := act }
      fireIf s (corePart s k) 1
    else s
  | _, _ => s

/-- Retire an instruction whose access has been put on the path; a match of a watch register waits for the access. -/
def retireAccess (x : Ctx) (f : Form) (s : State) (hit : Option Nat) : State :=
  match hit with
  | none => retire x f s
  | some n => beginWait x f s (.watchpoint n)

/-- Retire an instruction that has performed its access; a match of a watch register halts the gang. -/
def retireLocal (x : Ctx) (f : Form) (s : State) (hit : Option Nat) : State :=
  match hit with
  | none => retire x f s
  | some n => fireIf (trapAfter x (retire { x with gn := { x.gn with stepping := false } } f s) (watchTrap n)) (corePart s x.k) 1

/-! ## Atomic operations (R186, R188) -/

/-- F of R186 over an old value, for an element type and mode. -/
def atomF (op : AtomOp) (t : EType) (m : FMode) (old v : Nat) : Nat :=
  match op with
  | .add => addElem t m old v
  | .min => minMax false t m old v
  | .max => minMax true t m old v
  | .and => old &&& v
  | .or => old ||| v
  | .xor => old ^^^ v
  | .xchg => v
  | .cas => v

/-- The home's result of a merged entry (R190). -/
def mergedF (op : AtomOp) (t : EType) (m : FMode) (old : Nat) (c : Combined) : Nat :=
  match op with
  | .add =>
    if t.isInt then intResult t false (intValue t old + intValue t c.int.toNat)
    else
      let old := fFlush m.ftz t old
      if fIsNan t old then fQuiet t old
      else match c.nan with
        | some q => fQuiet t q.toNat
        | none => fFinish t m ((c.sum.addVal (fValue t old)).res m.rm)
  | op => atomF op t m old c.int.toNat

/-- A reduction's operand enters an entry (R190). -/
def Combined.enter (c : Combined) (first : Bool) (op : AtomOp) (t : EType) (m : FMode) (v : Nat) : Combined :=
  match op with
  | .add =>
    if t.isInt then { c with int := BitVec.ofNat 64 (intResult t false (intValue t c.int.toNat + intValue t v)) }
    else
      let v := fFlush m.ftz t v
      if fIsNan t v then { c with nan := some (c.nan.getD (BitVec.ofNat 64 v)) } else { c with sum := c.sum.addVal (fValue t v) }
  | op => { c with int := if first then BitVec.ofNat 64 v else BitVec.ofNat 64 (atomF op t m c.int.toNat v) }

end Sys2Proof.Machine
end

