-- ==== Sys2Proof/Machine/LoadStore.lean ====
section
/-! DEFINITION. Sys2Proof/Machine/LoadStore.lean: opcodes 0x60 to 0x69 and 0x70 to 0x73, the global loads and stores (R86 to R91, R183,
R184), up to the point where their requests stand on the core's path. -/

namespace Sys2Proof.Machine

/-- EA(a, off8, size) in a lane (R39). -/
def effAddr (x : Ctx) (a : Reg) (off : BitVec 8) (size l : Nat) : DWord := x.rd64 l a + BitVec.ofInt 64 (off.toInt * size)

/-- The bytes of some lanes' accesses. -/
def rangesOf (lanes : List LaneAcc) : List (Nat × Nat) := lanes.map fun la => (la.pa, la.size)

/-- One line of a load: sectors that hit give their bytes now; the others are asked for, and fill the L1 unless the domain has no ways. -/
def loadPart (x : Ctx) (l1 : Bool) (line : Nat) (sectors : List Nat) : LinePart :=
  let found := fun q => if l1 then l1Sector x.c x.did q else none
  let hits := sectors.filter fun q => (found q).isSome
  let misses := sectors.filter fun q => !(found q).isSome
  { line := line, sectors := sectors, hits := hits, performed := misses.isEmpty,
    snap := hits.foldl (fun m q => match found q with | some e => m ++ e.bytes | none => m) [],
    snapPoison := hits.flatMap fun q => match found q with | some e => e.poison | none => [],
    fills := if l1 && decide (wayMask x.k x.c x.did ≠ 0) then misses else [] }

/-- A load goes onto the path: lc counts up (R88). -/
def startLoad (x : Ctx) (kind : AccKind) (dest : Dest) (lanes : List LaneAcc) (l1 : Bool) (hit : Option Nat) : State :=
  let parts := (linesOf lanes).map fun (ln, qs) => loadPart x l1 ln qs
  let s := markRead x.s x.wp.tree (lanes.map fun la => la.pa)
  let s := s.modCore x.k fun c => parts.foldl (fun c p => if p.hits.isEmpty then c else l1Touch c x.did p.line) c
  let s := if kind = .pref then s else s.modWarp x.k x.w fun wp => wp.countUp .lc
  pushAccess s x.k { id := 0, w := x.w, g := x.g, warpAge := x.wp.age, did := x.did, kind := kind, dest := dest, mode := x.mode, lanes := lanes,
                     parts := parts, watch := hit }

/-- Where the data of a load lands: n registers of a field. -/
def destFor (d : Reg) (n : Nat) (signed : Bool) : Dest :=
  match d with
  | .v i => .vec i n signed
  | .s i => .scal i n
  | _ => .none

/-- Whether the sector of a key is valid in the domain's L1. -/
def hitsL1 (x : Ctx) (key : Nat) : Bool := (l1Sector x.c x.did (key / 32)).isSome

/-- A per-lane load (R86 to R88). -/
def vectorLoad (op size n : Nat) (kind : AccKind) (kindDetail : Nat → Option Nat) (d a : Reg) (off : BitVec 8) (s : State) :
    Host.Outcome State Fault Refusal :=
  run s fun x => do
    let f : Form := { op := op, classes := Reg.addrPair a && Reg.vz d, more := [(a, 2)], writes := [(d, n)] }
    checkMem x f (effAddr x a off size)
    if x.active = 0 then return retire x f x.s
    let va := effAddr x a off size
    let l1 := decide (kind = .load)
    checkAccess x { size := size, write := false, kindDetail := kindDetail } false x.active va (fun _ => false) fun k => l1 && hitsL1 x k
    needCount x .lc
    let lanes := (lanesOf x.active).map fun l => { lane := l, pa := keyFor x (va l), va := va l, size := size : LaneAcc }
    if hostHeld x (lanes.map fun la => la.pa) then .error (.hold (shutCause x (lanes.map fun la => la.pa)))
    match flushFor x (rangesOf lanes) fun _ => false with
    | some s => return s
    | none =>
      let hit := watchHit x false 0 ((lanesOf x.active).map fun l => ((va l).toNat, size))
      return retireAccess x f (startLoad x kind (destFor d n x.t.isSigned) lanes l1 hit) hit

/-- LD8 (R86). -/
def execLd8 (d a : Reg) (off : BitVec 8) (s : State) : Host.Outcome State Fault Refusal := vectorLoad 0x60 1 1 .load (fun _ => none) d a off s
/-- LD16 (R86). -/
def execLd16 (d a : Reg) (off : BitVec 8) (s : State) : Host.Outcome State Fault Refusal := vectorLoad 0x61 2 1 .load (fun _ => none) d a off s
/-- LD32 (R86). -/
def execLd32 (d a : Reg) (off : BitVec 8) (s : State) : Host.Outcome State Fault Refusal := vectorLoad 0x62 4 1 .load (fun _ => none) d a off s
/-- LD64 (R86). -/
def execLd64 (d a : Reg) (off : BitVec 8) (s : State) : Host.Outcome State Fault Refusal := vectorLoad 0x63 8 2 .load (fun _ => none) d a off s
/-- LD128 (R86). -/
def execLd128 (d a : Reg) (off : BitVec 8) (s : State) : Host.Outcome State Fault Refusal := vectorLoad 0x64 16 4 .load (fun _ => none) d a off s

/-- LDW (R183): 16 bytes of the cistern, past the L1. -/
def execLdw (d a : Reg) (off : BitVec 8) (s : State) : Host.Outcome State Fault Refusal :=
  vectorLoad 0x72 16 4 .ldw (fun k => if k = 1 then none else some 2) d a off s

/-! ## Stores -/

/-- The data of a store in a lane: the low bytes of one, two or four registers. -/
def storeData (x : Ctx) (d : Reg) (size l : Nat) : Nat :=
  if size = 16 then
    (match d with
     | .v i => (List.range 4).foldl (fun acc j => acc + (x.wp.vreg (i + j) l).toNat * 2 ^ (32 * j)) 0
     | _ => 0)
  else if size = 8 then (x.rd64 l d).toNat
  else (x.rd l d).toNat % 2 ^ (8 * size)

/-- Loads in flight of a warp on bytes that it now writes cannot be asked again later (R336 step 2). -/
def overtake (c : Core) (w age : Nat) (lanes : List LaneAcc) : Core :=
  let hit := fun (ac : Access) => decide (ac.w = w) && decide (ac.warpAge = age) && ac.lanes.any fun a => lanes.any fun b =>
    decide (a.pa < b.pa + b.size) && decide (b.pa < a.pa + a.size)
  { c with inflight := mapIf hit (fun ac => { ac with overtaken := true }) c.inflight }

/-- The bytes of a lane's store. -/
def LaneAcc.bytes (la : LaneAcc) : List Byte := natLe la.size la.val.toNat

/-- A store updates the domain's sectors and the fills in flight on its core (R216). -/
def storeLane (c : Core) (did : BitVec 16) (la : LaneAcc) : Core :=
  let c := l1Store c did la.pa la.bytes
  let lay := fun (p : LinePart) => if p.fills.contains (la.pa / 32) && !p.landed.contains (la.pa / 32) then { p with overlay := rawWrite p.overlay la.pa la.bytes } else p
  { c with inflight := c.inflight.map fun ac => if ac.did = did then { ac with parts := ac.parts.map lay } else ac }

/-- Whether some lanes' stores write every byte of the line of a key. -/
def coversLine (lanes : List LaneAcc) (key : Nat) : Bool :=
  (List.range 128).all fun i => lanes.any fun la => decide (la.pa ≤ key / 128 * 128 + i) && decide (key / 128 * 128 + i < la.pa + la.size)

/-- The lines of open tensors that a store writes are marked (R371). -/
def markTensors (s : State) (keys : List Nat) : State :=
  keys.foldl (fun s k => match tensorAt s k with
    | none => s
    | some (i, _) => { s with tensors := AMap.modify s.tensors i fun t => { t with lines := insertNat ((k - t.base) / 128) t.lines } }) s

/-- A store goes through the L1 onto the path: sc counts up (R88, R216). -/
def startStore (x : Ctx) (lanes : List LaneAcc) (hit : Option Nat) : State :=
  let parts := (linesOf lanes).map fun (ln, qs) => { line := ln, sectors := qs : LinePart }
  let s := x.s.modCore x.k fun c => lanes.foldl (fun c la => storeLane c x.did la) (overtake c x.w x.wp.age lanes)
  let s := if x.world then markTensors s (lanes.map fun la => la.pa) else s
  let s := s.modWarp x.k x.w fun wp => wp.countUp .sc
  pushAccess s x.k { id := 0, w := x.w, g := x.g, warpAge := x.wp.age, did := x.did, kind := .store, mode := x.mode, lanes := lanes, parts := parts,
                     watch := hit }

/-- A per-lane store (R86 to R88). -/
def vectorStore (op size n : Nat) (dOk : Reg → Bool) (d a : Reg) (off : BitVec 8) (s : State) : Host.Outcome State Fault Refusal :=
  run s fun x => do
    let f : Form := { op := op, classes := Reg.addrPair a && dOk d, more := [(a, 2), (d, n)] }
    checkMem x f (effAddr x a off size)
    if x.active = 0 then return retire x f x.s
    let va := effAddr x a off size
    let lanes := (lanesOf x.active).map fun l => { lane := l, pa := keyFor x (va l), size := size, val := BitVec.ofNat 128 (storeData x d size l) : LaneAcc }
    checkAccess x { size := size, write := true } false x.active va (coversLine lanes) fun _ => false
    needCount x .sc
    if hostHeld x (lanes.map fun la => la.pa) then .error (.hold (shutCause x (lanes.map fun la => la.pa)))
    match flushFor x (rangesOf lanes) fun _ => false with
    | some s => return s
    | none =>
      let hit := watchHit x false 1 ((lanesOf x.active).map fun l => ((va l).toNat, size))
      return retireAccess x f (startStore x lanes hit) hit

/-- ST8 (R86): the low byte of a register of any class. -/
def execSt8 (d a : Reg) (off : BitVec 8) (s : State) : Host.Outcome State Fault Refusal := vectorStore 0x65 1 1 Reg.any d a off s
/-- ST16 (R86). -/
def execSt16 (d a : Reg) (off : BitVec 8) (s : State) : Host.Outcome State Fault Refusal := vectorStore 0x66 2 1 Reg.any d a off s
/-- ST32 (R86). -/
def execSt32 (d a : Reg) (off : BitVec 8) (s : State) : Host.Outcome State Fault Refusal := vectorStore 0x67 4 1 Reg.any d a off s
/-- ST64 (R86): an even v or s pair, or z. -/
def execSt64 (d a : Reg) (off : BitVec 8) (s : State) : Host.Outcome State Fault Refusal :=
  vectorStore 0x68 8 2 (fun r => Reg.vz r || Reg.isS r) d a off s
/-- ST128 (R86): four v registers, or z. -/
def execSt128 (d a : Reg) (off : BitVec 8) (s : State) : Host.Outcome State Fault Refusal := vectorStore 0x69 16 4 Reg.vz d a off s

/-! ## Scalar accesses (R91) -/

/-- The scalar address: a pair and an offset scaled by the size under w. -/
def scalarAddr (x : Ctx) (a : Reg) (off : BitVec 8) : DWord := effAddr x a off (4 * x.width) 0

/-- SLD (R91): the whole warp as one lane. -/
def execSld (d a : Reg) (off : BitVec 8) (s : State) : Host.Outcome State Fault Refusal :=
  run s fun x => do
    let f : Form := { op := 0x70, classes := Reg.spair a && Reg.sz d, more := [(a, 2)], writes := [(d, x.width)], guard := false, once := true }
    checkMem x f fun _ => scalarAddr x a off
    let size := 4 * x.width
    let va := scalarAddr x a off
    checkAccess x { size := size, write := false } true 1 (fun _ => va) (fun _ => false) (hitsL1 x)
    needCount x .lc
    let lanes : List LaneAcc := [{ lane := 0, pa := keyFor x va, va := va, size := size }]
    if hostHeld x (lanes.map fun la => la.pa) then .error (.hold (shutCause x (lanes.map fun la => la.pa)))
    match flushFor x (rangesOf lanes) fun _ => false with
    | some s => return s
    | none =>
      let hit := watchHit x false 0 [(va.toNat, size)]
      return retireAccess x f (startLoad x .load (destFor d x.width false) lanes true hit) hit

/-- SST (R91). -/
def execSst (d a : Reg) (off : BitVec 8) (s : State) : Host.Outcome State Fault Refusal :=
  run s fun x => do
    let f : Form := { op := 0x71, classes := Reg.spair a && Reg.sz d, more := [(a, 2), (d, x.width)], guard := false, once := true }
    checkMem x f fun _ => scalarAddr x a off
    let size := 4 * x.width
    let va := scalarAddr x a off
    let lanes : List LaneAcc := [{ lane := 0, pa := keyFor x va, size := size, val := BitVec.ofNat 128 (x.scal d) }]
    checkAccess x { size := size, write := true } true 1 (fun _ => va) (coversLine lanes) fun _ => false
    needCount x .sc
    if hostHeld x (lanes.map fun la => la.pa) then .error (.hold (shutCause x (lanes.map fun la => la.pa)))
    match flushFor x (rangesOf lanes) fun _ => false with
    | some s => return s
    | none =>
      let hit := watchHit x false 1 [(va.toNat, size)]
      return retireAccess x f (startStore x lanes hit) hit

/-! ## Prefetch (R184) -/

/-- The line address that PREF asks for in a lane. -/
def prefAddr (x : Ctx) (a : Reg) (off : BitVec 8) (l : Nat) : DWord := effAddr x a off 128 l &&& ~~~127#64

/-- Whether a prefetch of an address passes steps 3 and 4 of R87 and the cache takes it. -/
def prefOk (x : Ctx) (va : DWord) : Bool :=
  match tlbLook x.c x.did va with
  | .hit e =>
    let key := boundKey x.s x.part x.wp.tree (e.paOf va)
    !hostHeld x [key] && (step3 x.s x.c x.part x.did x.wp.tree { size := 1, write := false } (fun _ => false) (hitsL1 x) va).isNone
  | _ => false

/-- PREF (R184): lines that pass fill the L1 and L2; the L2 alone is no state of the model. -/
def execPref (h : BitVec 8) (a : Reg) (off : BitVec 8) (s : State) : Host.Outcome State Fault Refusal :=
  run s fun x => do
    let f : Form := { op := 0x73, classes := Reg.addrPair a && decide (h.toNat < 2), more := [(a, 2)] }
    check x f
    let va := prefAddr x a off
    let missing := laneWhere x.active fun l => decide (tlbLook x.c x.did (va l) = .miss)
    if missing ≠ 0 then .error (.miss x.did ((lanesOf missing).map va))
    let ok := (lanesOf x.active).filter fun l => prefOk x (va l)
    let lines := risingNat (ok.map fun l => keyFor x (va l) / 128)
    let lanes := lines.flatMap fun ln => (List.range 4).map fun q => { lane := 0, pa := 128 * ln + 32 * q, size := 32 : LaneAcc }
    let s := ((lanesOf x.active).filter fun l => !prefOk x (va l)).foldl (fun s l => dropRefusals s x.k (va l)) x.s
    let x' := { x with s := s }
    let misses := lanes.filter fun la => !hitsL1 x la.pa
    if h ≠ 0 || misses.isEmpty || decide (wayMask x.k x.c x.did = 0) then return retire x f s
    else return retire x f (startLoad x' .pref .none misses true none)

end Sys2Proof.Machine
end

