-- ==== Sys2Proof/Machine/Atomics.lean ====
section
/-! DEFINITION. Sys2Proof/Machine/Atomics.lean: opcodes 0x74 to 0x7C, the operations performed at a home (R185 to R190), up to the point
where their requests stand on the core's path or in its combining buffer. -/

namespace Sys2Proof.Machine

/-- The element types that the atomics accept (R186). -/
def atomType : EType → Bool
  | .i32 | .n32 | .i64 | .n64 | .f32 | .f64 => true
  | _ => false

/-- The form of an atomic (R17, R185, R186). -/
def atomForm (x : Ctx) (op : Nat) (classes : Bool) (a b : Reg) : Form :=
  { op := op, classes := Reg.addrPair a && classes, b := b, bw := x.width, bLane := !x.is64, more := [(a, 2)], typed := atomType x.t }

/-- The lanes of an atomic with their operands, once the checks of R187 have passed. -/
def atomLanes (x : Ctx) (a b : Reg) (expect : Nat → Nat) : List LaneAcc :=
  (lanesOf x.active).map fun l =>
    { lane := l, pa := keyFor x (x.rd64 l a), size := 4 * x.width, val := BitVec.ofNat 128 (opB x b l), expect := BitVec.ofNat 64 (expect l) : LaneAcc }

/-- The checks of R187. -/
def checkAtomic (x : Ctx) (a : Reg) : Except Stop Unit :=
  checkAccess x { size := 4 * x.width, write := true, kindDetail := fun k => if k = 3 then some 3 else none } false x.active (fun l => x.rd64 l a)
    (fun _ => false) fun _ => false

/-- What a watch register sees of an atomic. -/
def atomHit (x : Ctx) (a : Reg) : Option Nat := watchHit x false 2 ((lanesOf x.active).map fun l => ((x.rd64 l a).toNat, 4 * x.width))

/-- A returning atomic or CAS (R188): the domain's sectors leave the L1, the requests go onto the path. -/
def fetchOp (op : Nat) (aop : AtomOp) (d a b : Reg) (s : State) : Host.Outcome State Fault Refusal :=
  run s fun x => do
    let cas := decide (aop = .cas)
    let f0 := atomForm x op (if cas then Reg.isV d else Reg.vz d) a b
    let f := { f0 with writes := [(d, x.width)], more := if cas then f0.more ++ [(d, x.width)] else f0.more }
    checkMem x f fun l => x.rd64 l a
    if x.active = 0 then return retire x f x.s
    checkAtomic x a
    needCount x .lc
    let lanes := atomLanes x a b fun l => if cas then opD x d l else 0
    if hostHeld x (lanes.map fun la => la.pa) then .error (.hold (shutCause x (lanes.map fun la => la.pa)))
    match flushFor x (rangesOf lanes) fun _ => false with
    | some s => return s
    | none =>
      let hit := atomHit x a
      let sectors := lanes.map fun la => la.pa / 32
      let s := x.s.modCore x.k fun c => overtake (l1Drop c (some x.did) sectors.contains) x.w x.wp.age lanes
      let s := s.modWarp x.k x.w fun wp => wp.countUp .lc
      let s := pushAccess s x.k { id := 0, w := x.w, g := x.g, warpAge := x.wp.age, did := x.did, kind := .atomic aop, dest := destFor d x.width false,
                                  mode := x.mode, lanes := lanes, watch := hit }
      return retireAccess x f s hit

/-- FETCH_ADD (R188). -/
def execFetchAdd (d a b : Reg) (s : State) : Host.Outcome State Fault Refusal := fetchOp 0x74 .add d a b s
/-- FETCH_MIN. -/
def execFetchMin (d a b : Reg) (s : State) : Host.Outcome State Fault Refusal := fetchOp 0x75 .min d a b s
/-- FETCH_MAX. -/
def execFetchMax (d a b : Reg) (s : State) : Host.Outcome State Fault Refusal := fetchOp 0x76 .max d a b s
/-- FETCH_AND. -/
def execFetchAnd (d a b : Reg) (s : State) : Host.Outcome State Fault Refusal := fetchOp 0x77 .and d a b s
/-- FETCH_OR. -/
def execFetchOr (d a b : Reg) (s : State) : Host.Outcome State Fault Refusal := fetchOp 0x78 .or d a b s
/-- FETCH_XOR. -/
def execFetchXor (d a b : Reg) (s : State) : Host.Outcome State Fault Refusal := fetchOp 0x79 .xor d a b s
/-- FETCH_XCHG. -/
def execFetchXchg (d a b : Reg) (s : State) : Host.Outcome State Fault Refusal := fetchOp 0x7A .xchg d a b s
/-- CAS (R189): d holds the expected value and receives the observed one. -/
def execCas (d a b : Reg) (s : State) : Host.Outcome State Fault Refusal := fetchOp 0x7B .cas d a b s

/-! ## RED (R190) -/

/-- The operation that field d of RED names. -/
def redOp : Nat → AtomOp
  | 0 => .add | 1 => .min | 2 => .max | 3 => .and | 4 => .or | _ => .xor

/-- Whether an entry's key, its address apart, is that of a reduction of the gang. -/
def CombineEntry.sameKey (e : CombineEntry) (x : Ctx) (op : AtomOp) : Bool :=
  decide (e.width = x.bits) && decide (e.op = op) && decide (e.etype = bitsW x.mode 8 4) && decide (e.rnd = modeRnd x.mode)
  && (e.ftz == modeFtz x.mode) && decide (e.did = x.did)

/-- One lane's operand enters the buffer. -/
def enterBuffer (x : Ctx) (op : AtomOp) (id : Nat) (c : Core) (la : LaneAcc) : Core :=
  let v := la.val.toNat
  let mine := fun (e : CombineEntry) => e.sameKey x op && decide (e.pa = la.pa)
  let add := fun (e : CombineEntry) => { e with val := e.val.enter false op x.t x.fm v, contributors := e.contributors ++ [(id, la.lane)] }
  if c.combine.any mine then { c with combine := mapIf mine add c.combine }
  else
    let e : CombineEntry := { pa := la.pa, width := x.bits, op := op, etype := bitsW x.mode 8 4, rnd := modeRnd x.mode, ftz := modeFtz x.mode,
                              did := x.did, val := Combined.enter {} true op x.t x.fm v, contributors := [(id, la.lane)], born := c.clk }
    { c with combine := c.combine ++ [e] }

/-- New entries that a reduction needs. -/
def newEntries (x : Ctx) (op : AtomOp) (lanes : List LaneAcc) : Nat :=
  ((risingNat (lanes.map fun la => la.pa)).filter fun p => !x.c.combine.any fun e => e.sameKey x op && decide (e.pa = p)).length

/-- Entries and merged operations that still wait for their home. -/
def bufferUse (c : Core) : Nat := c.combine.length + (c.inflight.filter fun ac => match ac.kind with | .merged _ => true | _ => false).length

/-- RED (R190): into the combining buffer, or with sat = 1 directly to its home. -/
def execRed (op : BitVec 8) (a b : Reg) (s : State) : Host.Outcome State Fault Refusal :=
  run s fun x => do
    let f := atomForm x 0x7C (decide (op.toNat < 6)) a b
    checkMem x f fun l => x.rd64 l a
    if x.active = 0 then return retire x f x.s
    checkAtomic x a
    needCount x .sc
    let aop := redOp op.toNat
    let lanes := atomLanes x a b fun _ => 0
    if hostHeld x (lanes.map fun la => la.pa) then .error (.hold (shutCause x (lanes.map fun la => la.pa)))
    let direct := modeSat x.mode
    match flushFor x (rangesOf lanes) fun e => !direct && e.sameKey x aop with
    | some s => return s
    | none =>
      let hit := atomHit x a
      let ac : Access := { id := 0, w := x.w, g := x.g, warpAge := x.wp.age, did := x.did, kind := if direct then .red aop else .gathered, mode := x.mode,
                           lanes := lanes, watch := hit }
      if !direct && decide (64 < bufferUse x.c + newEntries x aop lanes) then
        let out := x.c.combine.length + newEntries x aop lanes - 64
        let oldest := (x.c.combine.take out).map fun e => (e.pa, e.width, e.did)
        let s := flushEntries x.s x.k fun e => oldest.contains (e.pa, e.width, e.did)
        return s.modGang x.k x.w x.g fun gn => { gn with status := .held .flush }
      else
        let id := x.c.nextId
        let s := pushAccess ((x.s.modCore x.k fun c => overtake c x.w x.wp.age lanes).modWarp x.k x.w fun wp => wp.countUp .sc) x.k ac
        let s := if direct then s else s.modCore x.k fun c => lanes.foldl (enterBuffer x aop id) c
        return retireAccess x f s hit

end Sys2Proof.Machine
end

