-- ==== Sys2Proof/Machine/Scratch.lean ====
section
/-! DEFINITION. Sys2Proof/Machine/Scratch.lean: opcodes 0x6A to 0x6F, the scratchpad loads and stores (R179 to R182), and the operations on
scratchpad bytes that barriers, planes and engines share. -/

namespace Sys2Proof.Machine

/-! ## Scratchpad bytes (R180, R219, R285) -/

/-- The scratchpad group of a core address (R219). -/
def groupOf (p : Nat) : Nat := p / 49152

/-- The group that stands at a place of a view; 16 past its end. -/
def View.group (v : View) (i : Nat) : Nat := v.groups.getD i 16

/-- The core address of a place of a view (R180, R219). -/
def View.at (v : View) (a : Nat) : Nat := 49152 * v.group ((v.base + a) / 49152) + (v.base + a) % 49152

/-- n bytes at a place of a view as runs within one group: the place and the bytes of each. -/
def View.runs (v : View) : Nat → Nat → Nat → List (Nat × Nat)
  | 0, _, _ => []
  | fuel + 1, a, n =>
    let m := min n (49152 - (v.base + a) % 49152)
    if n = 0 then [] else (a, m) :: v.runs fuel (a + m) (n - m)

/-- Whether the groups of a range of a view carry a domain's identifier (R318). -/
def groupsOwned (k : Nat) (c : Core) (did : BitVec 16) (v : View) (a n : Nat) : Bool :=
  match slotOf c did with
  | none => false
  | some (_, sl) => isCompute k && (v.runs 17 a n).all fun r => let g := v.group ((v.base + r.1) / 49152); sl.w2.getLsbD g && decide (g < 16)

/-- Whether n bytes at an allotment address may be accessed (R180 step 3); on a service or firmware core the whole 64 KiB of local
scratch may. -/
def viewOk (k : Nat) (c : Core) (v : View) (ea n : Nat) : Bool :=
  decide (n = 0) || (if isCompute k then decide (ea + n ≤ v.size) && groupsOwned k c v.did v ea n else decide (ea + n ≤ 65536))

/-- Whether a group that a range touches is being scrubbed or asleep (R325, R327). -/
def scratchScrubbing (c : Core) (p n : Nat) : Bool :=
  (c.scrubbing ++ c.asleep).any fun u => match u with
    | .scratchGroup g => decide (p / 49152 ≤ g) && decide (g ≤ (p + n - 1) / 49152)
    | _ => false

/-- The same of a range of a view. -/
def viewScrubbing (c : Core) (v : View) (a n : Nat) : Bool := (v.runs 17 a n).any fun r => scratchScrubbing c (v.at r.1) r.2

/-- Bytes of the scratchpad, by core address. -/
def scratchNat (c : Core) (p n : Nat) : Nat := cellsNat c.scratch p n

/-- Store bytes; words written whole are no longer marked uncorrectable. -/
def scratchPut (c : Core) (p : Nat) (bs : List Byte) : Core :=
  { c with scratch := cellsWrite c.scratch p bs, scratchPoison := c.scratchPoison.filter fun (w, _) => !(decide (p ≤ 4 * w) && decide (4 * w + 4 ≤ p + bs.length)) }

def scratchPutNat (c : Core) (p n v : Nat) : Core := scratchPut c p (natLe n v)

/-- Which of the words of a range are marked uncorrectable, as bits. -/
def scratchBad (c : Core) (p n : Nat) : Nat :=
  (List.range (n / 4)).foldl (fun acc j => if AMap.getD c.scratchPoison (p / 4 + j) false then acc + 2 ^ j else acc) 0

/-- Mark the words of a range uncorrectable. -/
def scratchMark (c : Core) (p n : Nat) : Core :=
  { c with scratchPoison := (wordsOf p n).foldl (fun m w => AMap.put m w true) c.scratchPoison }

/-! ## Ranges of a view -/

/-- n bytes at a place of a view. -/
def viewBytes (c : Core) (v : View) (a n : Nat) : List Byte := (v.runs 17 a n).flatMap fun r => cellsRead c.scratch (v.at r.1) r.2

/-- Store bytes at a place of a view. -/
def viewPut (c : Core) (v : View) (a : Nat) (bs : List Byte) : Core :=
  (v.runs 17 a bs.length).foldl (fun c r => scratchPut c (v.at r.1) ((bs.drop (r.1 - a)).take r.2)) c

/-- Zero a range of a view. -/
def viewClear (c : Core) (v : View) (a n : Nat) : Core :=
  (v.runs 17 a n).foldl (fun c r => { c with
    scratch := cellsClear c.scratch (v.at r.1) r.2,
    scratchPoison := c.scratchPoison.filter fun (i, _) => !(decide (v.at r.1 ≤ 4 * i) && decide (4 * i < v.at r.1 + r.2)) }) c

/-- Mark the words of a range of a view uncorrectable. -/
def viewMark (c : Core) (v : View) (a n : Nat) : Core := (v.runs 17 a n).foldl (fun c r => scratchMark c (v.at r.1) r.2) c

/-- Which of the words of a range of a view are marked uncorrectable, as bits. -/
def viewBad (c : Core) (v : View) (a n : Nat) : Nat :=
  (List.range (n / 4)).foldl (fun acc j => if AMap.getD c.scratchPoison (v.at (a + 4 * j) / 4) false then acc + 2 ^ j else acc) 0

/-! ## Loads and stores -/

/-- The scratchpad address of a lane (R180). -/
def scratchEa (x : Ctx) (a : Reg) (off : BitVec 8) (size l : Nat) : Nat := wrapN ((x.rd l a).toNat + off.toInt * size) 32

/-- The checks of R180 over the active lanes. -/
def checkScratch (x : Ctx) (size : Nat) (ea : Nat → Nat) : Except Stop Unit := do
  let fail := fun (bad : Mask) (cause detail : Nat) =>
    need (decide (bad = 0)) { cause := cause, detail := detail, lanes := some bad, addr := BitVec.ofNat 64 (ea (firstLane bad)) }
  fail (laneWhere x.active fun l => decide (ea l % size ≠ 0)) 0x0A 0
  fail (laneWhere x.active fun l => !viewOk x.k x.c x.wp.view (ea l) size) 0x09 1
  if (lanesOf x.active).any fun l => viewScrubbing x.c x.wp.view (ea l) size then .error (.hold .scrub)

/-- A scratchpad load: the words are read at issue, behind every earlier store, and return later (R181, R182). -/
def scratchLoad (op size n : Nat) (d a : Reg) (off : BitVec 8) (s : State) : Host.Outcome State Fault Refusal :=
  run s fun x => do
    let f : Form := { op := op, classes := Reg.vz d, more := [(a, 1)], writes := [(d, n)] }
    checkMem x f fun l => BitVec.ofNat 64 (scratchEa x a off size l)
    if x.active = 0 then return retire x f x.s
    let ea := scratchEa x a off size
    checkScratch x size ea
    let hit := watchHit x true 0 ((lanesOf x.active).map fun l => (ea l, size))
    let p := fun l => x.wp.view.at (ea l)
    let lanes := (lanesOf x.active).map fun l =>
      { lane := l, pa := p l, size := size, val := BitVec.ofNat 128 (scratchNat x.c (p l) size), done := true, poison := scratchBad x.c (p l) size : LaneAcc }
    return retireLocal x f (pushAccess x.s x.k { id := 0, w := x.w, g := x.g, warpAge := x.wp.age, did := x.did, kind := .lds, dest := destFor d n false,
                                                 mode := x.mode, lanes := lanes }) hit

/-- LDS32 (R179). -/
def execLds32 (d a : Reg) (off : BitVec 8) (s : State) : Host.Outcome State Fault Refusal := scratchLoad 0x6A 4 1 d a off s
/-- LDS64 (R179). -/
def execLds64 (d a : Reg) (off : BitVec 8) (s : State) : Host.Outcome State Fault Refusal := scratchLoad 0x6B 8 2 d a off s
/-- LDS128 (R179). -/
def execLds128 (d a : Reg) (off : BitVec 8) (s : State) : Host.Outcome State Fault Refusal := scratchLoad 0x6C 16 4 d a off s

/-- A scratchpad store: performed at its banks at issue, the highest lane supplying a byte that several write (R89, R182). -/
def scratchStore (op size n : Nat) (dOk : Reg → Bool) (d a : Reg) (off : BitVec 8) (s : State) : Host.Outcome State Fault Refusal :=
  run s fun x => do
    let f : Form := { op := op, classes := dOk d, more := [(a, 1), (d, n)] }
    checkMem x f fun l => BitVec.ofNat 64 (scratchEa x a off size l)
    if x.active = 0 then return retire x f x.s
    let ea := scratchEa x a off size
    checkScratch x size ea
    let hit := watchHit x true 1 ((lanesOf x.active).map fun l => (ea l, size))
    let put := fun (c : Core) l => scratchPutNat c (x.wp.view.at (ea l)) size (storeData x d size l)
    return retireLocal x f (x.s.modCore x.k fun c => (lanesOf x.active).foldl put c) hit

/-- STS32 (R179). -/
def execSts32 (d a : Reg) (off : BitVec 8) (s : State) : Host.Outcome State Fault Refusal := scratchStore 0x6D 4 1 Reg.any d a off s
/-- STS64 (R179): an even v or s pair, or z. -/
def execSts64 (d a : Reg) (off : BitVec 8) (s : State) : Host.Outcome State Fault Refusal :=
  scratchStore 0x6E 8 2 (fun r => Reg.vz r || Reg.isS r) d a off s
/-- STS128 (R179). -/
def execSts128 (d a : Reg) (off : BitVec 8) (s : State) : Host.Outcome State Fault Refusal := scratchStore 0x6F 16 4 Reg.vz d a off s

end Sys2Proof.Machine
end

