-- ==== Sys2Proof/Machine/Barrier.lean ====
section
/-! DEFINITION. Sys2Proof/Machine/Barrier.lean: barrier objects (R196 to R201), opcodes 0x80 to 0x85; WATCH and WSLEEP (R202 to R204). -/

namespace Sys2Proof.Machine

/-! ## Objects (R196, R198) -/

/-- The fields of a barrier object. -/
structure BarObj where
  phase : Nat
  expected : Nat
  arrivals : Nat
  error : Bool
  excess : Bool
  zero : Nat
  bexp : Nat
  landed : Nat
deriving DecidableEq, Repr

/-- The object that stands at a core address. -/
def barAt (c : Core) (o : Nat) : BarObj :=
  let v := scratchNat c o 16
  { phase := bitsN v 15 0, expected := bitsN v 31 16, arrivals := bitsN v 47 32, error := bitsN v 48 48 = 1, excess := bitsN v 49 49 = 1,
    zero := bitsN v 63 50, bexp := bitsN v 95 64, landed := bitsN v 127 96 }

/-- The 128 bits of an object. -/
def BarObj.bits (b : BarObj) : Nat :=
  b.phase + b.expected * 2 ^ 16 + b.arrivals * 2 ^ 32 + (if b.error then 2 ^ 48 else 0) + (if b.excess then 2 ^ 49 else 0) + b.zero * 2 ^ 50
    + b.bexp * 2 ^ 64 + b.landed * 2 ^ 96

def putBar (c : Core) (o : Nat) (b : BarObj) : Core := scratchPutNat c o 16 b.bits

/-- A valid object (R196). -/
def BarObj.valid (b : BarObj) : Bool := decide (1 ≤ b.expected) && decide (b.arrivals ≤ b.expected) && decide (b.zero = 0)

/-- Bits [63:48]. -/
def BarObj.flags (b : BarObj) : Nat := (if b.error then 1 else 0) + (if b.excess then 2 else 0) + 4 * b.zero

/-- The phase completes when its arrivals and its bytes are there (R198). -/
def BarObj.completes (b : BarObj) : Bool := decide (b.expected ≠ 0) && decide (b.zero = 0) && decide (b.arrivals = b.expected) && decide (b.bexp ≤ b.landed)

/-- The object after its phase has completed. -/
def BarObj.next (b : BarObj) : BarObj :=
  { b with excess := b.excess || decide (b.bexp < b.landed), phase := (b.phase + 1) % 65536, arrivals := 0, bexp := 0, landed := 0 }

/-- The gangs that wait on an object. -/
def barWaiters (c : Core) (o : Nat) : List (Nat × Nat) :=
  c.warps.flatMap fun (w, wp) => (wp.gangs.filter fun (_, gn) => match gn.status with | .waiting (.barrier p _ _ _) => decide (p = o) | _ => false).map
    fun (g, _) => (w, g)

/-- A barrier wait of a gang ends with a status word (R200). -/
def endBarrier (s : State) (k w g : Nat) (kind : BarWait) (word : Nat) : State :=
  match kind with
  | .bwait d | .bwaitt d => wake (s.modWarp k w fun wp => wp.dstS d 1 word) k w g
  | .bwaity t => wakeTo s k w g t

/-- Every gang that waits on an object wakes (R198, R200). -/
def wakeBarrier (s : State) (k o : Nat) : State :=
  (barWaiters (coreAt s k) o).foldl (fun s (w, g) =>
    match gangAt s k w g with
    | none => s
    | some gn => match gn.status with
      | .waiting (.barrier _ _ kind _) => endBarrier s k w g kind (barAt (coreAt s k) o).flags
      | _ => s) s

/-- Store an object and complete its phase if it can be (TryComplete, R198). -/
def tryComplete (s : State) (k o : Nat) (b : BarObj) : State :=
  if b.completes then wakeBarrier (s.modCore k fun c => putBar c o b.next) k o else s.modCore k fun c => putBar c o b

/-- Bytes that a copy lands (Land, R198); an error is kept in the object. -/
def barLand (s : State) (k o n : Nat) (err : Bool) : State :=
  let b := barAt (coreAt s k) o
  tryComplete s k o { b with error := b.error || !b.valid || err, landed := min (b.landed + n) (2 ^ 32 - 1) }

/-- An engine's arrival; one that would exceed expected is not added and sets the error flag (R198). -/
def engineArrive (s : State) (k o : Nat) (err : Bool) : State :=
  let b := barAt (coreAt s k) o
  if b.expected < b.arrivals + 1 then tryComplete s k o { b with error := true }
  else tryComplete s k o { b with error := b.error || err, arrivals := b.arrivals + 1 }

/-! ## The instructions (R197 to R200) -/

/-- The form of a barrier instruction: it acts once per gang, and its result is readable from 12 cycles after issue (R197). -/
def barForm (op : Nat) (classes : Bool) (reads : List (Reg × Nat)) (writes : List (Reg × Nat)) : Form :=
  { op := op, classes := classes, guard := false, once := true, more := reads, writes := writes, vlat := 12 }

/-- The barrier-object fault. -/
def barFault (a : Word) : Trap := { cause := 0x0D, addr := a.setWidth 64 }

/-- The object's address, checked (R197): its core address. -/
def checkObject (x : Ctx) (a : Word) (mustBeValid : Bool) : Except Stop Nat := do
  need (decide (a.toNat < 2 ^ 20) && decide (a.toNat % 16 = 0)) (barFault a)
  need (viewOk x.k x.c x.wp.view a.toNat 16) { cause := 0x09, detail := 1, addr := a.setWidth 64 }
  if viewScrubbing x.c x.wp.view a.toNat 16 then .error (.hold .scrub)
  let o := x.wp.view.at a.toNat
  need (!mustBeValid || (barAt x.c o).valid) (barFault a)
  return o

/-- BINIT (R197). -/
def execBinit (a b : Reg) (s : State) : Host.Outcome State Fault Refusal :=
  run s fun x => do
    let f := barForm 0x80 (Reg.unif a && Reg.unif b) [(a, 1), (b, 1)] []
    check x f
    let o ← checkObject x (x.rd 0 a) false
    let n := (x.rd 0 b).toNat
    need (decide (1 ≤ n) && decide (n ≤ 65535) && (barWaiters x.c o).isEmpty) (barFault (x.rd 0 a))
    return retire x f (x.s.modCore x.k fun c => scratchPutNat c o 16 (n * 65536))

/-- BARV (R199): arrives with the active lanes; the phase before the arrival goes to d. -/
def execBarv (d a : Reg) (s : State) : Host.Outcome State Fault Refusal :=
  run s fun x => do
    let f := { barForm 0x81 (Reg.sz d && Reg.unif a) [(a, 1)] [(d, 1)] with guard := true }
    check x f
    let o ← checkObject x (x.rd 0 a) true
    let b := barAt x.c o
    let n := popCount x.active
    need (decide (b.arrivals + n ≤ b.expected)) (barFault (x.rd 0 a))
    let s := retire x f (x.setWarp (x.wp.dstS d 1 b.phase))
    return tryComplete s x.k o { b with arrivals := b.arrivals + n }

/-- BEXP (R199). -/
def execBexp (a b : Reg) (s : State) : Host.Outcome State Fault Refusal :=
  run s fun x => do
    let f := barForm 0x82 (Reg.unif a && Reg.unif b) [(a, 1), (b, 1)] []
    check x f
    let o ← checkObject x (x.rd 0 a) true
    let ob := barAt x.c o
    let n := ob.bexp + (x.rd 0 b).toNat
    need (decide (n < 2 ^ 32)) (barFault (x.rd 0 a))
    return retire x f (x.s.modCore x.k fun c => putBar c o { ob with bexp := n })

/-- BWAIT (R200): at once when the phase differs, else waiting; d takes the flags. -/
def execBwait (d a b : Reg) (s : State) : Host.Outcome State Fault Refusal :=
  run s fun x => do
    let f := barForm 0x83 (Reg.sz d && Reg.unif a && Reg.unif b) [(a, 1), (b, 1)] [(d, 1)]
    check x f
    let o ← checkObject x (x.rd 0 a) true
    let p := bitsW (x.rd 0 b) 15 0
    if (barAt x.c o).phase ≠ p then return retire x f (x.setWarp (x.wp.dstS d 1 (barAt x.c o).flags))
    else return beginWait x f x.s (.barrier o (BitVec.ofNat 16 p) (.bwait d) none)

/-- The warp's greedy hold ends. -/
def endGreedy (s : State) (k w : Nat) : State := s.modCore k fun c => { c with greedy := AMap.del c.greedy (w / 16) }

/-- BWAITY (R200): goes on at the continuation bundle. -/
def execBwaity (d a : Reg) (off : BitVec 8) (s : State) : Host.Outcome State Fault Refusal :=
  run s fun x => do
    let f := barForm 0x84 (Reg.unif d && Reg.unif a) [(d, 1), (a, 1)] []
    check x f
    let o ← checkObject x (x.rd 0 d) true
    let p := bitsW (x.rd 0 a) 15 0
    let t := relTarget x.gn.pc off.toInt
    if (barAt x.c o).phase ≠ p then return endGreedy (retireTo x f x.s t) x.k x.w
    else return endGreedy (beginWait x f x.s (.barrier o (BitVec.ofNat 16 p) (.bwaity t) none)) x.k x.w

/-- BWAITT (R200): for at most a limit, 0 testing once; d[16] tells that the limit expired. -/
def execBwaitt (d a b : Reg) (s : State) : Host.Outcome State Fault Refusal :=
  run s fun x => do
    let f := barForm 0x85 (Reg.sz d && Reg.unif a && Reg.spair b) [(a, 1), (b, 2)] [(d, 1)]
    check x f
    let o ← checkObject x (x.rd 0 a) true
    let p := bitsW (loW (x.rd64 0 b)) 15 0
    let limit := (hiW (x.rd64 0 b)).toNat
    let ob := barAt x.c o
    if ob.phase ≠ p then return retire x f (x.setWarp (x.wp.dstS d 1 ob.flags))
    else if limit = 0 then return retire x f (x.setWarp (x.wp.dstS d 1 (ob.flags + 65536)))
    else return beginWait x f x.s (.barrier o (BitVec.ofNat 16 p) (.bwaitt d) (some limit))

/-- BWAITT_TIMEOUT (R200): the limit has run out while the phase stands. -/
def execBwaittTimeout (k w g : Nat) (s : State) : Host.Outcome State Fault Refusal :=
  match gangAt s k w g with
  | none => .next s
  | some gn => match gn.status with
    | .waiting (.barrier o _ (.bwaitt d) (some 0)) => .next (endBarrier s k w g (.bwaitt d) ((barAt (coreAt s k) o).flags + 65536))
    | _ => .next s

/-! ## Watching a line (R202 to R204) -/

/-- WATCH (R202): reads at the home and arms the gang's monitor there; an earlier monitor of the entry is disarmed. -/
def execWatch (d a : Reg) (off : BitVec 8) (s : State) : Host.Outcome State Fault Refusal :=
  run s fun x => do
    let f : Form := { op := 0x86, classes := Reg.spair a && Reg.sz d, more := [(a, 2)], writes := [(d, x.width)], guard := false, once := true }
    checkMem x f fun _ => scalarAddr x a off
    let size := 4 * x.width
    let va := scalarAddr x a off
    checkAccess x { size := size, write := false, kindDetail := fun k => if k = 1 ∨ k = 3 then some 4 else none } true 1 (fun _ => va) (fun _ => false) fun _ => false
    needCount x .lc
    let lanes : List LaneAcc := [{ lane := 0, pa := keyFor x va, va := va, size := size }]
    if hostHeld x (lanes.map fun la => la.pa) then .error (.hold (shutCause x (lanes.map fun la => la.pa)))
    match flushFor x (rangesOf lanes) fun _ => false with
    | some s => return s
    | none =>
      let hit := watchHit x false 0 [(va.toNat, size)]
      let id := x.c.nextId
      let s := startLoad x .watch (destFor d x.width false) lanes false hit
      return retireAccess x f (s.modGang x.k x.w x.g fun gn => { gn with monitor := none, watching := some id }) hit

/-- WSLEEP (R203): held while the WATCH is out; then a status at once, or asleep on the monitor. -/
def execWsleep (d a : Reg) (s : State) : Host.Outcome State Fault Refusal :=
  run s fun x => do
    let f : Form := { op := 0x87, classes := Reg.sz d && Reg.unif a, more := [(a, 1)], writes := [(d, 1)], guard := false, once := true }
    check x f
    if x.gn.watching.isSome then .error (.hold .register)
    let limit := (x.rd 0 a).toNat
    let done := fun (st : Nat) => retire x f ((x.setWarp (x.wp.dstS d 1 st)).modGang x.k x.w x.g fun gn => { gn with monitor := none })
    match x.gn.monitor with
    | none => return done 3
    | some m =>
      if m.lost then return done 4
      else if m.hit then return done 1
      else return beginWait x f x.s (.sleep d (if limit = 0 then none else some limit))

end Sys2Proof.Machine
end

