-- ==== Sys2Proof/Machine/Gangs.lean ====
section
/-! DEFINITION. Sys2Proof/Machine/Gangs.lean: how a warp's lanes move between gangs: transfers and splits (R138, R169, R173), the
service of pending records (R170), leaving a MEET (R142), merges (R134, R162, R175), exits (R57, R143). -/

namespace Sys2Proof.Machine

/-- One destination of a transfer: address and lanes. -/
abbrev Dst := DWord × Mask

/-- The destinations of the lanes of a mask, with equal addresses together, in order of first lane. -/
def destsOf (m : Mask) (dest : Nat → DWord) : List Dst :=
  (lanesOf m).foldl (fun ds l =>
    if ds.any (fun (a, _) => decide (a = dest l)) then ds.map fun (a, q) => if a = dest l then (a, q ||| bitMask l) else (a, q)
    else ds ++ [(dest l, bitMask l)]) []

/-- Insertion sort by address (R138). -/
def insertDst (d : Dst) : List Dst → List Dst
  | [] => [d]
  | e :: es => if d.1.toNat < e.1.toNat then d :: e :: es else e :: insertDst d es
def sortDsts (ds : List Dst) : List Dst := ds.foldl (fun acc d => insertDst d acc) []

/-- Free entries of a warp's gang table, lowest first. -/
def freeEntries (wp : Warp) : List Nat := (List.range 8).filter fun g => (AMap.get? wp.gangs g).isNone

/-- A gang that a split creates from its parent (R134, R138); it has not issued. -/
def childGang (parent : Gang) (d : Dst) : Gang :=
  { pc := d.1, mask := d.2, mode := parent.mode, stack := parent.stack.map fun e => { e with held := 0 }, ageing := parent.ageing,
    stall := parent.stall, yielded := parent.yielded, status := parent.status, dbgHalt := parent.dbgHalt, recent := parent.recent }

/-- A transfer in a warp whose gang g has issued: the first destination stays, each later one takes a free entry while one remains
and lstep is 0, the rest become pending records in front (R138, R169, R173). -/
def Warp.transfer (wp : Warp) (g : Nat) (lstep : Bool) (ds : List Dst) : Warp :=
  match AMap.get? wp.gangs g, ds with
  | some gn, d :: rest =>
    let slots := if lstep then [] else freeEntries wp
    let kids := rest.zip slots
    let left := rest.drop slots.length
    let recs := left.map fun e => { dest := e.1, lanes := e.2, mode := gn.mode, depth := gn.stack.length : PendRecord }
    let clk := if kids.isEmpty then gn.clkHigh else none
    let gn' := { gn with pc := d.1, mask := if rest.isEmpty then gn.mask else d.2, pending := recs ++ gn.pending, clkHigh := clk, inBundle := decide (slotNo d.1 ≠ 0) }
    { wp with gangs := kids.foldl (fun m (e, i) => AMap.put m i (childGang gn e)) (AMap.put wp.gangs g gn') }
  | _, _ => wp

/-- A transfer of the cursor's gang after its instruction: destinations in order, or the fall-through for a gang with no lanes. -/
def transferTo (x : Ctx) (f : Form) (s : State) (ds : List Dst) : State :=
  match ds with
  | [] => retire x f s
  | [d] => retireTo x f s d.1
  | _ =>
    let s := retireTo x.noStep f s x.gn.pc
    endStep x (s.modWarp x.k x.w fun wp => wp.transfer x.g (modeLstep x.mode) ds)

/-- A per-lane transfer: active lanes to their targets, the others to the next slot, by ascending address (R138). -/
def laneTransfer (x : Ctx) (f : Form) (s : State) (target : Nat → DWord) : State :=
  transferTo x f s (sortDsts (destsOf x.gn.mask fun l => if x.active.getLsbD l then target l else nextSlot x.gn.pc))

/-! ## Pending records (R170) -/

/-- Serve the front pending record. -/
def Gang.serve (gn : Gang) : Gang :=
  match gn.pending with
  | r :: rest => { gn with pc := r.dest, mask := r.lanes, mode := r.mode, stack := gn.stack.drop (gn.stack.length - r.depth), pending := rest,
                           inBundle := decide (slotNo r.dest ≠ 0) }
  | [] => gn

/-! ## Merging (R134, R162, R175) -/

/-- The larger of two optional thresholds: an earlier one wins (R135). -/
def minThreshold : Option Nat → Option Nat → Option Nat
  | some a, some b => some (min a b)
  | some a, none => some a
  | none, b => b

/-- Merge b into a: lanes, held lanes, destinations that wait, ageing, scoreboard, the longest remainder. DESIGN CHOICE (log entry 33): parked
gangs keep the park that began first, and no latched high half of the cycle count is kept, so clkh reads the live half (R30). -/
def mergeGang (a b : Gang) : Gang :=
  { a with mask := a.mask ||| b.mask,
           stack := a.stack.zipWith (fun e e' => { e with held := e.held ||| e'.held }) b.stack,
           ageing := max a.ageing b.ageing, thresholdAt := minThreshold a.thresholdAt b.thresholdAt,
           stall := max a.stall b.stall, yielded := a.yielded || b.yielded,
           status := (match a.status, b.status with
             | .parked m, .parked n => .parked (min m n)
             | st, st' => if st = .stalled ∨ st' = .stalled then .stalled else st),
           pending := a.pending ++ b.pending,
           own := a.own ++ b.own, board := a.board ++ b.board,
           dbgHalt := a.dbgHalt || b.dbgHalt, recent := a.recent ++ b.recent, lastIssue := max a.lastIssue b.lastIssue,
           clkHigh := none }

/-- Merge entry j into entry i of the gang table; j is freed. -/
def Warp.mergeInto (wp : Warp) (i j : Nat) : Warp :=
  match AMap.get? wp.gangs i, AMap.get? wp.gangs j with
  | some a, some b => if i = j then wp else { wp with gangs := AMap.put (AMap.del wp.gangs j) i (mergeGang a b) }
  | _, _ => wp

/-- The tag of a gang's top entry. -/
def Gang.topTag (gn : Gang) : Option Nat := gn.stack.head?.map StackEntry.tag

/-- ready, stalled or held (R175). -/
def GangStatus.mergeReady : GangStatus → Bool
  | .ready | .stalled | .held _ => true
  | _ => false

/-- Gangs that may merge at a bundle boundary (R175). -/
def mergeable (wp : Warp) (a b : Gang) : Bool :=
  decide (a.pc = b.pc) && decide (slotNo a.pc = 0) && !a.inBundle && !b.inBundle && decide (a.topTag = b.topTag)
  && decide (a.stack.length = b.stack.length) && decide (a.mode = b.mode) && !wp.latchLive (a.mask ||| b.mask)
  && a.pending.isEmpty && b.pending.isEmpty && a.status.mergeReady && b.status.mergeReady
  && !a.trapped && !b.trapped && !a.dbgHalt && !b.dbgHalt && !wp.preempt && !wp.halted && a.spawnLeft.isNone && b.spawnLeft.isNone

/-- The first pair of entries that may merge outside a MEET. -/
def mergePair (wp : Warp) : Option (Nat × Nat) :=
  wp.gangs.findSome? fun (i, a) => wp.gangs.findSome? fun (j, b) => if decide (i < j) && mergeable wp a b then some (i, j) else none

/-- Every merge outside a MEET that a warp has; at most seven (R175). -/
def Warp.mergeAll : Nat → Warp → Warp
  | 0, wp => wp
  | n + 1, wp =>
    match mergePair wp with
    | some (i, j) => Warp.mergeAll n (wp.mergeInto i j)
    | none => wp

/-! ## MEET (R142) -/

/-- Whether a gang is parked at an address. -/
def Gang.parkedAt (gn : Gang) (a : DWord) (tag : Nat) : Bool :=
  decide (gn.pc = a) && decide (gn.topTag = some tag) && (match gn.status with | .parked _ => true | _ => false)

/-- Halted by a trap or by the debugger (R167). -/
def Gang.stopped (gn : Gang) : Bool := gn.trapped || gn.dbgHalt

/-- Some sibling of entry g holds the tag and is not parked at the address, or is halted (R142 step 3, R168). -/
def siblingOut (wp : Warp) (g : Nat) (a : DWord) (tag : Nat) : Bool :=
  wp.gangs.any fun (i, h) => decide (i ≠ g) && h.stack.any (fun e => decide (e.tag = tag)) && !(h.parkedAt a tag && !h.stopped)

/-- Lanes of a gang and of the destinations that wait in it. -/
def Gang.claims (gn : Gang) : Mask := gn.pending.foldl (fun m r => m ||| r.lanes) gn.mask

/-- The entry with the lowest first lane among some. -/
def lowestFirst (gs : List (Nat × Gang)) : Option Nat :=
  (gs.foldl (fun best (i, h) => match best with
    | some (b, hb) => if firstLane h.mask < firstLane hb.mask then some (i, h) else some (b, hb)
    | none => some (i, h)) (none : Option (Nat × Gang))).map Prod.fst

/-- The held lanes of a stack without some lanes. -/
def Gang.unhold (gn : Gang) (m : Mask) : Gang := { gn with stack := gn.stack.map fun e => { e with held := e.held &&& ~~~m } }

/-- The gangs of some entries leave their MEET together: each pops its entry and continues at the next slot; lanes that return go
to the gang with the lowest first lane, and no entry of another gang holds them any more (R142). DEDUCED (log entry 34): lanes that wait in
another gang's pending list count as that gang's. -/
def Warp.leaveMeet (wp : Warp) (gs : List Nat) : Warp :=
  let parts := wp.gangs.filter fun (i, _) => gs.contains i
  let others := (wp.gangs.filter fun (i, _) => !gs.contains i).foldl (fun m (_, h) => m ||| h.claims) (0 : Mask)
  match parts.head?.bind fun (_, h) => h.stack.head? with
  | none => wp
  | some e =>
    let base := e.mask &&& wp.wld &&& ~~~others
    let union := parts.foldl (fun m (_, h) => m ||| h.mask) (0 : Mask)
    let head := lowestFirst parts
    { wp with gangs := wp.gangs.map fun (i, h) =>
        if gs.contains i then
          (i, { h with mask := (h.mask &&& base) ||| (if head = some i then base &&& ~~~union else 0), stack := h.stack.drop 1,
                       pc := nextSlot h.pc, inBundle := decide (slotNo (nextSlot h.pc) ≠ 0),
                       status := (match h.status with | .parked _ => if h.stall = 0 then .ready else .stalled | st => st) })
        else (i, h.unhold base) }

/-- Every gang parked at an address with a tag. -/
def parkedThere (wp : Warp) (a : DWord) (tag : Nat) : List Nat := (wp.gangs.filter fun (_, h) => h.parkedAt a tag && !h.stopped).map Prod.fst

/-- Merge the gangs parked at one MEET whose modes are equal, from the lowest entry (R142 step 6). -/
def Warp.mergeParked (wp : Warp) (a : DWord) (tag : Nat) : Warp :=
  (parkedThere wp a tag).foldl (fun wp j =>
    match AMap.get? wp.gangs j with
    | none => wp
    | some b => match wp.gangs.find? fun (i, h) => decide (i < j) && h.parkedAt a tag && !h.stopped && decide (h.mode = b.mode) && !wp.latchLive (h.mask ||| b.mask) with
      | some (i, _) => wp.mergeInto i j
      | none => wp) wp

/-- Release every parked MEET of the warp that no sibling is out of (R142 step 7). -/
def Warp.releaseMeets (wp : Warp) : Warp :=
  wp.gangs.foldl (fun wp (i, _) =>
    match AMap.get? wp.gangs i with
    | none => wp
    | some h => match h.status, h.topTag with
      | .parked _, some tag => if siblingOut wp i h.pc tag || h.stopped then wp else wp.leaveMeet (parkedThere wp h.pc tag)
      | _, _ => wp) wp

/-! ## WSYNC (R144) -/

/-- The id at which a gang waits in WSYNC. -/
def Gang.syncId (gn : Gang) : Option (BitVec 16) := match gn.status with | .waiting (.wsync i) => some i | _ => none

/-- Merge the gangs that leave one WSYNC with equal modes and stack tops. -/
def Warp.mergeSynced (wp : Warp) (gs : List Nat) : Warp :=
  gs.foldl (fun wp j =>
    match AMap.get? wp.gangs j with
    | none => wp
    | some b => match wp.gangs.find? fun (i, h) => decide (i < j) && gs.contains i && decide (h.pc = b.pc) && decide (h.mode = b.mode)
        && decide (h.topTag = b.topTag) && decide (h.stack.length = b.stack.length) && !wp.latchLive (h.mask ||| b.mask) with
      | some (i, _) => wp.mergeInto i j
      | none => wp) wp

/-- The lowest id other than one's own among some. -/
def lowestOther (own : BitVec 16) (ids : List (BitVec 16)) : Nat := ((ids.filter fun i => i ≠ own).map BitVec.toNat).foldl min 65535

/-- The rendezvous of a warp, if it is complete: every lane in wld belongs to a gang that waits at a WSYNC. Equal ids continue;
different ids fault in every waiting gang (R144). -/
def settleSync (s : State) (k w : Nat) : State :=
  match warpAt s k w with
  | none => s
  | some wp =>
    let waiting := wp.gangs.filter fun (_, h) => h.syncId.isSome
    let ids := waiting.filterMap fun (_, h) => h.syncId
    let lanes := waiting.foldl (fun m (_, h) => m ||| h.mask) (0 : Mask)
    if ids.isEmpty || decide (wp.wld &&& ~~~lanes ≠ 0) then s
    else if ids.eraseDups.length = 1 then
      let s := waiting.foldl (fun s (g, _) => wake s k w g) s
      s.modWarp k w fun wp => wp.mergeSynced (waiting.map Prod.fst)
    else
      waiting.foldl (fun s (g, h) =>
        let own := h.syncId.getD 0
        let t : Trap := { cause := 0x0E, detail := 0, extra := w32 (own.toNat + 65536 * lowestOther own ids) }
        let s := s.modGang k w g Gang.goOn
        trapCompute s k w { entry := g, trap := t, pc := h.pc, resume := h.pc, insn := h.insn, ctl := h.ctl, gmask := h.mask, mode := h.mode,
                            active := h.mask &&& guardMask wp h.mode }) s

/-! ## Exits (R57, R143, R170) -/

/-- A gang whose mask has become zero: lanes held in its stack resume, or a pending record is served, or it ends (R57, R143, R170). -/
def Warp.emptied (wp : Warp) (g : Nat) : Warp :=
  match AMap.get? wp.gangs g with
  | none => wp
  | some gn =>
    let depth := gn.stack.length
    let idx := (List.range depth).find? fun i => match gn.stack[i]? with | some e => decide (e.held &&& wp.wld ≠ 0) | none => false
    let served := { wp with gangs := AMap.put wp.gangs g gn.serve }
    match idx.bind fun i => gn.stack[i]?.map fun e => (i, e) with
    | some (i, e) =>
      if gn.pending.head?.any fun r => decide (depth - i ≤ r.depth) then served
      else
        { wp with gangs := AMap.put wp.gangs g { gn with pc := e.rejoin, mask := e.held &&& wp.wld,
                                                         stack := { e with held := 0 } :: gn.stack.drop (i + 1), inBundle := decide (slotNo e.rejoin ≠ 0) } }
    | none => if gn.pending.isEmpty then { wp with gangs := AMap.del wp.gangs g } else served

/-- Lanes leave the warp from gang g; a gang whose mask is zero then ends or goes on elsewhere (R57). -/
def Warp.exitLanes (wp : Warp) (g : Nat) (lanes : Mask) : Warp :=
  let wp := { wp with wld := wp.wld &&& ~~~lanes, gangs := AMap.modify wp.gangs g fun gn => { gn with mask := gn.mask &&& ~~~lanes } }
  match AMap.get? wp.gangs g with
  | some gn => if gn.mask = 0 then wp.emptied g else wp
  | none => wp

/-- What a change of the warp's gangs sets free: parked MEETs and a rendezvous (R142 step 7, R144). -/
def afterGangs (s : State) (k w : Nat) : State := settleSync (s.modWarp k w Warp.releaseMeets) k w

/-! ## Checked targets (R139, R140) -/

/-- The control word of the bundle that holds an address, through a TLB entry. -/
def ctlThrough (s : State) (part : Nat) (e : TlbEntry) (t : DWord) : Word := memWord s (physKey part (e.paOf (bundleOf t)))

/-- The checks of R139 in order, over the lanes of a mask, for a domain: align, map, page, frame; `ret` is the variant of RET. -/
def checkTargets (x : Ctx) (did : BitVec 16) (lanes : Mask) (t : Nat → DWord) (ret : Bool) : Except Stop Unit := do
  let look := fun l => tlbLook x.c did (t l)
  let fail := fun (bad : Mask) (cause detail : Nat) => need (decide (bad = 0)) { cause := cause, detail := detail, lanes := some bad, addr := t (firstLane bad) }
  fail (laneWhere lanes fun l => if ret then decide (bitsW (t l) 1 0 ≠ 0) || decide (bitsW (t l) 3 2 = 0) else decide (bitsW (t l) 3 0 ≠ 0)) 0x0C 0
  let missing := laneWhere lanes fun l => decide (look l = .miss)
  if missing ≠ 0 then .error (.miss did ((lanesOf missing).map t))
  fail (laneWhere lanes fun l => match look l with
    | .notCanonical => true
    | .hit e => !e.x
    | .refused c _ => decide (c ≠ 0x09) || (leafOf x.c did (t l)).any fun e => !e.x
    | .miss => false) 0x0C 0
  fail (laneWhere lanes fun l => match look l with
    | .refused c _ => decide (c = 0x09)
    | _ => false) 0x09 2
  fail (laneWhere lanes fun l => match look l with
    | .hit e =>
      let frame := bitsW (ctlThrough x.s x.part e (t l)) 31 30
      if ret then decide (2 ≤ frame) else decide (frame ≠ 1)
    | _ => false) 0x0C 0

end Sys2Proof.Machine
end

