-- ==== Sys2Proof/Machine/Cipher.lean ====
section
/-! DEFINITION. Sys2Proof/Machine/Cipher.lean: the encryption of tensors (R370), fabric frames (R354) and migration bundles (R409) over AES-256 and the
tag of AES-256-GCM, which the spec names and does not lay out. -/

namespace Sys2Proof.Machine

/-- Byte i of a block (DESIGN CHOICE, log entry 98). -/
def blockByte (b : BitVec 128) (i : Nat) : Byte := BitVec.ofNat 8 (b.toNat / 2 ^ (8 * i))

/-- The counter block of a tensor's 16-byte block (R370): the identifier in [127:114], the version in [113:82], the block's number in [81:0]. -/
def counterBlock (id version block : Nat) : BitVec 128 := BitVec.ofNat 128 (2 ^ 114 * id + 2 ^ 82 * (version % 2 ^ 32) + block)

/-- The pad of block j of line L of a tensor (R370). -/
def tensorPad (key : BitVec 256) (id version line j : Nat) : BitVec 128 := Config.aes256 key (counterBlock id version (8 * line + j))

/-- The MAC of a tensor line (R370): the first 64 bits of GMAC over its ciphertext. The nonce's layout is the model's (DESIGN CHOICE, log entry 98). -/
def tensorMac (key : BitVec 256) (id version line : Nat) (bs : List Byte) : DWord :=
  (Config.gcmTag key (id + 2 ^ 14 * version + 2 ^ 46 * line) bs []).setWidth 64

/-- Bytes from a place of a message on under the counter mode of AES-256-GCM: block i is XORed with AES-256 of the nonce and the counter i + 2. -/
def gcmCrypt (key : BitVec 256) (nonce first : Nat) (bs : List Byte) : List Byte :=
  bs.zipIdx.map fun (b, i) => b ^^^ blockByte (Config.aes256 key (BitVec.ofNat 128 (2 ^ 32 * nonce + (first + i) / 16 + 2))) ((first + i) % 16)

/-- A message encrypted, its tag after it. -/
def gcmSeal (key : BitVec 256) (nonce : Nat) (bs : List Byte) : List Byte :=
  let ct := gcmCrypt key nonce 0 bs
  ct ++ natLe 16 (Config.gcmTag key nonce [] ct).toNat

/-- A sealed message opened: none where its tag does not match. -/
def gcmOpen (key : BitVec 256) (nonce : Nat) (bs : List Byte) : Option (List Byte) :=
  let ct := bs.take (bs.length - 16)
  if 16 ≤ bs.length ∧ leNat (bs.drop (bs.length - 16)) = (Config.gcmTag key nonce [] ct).toNat then some (gcmCrypt key nonce 0 ct) else none

end Sys2Proof.Machine
end

