-- ==== Sys2Proof/Machine/Ports.lean ====
section
/-! DEFINITION. Sys2Proof/Machine/Ports.lean: the fabric ports as they frame, encrypt and send packets (R352 to R356, R377), and the requests of the
module's own cores (R353, R358). -/

namespace Sys2Proof.Machine

def portAt (s : State) (n : Nat) : Port := AMap.getD s.ports n {}
def State.modPort (s : State) (n : Nat) (f : Port → Port) : State := { s with ports := AMap.put s.ports n (f (portAt s n)) }

/-! ## Frames (R353, R354) -/

/-- The header beat of a packet (R353). -/
def headerBeat (p : Packet) : List Byte :=
  [p.kind, BitVec.ofNat 8 (16 * p.sectors.toNat + (if p.phase then 8 else 0) + p.spare.toNat)] ++ natLe 2 p.tag.toNat ++ [p.module, p.slice]
  ++ natLe 2 p.opWord.toNat ++ natLe 8 p.offset.toNat ++ natLe 16 p.operands.toNat

/-- The trailer beat without its tag. -/
def trailerHead (seq : Nat) : List Byte := natLe 8 seq ++ List.replicate 8 0

/-- The nonce of a frame: the port's number in 32 bits, then the sequence number. -/
def frameNonce (port seq : Nat) : Nat := 2 ^ 64 * port + seq

/-- The tag of a frame: header beats and trailer are authenticated, payloads are ciphertext. -/
def frameTag (key : BitVec 256) (port seq : Nat) (ps : List Packet) : BitVec 128 :=
  Config.gcmTag key (frameNonce port seq) (ps.flatMap headerBeat ++ trailerHead seq) (ps.flatMap fun p => p.payload)

/-- The payloads of a frame's packets encrypted, or decrypted, as one message. -/
def cryptPackets (key : BitVec 256) (port seq : Nat) : Nat → List Packet → List Packet
  | _, [] => []
  | first, p :: ps => { p with payload := gcmCrypt key (frameNonce port seq) first p.payload } :: cryptPackets key port seq (first + p.payload.length) ps

/-! ## Keys (R356) -/

/-- A rotation of a port's two streams: the new key stands in the receiver's pending slot, and the sender uses it from its next frame
on; a rotation that has not ended at the receiver goes first, and one asked for meanwhile waits for its end. -/
def Port.rotate (p : Port) : Port :=
  if !p.up then p
  else if p.rxPending.isSome then { p with rotateDue := true }
  else { p with keys := p.keys + 1, rxPending := some (p.keys + 1), txActive := p.keys + 1, txPhase := !p.txPhase, frames := 0, rotateDue := false }

def rotatePort (s : State) (n : Nat) : State := s.modPort n Port.rotate

/-! ## Sending -/

/-- A frame of a port: its packets carry the sender's phase, and are encrypted under its active key. -/
def sealFrame (p : Port) (port : Nat) (ps : List Packet) : Frame :=
  let key := Config.linkKey port p.session true p.txActive
  let ps := cryptPackets key port p.txSeq 0 (ps.map fun q => { q with phase := p.txPhase })
  { seq := p.txSeq, packets := ps, tag := frameTag key port p.txSeq ps }

/-- The module sends a packet through a port (R354), in a frame of its own (DESIGN CHOICE, log entry 92: a frame may hold up to 16); a stream that has
sent 2^36 frames under one key is rotated first (R356). -/
def sendPacket (s : State) (port : Nat) (pkt : Packet) : State :=
  let s := if 2 ^ 36 ≤ (portAt s port).frames then rotatePort s port else s
  s.modPort port fun p => { p with txSeq := p.txSeq + 1, unacked := p.unacked ++ [sealFrame p port [pkt]], frames := p.frames + 1 }

/-! ## Requests of the module (R352, R353) -/

/-- A request of a core for a key of pod kind. -/
def requestTo (s : State) (slice tag key : Nat) (kind : BitVec 8) : Packet :=
  { kind := kind, sectors := 0, phase := false, spare := 0, tag := BitVec.ofNat 16 tag, module := BitVec.ofNat 8 s.moduleId, slice := BitVec.ofNat 8 slice, opWord := 0,
    offset := BitVec.ofNat 64 (bitsN (paOf key) 41 0), operands := 0, payload := [] }

/-- The sectors of a line as a packet's mask. -/
def sectorMask (sectors : List Nat) : BitVec 4 := BitVec.ofNat 4 ((List.range 4).foldl (fun m i => if sectors.any fun q => decide (q % 4 = i) then m + 2 ^ i else m) 0)

/-- The read request of a line part: the sectors that the L1 did not give. -/
def readRequest (s : State) (slice : Nat) (p : LinePart) : Packet :=
  { requestTo s slice (p.tag.getD 0) (128 * p.line) 1 with sectors := sectorMask (p.sectors.filter fun q => !p.hits.contains q) }

/-- The write of a line part: its sectors, with the bytes that the lanes enable. -/
def writeRequest (s : State) (slice : Nat) (p : LinePart) (lanes : List LaneAcc) : Packet :=
  let bytes := lanes.foldl (fun m la => rawWrite m la.pa (natLe la.size la.val.toNat)) []
  let mask := (List.range 128).foldl (fun n i => if (AMap.get? bytes (128 * p.line + i)).isSome then n + 2 ^ i else n) 0
  let sectors := (List.range 4).filter fun i => p.sectors.any fun q => decide (q % 4 = i)
  { requestTo s slice (p.tag.getD 0) (128 * p.line) 3 with
    sectors := sectorMask p.sectors, operands := BitVec.ofNat 128 mask,
    payload := sectors.flatMap fun i => (List.range 32).map fun j => AMap.getD bytes (128 * p.line + 32 * i + j) 0 }

/-- The code of an operation in a header (R353). -/
def opCode : AtomOp → Nat
  | .add => 0 | .min => 1 | .max => 2 | .and => 3 | .or => 4 | .xor => 5 | .xchg => 6 | .cas => 7

/-- The atomic or reduction of a lane. A merged operation carries its value rounded once in its own type (DESIGN CHOICE, log entry 92). -/
def atomRequest (s : State) (slice : Nat) (ac : Access) (la : LaneAcc) : Packet :=
  let m := modeF ac.mode
  let (kind, op, v) : BitVec 8 × AtomOp × Nat := match ac.kind with
    | .atomic op => (5, op, la.val.toNat)
    | .merged op => (7, op, if op = .add then mergedF op (modeEtype ac.mode) m 0 ac.combined else ac.combined.int.toNat)
    | .red op => (7, op, la.val.toNat)
    | _ => (7, .add, 0)
  { requestTo s slice (la.tag.getD 0) la.pa kind with
    opWord := BitVec.ofNat 16 (opCode op + 16 * bitsW ac.mode 8 4 + 512 * m.rm + (if m.ftz then 4096 else 0) + (if m.sat then 8192 else 0)),
    operands := BitVec.ofNat 128 (v % 2 ^ (8 * la.size) + 2 ^ 64 * la.expect.toNat) }

/-- A request leaves through the port of a pod key, unless the port is down: then it is answered without leaving the module (R362). -/
def sendRequest (s : State) (key : Nat) (pkt : Packet) : State := if (portAt s (podPort key)).up then sendPacket s (podPort key) pkt else s

/-! ## What other modules do (R348, R357) -/

/-- Another module may have written a line of a node's pooled memory: whether, and what it holds then, is free (log entry 93). -/
def stirLine (s : State) (key : Nat) : State :=
  if paKind key ≠ 2 then s
  else if Config.freeBool s.free then wakeWatchers { memPutNat s (key / 128 * 128) 128 (Config.freeNat (s.free + 1)) with free := s.free + 2 } (key / 128)
  else { s with free := s.free + 1 }

end Sys2Proof.Machine
end

