-- ==== Sys2Proof/Machine/Homes.lean ====
section
/-! DEFINITION. Sys2Proof/Machine/Homes.lean: the steps of an access after its issue: performed at its home, landed, acknowledged, returned
(R88, R188, R190, R216, R218, R228, R361, R362, R370). A step that the state does not enable leaves it as it is. -/

namespace Sys2Proof.Machine

/-- A step of the machine that is not an instruction: it takes a next state. -/
abbrev Event := Host.Outcome State Fault Refusal

/-! ## What a home answers -/

/-- Bytes of a line, the words marked uncorrectable, and whether an error is reported. -/
structure HomeData where
  cells : List Host.Cell := []
  poison : List Nat := []
  report : Bool := false

/-- Every word of a line. -/
def lineWords (line : Nat) : List Nat := (List.range 32).map (32 * line + ·)

/-- The data of a line as memory at another key holds it. -/
def lineData (s : State) (line key : Nat) : HomeData :=
  { cells := (cellsIn s.mem key 128).map fun (a, b) => (a - key + 128 * line, b),
    poison := ((List.range 32).filter fun j => AMap.getD s.memPoison (key / 4 + j) false).map (32 * line + ·) }

def lineFailed (line : Nat) (report : Bool) : HomeData := { poison := lineWords line, report := report }

/-- Whether the refresh window of a cistern key's array is open (R225). -/
def refreshing (s : State) (key : Nat) : Bool :=
  decide (refreshOpen s (cisternRegion key / 24) = some (bitsN (paOf key) 15 12))

/-- Reads of a cistern page that no digest has verified, or of a quarantined region, return data marked uncorrectable (R183, R299). -/
def cisternSound (s : State) (key : Nat) : Bool :=
  !(AMap.getD s.unverified (bitsN (paOf key) 47 12) false) && !(AMap.getD s.quarantined (cisternRegion key) false)

/-- The key that stands in a tensor's slot. -/
def tensorKey (s : State) (t : Tensor) : BitVec 256 := (AMap.getD s.keySlots t.slot {}).key

/-- A domain's key still stands in a tensor's slot (R408). -/
def tensorKeyed (s : State) (t : Tensor) : Bool :=
  match AMap.get? s.keySlots t.slot with
  | some ks => ks.bound && decide (ks.did = t.owner) && decide (ks.part = t.base / 2 ^ 52)
  | none => false

/-- A line XORed with its pads (R370). -/
def padLine (key : BitVec 256) (id version line : Nat) (bs : List Byte) : List Byte :=
  (List.range bs.length).map fun i => bs.getD i 0 ^^^ blockByte (tensorPad key id version line (i / 16)) (i % 16)

/-- Whether a line is of pod kind. -/
def lineKindPod (line : Nat) : Bool := decide (paKind (128 * line) = 2)

/-- A line of a tensor that an unlock has undefined (R408). -/
def lineLost (s : State) (line : Nat) : Bool := s.lost.any fun (a, n) => decide (a ≤ line) && decide (line < a + n)

/-- Ranges without a line. -/
def cutLine (line : Nat) (rs : List (Nat × Nat)) : List (Nat × Nat) :=
  rs.flatMap fun (a, n) => if a ≤ line ∧ line < a + n then [(a, line - a), (line + 1, a + n - line - 1)].filter fun r => decide (r.2 ≠ 0) else [(a, n)]

/-- Cells from bytes. -/
def cellsOf (a : Nat) (bs : List Byte) : List Host.Cell := cellsWrite [] a bs

/-- A line of a tensor read: decrypted, or marked uncorrectable where its MAC does not match (R370) or its key has been wiped (R408). -/
def tensorData (s : State) (id : Nat) (t : Tensor) (line : Nat) : HomeData :=
  let n := (128 * line - t.base) / 128
  let bs := cellsRead s.mem (128 * line) 128
  let raw := lineData s line (128 * line)
  if tensorKeyed s t && decide (tensorMac (tensorKey s t) id t.version n bs = BitVec.ofNat 64 (memNat s (t.mac + 8 * n) 8)) then
    { cells := cellsOf (128 * line) (padLine (tensorKey s t) id t.version n bs), poison := raw.poison }
  else lineFailed line true

/-- What the home of a line answers a core's load, or none while it cannot be performed. -/
def homeRead (s : State) (k line : Nat) : Option HomeData :=
  let key := 128 * line
  match paKind key with
  | 1 =>
    if !regionOf s (corePart s k) (cisternRegion key) then some (lineFailed line true)
    else if refreshing s key then none
    else if cisternSound s key then some (lineData s line key) else some (lineFailed line false)
  | 2 => match podPlace s key false with
    | .at_ a => some (lineData s line a)
    | .error _ => some (lineFailed line true)
    | .outside => none
  | 3 => match tensorAt s key with
    | some (i, t) => some (tensorData s i t line)
    | none => some (if lineLost s line then lineFailed line true else lineData s line key)
  | _ => some (lineData s line key)

/-! ## Landing -/

/-- One register of a lane is written by a load, and tagged where its data is marked uncorrectable (R90). -/
def Warp.landV (wp : Warp) (n l : Nat) (v : Word) (bad : Bool) : Warp :=
  let wp := wp.setV n l v
  if bad then { wp with vpoison := AMap.put wp.vpoison n (AMap.getD wp.vpoison n 0 ||| bitMask l) } else wp

def Warp.landS (wp : Warp) (n : Nat) (v : Word) (bad : Bool) : Warp :=
  let wp := wp.setS n v
  if bad then { wp with spoison := AMap.put wp.spoison n allLanes } else wp

/-- A lane's data lands in its destination (R86, R88, R90). -/
def Warp.land (wp : Warp) (dest : Dest) (l size v bad : Nat) : Warp :=
  match dest with
  | .none => wp
  | .vec r n signed =>
    let v := if size < 4 then wrapN (if signed then sextN v (8 * size) else (v % 2 ^ (8 * size) : Nat)) 32 else v
    (List.range n).foldl (fun wp j => wp.landV (r + j) l (w32 (v / 2 ^ (32 * j))) (decide (bad / 2 ^ j % 2 = 1))) wp
  | .scal r n => (List.range n).foldl (fun wp j => wp.landS (r + j) (w32 (v / 2 ^ (32 * j))) (decide (bad / 2 ^ j % 2 = 1))) wp

/-- Change the warp of an access, if it still stands in its slot. -/
def modAccWarp (s : State) (k : Nat) (ac : Access) (f : Warp → Warp) : State :=
  s.modWarp k ac.w fun wp => if wp.age = ac.warpAge then f wp else wp

/-- The words of a lane's bytes among some words, as bits. -/
def badBits (words : List Nat) (pa size : Nat) : Nat :=
  (List.range (max 1 (size / 4))).foldl (fun acc j => if words.contains (pa / 4 + j) then acc + 2 ^ j else acc) 0

/-- The sector that a landing fills, with the core's own later stores applied (R216). -/
def fillOf (p : LinePart) (sector : Nat) : L1Sector :=
  let own := cellsIn p.overlay (32 * sector) 32
  { sector := sector, bytes := own.foldl (fun m (a, b) => cellWrite m a b) (cellsIn p.snap (32 * sector) 32),
    poison := p.snapPoison.filter fun w => decide (w / 8 = sector) && !((List.range 4).all fun i => own.any fun (a, _) => decide (a = 4 * w + i)) }

/-- Whether every sector of an access has landed. -/
def Access.allLanded (ac : Access) : Bool := ac.parts.all fun p => p.sectors.all p.landed.contains

/-- A load whose last sector has landed completes: lc counts down; its WATCH is out no more (R88, R202). -/
def finishLoad (s : State) (k : Nat) (ac : Access) : State :=
  let s := watchDone (dropAccess s k ac.id) k ac
  match ac.kind with
  | .pref => s
  | .watch =>
    let s := countDownAt s k ac.w ac.warpAge .lc
    s.modGang k ac.w ac.g fun gn => if gn.watching = some ac.id then { gn with watching := none } else gn
  | _ => countDownAt s k ac.w ac.warpAge .lc

/-- LOAD_SECTOR_LAND (R216, R218): a sector that hit, or that its home has given, is written into the destination and fills the L1. -/
def execLoadSectorLand (k id sector : Nat) (s : State) : Event :=
  match accessAt s k id with
  | none => .next s
  | some ac => match ac.parts.find? fun p => decide (p.line = sector / 4) with
    | none => .next s
    | some p =>
      if ac.kind = .store ∨ ac.abandoned ∨ !p.sectors.contains sector ∨ p.landed.contains sector ∨ !(p.performed || p.hits.contains sector) then .next s
      else
        let lanes := ac.lanes.filter fun la => decide (la.pa / 32 = sector)
        let s := modAccWarp s k ac fun wp => lanes.foldl (fun (wp : Warp) la =>
          wp.land ac.dest la.lane la.size (cellsNat p.snap la.pa la.size) (badBits p.snapPoison la.pa la.size)) wp
        let s := if p.fills.contains sector then s.modCore k fun c => l1Fill k c ac.did (fillOf p sector) else s
        let put := fun (q : LinePart) => if q.line = p.line then { q with landed := sector :: q.landed } else q
        let s := s.modAccess k id fun ac => { ac with parts := ac.parts.map put }
        match accessAt s k id with
        | some ac => .next (if ac.allLanded then finishLoad s k ac else s)
        | none => .next s

/-- SCRATCHPAD_LOAD_RETURN (R181): the words of an LDS or UNPACK arrive. -/
def execScratchpadLoadReturn (k id : Nat) (s : State) : Event :=
  match accessAt s k id with
  | none => .next s
  | some ac =>
    if ac.kind ≠ .lds then .next s
    else
      let s := modAccWarp s k ac fun wp => ac.lanes.foldl (fun (wp : Warp) la => wp.land ac.dest la.lane la.size la.val.toNat la.poison) wp
      .next (dropAccess s k id)

/-- STORE_ACK (R88): every sector acknowledged, sc counts down. -/
def execStoreAck (k id : Nat) (s : State) : Event :=
  match accessAt s k id with
  | none => .next s
  | some ac =>
    if ac.kind ≠ .store ∨ !(ac.parts.all fun p => p.performed) then .next s
    else .next (countDownAt (dropAccess s k id) k ac.w ac.warpAge .sc)

/-! ## Performed at the home -/

/-- The request of a line part to a pod address leaves through its port, once (R352). -/
def partOut (s : State) (k : Nat) (ac : Access) (p : LinePart) (pkt : Packet) : State :=
  if !lineKindPod p.line || p.sent then s
  else
    let put := fun (q : LinePart) => if q.line = p.line then { q with sent := true } else q
    (sendRequest s (128 * p.line) pkt).modAccess k ac.id fun ac => { ac with parts := ac.parts.map put }

/-- The request of a lane to a pod address leaves through its port, once (R352). -/
def laneOut (s : State) (k : Nat) (ac : Access) (la : LaneAcc) : State :=
  if !lineKindPod (la.pa / 128) || la.sent then s
  else (sendRequest s la.pa (atomRequest s (coreSlice k) ac la)).modAccess k ac.id fun ac =>
    { ac with lanes := mapIf (fun b => decide (b.lane = la.lane)) (fun b => { b with sent := true }) ac.lanes }

/-- Other modules may have written a line of pooled memory before it is read or changed here (R348). -/
def podStir (s : State) (line : Nat) : State :=
  if !lineKindPod line then s else match podPlace s (128 * line) false with
    | .at_ a => stirLine s a
    | _ => s

/-- A request to a line is held in the dual-map window of a resize (R383). -/
def homeHeld (s : State) (line : Nat) : Bool :=
  inDualMap s (128 * line) || (lineKindPod line && match podPlace s (128 * line) false with
    | .at_ a => inDualMap s a
    | _ => false)

/-- A WATCH arms its monitor in the step that reads the word (R202), at the home of the line: through a peer window, the window's target. -/
def armMonitor (s : State) (k : Nat) (ac : Access) (line : Nat) : State :=
  if ac.kind = .watch then
    let at_ := if lineKindPod line then (match podPlace s (128 * line) false with | .at_ a => a / 128 | _ => line) else line
    s.modGang k ac.w ac.g fun gn => if gn.watching = some ac.id then { gn with monitor := some { line := at_, did := ac.did } } else gn
  else s

/-- HOME_LOAD (R228, R229): a line's request is performed; its data is what the home holds now. -/
def execHomeLoad (k id line : Nat) (s : State) : Event :=
  match accessAt s k id with
  | none => .next s
  | some ac => match ac.parts.find? fun p => decide (p.line = line) with
    | none => .next s
    | some p =>
      if ac.kind = .store ∨ ac.abandoned ∨ p.performed ∨ !firstOnPath (coreAt s k) id line ∨ homeHeld s line then .next s
      else
        let s := podStir (partOut s k ac p (readRequest s (coreSlice k) p)) line
        match homeRead s k line with
        | none => .next s
        | some h =>
          let miss := fun a => p.sectors.contains (a / 32) && !p.hits.contains (a / 32)
          let put := fun (q : LinePart) =>
            if q.line = line then { q with performed := true, snap := (h.cells.filter fun (a, _) => miss a).foldl (fun m (a, b) => cellWrite m a b) q.snap,
                                           snapPoison := q.snapPoison ++ h.poison.filter fun w => miss (4 * w) } else q
          let s := s.modAccess k id fun ac => { ac with parts := ac.parts.map put }
          let s := if h.report then reportError s (coreSlice k) (paOf (128 * line)) else s
          .next (armMonitor s k ac line)

/-- Bytes of one line as parts of at most 16 bytes. -/
def byteLanes (key : Nat) : Nat → List Byte → List LaneAcc
  | 0, _ => []
  | n + 1, bs =>
    if bs.isEmpty then []
    else { lane := 0, pa := key, size := min 16 bs.length, val := BitVec.ofNat 128 (leNat (bs.take 16)) } :: byteLanes (key + 16) n (bs.drop 16)

/-- The stored bytes of a line of a tensor go to memory encrypted, with their MAC (R370), beside what the open version already holds of the line. -/
def storeTensor (s : State) (id : Nat) (t : Tensor) (line : Nat) (lanes : List LaneAcc) : State :=
  let n := (128 * line - t.base) / 128
  let old := if t.done.contains n then padLine (tensorKey s t) id t.version n (cellsRead s.mem (128 * line) 128) else []
  let plain := lanes.foldl (fun m la => rawWrite m la.pa la.bytes) (rawWrite [] (128 * line) old)
  let bs := (List.range 128).map fun i => AMap.getD plain (128 * line + i) 0
  let ct := padLine (tensorKey s t) id t.version n bs
  let s := homeWriteNat (homeWrite s (128 * line) ct) (t.mac + 8 * n) 8 (tensorMac (tensorKey s t) id t.version n ct).toNat
  { s with tensors := AMap.modify s.tensors id fun t => { t with done := insertNat n t.done } }

/-- The stores of some lanes to one line are performed at its home, or none while they cannot be. -/
def performStore (s : State) (k line : Nat) (did : BitVec 16) (lanes : List LaneAcc) : Option State :=
  let key := 128 * line
  match paKind key with
  | 2 => match podPlace s key true with
    | .at_ a => some (lanes.foldl (fun s la => if paKind a = 0 then engineWrite s (coreSlice k) (corePart s k) did (a + la.pa % 128) la.bytes
        else homeWrite s (a + la.pa % 128) la.bytes) s)
    | .error _ => some (reportError s (coreSlice k) (paOf key))
    | .outside => none
  | 3 => match tensorAt s key with
    | some (i, t) => some (storeTensor s i t line lanes)
    | none => some { lanes.foldl (fun s la => homeWrite s la.pa la.bytes) s with lost := cutLine line s.lost }
  | _ => some (lanes.foldl (fun s la => homeWrite s la.pa la.bytes) s)

/-- The write request of a line of an access leaves, if it is to a pod address. -/
def storeOut (s : State) (k : Nat) (ac : Access) (line : Nat) (lanes : List LaneAcc) : State :=
  match ac.parts.find? fun p => decide (p.line = line) with
  | some p => partOut s k ac p (writeRequest s (coreSlice k) p lanes)
  | none => s

/-- HOME_STORE (R215, R228, R229): a line's sectors take their place in coherence order, the highest lane supplying a byte (R89). -/
def execHomeStore (k id line : Nat) (s : State) : Event :=
  match accessAt s k id with
  | none => .next s
  | some ac =>
    if ac.kind ≠ .store ∨ !(ac.parts.any fun p => decide (p.line = line) && !p.performed) ∨ !firstOnPath (coreAt s k) id line ∨ homeHeld s line then .next s
    else
      let lanes := ac.lanes.filter fun la => decide (la.pa / 128 = line)
      let s := storeOut s k ac line lanes
      match performStore s k line ac.did lanes with
      | none => .next s
      | some s =>
        let put := fun (q : LinePart) => if q.line = line then { q with performed := true } else q
        let s := s.modAccess k id fun ac => { ac with parts := ac.parts.map put }
        let s := s.modCore k fun c => c.wrote ac.did line
        match accessAt s k id with
        | some ac => .next (if ac.parts.all fun p => p.performed then watchDone s k ac else s)
        | none => .next s

/-- An atomic operation is performed on n bytes at a key: the old value, its uncorrectable words, and the state after. A function that
writes nothing leaves memory as it is; a word that was uncorrectable stays so unless the new value does not depend on it. -/
def performAt (s : State) (k : Nat) (did : BitVec 16) (line key n : Nat) (f : Nat → Option Nat) (keep : Bool) : Nat × Nat × State :=
  let old := memNat s key n
  let bad := badBits ((wordsOf key n).filter fun w => AMap.getD s.memPoison w false) key n
  match f old with
  | none => (old, bad, s)
  | some v =>
    let s := homeWriteNat s key n v
    let s := if bad ≠ 0 ∧ keep then memMark s key n else s
    (old, bad, s.modCore k fun c => c.wrote did line)

/-- Where an atomic at a key is performed: at the key, at a window's home, with an error, or not yet. -/
def atomPlace (s : State) (key : Nat) : PodPlace := if paKind key = 2 then podPlace s key true else .at_ key

/-- The function an atomic applies at its home: none when it does not write (R186, R188, R189). -/
def atomFun (ac : Access) (la : LaneAcc) (old : Nat) : Option Nat :=
  let t := modeEtype ac.mode
  match ac.kind with
  | .atomic .cas => if old = la.expect.toNat then some la.val.toNat else none
  | .atomic op | .red op => some (atomF op t (modeF ac.mode) old la.val.toNat % 2 ^ (8 * la.size))
  | .merged op => some (mergedF op t (modeF ac.mode) old ac.combined % 2 ^ (8 * la.size))
  | _ => none

/-- A lane of an access is done. -/
def markLane (s : State) (k id lane : Nat) (f : LaneAcc → LaneAcc) : State :=
  s.modAccess k id fun ac => { ac with lanes := mapIf (fun la => decide (la.lane = lane)) (fun la => { f la with done := true }) ac.lanes }

/-- A reduction all of whose lanes have been performed counts down sc (R88, R190). -/
def finishRed (s : State) (k id : Nat) : State :=
  match accessAt s k id with
  | none => s
  | some ac => if ac.lanes.all fun la => la.done then countDownAt (watchDone (dropAccess s k id) k ac) k ac.w ac.warpAge .sc else s

/-- The issuing core's L1 takes a performed reduction as it takes a store of the domain (R89, R190, R216): the new bytes go into the domain's
sectors that are present and into the fills whose data the home gave before. DEDUCED (log entry 40). -/
def landRed (c : Core) (did : BitVec 16) (pa : Nat) (bs : List Byte) : Core :=
  let c := l1Store c did pa bs
  let lay := fun (p : LinePart) =>
    if p.performed && p.fills.contains (pa / 32) && !p.landed.contains (pa / 32) then { p with overlay := rawWrite p.overlay pa bs } else p
  { c with inflight := c.inflight.map fun ac => if ac.did = did then { ac with parts := ac.parts.map lay } else ac }

/-- What follows a lane's operation, by kind, with the bytes that stand at its home. -/
def afterAtomic (s : State) (k : Nat) (ac : Access) (la : LaneAcc) (bs : List Byte) : State :=
  let land := fun (s : State) => s.modCore k fun c => landRed c ac.did la.pa bs
  match ac.kind with
  | .merged _ =>
    let s := dropAccess (land s) k ac.id
    let s := ac.contributors.foldl (fun s (i, l) => markLane s k i l id) s
    ((ac.contributors.map Prod.fst).eraseDups).foldl (fun s i => finishRed s k i) s
  | .red _ => finishRed (land s) k ac.id
  | _ => match accessAt s k ac.id with
    | some ac => if ac.lanes.all fun la => la.done then watchDone s k ac else s
    | none => s

/-- One lane's operation at a home: the old value, its uncorrectable words, the state after; through a peer window into HBM the line is
published (R236). -/
def atomAt (s : State) (k : Nat) (ac : Access) (la : LaneAcc) (key : Nat) : Nat × Nat × State :=
  let (old, bad, s) := performAt s k ac.did (la.pa / 128) key la.size (atomFun ac la) (decide (ac.kind ≠ .atomic .xchg))
  (old, bad, if paKind la.pa = 2 ∧ paKind key = 0 then publishWide s (homeSlice s key) (key / 2 ^ 52) ac.did [key / 128] else s)

/-- HOME_ATOMIC (R188 to R190, R228): one lane's operation is performed, indivisibly; lanes with one address in ascending order. -/
def execHomeAtomic (k id lane : Nat) (s : State) : Event :=
  match accessAt s k id with
  | none => .next s
  | some ac => match ac.lanes.find? fun la => decide (la.lane = lane) with
    | none => .next s
    | some la =>
      let kindOk := match ac.kind with | .atomic _ | .red _ | .merged _ => true | _ => false
      if !kindOk ∨ la.done ∨ !firstOnPath (coreAt s k) id (la.pa / 128)
          ∨ (ac.lanes.any fun lb => decide (lb.lane < lane) && decide (lb.pa = la.pa) && !lb.done) ∨ homeHeld s (la.pa / 128) then .next s
      else
        let s := podStir (laneOut s k ac la) (la.pa / 128)
        match atomPlace s la.pa with
        | .outside => .next s
        | .error _ =>
          let s := markLane (reportError s (coreSlice k) (paOf la.pa)) k id lane fun la => { la with poison := 15 }
          .next (afterAtomic s k ac la [])
        | .at_ key =>
          let (old, bad, s) := atomAt s k ac la key
          let s := markLane s k id lane fun la => { la with val := BitVec.ofNat 128 old, poison := bad }
          .next (afterAtomic s k ac la (cellsRead s.mem key la.size))

/-- The returned values land and lc counts down (R188). -/
def returnAtomic (s : State) (k : Nat) (ac : Access) : State :=
  let s := modAccWarp s k ac fun wp => ac.lanes.foldl (fun (wp : Warp) la => wp.land ac.dest la.lane la.size la.val.toNat la.poison) wp
  countDownAt (dropAccess s k ac.id) k ac.w ac.warpAge .lc

/-- Whether an access is a returning atomic. -/
def Access.isAtomic (ac : Access) : Bool := match ac.kind with | .atomic _ => true | _ => false

/-- ATOMIC_RETURN (R188). -/
def execAtomicReturn (k id : Nat) (s : State) : Event :=
  match accessAt s k id with
  | none => .next s
  | some ac => if ac.isAtomic && ac.lanes.all fun la => la.done then .next (returnAtomic s k ac) else .next s

/-- One lane of a remote atomic that has timed out: performed once or not at all, which is left free; its data is uncorrectable (R361). -/
def timeOutLane (k id : Nat) (s : State) (la : LaneAcc) : State :=
  if paKind la.pa ≠ 2 then s
  else
    let performed := !la.done && Config.freeBool s.free && firstOnPath (coreAt s k) id (la.pa / 128)
    let s := { s with free := s.free + 1 }
    let s := match accessAt s k id, podPlace s la.pa true with
      | some ac, .at_ key => if performed then (atomAt s k ac la key).2.2 else s
      | some ac, .outside => if performed then wakeWatchers (s.modCore k fun c => c.wrote ac.did (la.pa / 128)) (la.pa / 128) else s
      | _, _ => s
    markLane s k id la.lane fun la => { la with poison := 15 }

/-- The fabric atomic limit in a core's own cycles: 8,800 arithmetic cycles (R8, R10). -/
def atomicLimit (k : Nat) : Nat := if isService k then 17600 else 8800

/-- REMOTE_ATOMIC_TIMEOUT (R361): 8,800 arithmetic cycles after its issue. -/
def execRemoteAtomicTimeout (k id : Nat) (s : State) : Event :=
  match accessAt s k id with
  | none => .next s
  | some ac =>
    if !ac.isAtomic ∨ !(ac.lanes.any fun la => paKind la.pa = 2) ∨ (coreAt s k).clk.toNat < ac.born.toNat + atomicLimit k then .next s
    else
      let s := ac.lanes.foldl (timeOutLane k id) s
      match accessAt s k id with
      | some ac => .next (if ac.lanes.all fun la => la.done then returnAtomic (watchDone s k ac) k ac else s)
      | none => .next s

/-- COMBINING_ENTRY_EXPIRY (R190): 2,048 cycles after its creation an entry leaves for its home. -/
def execCombiningEntryExpiry (k i : Nat) (s : State) : Event :=
  match (coreAt s k).combine[i]? with
  | none => .next s
  | some e =>
    if (coreAt s k).clk.toNat < e.born.toNat + 2048 then .next s
    else .next (flushEntries s k fun d => decide (d = e))

/-! ## Monitors -/

/-- MONITOR_DROP (R204): a home drops a monitor; a sleeper wakes with status 4. -/
def execMonitorDrop (k w g : Nat) (s : State) : Event :=
  match gangAt s k w g with
  | none => .next s
  | some gn => match gn.monitor, gn.status with
    | none, _ => .next s
    | some _, .waiting (.sleep _ _) => .next (endSleep s { core := k, w := w, g := g } 4)
    | some _, _ => .next (s.modGang k w g fun gn => { gn with monitor := gn.monitor.map fun m => { m with lost := true } })

/-- WSLEEP_TIMEOUT (R203): the limit has run out, status 2. -/
def execWsleepTimeout (k w g : Nat) (s : State) : Event :=
  match gangAt s k w g with
  | none => .next s
  | some gn => match gn.status with
    | .waiting (.sleep _ (some 0)) => .next (endSleep s { core := k, w := w, g := g } 2)
    | _ => .next s

end Sys2Proof.Machine
end

