-- ==== Sys2Proof/Machine/Pieces.lean ====
section
/-! DEFINITION. Sys2Proof/Machine/Pieces.lean: the copy command and the pieces it moves (R192, R193). -/

namespace Sys2Proof.Machine

/-! ## The command (R192) -/

/-- What the seven scalars of a copy say. -/
structure CopyCmd where
  mem : DWord
  sp : Nat
  len : Nat
  rows : Nat
  mstride : Int
  sstride : Nat
deriving DecidableEq, Repr

def copyOf (g : List Word) : CopyCmd :=
  let w := fun i => g.getD i 0
  { mem := pairW (w 0) (w 1), sp := bitsW (w 2) 19 0, len := bitsW (w 3) 15 0, rows := bitsW (w 3) 31 16, mstride := (w 4).toInt, sstride := bitsW (w 5) 15 0 }

/-- Bytes of the stream. -/
def CopyCmd.total (c : CopyCmd) : Nat := c.len * c.rows

/-- A piece: its first byte of the stream, its bytes, its row, its memory and scratchpad addresses. -/
structure Piece where
  off : Nat
  len : Nat
  row : Nat
  va : DWord
  sp : Nat
deriving DecidableEq, Repr

/-- The 16 bytes at a place of the stream. -/
def CopyCmd.unit (c : CopyCmd) (off : Nat) : Piece :=
  let row := off / c.len
  { off := off, len := 16, row := row, va := c.mem + BitVec.ofInt 64 (c.mstride * row) + BitVec.ofNat 64 (off % c.len), sp := c.sp + row * c.sstride + off % c.len }

/-- The pieces of a chunk: runs of one row within one line of memory, at most 128 bytes each. -/
def CopyCmd.pieces (c : CopyCmd) (chunk : Nat) : List Piece :=
  let lo := 4096 * chunk
  let n := (min c.total (lo + 4096) - lo) / 16
  ((List.range n).foldl (fun (acc : List Piece) i =>
    let u := c.unit (lo + 16 * i)
    match acc with
    | p :: rest => if p.row = u.row ∧ p.va.toNat / 128 = u.va.toNat / 128 then { p with len := p.len + 16 } :: rest else u :: acc
    | [] => [u]) []).reverse

def CopyCmd.chunks (c : CopyCmd) : Nat := ceilDiv c.total 4096

/-- Pieces of a CPYO that have not been acknowledged: the rest of the running chunk and the chunks to come. -/
def Command.piecesLeft (q : Command) : List Piece :=
  let c := copyOf q.group
  (if q.started && decide (0 < q.chunked) then (c.pieces (q.chunked - 1)).filter fun p => !q.landed.contains p.off else [])
  ++ (List.range (c.chunks - q.chunked)).flatMap fun i => c.pieces (q.chunked + i)

end Sys2Proof.Machine
end

