-- ==== Sys2Proof/Machine/Translate.lean ====
section
/-! DEFINITION. Sys2Proof/Machine/Translate.lean: page tables, walks, the page ownership check (R320, R321, R332, R340 to R344) and the
translation service's steps. -/

namespace Sys2Proof.Machine

/-- A fault of translation: cause and detail. -/
abbrev WalkFault := Nat × Nat

/-- The ownership entry of a key's frame (R320). -/
def potAt (s : State) (key : Nat) : PotEntry := AMap.getD s.pot (key / 65536) {}

/-- Whether a domain may use a frame (R321). -/
def potAllows (e : PotEntry) (did : BitVec 16) (world : Bool) : Bool :=
  if did = 0xFFFF then !e.world || decide (e.owner = 0xFFFF)
  else if e.owner = 0 then !e.world && !world
  else decide (e.owner = did) && (e.world == world)

/-- A partition with the settings of a request of service 0x0001 in force, its journal apart (R380). -/
def Partition.withSetup (pt : Partition) (ws : List Word) : Partition :=
  let w := fun i => ws.getD i 0
  { pt with root := (pairW (w 2) (w 3)).toNat, queueTable := pairW (w 4) (w 5), queueCount := (w 6).toNat, index := pairW (w 8) (w 9), indexCount := (w 10).toNat,
            quantum := if w 12 = 0 then 1100000 else (w 12).toNat }

/-- A partition as one of its slices sees it: the waiting settings are in force for the slices whose quantum has ended since (R380). -/
def partSeen (s : State) (p slice : Nat) : Partition :=
  let pt := partAt s p
  match pt.setup with
  | some ws => if pt.adopted.contains slice then pt.withSetup ws else pt
  | none => pt

/-- The state as a slice of a partition sees it. -/
def State.seenBy (s : State) (p slice : Nat) : State := if (partAt s p).adopted.contains slice then { s with parts := AMap.put s.parts p (partSeen s p slice) } else s

/-- The address of a domain's level-4 table on a core: the kernel's root, or word 0 of the control block of its slot's area (R332). -/
def rootOf (s : State) (k : Nat) (did : BitVec 16) : Nat :=
  if did = 0xFFFF then (partSeen s (corePart s k) (coreSlice k)).root
  else match slotOf (coreAt s k) did with
    | some (_, sl) => memNat s (physKey (corePart s k) ((pairW sl.w6 sl.w7).toNat + 16384)) 8
    | none => 0

/-- The first core of a partition that holds a valid slot of a domain. -/
def domainCore (s : State) (p : Nat) (did : BitVec 16) : Option Nat :=
  (coresOfPart s p).find? fun k => isCompute k && (slotOf (coreAt s k) did).isSome

/-- The root by which a partition's firmware translates addresses of a domain. -/
def domainRoot (s : State) (p : Nat) (did : BitVec 16) : Nat :=
  if did = 0xFFFF then (partAt s p).root else match domainCore s p did with
    | some k => rootOf s k did
    | none => 0

/-- The world of a domain in a partition. -/
def domainWorld (s : State) (p : Nat) (did : BitVec 16) : Bool :=
  match domainCore s p did with
  | some k => worldOf (coreAt s k) did
  | none => false

/-- A leaf found by a walk: virtual base, bytes, physical base, permissions. -/
structure Leaf where
  va : Nat
  size : Nat
  pa : Nat
  w : Bool
  x : Bool
deriving DecidableEq, Repr

/-- The walk from a table down its remaining levels (R340, R341). -/
def walkFrom (s : State) (p va : Nat) : Nat → Nat → Except WalkFault Leaf
  | 0, _ => .error (0x08, 11)
  | level + 1, table =>
    if (potAt s (physKey p table)).owner ≠ 0xFFFF then .error (0x08, 12)
    else
      let e := memNat s (physKey p (table + 8 * bitsN va (20 + 9 * level) (12 + 9 * level))) 8
      let frame := e / 4096 % 2 ^ 40 * 4096
      let size := 2 ^ (12 + 9 * level)
      let leaf := decide (level = 0) || decide (e / 2 % 2 = 1)
      if e % 2 = 0 then .error (0x08, 0)
      else if bitsN e 63 52 ≠ 0 ∨ bitsN e 11 5 ≠ 0 then .error (0x08, 11)
      else if leaf && decide (3 ≤ level) then .error (0x08, 11)
      else if !leaf then walkFrom s p va level frame
      else if frame % size ≠ 0 then .error (0x08, 11)
      else if paKind frame = 1 ∧ e / 4 % 2 = 1 then .error (0x08, 11)
      else .ok { va := va / size * size, size := size, pa := frame, w := e / 4 % 2 = 1, x := e / 8 % 2 = 1 }

/-- The slices whose stacks make up a partition's HBM range; during a resize the range is the shorter of the two (R381, R382). -/
def hbmStacks (pt : Partition) : Nat := match pt.resize with | some r => min r.old.length r.target.length | none => pt.slices.length

/-- A frame that no memory backs (R213, R214, R221, R224, R367). -/
def badFrame (s : State) (p pa : Nat) : Bool :=
  match paKind pa with
  | 0 => decide (15625000 * hbmStacks (partAt s p) ≤ bitsN pa 47 12)
  | 1 => decide (192 ≤ cisternRegion pa) || (decide (cisternRegion pa % 2 = 1) && s.paired.contains (cisternRegion pa / 2))
  | 2 => false
  | 3 => decide ((partAt s p).cxlBytes ≤ bitsN pa 47 0) || (cxlPortAt s p (bitsN pa 47 0)).isNone
  | _ => true

/-- A leaf as an entry of its whole page. -/
def Leaf.entry (l : Leaf) (did : BitVec 16) : TlbEntry := { did := did, va := l.va, size := l.size, pa := l.pa, w := l.w, x := l.x }

/-- The piece of an entry's page that holds an address, of at most n bytes. -/
def TlbEntry.cut (e : TlbEntry) (va n : Nat) : TlbEntry :=
  let n := min e.size n
  { e with va := va / n * n, size := n, pa := (e.pa + (va - e.va)) / n * n, leafVa := e.va, leafSize := e.size }

/-- A walk from a root to a leaf. DESIGN CHOICE (log entry 42): until the kernel names its root, its addresses are physical. -/
def walkLeaf (s : State) (p root : Nat) (did : BitVec 16) (va : Nat) : Except WalkFault TlbEntry :=
  if root = 0 then
    if did ≠ 0xFFFF then .error (0x08, 0)
    else if 2 ^ 52 ≤ va then .error (0x08, 5)
    else .ok { did := did, va := va / 65536 * 65536, size := 65536, pa := va / 65536 * 65536, w := true, x := true }
  else match walkFrom s p va 5 root with
    | .error e => .error e
    | .ok l => .ok (l.entry did)

/-- The checks of a fill on the frame of an address: its kind and memory, its owner (R213, R321). -/
def fillFault (s : State) (p : Nat) (did : BitVec 16) (world : Bool) (e : TlbEntry) (va : Nat) : Option WalkFault :=
  let pa := e.pa + (va - e.va)
  if badFrame s p pa then some (0x08, 5)
  else if !potAllows (potAt s (physKey p pa)) did world then some (0x09, 2)
  else none

/-- A walk from a root with the checks of a fill. -/
def walk (s : State) (p root : Nat) (did : BitVec 16) (world : Bool) (va : Nat) : Except WalkFault TlbEntry :=
  match walkLeaf s p root did va with
  | .error e => .error e
  | .ok l => match fillFault s p did world l va with
    | some f => .error f
    | none => .ok (l.cut va 4096)

/-- Whether every frame of a piece of an entry passes the checks of a fill. -/
def pieceSound (s : State) (p : Nat) (did : BitVec 16) (world : Bool) (e : TlbEntry) (base n : Nat) : Bool :=
  (List.range (ceilDiv n 65536)).all fun i =>
    (fillFault s p did world e (base + 65536 * i)).isNone && (fillFault s p did world e (base + min n (65536 * (i + 1)) - 1)).isNone

/-- The entry with which a core's TLB is filled for an address that passes (R343): the whole page where all its frames pass, else the frame of the ownership
table, or the 4 KiB, that holds the address (DEDUCED, log entry 41). -/
def TlbEntry.fit (e : TlbEntry) (s : State) (p : Nat) (did : BitVec 16) (world : Bool) (va : Nat) : TlbEntry :=
  if pieceSound s p did world e e.va e.size then e.cut va e.size
  else if pieceSound s p did world e (va / 65536 * 65536) 65536 then e.cut va 65536
  else e.cut va 4096

/-- A walk for a domain as a partition's firmware makes it. -/
def walkFor (s : State) (p : Nat) (did : BitVec 16) (va : DWord) : Except WalkFault TlbEntry :=
  if canonical va then walk s p (domainRoot s p did) did (domainWorld s p did) (vaNat va) else .error (0x08, 9)

/-- The key that firmware finds for an address of a domain. -/
def keyOfVa (s : State) (p : Nat) (did : BitVec 16) (va : DWord) : Option Nat :=
  match walkFor s p did va with
  | .ok e => some (boundKey s p none (e.paOf va))
  | .error _ => none

/-- A fill of a core's TLB: the entries that overlap it are replaced, and of 2,048 the oldest makes room (R343). -/
def Core.fill (c : Core) (e : TlbEntry) : Core :=
  { c with tlb := e :: (c.tlb.filter fun f => !(decide (f.did = e.did) && decide (f.va < e.va + e.size) && decide (e.va < f.va + f.size))).take 2047 }

/-- What a walk answers a miss of a core: an entry, or the fault that the miss takes at its next try. -/
def answerMiss (s : State) (m : Miss) (r : Except WalkFault TlbEntry) : State :=
  let refuse := fun (f : WalkFault) (leaf : Option TlbEntry) =>
    s.modCore m.core fun c => { c with refusals := { did := m.did, page := m.page, cause := f.1, detail := f.2, leaf := leaf } :: c.refusals }
  let world := worldOf (coreAt s m.core) m.did
  match r with
  | .error f => refuse f none
  | .ok l => match fillFault s (corePart s m.core) m.did world l (4096 * m.page) with
    | some f => refuse f (some (l.cut (4096 * m.page) 4096))
    | none => s.modCore m.core fun c => c.fill (l.fit s (corePart s m.core) m.did world (4096 * m.page))

/-- Whether two misses have one key (R343). -/
def Miss.same (m n : Miss) : Bool := decide (m.did = n.did) && decide (m.page = n.page)

/-- The walks in progress: one for each key that is walked. -/
def walksOf : List Miss → List Miss
  | [] => []
  | m :: ms => let rest := walksOf ms; if m.walking && !rest.any m.same then m :: rest else rest

/-- TRANSLATION_WALK (R343): the walk of the oldest miss whose key is not walked starts, while a walker is free; misses of its key join. -/
def execTranslationWalk (slice : Nat) (s : State) : Event :=
  let ms := (sliceAt s slice).misses
  match ms.find? fun m => !m.walking with
  | none => .next s
  | some m =>
    if 64 ≤ (walksOf ms).length then .next s
    else .next (s.modSlice slice fun sl => { sl with misses := sl.misses.map fun n => if m.same n then { n with walking := true } else n })

/-- The walk of a miss, from the root of its domain on its core. -/
def walkMiss (s : State) (m : Miss) : Except WalkFault TlbEntry :=
  walkLeaf s (corePart s m.core) (rootOf s m.core m.did) m.did (4096 * m.page)

/-- TRANSLATION_ANSWER (R343): a walk ends, or the service holds the page; every waiting miss that the leaf covers is answered from it,
each with the checks of its own fill. -/
def execTranslationAnswer (slice idx : Nat) (s : State) : Event :=
  let sl := sliceAt s slice
  match sl.misses[idx]? with
  | none => .next s
  | some m =>
    let held := sl.service.find? fun e => e.covers m.did (4096 * m.page)
    if held.isNone && !m.walking then .next s
    else
      let r := match held with | some e => .ok e | none => walkMiss s m
      let mine := fun (n : Miss) => match r with
        | .ok e => e.covers n.did (4096 * n.page)
        | .error _ => m.same n
      let s := s.modSlice slice fun sl =>
        { sl with misses := sl.misses.filter fun n => !mine n,
                  service := match r with | .ok e => if held.isSome then sl.service else e :: sl.service.take 32767 | .error _ => sl.service }
      .next ((sl.misses.filter mine).foldl (fun s n => answerMiss s n r) s)

end Sys2Proof.Machine
end

