-- ==== Sys2Proof/Machine/Fence.lean ====
section
/-! DEFINITION. Sys2Proof/Machine/Fence.lean: release, acquire and fences, waiting on counters, queue markers (R92, R205 to R208, R235): opcodes
0x88 to 0x8C. -/

namespace Sys2Proof.Machine

/-! ## Release (R206) -/

/-- The kind of a line's key: 2 pod, 3 CXL. -/
def lineKind (line : Nat) : Nat := paKind (128 * line)

/-- Whether an access is a write that a release at a scope still waits for. -/
def relPending (scope : Nat) (ac : Access) : Bool :=
  match ac.kind with
  | .store =>
    if scope < 2 then false
    else if scope = 5 then true
    else if ac.parts.any fun p => lineKind p.line = 3 then ac.parts.any fun p => decide (lineKind p.line ≠ 3) && !p.performed
    else true
  | .atomic _ => true
  | .red _ | .gathered => decide (2 ≤ scope)
  | _ => false

/-- Whether a piece of a copy lies in the CXL tier: as its chunk was translated, as the core's TLB holds its page, or as the page tables do. -/
def Command.pieceCxl (s : State) (k : Nat) (q : Command) (p : Piece) : Bool :=
  let cxl := fun (e : TlbEntry) => decide (paKind (e.paOf p.va) = 3)
  match (if q.started && !q.landed.contains p.off then AMap.get? q.pages p.off else none), entryFor (coreAt s k) q.did p.va with
  | some key, _ => decide (paKind key = 3)
  | none, some e => cxl e
  | none, none =>
    canonical p.va && match walkLeaf s (corePart s k) (rootOf s k q.did) q.did (vaNat p.va) with
      | .ok e => cxl e
      | .error _ => false

/-- A CPYO of the warp still waits for acknowledgements; those of the CXL tier count at scope 5 only. -/
def cpyoPending (s : State) (k w age scope mark : Nat) : Bool :=
  ((coreAt s k).cq0 ++ (coreAt s k).cq1).any fun q => decide (q.op = .cpyo) && decide (q.w = w) && decide (q.warpAge = age) && decide (q.id < mark)
    && (decide (scope = 5) || q.piecesLeft.any fun p => !q.pieceCxl s k p)

/-- Every write that the release covers has been performed at its scope. -/
def relReady (s : State) (k : Nat) (did : BitVec 16) (w age scope mark : Nat) : Bool :=
  !((coreAt s k).inflight.any fun ac => decide (ac.did = did) && decide (ac.id < mark) && relPending scope ac) && !cpyoPending s k w age scope mark

/-- The lines written by a domain since the last publication at a scope from 2 to 5. -/
def writtenLines (c : Core) (did : BitVec 16) (scope : Nat) : List Nat :=
  match c.written.find? fun (d, _) => decide (d = did) with
  | some (_, ls) => ls.getD (scope - 2) []
  | none => []

/-- What acquires of a domain have made visible on the core that it has not published at a scope yet (R237, R238). -/
def heardOf (c : Core) (did : BitVec 16) (scope : Nat) : BitVec 2048 :=
  match c.heard.find? fun h => decide (h.1 = did) && decide (h.2.1 = scope) with
  | some h => h.2.2
  | none => 0

/-- Lines that a domain's next publication at a scope is to carry. -/
def Core.carry (c : Core) (h : BitVec 16 × Nat × BitVec 2048) : Core :=
  if h.2.2 = 0 then c
  else { c with heard := (h.1, h.2.1, heardOf c h.1 h.2.1 ||| h.2.2) :: c.heard.filter fun o => !(decide (o.1 = h.1) && decide (o.2.1 = h.2.1)) }

/-- An acquire of a domain at a scope makes lines visible, to be published at the other scopes from 2 to 5. -/
def Core.hear (c : Core) (did : BitVec 16) (scope : Nat) (sig : BitVec 2048) : Core :=
  ([2, 3, 4, 5].filter fun n => decide (n ≠ scope)).foldl (fun c n => c.carry (did, n, sig)) c

/-- What a publication of a domain at a scope carries: the lines it has written on the core, and what its acquires at other scopes had made
visible (R206, R237, R238). -/
def releaseSig (c : Core) (did : BitVec 16) (scope : Nat) : BitVec 2048 := signatureOf (writtenLines c did scope) ||| heardOf c did scope

/-- Publish the domain's writes to the board of a scope, with more lines that the release covers (R206, R234). -/
def publishWrites (s : State) (k : Nat) (did : BitVec 16) (scope : Nat) (more : BitVec 2048 := 0) : State :=
  if scope < 2 then s
  else
    let sig := releaseSig (coreAt s k) did scope ||| more
    let clear := fun (p : BitVec 16 × List (List Nat)) => if p.1 = did then (p.1, p.2.set (scope - 2) []) else p
    let s := s.modCore k fun c => { c with written := c.written.map clear, heard := c.heard.filter fun h => !(decide (h.1 = did) && decide (h.2.1 = scope)) }
    publishAt s (coreSlice k) (corePart s k) scope { did := did, sig := sig }

/-! ## Acquire (R207, R235) -/

/-- The board positions of a domain on a core. -/
def posOf (k : Nat) (c : Core) (did : BitVec 16) : List Nat :=
  if isCompute k then (match slotOf c did with | some (_, sl) => sl.pos | none => [0, 0, 0, 0]) else c.pos

def setPos (k : Nat) (c : Core) (did : BitVec 16) (scope n : Nat) : Core :=
  if isCompute k then
    (match slotOf c did with
     | some (i, _) => { c with slots := AMap.modify c.slots i fun sl => { sl with pos := sl.pos.set (scope - 2) n } }
     | none => c)
  else { c with pos := c.pos.set (scope - 2) n }

/-- The lines that an acquire may make visible: those of the publications read; at scopes 4 and 5, which drop every line of pod kind, and where the
board has lost some, every line (R233, R235; log entry 60). -/
def acquireSig (b : Board) (new scope : Nat) : BitVec 2048 :=
  if b.held.length < new ∨ 4 ≤ scope then BitVec.allOnes 2048 else (b.held.take new).foldl (fun a p => a ||| p.sig) 0

/-- Invalidate what an acquire at a scope must drop, and move the position (R207, R233, R235). -/
def acquire (s : State) (k : Nat) (did : BitVec 16) (scope : Nat) : State :=
  if scope < 2 then s
  else
    let b := boardOf s (coreSlice k) (corePart s k) scope
    let new := b.count - (posOf k (coreAt s k) did).getD (scope - 2) 0
    let pubs := b.held.take new
    let stale := fun (sector : Nat) =>
      decide (b.held.length < new) || pubs.any (fun p => sigMatches p.sig (sector / 4)) || (decide (4 ≤ scope) && decide (lineKind (sector / 4) = 2))
      || (decide (scope = 5) && decide (lineKind (sector / 4) = 3))
    s.modCore k fun c => (setPos k (l1Drop c (some did) stale) did scope b.count).hear did scope (acquireSig b new scope)

/-! ## REL, ACQ, FENCE (R205) -/

/-- A release half, an acquire half or both, at issue. -/
def fenceOp (op : Nat) (rel acq : Bool) (n : BitVec 16) (s : State) : Host.Outcome State Fault Refusal :=
  run s fun x => do
    let scope := n.toNat
    let f : Form := { op := op, classes := decide (scope < 6), guard := false, once := true }
    check x f
    let s := if rel then flushEntries x.s x.k fun _ => true else x.s
    let mark := (coreAt s x.k).nextId
    if rel && !relReady s x.k x.did x.w x.wp.age scope mark then return beginWait x f s (.fence true acq scope mark)
    else
      let s := if rel then publishWrites s x.k x.did scope else s
      if !acq then return retire x f s
      else if x.wp.lc ≠ 0 then return beginWait x f s (.fence false true scope mark)
      else return retire x f (acquire s x.k x.did scope)

/-- FENCE (R205, R207). -/
def execFence (n : BitVec 16) (s : State) : Host.Outcome State Fault Refusal := fenceOp 0x88 true true n s
/-- REL (R206). -/
def execRel (n : BitVec 16) (s : State) : Host.Outcome State Fault Refusal := fenceOp 0x89 true false n s
/-- ACQ (R207). -/
def execAcq (n : BitVec 16) (s : State) : Host.Outcome State Fault Refusal := fenceOp 0x8A false true n s

/-- REL_DRAIN_DONE (R206): the covered writes have been performed; the signature is published, and a FENCE goes on to its acquire. -/
def execRelDrainDone (k w g : Nat) (s : State) : Event :=
  match warpAt s k w, gangAt s k w g with
  | some wp, some gn => match gn.status with
    | .waiting (.fence true acq scope mark) =>
      if !relReady s k wp.didNow w wp.age scope mark then .next s
      else
        let s := publishWrites s k wp.didNow scope
        if !acq then .next (wake s k w g)
        else if wp.lc ≠ 0 then .next (s.modGang k w g fun gn => { gn with status := .waiting (.fence false true scope mark) })
        else .next (wake (acquire s k wp.didNow scope) k w g)
    | _ => .next s
  | _, _ => .next s

/-- ACQ_WAIT_DONE (R207): lc is 0; the matching lines are invalidated. -/
def execAcqWaitDone (k w g : Nat) (s : State) : Event :=
  match warpAt s k w, gangAt s k w g with
  | some wp, some gn => match gn.status with
    | .waiting (.fence false true scope _) => if wp.lc ≠ 0 then .next s else .next (wake (acquire s k wp.didNow scope) k w g)
    | _ => .next s
  | _, _ => .next s

/-! ## WAITC (R92) -/

/-- The counter that field d of WAITC names. -/
def waitCounter : Reg → Option Counter
  | .x n => if n = 17 then some .lc else if n = 18 then some .sc else if n = 19 then some .ec else none
  | _ => none

/-- WAITC (R92, R190): the gang waits until the counter is at or below the bound; a wait on sc flushes what the warp contributed to. -/
def execWaitc (c : Reg) (n : BitVec 16) (s : State) : Host.Outcome State Fault Refusal :=
  run s fun x => do
    let ctr := waitCounter c
    let f : Form := { op := 0x8B, classes := ctr.isSome && decide (n.toNat < 64), guard := false, once := true }
    check x f
    let s := if ctr = some .sc then flushEntries x.s x.k fun e => contributed x.c x.w x.wp.age e else x.s
    if x.wp.count (ctr.getD .lc) ≤ n.toNat then return retire x f s
    else return s.modGang x.k x.w x.g fun gn => { gn with status := .waiting .counter, insn := x.s.insn, ctl := x.s.ctl }

/-! ## QFENCE (R208) -/

/-- The queues of a core and of its slice. -/
def queueOf (s : State) (k : Nat) : EngineQueue → List Command
  | .cq0 => (coreAt s k).cq0
  | .cq1 => (coreAt s k).cq1
  | .mq => (coreAt s k).mq
  | .pq => (sliceAt s (coreSlice k)).pq
  | .fq => (sliceAt s (coreSlice k)).fq

/-- Change a queue. -/
def State.modQueue (s : State) (k : Nat) (q : EngineQueue) (f : List Command → List Command) : State :=
  match q with
  | .cq0 => s.modCore k fun c => { c with cq0 := f c.cq0 }
  | .cq1 => s.modCore k fun c => { c with cq1 := f c.cq1 }
  | .mq => s.modCore k fun c => { c with mq := f c.mq }
  | .pq => s.modSlice (coreSlice k) fun sl => { sl with pq := f sl.pq }
  | .fq => s.modSlice (coreSlice k) fun sl => { sl with fq := f sl.fq }

def queueNum : EngineQueue → Nat
  | .cq0 => 0 | .cq1 => 1 | .mq => 2 | .pq => 3 | .fq => 4

def allQueues : List EngineQueue := [.cq0, .cq1, .mq, .pq, .fq]

/-- The engine queue mask of a domain on a core (R315); the kernel's own cores have no slot that withholds a queue. -/
def queueMask (c : Core) (did : BitVec 16) : Nat := if did = 0xFFFF then 31 else match slotOf c did with | some (_, sl) => bitsW sl.w3 4 0 | none => 0

/-- The domain fault of class engine. -/
def engineFault : Trap := { cause := 0x09, detail := 3 }

/-- QFENCE (R208): one marker into every named queue. -/
def execQfence (n : BitVec 16) (s : State) : Host.Outcome State Fault Refusal :=
  run s fun x => do
    let f : Form := { op := 0x8C, classes := decide (n.toNat < 32), guard := false, once := true }
    check x f
    need (decide (n.toNat &&& queueMask x.c x.did = n.toNat)) engineFault
    let id := x.c.nextId
    let mark : Command := { id := id, op := .marker id, core := x.k, w := x.w, warpAge := x.wp.age, did := x.did }
    let s := (allQueues.filter fun q => n.getLsbD (queueNum q)).foldl (fun s q => s.modQueue x.k q fun cs => cs ++ [mark]) x.s
    return retire x f (if n = 0 then s else s.modCore x.k fun c => { c with nextId := c.nextId + 1 })

/-- Whether a command is the marker of a QFENCE of a core. -/
def Command.isMark (c : Command) (k id : Nat) : Bool := decide (c.op = .marker id) && decide (c.core = k)

/-- Whether a command is a marker. -/
def Command.marks (c : Command) : Bool := match c.op with | .marker _ => true | _ => false

/-- Operations of the marker's domain that entered a queue before it. -/
def beforeMark (cs : List Command) (k id : Nat) : Bool :=
  match cs.find? fun c => c.isMark k id with
  | none => false
  | some m => (cs.takeWhile fun c => !c.isMark k id).any fun c => decide (c.did = m.did) && !c.marks

/-- The entries of a queue of a core, saved ones that wait to be reopened ahead of the others (R311). -/
def queueView (s : State) (k : Nat) (q : EngineQueue) : List Command :=
  (if q = .mq then (s.reopen.filter fun r => decide (r.core = k)).flatMap fun r => r.mq else []) ++ queueOf s k q

/-- QFENCE_RELEASE (R208): every operation of the domain that entered a named queue before the marker has completed. -/
def execQfenceRelease (k id : Nat) (s : State) : Event :=
  if allQueues.any fun q => beforeMark (queueView s k q) k id then .next s
  else
    let s := { s with reopen := s.reopen.map fun r => { r with mq := r.mq.filter fun c => !c.isMark k id } }
    .next (allQueues.foldl (fun s q =>
    if (queueOf s k q).any fun c => c.isMark k id then s.modQueue k q fun cs => cs.filter fun c => !c.isMark k id else s) s)

/-- A command may start as far as the markers go: no marker of its domain stands before it (R208). -/
def pastMarks (cs : List Command) (c : Command) : Bool := !(cs.takeWhile fun d => decide (d ≠ c)).any fun d => d.marks && decide (d.did = c.did)

end Sys2Proof.Machine
end

