-- ==== Sys2Proof/Machine/Planes.lean ====
section
/-! DEFINITION. Sys2Proof/Machine/Planes.lean: plane tiles (R220, R241 to R243), PACK and UNPACK (R244 to R248): opcodes 0x90 and 0x91. -/

namespace Sys2Proof.Machine

/-! ## Layout words (R241 to R243) -/

/-- Mantissa bits of a plane format. -/
def planeWidth : Nat → Nat
  | 0 => 1 | 1 => 2 | 2 => 3 | 3 => 4 | 4 => 6 | 5 => 8 | 6 => 12 | _ => 16

/-- A layout word. -/
structure Layout where
  base : Nat
  mode : Nat
  fmt : Nat
  rs : Nat
  ps : Nat
  es : Nat
  nkb : Nat
deriving DecidableEq, Repr

/-- The layout that three scalars give. -/
def layoutOf (w0 w1 w2 : Word) : Layout :=
  { base := bitsW w0 19 0, mode := bitsW w0 23 20, fmt := bitsW w0 27 24, rs := bitsW w1 15 0, ps := bitsW w1 31 16, es := bitsW w2 15 0, nkb := bitsW w2 31 16 }

def Layout.width (l : Layout) : Nat := planeWidth l.fmt

/-- Rot(m) (R220). -/
def rotOf (m : Nat) : Nat := [0, 1, 2, 3, 4, 6, 8, 12, 16, 24, 32, 48, 64, 96, 128, 192].getD m 0

/-- The allotment address at which a tile's byte stands under its bank permutation (R220). -/
def Layout.place (l : Layout) (ea : Nat) : Nat :=
  let d := ea - l.base
  let w := d / 4
  l.base + 4 * (w / 384 * 384 + (w % 384 + rotOf l.mode * (w / 384)) % 384) + d % 4

/-- The byte ranges of a row: its planes and its exponent strip (R243). -/
def Layout.ranges (l : Layout) (r : Nat) : List (Nat × Nat) :=
  (List.range l.width).map (fun p => (l.base + 16 * l.ps * p + l.rs * r, 4 * l.nkb)) ++ [(l.base + 16 * l.ps * l.width + l.es * r, l.nkb)]

/-- The 1,536-byte chunks of a tile that a range touches. -/
def Layout.chunks (l : Layout) (a n : Nat) : List (Nat × Nat) :=
  (List.range ((a + n - 1 - l.base) / 1536 - (a - l.base) / 1536 + 1)).map fun i => (l.base + 1536 * ((a - l.base) / 1536 + i), 1536)

def illegal : Trap := { cause := 0x03 }
def misaligned (a : Nat) : Trap := { cause := 0x0A, addr := BitVec.ofNat 64 a }
def scratchFault (a : Nat) : Trap := { cause := 0x09, detail := 1, addr := BitVec.ofNat 64 a }

/-- Every range lies in the view and in groups of its domain. -/
def checkRanges (x : Ctx) (rs : List (Nat × Nat)) : Except Stop Unit := do
  match rs.find? fun (a, n) => !viewOk x.k x.c x.wp.view a n with
  | some (a, _) => .error (.trap (scratchFault a))
  | none => .ok ()
  if rs.any fun (a, n) => n ≠ 0 && viewScrubbing x.c x.wp.view a n then .error (.hold .scrub)

/-- The checks of R243 for the rows that an instruction touches. -/
def checkLayout (x : Ctx) (w0 w1 w2 : Word) (rows : List Nat) : Except Stop Layout := do
  let l := layoutOf w0 w1 w2
  need (decide (l.base % 16 = 0)) (misaligned l.base)
  need (decide (l.fmt < 8)) illegal
  need (decide (bitsW w0 31 28 = 0)) illegal
  need (decide (l.rs % 16 = 0)) (misaligned l.rs)
  need (decide (l.nkb ≤ l.es)) illegal
  need (decide (1 ≤ l.nkb) && decide (l.nkb ≤ 96 / l.width)) illegal
  need (rows.all fun r => decide (l.rs * r + 4 * l.nkb ≤ 16 * l.ps)) illegal
  let rs := rows.flatMap l.ranges
  checkRanges x rs
  if l.mode ≠ 0 then checkRanges x ((rs.flatMap fun (a, n) => l.chunks a n).eraseDups)
  return l

/-- The word of plane p of row r that holds block j, and the strip's byte, in the view. -/
def Layout.word (l : Layout) (p r j : Nat) : Nat := l.place (l.base + 16 * l.ps * p + l.rs * r + 4 * j)
def Layout.strip (l : Layout) (r j : Nat) : Nat := l.place (l.base + 16 * l.ps * l.width + l.es * r + j)

/-- The same as core addresses. -/
def Layout.wordAt (l : Layout) (v : View) (p r j : Nat) : Nat := v.at (l.word p r j)
def Layout.stripAt (l : Layout) (v : View) (r j : Nat) : Nat := v.at (l.strip r j)

/-- The mantissa of a plane word's lane bits: unsigned in pl1, two's complement in the others (R241). -/
def mantissaOf (n : Nat) (words : List Nat) (lane : Nat) : Int :=
  let m := (List.range n).foldl (fun acc p => acc + words.getD p 0 / 2 ^ lane % 2 * 2 ^ p) 0
  if n = 1 then m else sextN m n

/-- A block of a tile: its exponent byte and its 32 mantissas. -/
def tileBlock (c : Core) (v : View) (l : Layout) (r j : Nat) : Nat × List Int :=
  let words := (List.range l.width).map fun p => scratchNat c (l.wordAt v p r j) 4
  (scratchNat c (l.stripAt v r j) 1, (List.range 32).map (mantissaOf l.width words))

/-- Whether a block holds an uncorrectable word. -/
def blockBad (c : Core) (v : View) (l : Layout) (r j : Nat) : Bool :=
  ((l.stripAt v r j) :: (List.range l.width).map fun p => l.wordAt v p r j).any fun a => AMap.getD c.scratchPoison (a / 4) false

/-! ## Choosing exponent and mantissas (R246) -/

/-- A finite value as an integer multiple of a power of two. -/
def dyOf : FVal → Int × Int
  | .num s n e => (signed s n, e)
  | _ => (0, 0)

/-- x / 2^s rounded to an integer. -/
def quantize (rnd : Nat) (s : Int) (v : Int × Int) : Int := if v.1 = 0 then 0 else roundInt rnd (exactOf v.1 (v.2 - s))

/-- v × 2^e = m × 2^s. -/
def sameDy (m s : Int) (v : Int × Int) : Bool := decide ((dyAdd m s (-v.1) v.2).1 = 0)

/-- floor(log2) of the largest of some magnitudes, or none when all are zero. -/
def topLog (vs : List (Int × Int)) : Option Int :=
  (vs.filter fun v => v.1 ≠ 0).foldl (fun best v =>
    let l : Int := (Nat.log2 v.1.natAbs : Int) + v.2
    match best with
    | some b => some (max b l)
    | none => some l) none

/-- Exponent byte, mantissas and status bits of a block of values (R246): 1 inexact, 2 NaN block, 4 exponent clamp. -/
def choosePlane (n rnd : Nat) (nan : Bool) (xs : List FVal) : Nat × List Int × Nat :=
  let bad := nan || xs.any fun x => match x with | .num .. => false | _ => true
  if bad then (0xFF, List.replicate 32 0, 2)
  else
    let vs := xs.map dyOf
    let lo : Int := if n = 1 then 0 else -((2 ^ (n - 1) : Nat) : Int)
    let hi : Int := if n = 1 then 1 else ((2 ^ (n - 1) : Nat) : Int) - 1
    let fits := fun (m : Int) => decide (lo ≤ m) && decide (m ≤ hi)
    match topLog (if n = 1 then vs.filter fun v => 0 < v.1 else vs) with
    | none => (0, List.replicate 32 0, if vs.any fun v => v.1 ≠ 0 then 1 else 0)
    | some top =>
      let s0 := if n = 1 then top else top - ((n : Int) - 2)
      let ms0 := vs.map (quantize rnd s0)
      let s1 := if n ≠ 1 && !ms0.all fits then s0 + 1 else s0
      let s := if 127 < s1 then 127 else if s1 < -127 then -127 else s1
      let ms := (vs.map (quantize rnd s)).map fun m => if m < lo then lo else if hi < m then hi else m
      let inexact := (ms.zip vs).any fun (m, v) => !sameDy m s v
      ((s + 127).toNat, ms, (if inexact then 1 else 0) + (if s = s1 then 0 else 4))

/-- The word of plane p: bit l is bit p of lane l's mantissa. -/
def planeWord (ms : List Int) (p : Nat) : Nat :=
  (List.range 32).foldl (fun acc l => acc + wrapN (ms.getD l 0) 16 / 2 ^ p % 2 * 2 ^ l) 0

/-! ## The instructions -/

/-- Types that PACK and UNPACK accept (R244). -/
def packType (t : EType) : Bool := !t.is64

/-- Types under mx (R245). -/
def mxType : EType → Bool
  | .i8 | .e4m3 | .e5m2 | .e2m1 => true
  | _ => false

/-- The number of a scalar register field. -/
def sNum : Reg → Nat
  | .s i => i.val
  | _ => 0

/-- A command group's first register: even, up to a last one. -/
def groupReg (r : Reg) (last : Nat) : Bool := Reg.spair r && decide (sNum r ≤ last)

/-- Scalar number i of a group. -/
def groupWord (x : Ctx) (r : Reg) (i : Nat) : Word := x.wp.sreg (sNum r + i)

/-- The scalars of a group as source registers. -/
def groupReads (r : Reg) (n : Nat) : List (Reg × Nat) := (List.range n).map fun i => (.s (Fin.ofNat 64 (sNum r + i)), 1)

/-- Value of element i of a register, as an integer or a float (R245). -/
def elemValue (t : EType) (ftz : Bool) (v i : Nat) : FVal :=
  let e := elemOf t v i
  if t.isInt then .num (decide (intValue t e < 0)) (intValue t e).natAbs 0 else fValue t (fFlush ftz t e)

/-- x × 2^k. -/
def scaleVal (k : Int) : FVal → FVal
  | .num s n e => .num s n (e + k)
  | v => v

/-- The E8M0 scale of block i (R245). -/
def mxScale (x : Ctx) (a : Reg) (i : Nat) : Nat := bitsW (groupWord x a (3 + i / 4)) (8 * (i % 4) + 7) (8 * (i % 4))

/-- PACK (R244 to R246, R248): a poisoned source, a scale of the microscaling form too, comes before the checks of its position; a type that this form does not
take, after them (R38). -/
def execPack (d a b : Reg) (s : State) : Host.Outcome State Fault Refusal :=
  run s fun x => do
    let t := x.t
    let f : Form := { op := 0x90, classes := Reg.isV d && groupReg a 60 && Reg.unif b, more := [(d, 1), (b, 1)] ++ groupReads a 3, typed := packType t }
    check x f
    let pos := x.rd 0 b
    let mx := pos.getLsbD 15
    let j0 := bitsW pos 31 16
    let r := bitsW pos 4 0
    let posOk := decide (bitsW pos 14 5 = 0) && decide (j0 + t.elems ≤ bitsW (groupWord x a 2) 31 16)
    if mx then check x { f with more := f.more ++ groupReads a (if 4 < t.elems then 5 else 4), classes := groupReg a 58, typed := !posOk || mxType t }
    need posOk illegal
    let l ← checkLayout x (groupWord x a 0) (groupWord x a 1) (groupWord x a 2) [r]
    if x.active = 0 then return retire x f x.s
    let block := fun i =>
      let nan := mx && decide (mxScale x a i = 255)
      let k : Int := if mx then (mxScale x a i : Int) - 127 - (if t = .i8 then 6 else 0) else 0
      choosePlane l.width (modeRnd x.mode) nan ((List.range 32).map fun n =>
        if x.active.getLsbD n then scaleVal k (elemValue t (modeFtz x.mode) (x.rd n d).toNat i) else .num false 0 0)
    let v := x.wp.view
    let putBlock := fun (c : Core) i =>
      let (e, ms, _) := block i
      let c := scratchPutNat c (l.stripAt v r (j0 + i)) 1 e
      (List.range l.width).foldl (fun c p => scratchPutNat c (l.wordAt v p r (j0 + i)) 4 (planeWord ms p)) c
    let st := (List.range t.elems).foldl (fun acc i => acc ||| (block i).2.2) 0
    let s := x.setWarp { x.wp with mstat := x.wp.mstat ||| BitVec.ofNat 6 st }
    let s := s.modCore x.k fun c => (List.range t.elems).foldl putBlock c
    return retireLocal x f s (watchHit x true 1 ((List.range t.elems).flatMap fun i =>
      (l.strip r (j0 + i), 1) :: (List.range l.width).map fun p => (l.word p r (j0 + i), 4)))

/-- cv of a plane element (R247). -/
def unpackElem (t : EType) (m : FMode) (e : Nat) (v : Int) : Nat :=
  if e = 255 then t.qnan else if v = 0 then convReal t m (.zero false) else convReal t m (.val (exactOf v ((e : Int) - 127)))

/-- UNPACK (R247, R248): its words are read at issue and return as a scratchpad load's do. -/
def execUnpack (d a b : Reg) (s : State) : Host.Outcome State Fault Refusal :=
  run s fun x => do
    let t := x.t
    let f : Form := { op := 0x91, classes := Reg.isV d && groupReg a 60 && Reg.unif b, more := [(b, 1)] ++ groupReads a 3, writes := [(d, 1)], typed := packType t }
    check x f
    let pos := x.rd 0 b
    let j0 := bitsW pos 31 16
    let r := bitsW pos 4 0
    need (decide (bitsW pos 15 5 = 0)) illegal
    need (decide (j0 + t.elems ≤ bitsW (groupWord x a 2) 31 16)) illegal
    let l ← checkLayout x (groupWord x a 0) (groupWord x a 1) (groupWord x a 2) [r]
    if x.active = 0 then return retire x f x.s
    let v := x.wp.view
    let blocks := (List.range t.elems).map fun i => tileBlock x.c v l r (j0 + i)
    let bad := (List.range t.elems).any fun i => blockBad x.c v l r (j0 + i)
    let value := fun n => buildElems t (fun i => let b := blocks.getD i (0, []); unpackElem t x.fm b.1 (b.2.getD n 0)) t.elems
    let lanes := (lanesOf x.active).map fun n =>
      { lane := n, pa := 0, size := 4, val := BitVec.ofNat 128 (value n), done := true, poison := if bad then 1 else 0 : LaneAcc }
    let s := pushAccess x.s x.k { id := 0, w := x.w, g := x.g, warpAge := x.wp.age, did := x.did, kind := .lds, dest := destFor d 1 false, mode := x.mode, lanes := lanes }
    return retireLocal x f s (watchHit x true 0 ((List.range t.elems).flatMap fun i =>
      (l.strip r (j0 + i), 1) :: (List.range l.width).map fun p => (l.word p r (j0 + i), 4)))

end Sys2Proof.Machine
end

