-- ==== Sys2Proof/Machine/Commands.lean ====
section
/-! DEFINITION. Sys2Proof/Machine/Commands.lean: what the commands of the copy, pool and collective queues share: entering a queue, when they start,
their memory, faults and completion (R193 to R195, R208, R290). -/

namespace Sys2Proof.Machine

/-! ## Which command runs (R195, R208, R310) -/

/-- A domain halted on a core by DPRE starts no operation (R310). -/
def domainHalted (c : Core) (did : BitVec 16) : Bool := match slotOf c did with | some (_, sl) => sl.halted | none => false

/-- A command that may run as far as pre-emption and markers go. -/
def runnable (s : State) (cs : List Command) (q : Command) : Bool :=
  !q.marks && pastMarks cs q && !(domainHalted (coreAt s q.core) q.did && !q.busy)

/-- The command of a queue that runs now: one that has started, until it is done (R195); else the first that may run, none before it but what waits
behind a marker of another domain. -/
def runHead (s : State) (cs : List Command) : Option Command :=
  match cs.find? fun q => q.started && runnable s cs q with
  | some q => some q
  | none => cs.find? fun q => runnable s cs q && (cs.takeWhile fun d => decide (d ≠ q)).all fun d =>
    d.marks || (!runnable s cs d && (decide (d.did ≠ q.did) || decide (d.core ≠ q.core)))

/-- Earlier stores and reductions of the issuing warp have been acknowledged (R193). -/
def drained (s : State) (q : Command) : Bool :=
  !(coreAt s q.core).inflight.any fun ac => decide (ac.w = q.w) && decide (ac.warpAge = q.warpAge) && decide (ac.id < q.id) && match ac.kind with
    | .store | .red _ | .gathered => true
    | _ => false

/-- Change a command of a queue. -/
def modCommand (s : State) (k : Nat) (eq : EngineQueue) (q : Command) (f : Command → Command) : State :=
  s.modQueue k eq fun cs => cs.map fun d => if d.id = q.id ∧ d.core = q.core ∧ !d.marks then f d else d

/-- A command leaves its queue, and ec counts down. -/
def dropCommand (s : State) (k : Nat) (eq : EngineQueue) (q : Command) : State :=
  countDownAt (s.modQueue k eq fun cs => cs.filter fun d => !(decide (d.id = q.id) && decide (d.core = q.core) && !d.marks)) q.core q.w q.warpAge .ec

/-- An issued command: the flush of what the warp contributed (R190), the count, the entry (R193, R290). -/
def enterQueue (x : Ctx) (f : Form) (eq : EngineQueue) (op : EngineOp) (group : List Word) (barrier : Option Nat) : Except Stop State := do
  needCount x .ec
  if 64 ≤ (queueOf x.s x.k eq).length then .error (.hold .queueFull)
  let s := flushEntries x.s x.k fun e => contributed x.c x.w x.wp.age e
  let id := (coreAt s x.k).nextId
  let cmd : Command := { id := id, op := op, core := x.k, w := x.w, warpAge := x.wp.age, did := x.did, group := group, view := x.wp.view, barrier := barrier,
                         pc := x.gn.pc, insn := x.s.insn, ctl := x.s.ctl }
  let s := s.modQueue x.k eq fun cs => cs ++ [cmd]
  let s := s.modCore x.k fun c => { c with nextId := id + 1 }
  return retire x f (s.modWarp x.k x.w fun wp => wp.countUp .ec)

/-- A barrier word (R259, R290): disabled, or the checked object's core address. -/
def barrierWord (x : Ctx) (w : Word) : Except Stop (Option Nat) := do
  need (decide (bitsW w 30 20 = 0)) illegal
  if w.getLsbD 31 then
    let o ← checkObject x (w32 (bitsW w 19 0)) true
    return some o
  else return none

/-! ## Memory ranges (R87, R290) -/

/-- What the checks of some addresses give: all pass, translations are missing, or a fault. -/
inductive RangeAns where
  | ok
  | miss (vas : List DWord)
  | fault (cause detail : Nat) (addr : DWord)
deriving DecidableEq, Repr

/-- Steps 3 to 5 of R87 over some addresses. -/
def rangeCheck (s : State) (k : Nat) (did : BitVec 16) (tree : Option Nat) (ask : Ask) (wholeLine : Nat → Bool) (vas : List DWord) : RangeAns :=
  let c := coreAt s k
  let missing := vas.filter fun va => decide (tlbLook c did va = .miss)
  if !missing.isEmpty then .miss missing
  else
    let bad3 := vas.findSome? fun va => (step3 s c (corePart s k) did tree ask wholeLine (fun _ => false) va).map fun d => (d, va)
    match bad3 with
    | some (d, va) => .fault 0x08 d va
    | none =>
      match vas.find? fun va => (match tlbLook c did va with | .refused c _ => decide (c = 0x09) | _ => false) with
      | some va => .fault 0x09 2 va
      | none =>
        match vas.find? fun va => ask.write && (match entryFor c did va with | some e => decide (paKind (e.paOf va) = 1) | none => false) with
        | some va => .fault 0x10 0 va
        | none => .ok

/-- The key of a translated address for a warp's tree. -/
def keyAt (s : State) (k : Nat) (did : BitVec 16) (tree : Option Nat) (va : DWord) : Nat :=
  match entryFor (coreAt s k) did va with
  | some e => boundKey s (corePart s k) tree (e.paOf va)
  | none => 0

/-- The checks of some addresses at issue: a fault of the instruction, or a hold for translations. -/
def issueCheck (x : Ctx) (ask : Ask) (vas : List DWord) : Except Stop Unit :=
  match rangeCheck x.s x.k x.did x.wp.tree ask (fun _ => true) vas with
  | .ok => .ok ()
  | .miss vas => .error (.miss x.did vas)
  | .fault c d a => .error (.trap { cause := c, detail := d, addr := a })

/-- The addresses at 128-byte steps of the first n bytes, at most 4 KiB, of a range, one in each line (R290). -/
def firstLines (va : DWord) (n : Nat) : List DWord :=
  let n := min n 4096
  (List.range (ceilDiv (va.toNat % 128 + n) 128)).map fun i => if i = 0 then va else va - BitVec.ofNat 64 (va.toNat % 128) + BitVec.ofNat 64 (128 * i)

/-- The tree of the warp that issued a command, while it stands. -/
def Command.tree (s : State) (q : Command) : Option Nat := (warpAt s q.core q.w).bind fun wp => if wp.age = q.warpAge then wp.tree else none

/-- The number by which a waiting cistern write names its command. -/
def Command.number (q : Command) : Nat := 1024 * q.id + q.core

/-- The pages of some broadcasts that wait in the cistern are not written. -/
def dropPages (s : State) (cs : List Command) : State :=
  { s with cisternWrites := s.cisternWrites.filter fun w => !(w.queue.isSome && cs.any fun q => decide (q.op = .wbcast) && decide (w.command = some q.number)) }

/-- A translation that an engine needs is asked for; nothing changes when it has been. -/
def askPages (s : State) (k : Nat) (did : BitVec 16) (vas : List DWord) : State := vas.foldl (fun s va => queueMiss s k did va) s

/-- Whether module requests to a key are held: the processor owns its region (R368), or its granule is being moved (R383). -/
def keyHeld (s : State) (key : Nat) : Bool :=
  (paKind key = 0 && (partAt s (key / 2 ^ 52)).hostOwned.contains (paOf key / 2 ^ 21)) || homeHeld s (key / 128)

/-- An engine's read of a window that another module exports: what it holds there, which this module does not know, or an error response, which is
reported (R358, R362): free values. -/
def outsideRead (s : State) (k key n : Nat) : List Byte × List Nat × State :=
  let t := { s with free := s.free + 2 }
  if Config.freeBool s.free then (List.replicate n 0, lineWords (key / 128), reportError t (coreSlice k) (paOf (key / 128 * 128)))
  else (natLe n (Config.freeNat (s.free + 1)), [], t)

/-- n bytes of one line, read by an engine at the home, with the words marked uncorrectable; none while they cannot be read. -/
def engineRead (s : State) (k key n : Nat) : Option (List Byte × List Nat × State) :=
  if keyHeld s key then none
  else
    let s := podStir s (key / 128)
    match homeRead s k (key / 128) with
    | some h =>
      let s := if h.report then reportError s (coreSlice k) (paOf (key / 128 * 128)) else s
      some ((List.range n).map fun i => AMap.getD h.cells (key + i) 0, h.poison, s)
    | none => if paKind key = 2 then some (outsideRead s k key n) else none

/-- n bytes of memory read by an engine, line by line. -/
def engineReadAll (s : State) (k : Nat) : Nat → Nat → Nat → Option (List Byte × List Nat × State)
  | 0, _, _ => some ([], [], s)
  | fuel + 1, key, n =>
    if n = 0 then some ([], [], s)
    else
      let m := min n (128 - key % 128)
      match engineRead s k key m with
      | none => none
      | some (bs, ps, s) => (engineReadAll s k fuel (key + m) (n - m)).map fun (cs, qs, s) => (bs ++ cs, ps ++ qs, s)

/-- Where the line of a key is written: itself, or its place behind a peer window; none where the write fails. -/
def storeBase (s : State) (key : Nat) : Option Nat :=
  if paKind key ≠ 2 then some (key / 128 * 128) else match podPlace s (key / 128 * 128) true with
    | .at_ a => some a
    | _ => none

/-- The stores of an engine to one line, with marks for the uncorrectable words among them. Where another module's window is written, whether it
answers with an error, which is reported, is free (R358, R362); what it then holds stands outside the model. -/
def engineStore (s : State) (k key : Nat) (did : BitVec 16) (lanes : List LaneAcc) (bad : List Nat) : State :=
  match performStore s k (key / 128) did lanes with
  | some t => match storeBase s key with
    | some a => bad.foldl (fun s w => memMark s (a + 4 * (w % 32)) 4) t
    | none => t
  | none =>
    let fails := Config.freeBool s.free
    let s := { s with free := s.free + 1 }
    if fails then reportError s (coreSlice k) (paOf (key / 128 * 128)) else wakeWatchers s (key / 128)

/-! ## Faults and completion (R194, R290) -/

/-- The number by which a record names a queue is `queueNum`. A later fault of a command is left for the warp that issued it (R194). -/
def sendFault (s : State) (eq : EngineQueue) (q : Command) (cause detail : Nat) (addr : DWord) : State :=
  let t : Trap := { cause := cause, detail := if cause = 0x08 then 10 else detail, addr := addr, queue := queueNum eq, group := q.group }
  let d : Deferred := { entry := 0, trap := t, pc := q.pc, resume := 0, insn := q.insn, ctl := q.ctl, gmask := 0, mode := 0, active := 0 }
  s.modWarp q.core q.w fun wp => if wp.age = q.warpAge then { wp with engineFaults := wp.engineFaults ++ [d] } else wp

/-- Whether a gang stands at an instruction boundary. -/
def Gang.atBoundary (gn : Gang) : Bool :=
  !gn.trapped && match gn.status with
    | .ready | .stalled | .held _ => true
    | _ => false

/-- ENGINE_FAULT_DELIVER (R194): the warp's gang with the lowest first lane takes it at its next instruction boundary; with no gang
live the record is written all the same. -/
def execEngineFaultDeliver (k w : Nat) (s : State) : Event :=
  match warpAt s k w with
  | none => .next s
  | some wp => match wp.engineFaults with
    | [] => .next s
    | d :: rest =>
      let s' := s.modWarp k w fun wp => { wp with engineFaults := rest }
      match lowestFirst wp.gangs with
      | none => .next (trapCompute s' k w d)
      | some g => match AMap.get? wp.gangs g with
        | none => .next s
        | some gn =>
          if !gn.atBoundary || wp.preempt || wp.halted then .next s
          else .next (trapCompute s' k w { d with entry := g, resume := gn.pc, gmask := gn.mask, mode := gn.mode, active := gn.mask &&& guardMask wp gn.mode })

end Sys2Proof.Machine
end

