-- ==== Sys2Proof/Machine/Trees.lean ====
section
/-! DEFINITION. Sys2Proof/Machine/Trees.lean: the tree counter (R116), completing a packet (R388), launch descriptors (R389) and the room a
domain slot has for warps (R103, R105, R107, R109, R114). -/

namespace Sys2Proof.Machine

/-! ## Packets (R386, R388) -/

/-- n bytes at a byte offset of a packet, as a number. -/
def pktNat (pkt : BitVec 512) (off n : Nat) : Nat := bitsN pkt.toNat (8 * (off + n) - 1) (8 * off)
def pktVa (pkt : BitVec 512) (off : Nat) : DWord := BitVec.ofNat 64 (pktNat pkt off 8)

/-- A word of the cistern, which only its loader, its packets and WBCAST write (R221). -/
def notCistern (key : Option Nat) : Option Nat := key.filter fun k => decide (paKind k ≠ 1)

/-- The key of an aligned word that a queue's domain may write; none for address 0, and where there is no such word. -/
def wordKey (s : State) (p : Nat) (did : BitVec 16) (va : DWord) (size : Nat) : Option Nat :=
  if va = 0 ∨ va.toNat % size ≠ 0 then none
  else match walkFor s p did va with
    | .ok e => if e.w then notCistern (some (boundKey s p none (e.paOf va))) else none
    | .error _ => none

/-- A blocked queue becomes eligible; if a lane of its slice's firmware core holds no resident queue, it becomes resident on it (R391). -/
def unblock (s : State) (p q slice : Nat) : State :=
  let s := s.modPart p fun pt => { pt with queues := AMap.modify pt.queues q fun i => { i with blocked := none } }
  match (List.range 32).find? fun l => (AMap.get? (sliceAt s slice).lanes l).isNone with
  | some l => s.modSlice slice fun sl => { sl with lanes := AMap.put sl.lanes l { queue := q } }
  | none => s

/-- An add to a signal at its home makes blocked queues that it satisfies eligible again (R391). -/
def wakeQueues (s : State) (p key : Nat) : State :=
  let v := memNat s key 8
  let ready := (partAt s p).queues.filter fun (_, i) => match i.blocked with
    | some (sk, operand) => decide (sk = key) && decide (operand.toNat ≤ v)
    | none => false
  ready.foldl (fun s (q, i) => unblock s p q i.slice) s

/-- A lane of a slice's firmware core writes n bytes at a home, and into its core's data cache where that holds them (R216, R227); its core's next
release covers them (R206, R237). -/
def laneWrite (s : State) (slice key n v : Nat) : State :=
  if paKind key = 1 then s else (homeWriteNat s key n v).modCore (640 + slice) fun c => (l1Store c 0xFFFF key (natLe n v)).wrote 0xFFFF (lineOf key)

/-- The words of a packet's completion: its status word and its signal (R386). -/
def statusKey (s : State) (p slice : Nat) (did : BitVec 16) (pkt : BitVec 512) : Option Nat := wordKey (s.seenBy p slice) p did (pktVa pkt 48) 4
def signalKey (s : State) (p slice : Nat) (did : BitVec 16) (pkt : BitVec 512) : Option Nat := wordKey (s.seenBy p slice) p did (pktVa pkt 32) 8

/-- The scope of a packet's completion: partition, or system under sys (R388). -/
def pktScope (pkt : BitVec 512) : Nat := if bitsN (pktNat pkt 0 4) 9 9 = 1 then 5 else 3

/-- Completion of a packet by its firmware lane: status word, release, signal (R388). The release covers what the firmware core wrote, the
status word among it, what its acquires made visible (R237), and the lines that the packet's units published (R118). -/
def completePacket (s : State) (p slice : Nat) (did : BitVec 16) (pkt : BitVec 512) (status : Nat) (wrote : BitVec 2048) : State :=
  let s := match statusKey s p slice did pkt with
    | some key => laneWrite s slice key 4 status
    | none => s
  let s := publishWrites s (640 + slice) 0xFFFF (pktScope pkt) wrote
  match signalKey s p slice did pkt with
  | some key => wakeQueues (laneWrite s slice key 8 ((memNat s key 8 + pktNat pkt 40 8) % 2 ^ 64)) p key
  | none => s

/-! ## The tree counter (R116) -/

/-- Add to a tree's counter at its home; a tree whose counter reaches zero is complete: the firmware lane that read its SEED completes
the packet. -/
def addTree (s : State) (tree : Option Nat) (n : Int) : State :=
  match tree with
  | none => s
  | some t => match AMap.get? s.trees t with
    | none => s
    | some tr =>
      let v := wrapN ((memNat s tr.counter 8 : Int) + n) 64
      let s := homeWriteNat s tr.counter 8 v
      if v ≠ 0 ∨ 0 ≤ n then s
      else
        let s := { s with trees := AMap.modify s.trees t fun tr => { tr with done := true } }
        let s := s.modPart tr.part fun pt => { pt with queues := pt.queues.map fun (q, i) => (q, { i with open_ := i.open_.filter fun o => decide (o ≠ 2 * t) }) }
        completePacket s tr.part tr.slice tr.did tr.packet 0 (if pktScope tr.packet = 5 then tr.wrote ||| tr.wroteSys else tr.wrote)

/-- A change of a tree's counter, or the completion that it may bring, is held: a word of it is shut (R368, R383). -/
def treeHeld (s : State) (tree : Option Nat) : Bool :=
  match tree.bind fun t => AMap.get? s.trees t with
  | none => false
  | some tr => [some tr.counter, statusKey s tr.part tr.slice tr.did tr.packet, signalKey s tr.part tr.slice tr.did tr.packet].any fun k => k.any (keyShut s)

/-! ## Launch descriptors (R389, R390) -/

/-- The first n entries of a gate image have their target fields zero (R283, R389). What does not translate is not checked (DEDUCED, log entry 97). -/
def gatesOk (s : State) (p : Nat) (did : BitVec 16) (image : Nat) (n : Nat) : Bool :=
  (List.range n).all fun i => (keyOfVa s p did (BitVec.ofNat 64 (image + 32 * i))).all fun key => decide (memNat s key 2 = 0)

/-- The descriptor in 64 bytes at a key, for a domain, through which its gate image is found; none where a field is bad. -/
def descAt (s : State) (p : Nat) (did : BitVec 16) (key : Nat) : Option Desc :=
  let w := fun i => memNat s (key + 4 * i) 4
  let vb := bitsN (w 2) 7 0
  let nw := bitsN (w 2) 15 8
  let bars := bitsN (w 2) 22 16
  let allot := bitsN (w 3) 19 0
  let ok := decide (1 ≤ vb) && decide (vb ≤ 16) && decide (1 ≤ nw) && decide (nw ≤ 32) && decide (bars ≤ 64) && decide (bitsN (w 2) 31 23 = 0)
    && decide (allot % 16 = 0) && decide (allot ≤ 786432) && decide (bitsN (w 3) 31 20 = 0) && decide (bitsN (w 4) 31 16 = 0)
    && decide (bitsN (w 5) 6 0 ≤ 64) && decide (bitsN (w 5) 31 7 = 0) && ((List.range 8).all fun i => decide (w (8 + i) = 0))
    && gatesOk s p did (memNat s (key + 24) 8) (bitsN (w 5) 6 0)
  if ok then some { entry := BitVec.ofNat 64 (memNat s key 8), vblocks := vb, nwarp := nw, bars := bars, allot := allot, meet := bitsN (w 4) 15 0, gates := bitsN (w 5) 6 0 } else none

/-- Whether an address is a landing bundle that a domain may execute, as firmware finds it (R139). -/
def landsAt (s : State) (p : Nat) (did : BitVec 16) (va : DWord) : Bool :=
  decide (va.toNat % 16 = 0) && match walkFor s p did va with
    | .ok e => e.x && decide (bitsW (ctlThrough s p e va) 31 30 = 1)
    | .error _ => false

/-- The descriptor at an address, as firmware reads it for a domain; none where R389 or the domain's use of the frame fails. -/
def firmwareDesc (s : State) (p : Nat) (did : BitVec 16) (va : DWord) : Option Desc :=
  if va.toNat % 64 ≠ 0 then none
  else (keyOfVa s p did va).bind fun key => (descAt s p did key).filter fun d => landsAt s p did d.entry

/-- The register count and MEET limit of a loose warp (R390): from the kernel index entry that covers the entry address, else those
recorded for the tree's seed. -/
def looseParams (s : State) (p : Nat) (did : BitVec 16) (tree : Option Nat) (entry : DWord) : Nat × Nat :=
  let pt := partAt s p
  let fallback := match tree.bind fun t => AMap.get? s.trees t with
    | some tr => (tr.blocks, tr.meet)
    | none => (1, 512)
  let entryKey := fun i => keyOfVa s p 0xFFFF (pt.index + BitVec.ofNat 64 (16 * i))
  let found := (List.range pt.indexCount).findSome? fun i => (entryKey i).bind fun key =>
    let first := memNat s key 8
    if first ≤ entry.toNat ∧ entry.toNat < first + memNat s (key + 8) 4 then some (BitVec.ofNat 64 (first / 2 ^ 32 * 2 ^ 32 + memNat s (key + 12) 4)) else none
  match found.bind fun va => firmwareDesc s p did va with
  | some d => (d.vblocks, d.meet)
  | none => fallback

/-! ## Room in a domain slot -/

def Slot.wbase (sl : Slot) : Nat := bitsW sl.w3 19 16
def Slot.wcount (sl : Slot) : Nat := bitsW sl.w3 24 20
def Slot.rbase (sl : Slot) : Nat := bitsW sl.w1 5 0
/-- Granules of the slot in each quadrant. -/
def Slot.granules (sl : Slot) : Nat := bitsW sl.w1 15 8 / 2
/-- Granules of the reserve (R109). -/
def Slot.reserve (sl : Slot) : Nat := ceilDiv (bitsW sl.w1 20 16) 2
def Slot.groups (sl : Slot) : Nat := bitsW sl.w2 15 0
def Slot.ways (sl : Slot) : Nat := bitsW sl.w2 31 16
def Slot.did (sl : Slot) : BitVec 16 := BitVec.ofNat 16 (bitsW sl.w0 15 0)
def Slot.world (sl : Slot) : Bool := sl.w0.getLsbD 16
def Slot.valid (sl : Slot) : Bool := sl.w0.getLsbD 31
def Slot.area (sl : Slot) : Nat := (pairW sl.w6 sl.w7).toNat

/-- Granules that a warp occupies (R107). -/
def granulesFor (blocks : Nat) : Nat := ceilDiv blocks 2

/-- The warps of a quadrant that a domain launched. -/
def quadWarps (c : Core) (q : Nat) (did : BitVec 16) : List (Nat × Warp) := c.warps.filter fun (w, wp) => decide (w / 16 = q) && decide (wp.did = did)

/-- Free granules of a slot in a quadrant, the reserve among them; those being scrubbed are not free (R325). -/
def freeGranules (c : Core) (sl : Slot) (q : Nat) : Nat :=
  let used := (quadWarps c q sl.did).foldl (fun n (_, wp) => n + granulesFor wp.blocks) 0
  let scrubs := (c.scrubbing.filter fun u => match u with
    | .granule r g => decide (r = q) && decide (sl.rbase ≤ g) && decide (g < sl.rbase + sl.granules)
    | _ => false).length
  sl.granules - used - scrubs

/-- Granules that the reserve of a quadrant holds now (R109). -/
def Slot.kept (sl : Slot) (q : Nat) : Nat := sl.reserve - sl.lent.getD q 0

/-- Free granules outside the reserve. -/
def openGranules (c : Core) (sl : Slot) (q : Nat) : Nat := freeGranules c sl q - sl.kept q

/-- n granules of a quadrant's reserve are lent to a domain. -/
def lend (c : Core) (did : BitVec 16) (q n : Nat) : Core :=
  match slotOf c did with
  | some (i, _) => { c with slots := AMap.modify c.slots i fun sl => { sl with lent := sl.lent.set q (sl.lent.getD q 0 + n) } }
  | none => c

/-- n freed granules refill the reserve of a slot's quadrant first (R109 step 5). -/
def refill (c : Core) (i q n : Nat) : Core :=
  { c with slots := AMap.modify c.slots i fun sl => { sl with lent := sl.lent.set q (sl.lent.getD q 0 - n) } }

/-- Free warp slots of a slot in a quadrant, lowest first. -/
def freeSlots (c : Core) (sl : Slot) (q : Nat) : List Nat :=
  ((List.range sl.wcount).map fun i => 16 * q + sl.wbase + i).filter fun w => (AMap.get? c.warps w).isNone

/-- The register file of a quadrant can take warps. -/
def quadAwake (c : Core) (q : Nat) : Bool := !c.asleep.contains (.regFile q) && !c.scrubbing.contains (.regFile q)

/-- The core ranges of the scratchpad that blocks and loose warps of a core hold. -/
def heldRanges (c : Core) : List (Nat × Nat) :=
  let held := fun (v : View) => (v.runs 17 0 v.size).map fun r => (v.at r.1, r.2)
  (c.blocks.flatMap fun (_, b) => held b.view) ++ c.warps.flatMap fun (_, wp) => if wp.loose.isSome then held wp.baseView else []

/-- Whether n bytes at a core address lie in a slot's groups, held by nobody and not being scrubbed. -/
def rangeFree (c : Core) (sl : Slot) (b n : Nat) : Bool :=
  (List.range ((b + n - 1) / 49152 - b / 49152 + 1)).all (fun i => decide (sl.groups / 2 ^ (b / 49152 + i) % 2 = 1) && decide (b / 49152 + i < 16))
  && (heldRanges c).all (fun (a, m) => decide (m = 0) || decide (a + m ≤ b) || decide (b + n ≤ a)) && !scratchScrubbing c b n

/-- The lowest core address at which a slot has n contiguous bytes; candidates are the starts of groups and the first multiples
of 1,536 past the held ranges (R219). That it is the lowest is a DESIGN CHOICE (log entry 13: R103 asks for a contiguous range only). -/
def findRange (c : Core) (sl : Slot) (n : Nat) : Option Nat :=
  if n = 0 then some 0
  else (risingNat ((List.range 16).map (49152 * ·) ++ (heldRanges c).map fun (a, m) => 1536 * ceilDiv (a + m) 1536)).find? fun b => rangeFree c sl b n

/-- The warps of a block of n that stand in a quadrant. -/
def warpsIn (n q : Nat) : Nat := (n + 3 - q) / 4

/-- Where the warps of a block would stand on a core and its allotment would begin, if it can be placed now (R103). -/
def roomFor (c : Core) (did : BitVec 16) (d : Desc) : Option (List Nat × Nat) :=
  match slotOf c did with
  | none => none
  | some (_, sl) =>
    let quads := (List.range 4).filter fun q => decide (0 < warpsIn d.nwarp q)
    let ok := !sl.halted && !c.held && quads.all fun q =>
      decide (warpsIn d.nwarp q ≤ (freeSlots c sl q).length) && decide (warpsIn d.nwarp q * granulesFor d.vblocks ≤ openGranules c sl q) && quadAwake c q
    if ok then (findRange c sl d.allot).map fun b => ((List.range d.nwarp).map fun w => (freeSlots c sl (w % 4)).getD (w / 4) 0, b) else none

/-- The resource that a slot can never provide for a block (R105): 0 warp slots, 1 granules, 2 scratchpad. -/
def neverFits (sl : Slot) (d : Desc) : Option Nat :=
  if (List.range 4).any fun q => decide (sl.wcount < warpsIn d.nwarp q) then some 0
  else if (List.range 4).any fun q => decide (sl.granules - sl.reserve < warpsIn d.nwarp q * granulesFor d.vblocks) then some 1
  else if (findRange {} sl d.allot).isNone then some 2
  else none

/-- The resource that a block can never obtain, found on the lowest core that holds a slot of its domain; none too where no core does. -/
def launchRefused (s : State) (p : Nat) (did : BitVec 16) (d : Desc) : Option Nat :=
  ((domainCore s p did).bind fun k => slotOf (coreAt s k) did).bind fun (_, sl) => neverFits sl d

/-! ## Entering a core (R113, R125) -/

/-- The groups in a mask. -/
def groupList (mask : Nat) : List Nat := (List.range 16).filter fun g => mask.testBit g

/-- A warp of a domain that has entered may write its quadrant's registers and the groups of its view (R327; that those groups count as written
from then on is a DESIGN CHOICE, log entry 18). -/
def Core.taintWarp (c : Core) (did : BitVec 16) (w : Nat) (v : View) : Core :=
  c.taint did (.regFile (w / 16) :: (v.runs 17 0 v.size).map fun r => .scratchGroup (v.at r.1 / 49152))

/-- A warp enters its slot as one gang at an entry, in the cycle after those that entered its quadrant before it (R125), its domain having acquired at
a scope (R158). -/
def enterWarp (s : State) (k w : Nat) (wp : Warp) (entry : DWord) (scope : Nat) : State :=
  let after := AMap.getD (coreAt s k).entering (w / 16) 0
  let gn : Gang := Gang.goOn { pc := slot0 entry, mask := wp.wld, stall := after }
  let s := s.modCore k fun c =>
    { c.taintWarp wp.didNow w wp.view with entering := AMap.put c.entering (w / 16) (after + 1), residents := c.residents + 1, warps := AMap.put c.warps w { wp with age := c.residents, gangs := [(0, gn)] } }
  acquire s k wp.didNow scope

/-- A loose warp's lane arguments, in v0 and v1 (R113). -/
def looseRegs (threads : List (Word × Word)) : AMap Word :=
  let pairs := threads.zipIdx
  let m := pairs.foldl (fun m (t, l) => AMap.putD m l t.1 0) ([] : AMap Word)
  pairs.foldl (fun m (t, l) => AMap.putD m (32 + l) t.2 0) m

/-- The quadrant that takes a loose warp (R114): whole, with the most free warp slots, the lowest on a tie. -/
def looseQuad (c : Core) (sl : Slot) (blocks : Nat) : Option Nat :=
  ((List.range 4).filter fun q => !(freeSlots c sl q).isEmpty && decide (granulesFor blocks ≤ openGranules c sl q) && quadAwake c q).foldl (fun best q =>
    match best with
    | some b => if (freeSlots c sl b).length < (freeSlots c sl q).length then some q else some b
    | none => some q) none

/-- A bin's loose warp is placed and the bin emptied, if a slot, the granules and a window are free (R112 to R114). -/
def placeLoose (s : State) (k i : Nat) : Option State :=
  let c := coreAt s k
  match AMap.get? c.bins i with
  | none => none
  | some b => match slotOf c b.did with
    | none => none
    | some (_, sl) =>
      let (blocks, meet) := looseParams (s.seenBy (corePart s k) (coreSlice k)) (corePart s k) b.did b.tree b.entry
      if sl.halted ∨ c.held then none
      else match looseQuad c sl blocks, findRange c sl 4096 with
        | some q, some base =>
          let n := b.threads.length
          let lanes := maskOf fun l => decide (l < n)
          let view : View := { base := base, size := 4096, did := b.did }
          let wp : Warp := { did := b.did, didNow := b.did, tree := b.tree, meetLimit := meet, blocks := blocks, vregs := looseRegs b.threads, wld := lanes,
                             loose := some n, view := view, baseView := view }
          let s := s.modCore k fun c => { c with bins := AMap.del c.bins i }
          some (enterWarp s k ((freeSlots c sl q).headD 0) wp b.entry 2)
        | _, _ => none

/-- The oldest grid of a domain in a partition (R104). -/
def firstGrid (s : State) (p : Nat) (did : BitVec 16) : Option Grid := (partAt s p).grids.find? fun g => decide (g.did = did)

/-- A unit of the domain that has waited longer than bin i of a core, which waits since a cycle, can be placed on the core now: a bin, or the
next block of the domain's oldest grid (R120). Of units that began to wait in one cycle the grid is the older, then the bin of the lower number
(DESIGN CHOICE, log entry 89: R120 gives no tie rule). -/
def olderUnit (s : State) (k i since : Nat) (did : BitVec 16) : Bool :=
  ((coreAt s k).bins.any fun (j, o) => o.closed && decide (o.did = did) && (decide (o.since < since) || (decide (o.since = since) && decide (j < i)))
    && (placeLoose s k j).isSome)
  || (firstGrid s (corePart s k) did).any fun g => decide (g.came ≤ since) && (roomFor (coreAt s k) did g.desc).isSome

/-- The cycle of the dispatcher of a core's partition. -/
def partClk (s : State) (k : Nat) : Nat := (partAt s (corePart s k)).clk

/-- A bin launches: its warp is placed at once, or the bin closes and waits (R114), behind what has waited longer (R120). -/
def launchBin (s : State) (k i : Nat) : State :=
  let now := partClk s k
  let first : Bool := match AMap.get? (coreAt s k).bins i with | some b => !olderUnit s k i now b.did | none => false
  match (placeLoose s k i).filter fun _ => first with
  | some s => s
  | none => s.modCore k fun c => { c with bins := AMap.modify c.bins i fun b => { b with closed := true, since := now } }

/-- Granules of a domain's slot are freed in a quadrant (R108, R109, R326): those that held registers of a protected domain are scrubbed before any
grant, the others refill the reserve at once. -/
def freeGranule (c : Core) (did : BitVec 16) (q n : Nat) (tagged : Bool) : Core :=
  match slotOf c did with
  | none => c
  | some (i, sl) =>
    if !(sl.world || tagged) then refill c i q n
    else
      let idle := ((List.range sl.granules).map (sl.rbase + ·)).filter fun g => !c.scrubbing.contains (.granule q g)
      { c with scrubbing := c.scrubbing ++ (idle.take n).map fun g => .granule q g }

end Sys2Proof.Machine
end

