-- ==== Sys2Proof/Machine/Cistern.lean ====
section
/-! DEFINITION. Sys2Proof/Machine/Cistern.lean: writes of the cistern and what they wait for (R222 to R224, R299, R375), its refresh windows
and its scrubber. -/

namespace Sys2Proof.Machine

/-- The key of a cistern offset. -/
def cisternKey (off : Nat) : Nat := 2 ^ 48 + off

/-- Trees that run: dispatched and not retired. -/
def runningTrees (s : State) (p : Nat) : List Tree := (s.trees.map Prod.snd).filter fun t => decide (t.part = p) && t.dispatched && !t.done

/-- Whether a tree is bound to a generation of a pair: 1 for region 2p + 1. -/
def Tree.boundTo (t : Tree) (pair gen : Nat) : Bool := t.bound.contains pair == decide (gen = 1)

/-- Whether a write to a region must wait (R222): while the generation it names is current, or a running tree is bound to it or, unpaired,
has read it. -/
def cisternBlocked (s : State) (p r : Nat) : Bool :=
  let pair := r / 2
  if s.paired.contains pair then
    ((partAt s p).current.contains pair == decide (r % 2 = 1)) || (runningTrees s p).any fun t => t.boundTo pair (r % 2)
  else (runningTrees s p).any fun t => t.read.contains r

/-- n pages from a page on become unverified. -/
def markPages (m : AMap Bool) (page n : Nat) : AMap Bool :=
  m.filter (fun (i, _) => decide (i < page)) ++ (List.range n).map (fun i => (page + i, true)) ++ m.filter fun (i, _) => decide (page + n ≤ i)

/-- Bytes are written into a region: recorded digests of ranges they touch are discarded, its pages become unverified, and a quarantined
region counts as reloaded page by page. -/
def cisternWrite (s : State) (slice part : Nat) (did : BitVec 16) (off : Nat) (bs : List Byte) (skip : List Nat) : State :=
  let n := bs.length / 128
  let keep := fun i => !skip.contains i
  let s := ((List.range n).filter keep).foldl (fun s i => memPut s (cisternKey off + 128 * i) ((bs.drop (128 * i)).take 128)) s
  let lines := ((List.range n).filter keep).map fun i => cisternKey off / 128 + i
  let s := publishWide s slice part did lines
  { s with unverified := markPages s.unverified (off / 4096) (ceilDiv bs.length 4096),
           quarantined := AMap.del s.quarantined (off / 2 ^ 26),
           ranges := s.ranges.filter fun r => decide (r.offset + 4096 * r.pages ≤ off) || decide (off + bs.length ≤ r.offset) }

/-- Bytes that a cistern write covers. -/
def CisternWrite.length (w : CisternWrite) : Nat := if w.pages.isEmpty then w.bytes.length else 4096 * w.pages.length

/-- The bytes that a cistern write stores, with the lines of them that are marked uncorrectable: a copy reads its source at its homes as it starts; none
while a line cannot be read. -/
def CisternWrite.content (s : State) (w : CisternWrite) : Option (List Byte × List Nat × State) :=
  if w.pages.isEmpty then some (w.bytes, w.bad, s)
  else w.pages.zipIdx.foldl (fun (acc : Option (List Byte × List Nat × State)) p => acc.bind fun (bs, bad, s) =>
    (engineReadAll s (512 + 4 * (partAt s w.part).slices.headD 0) 32 p.1 4096).map fun (cs, ps, s) =>
      (bs ++ cs, bad ++ ((List.range 32).filter fun j => ps.any fun w => decide (w / 32 = p.1 / 128 + j)).map (32 * p.2 + ·), s)) (some ([], [], s))

/-- What waits for a cistern write goes on: a packet or an engine command; where the write was refused because its region has left the
partition, with PACKET-ERROR and detail 3, or FAULT (R223, R388). -/
def cisternDone (s : State) (w : CisternWrite) (ok : Bool) : State :=
  let s := match w.packet with
    | some (q, did, pkt) =>
      let slice := (AMap.getD (partAt s w.part).queues q {}).slice
      let s := s.modPart w.part fun pt => { pt with queues := AMap.modify pt.queues q fun i => { i with open_ := i.open_.erase (2 * w.offset + 1) } }
      completePacket s w.part slice did pkt (if ok then 0 else 0x302) 0
    | none => s
  match w.queue with
  | some slice =>
    let mine := fun (c : Command) => decide (c.op = .wbcast) && c.started && decide (some c.number = w.command)
    let next := fun (c : Command) =>
      let c := { c with ran := decide ((c.group.getD 2 0).toNat ≤ c.chunked) }
      if ok then c else { c with status := if c.status = some 1 then some 1 else some 5, error := true }
    s.modSlice slice fun sl => { sl with fq := mapIf mine next sl.fq }
  | none => s

/-- Cycles until a die's sequencer opens its next window. -/
def untilWindow (s : State) (die : Nat) : Nat := 1536 - refreshCount s die % 1536

/-- REFRESH_WINDOW (R225): a die's sequencer comes to its next window, which opens for the next array, n mod 16. -/
def execRefreshWindow (die : Nat) (s : State) : Event :=
  if 8 ≤ die then .next s else .next { s with refresh := AMap.put s.refresh die ((AMap.getD s.refresh die 0 + untilWindow s die) % 24576) }

/-- Bytes of a recorded range. -/
def CisternRange.bytes (s : State) (r : CisternRange) : List Byte := cellsRead s.mem (cisternKey r.offset) (4096 * r.pages)

/-- A region is quarantined until it is reloaded: none of its pages counts as verified (R183, R299). -/
def quarantine (s : State) (region : Nat) : State :=
  { s with quarantined := AMap.put s.quarantined region true,
           unverified := markPages s.unverified (16384 * region) 16384 }

/-- Whether a range holds a word marked uncorrectable. -/
def CisternRange.bad (s : State) (r : CisternRange) : Bool := memPoisoned s (cisternKey r.offset) (4096 * r.pages)

/-- CISTERN_SCRUB (R375): the scrubber checks the first recorded range of its die and moves on. Where it meets an error that it cannot correct, a word
marked uncorrectable or one that the surroundings report, it computes the range's digest again: one that does not match, or that cannot be had for such a
word, quarantines the region, and the region's first address is reported. -/
def execCisternScrub (die : Nat) (sound : Bool) (s : State) : Event :=
  match s.ranges.find? fun r => decide (r.offset / 2 ^ 26 / 24 = die) with
  | none => .next s
  | some r =>
    let s := { s with ranges := s.ranges.erase r ++ [r] }
    if !r.bad s && (sound || decide (Config.sha384 (r.bytes s) = r.digest)) then .next s
    else
      let s := quarantine s (r.offset / 2 ^ 26)
      .next (reportError s (regionSlice (r.offset / 2 ^ 26)) (cisternKey (r.offset / 2 ^ 26 * 2 ^ 26)))

end Sys2Proof.Machine
end

