-- ==== Sys2Proof/Machine/Control.lean ====
section
/-! DEFINITION. Sys2Proof/Machine/Control.lean: opcodes 0x00 to 0x0F, the control instructions (R54 to R59, R137 to R145). -/

namespace Sys2Proof.Machine

/-- The form of a control instruction that acts whatever the guard. -/
def ctlForm (op : Nat) (classes : Bool := true) : Form := { op := op, classes := classes, guard := false, once := true }

/-- ILL (R54): every check ends in the illegal-instruction fault. -/
def execIll (s : State) : Host.Outcome State Fault Refusal :=
  run s fun x => do
    check x (ctlForm 0x00)
    trapOf 0x01

/-- NOP (R54): no effect but its slot control. -/
def execNop (s : State) : Host.Outcome State Fault Refusal :=
  run s fun x => do
    let f := ctlForm 0x01
    check x f
    return retire x f x.s

/-- BRA (R55). -/
def execBra (off : BitVec 24) (s : State) : Host.Outcome State Fault Refusal :=
  run s fun x => do
    let f : Form := { op := 0x02 }
    check x f
    return laneTransfer x f x.s fun _ => relTarget x.gn.pc off.toInt

/-- SBRA (R56): the whole gang, taken when the value of field d is not zero. -/
def execSbra (c : Reg) (off : BitVec 16) (s : State) : Host.Outcome State Fault Refusal :=
  run s fun x => do
    let f : Form := { ctlForm 0x03 (Reg.unif c || decide (c = .p 7)) with more := [(c, 1)] }
    check x f
    return retireTo x f x.s (if x.rd 0 c = 0 then nextSlot x.gn.pc else relTarget x.gn.pc off.toInt)

/-- BRX (R139). -/
def execBrx (a : Reg) (s : State) : Host.Outcome State Fault Refusal :=
  run s fun x => do
    let f : Form := { op := 0x04, classes := Reg.addrPair a, more := [(a, 2)] }
    check x f
    checkTargets x x.did x.active (fun l => x.rd64 l a) false
    return laneTransfer x f x.s fun l => slot0 (x.rd64 l a)

/-- The link that CALL and CALLX write in each lane that calls (R140). -/
def linkWarp (x : Ctx) (d : Reg) : State := x.setWarp (x.wp.dst x.active d 2 fun _ => (nextSlot x.gn.pc).toNat)

/-- CALL (R140). -/
def execCall (d : Reg) (off : BitVec 16) (s : State) : Host.Outcome State Fault Refusal :=
  run s fun x => do
    let f : Form := { op := 0x05, classes := Reg.vz d, writes := [(d, 2)], lat := 4 }
    check x f
    return laneTransfer x f (linkWarp x d) fun _ => relTarget x.gn.pc off.toInt

/-- CALLX (R140). -/
def execCallx (d a : Reg) (s : State) : Host.Outcome State Fault Refusal :=
  run s fun x => do
    let f : Form := { op := 0x06, classes := Reg.vz d && Reg.addrPair a, more := [(a, 2)], writes := [(d, 2)], lat := 4 }
    check x f
    checkTargets x x.did x.active (fun l => x.rd64 l a) false
    return laneTransfer x f (linkWarp x d) fun l => slot0 (x.rd64 l a)

/-- RET (R140): the target is a slot address. -/
def execRet (a : Reg) (s : State) : Host.Outcome State Fault Refusal :=
  run s fun x => do
    let f : Form := { op := 0x07, classes := Reg.addrPair a, more := [(a, 2)] }
    check x f
    checkTargets x x.did x.active (fun l => x.rd64 l a) true
    return laneTransfer x f x.s fun l => x.rd64 l a

/-- JOIN (R141): pushes an entry with a new tag. -/
def execJoin (off : BitVec 16) (s : State) : Host.Outcome State Fault Refusal :=
  run s fun x => do
    let f := ctlForm 0x08
    check x f
    need (decide (x.gn.stack.length < 16)) { cause := 0x0E, detail := 1 }
    let e : StackEntry := { rejoin := relTarget x.gn.pc off.toInt, mask := x.gn.mask, tag := x.wp.tag }
    return retire x f (x.setWarp { x.wp with tag := x.wp.tag + 1, gangs := AMap.put x.wp.gangs x.g { x.gn with stack := e :: x.gn.stack } })

/-- MEET (R142, R170). -/
def execMeet (s : State) : Host.Outcome State Fault Refusal :=
  run s fun x => do
    let f := ctlForm 0x09
    check x f
    match x.gn.stack with
    | [] => return retire x f x.s
    | e :: _ =>
      if e.rejoin ≠ x.gn.pc then return retire x f x.s
      else
        let s := retireTo x.noStep f x.s x.gn.pc
        let s := s.modWarp x.k x.w fun wp => wp.clearLatch x.gn.mask
        if x.gn.pending.head?.any fun r => decide (r.depth = x.gn.stack.length) then
          return endStep x (afterGangs (s.modGang x.k x.w x.g Gang.serve) x.k x.w)
        else if !siblingOut x.wp x.g x.gn.pc e.tag || decide (x.wp.meetLimit = 0) then
          let together := if x.wp.meetLimit = 0 then [x.g] else x.g :: parkedThere x.wp x.gn.pc e.tag
          let s := s.modGang x.k x.w x.g fun gn => { gn with status := .parked 0 }
          let s := s.modWarp x.k x.w fun wp => if x.wp.meetLimit = 0 then wp else wp.mergeParked x.gn.pc e.tag
          return endStep x (afterGangs (s.modWarp x.k x.w fun wp => wp.leaveMeet (together.filter fun i => (AMap.get? wp.gangs i).isSome)) x.k x.w)
        else
          let s := s.modGang x.k x.w x.g fun gn => { gn with status := .parked x.wp.meetLimit }
          return endStep x (afterGangs (s.modWarp x.k x.w fun wp => wp.mergeParked x.gn.pc e.tag) x.k x.w)

/-- Entry i of a SWITCH table at bundle B: its address (R145). -/
def switchEntryAddr (pc : DWord) (i : Nat) : DWord := bundleOf pc + BitVec.ofNat 64 (16 * (1 + i / 3) + 4 * (1 + i % 3))

/-- The case a lane takes: its value when it is active and has an entry, else n. -/
def switchIndex (x : Ctx) (d : Reg) (n l : Nat) : Nat := if x.active.getLsbD l && decide ((x.rd l d).toNat < n) then (x.rd l d).toNat else n

/-- A word of the page that holds a table entry. -/
def switchWord (x : Ctx) (entry a : DWord) : Word :=
  match tlbLook x.c x.did entry with
  | .hit e => memWord x.s (physKey x.part (e.paOf a))
  | _ => 0

/-- The target of a table entry: its bundle address. -/
def switchTarget (x : Ctx) (entry : DWord) : DWord := bundleOf x.gn.pc + 16 + BitVec.ofInt 64 (16 * (switchWord x entry entry).toInt)

/-- The entries that lanes need are translated and executable; a gang of no lanes needs the default and records no lane. -/
def checkTable (x : Ctx) (lanes : Mask) (addr : Nat → DWord) : Except Stop Unit := do
  let look := fun l => tlbLook x.c x.did (addr l)
  let missing := laneWhere lanes fun l => decide (look l = .miss)
  if missing ≠ 0 then .error (.miss x.did ((lanesOf missing).map addr))
  let absent := laneWhere lanes fun l => match look l with | .hit e => !e.x | _ => true
  if absent ≠ 0 then
    let a := addr (firstLane absent)
    let m := absent &&& x.gn.mask
    match look (firstLane absent) with
    | .refused c dt =>
      if (leafOf x.c x.did a).any fun e => !e.x then .error (.trap { cause := 0x08, detail := 1, lanes := some m, addr := a })
      else .error (.trap { cause := c, detail := dt, lanes := some m, addr := a })
    | .hit _ => .error (.trap { cause := 0x08, detail := 1, lanes := some m, addr := a })
    | _ => .error (.trap { cause := 0x08, detail := 9, lanes := some m, addr := a })

/-- The entries that lanes need stand in bundles of frame 2. -/
def checkFrames (x : Ctx) (lanes : Mask) (addr : Nat → DWord) : Except Stop Unit :=
  let noTable := laneWhere lanes fun l => decide (bitsW (switchWord x (addr l) (bundleOf (addr l))) 31 30 ≠ 2)
  need (decide (noTable = 0)) { cause := 0x0C, lanes := some (noTable &&& x.gn.mask), addr := addr (firstLane noTable) }

/-- The table bundles that lanes need, by address. -/
def tableBundles (lanes : Mask) (addr : Nat → DWord) : List Nat := ((lanesOf lanes).map fun l => (bundleOf (addr l)).toNat).eraseDups

/-- The number under which a core keeps a table bundle of a domain. -/
def tableKey (did : BitVec 16) (bundle : Nat) : Nat := did.toNat * 2 ^ 64 + bundle

/-- The fetch of the table bundles that lanes need (R145): the gang is held until each is here. A bundle takes a free number of cycles;
gangs of the core that wait for the same bundles find them in one cycle (R161). -/
def fetchTable (x : Ctx) (lanes : Mask) (addr : Nat → DWord) : Option State :=
  let need := (tableBundles lanes addr).map (tableKey x.did)
  let ask := need.filter fun b => (AMap.get? x.c.tables b).isNone
  if ask.isEmpty && need.all fun b => decide (AMap.getD x.c.tables b 0 = 0) then none
  else
    let s := x.s.modCore x.k fun c => { c with tables := (ask.zipIdx).foldl (fun m (b, i) => AMap.put m b (Config.fetchDelay (x.s.free + i))) c.tables }
    some ({ s with free := x.s.free + ask.length }.modGang x.k x.w x.g fun gn => { gn with status := .held .tableFetch })

/-- The targets that lanes take are translated, executable and the domain's own. -/
def checkCases (x : Ctx) (lanes : Mask) (target : Nat → DWord) : Except Stop Unit := do
  let missing := laneWhere lanes fun l => decide (tlbLook x.c x.did (target l) = .miss)
  if missing ≠ 0 then .error (.miss x.did ((lanesOf missing).map target))
  let unmapped := laneWhere lanes fun l => match tlbLook x.c x.did (target l) with
    | .hit e => !e.x
    | .refused c _ => decide (c ≠ 0x09) || (leafOf x.c x.did (target l)).any fun e => !e.x
    | _ => true
  need (decide (unmapped = 0)) { cause := 0x0C, lanes := some (unmapped &&& x.gn.mask), addr := target (firstLane unmapped) }
  let foreign := laneWhere lanes fun l => match tlbLook x.c x.did (target l) with
    | .refused c _ => decide (c = 0x09)
    | _ => false
  need (decide (foreign = 0)) { cause := 0x09, detail := 2, lanes := some (foreign &&& x.gn.mask), addr := target (firstLane foreign) }

/-- The destinations of a switch in case order, each with its lanes. -/
def switchDsts (mask : Mask) (n : Nat) (idx : Nat → Nat) (target : Nat → DWord) : List Dst :=
  let keyed := (List.range (n + 1)).flatMap fun i => (lanesOf mask).filter fun l => decide (idx l = i)
  keyed.foldl (fun (ds : List Dst) l =>
    let t := slot0 (target l)
    if ds.any fun (a, _) => decide (a = t) then ds.map fun (a, q) => if a = t then (a, q ||| bitMask l) else (a, q)
    else ds ++ [(t, bitMask l)]) []

/-- SWITCH (R145): the entries that lanes need and their fetch, then their targets, then the transfer in case order. -/
def execSwitch (d : Reg) (n : BitVec 16) (s : State) : Host.Outcome State Fault Refusal :=
  run s fun x => do
    let f : Form := { op := 0x0A, classes := Reg.any d && !Reg.isP d && decide (1 ≤ n.toNat) && decide (n.toNat ≤ 1024), more := [(d, 1)] }
    check x f
    let lanes := if x.gn.mask = 0 then 1 else x.gn.mask
    let idx := switchIndex x d n.toNat
    let addr := fun l => switchEntryAddr x.gn.pc (idx l)
    let target := fun l => switchTarget x (addr l)
    checkTable x lanes addr
    match fetchTable x lanes addr with
    | some s => return s
    | none =>
      checkFrames x lanes addr
      checkCases x lanes target
      if x.gn.mask = 0 then return retireTo x f x.s (slot0 (target 0))
      else return transferTo x f x.s (switchDsts x.gn.mask n.toNat idx target)

/-- WSYNC (R144, R171). -/
def execWsync (n : BitVec 16) (s : State) : Host.Outcome State Fault Refusal :=
  run s fun x => do
    let f := ctlForm 0x0B
    check x f
    need (x.wp.gangs.all fun (_, h) => h.pending.isEmpty) { cause := 0x0E, detail := 3 }
    need (x.wp.gangs.all fun (_, h) => h.stack.all fun e => decide (e.held = 0)) { cause := 0x0E, detail := 4 }
    return settleSync (beginWait x f x.s (.wsync n)) x.k x.w

/-- EXIT (R57). -/
def execExit (s : State) : Host.Outcome State Fault Refusal :=
  run s fun x => do
    let f : Form := { op := 0x0C }
    check x f
    return endStep x (afterGangs ((retire x.noStep f x.s).modWarp x.k x.w fun wp => wp.exitLanes x.g x.active) x.k x.w)

/-- TRAP (R58): completes, then halts the gang when a lane is active. -/
def execTrap (n : BitVec 16) (s : State) : Host.Outcome State Fault Refusal :=
  run s fun x => do
    let f : Form := { op := 0x0D }
    check x f
    if x.active = 0 then return retire x f x.s
    else return trapAfter x (retire x.noStep f x.s) { cause := 0x12, n := n, lanes := some x.active }

/-- YIELD (R59): ineligible for max(1, n) cycles. -/
def execYield (n : BitVec 16) (s : State) : Host.Outcome State Fault Refusal :=
  run s fun x => do
    let f := ctlForm 0x0E
    check x f
    return retireTo x f x.s (nextSlot x.gn.pc) (fun _ => 0) (max 1 n.toNat)

/-- EXEC (R143): removes lanes and holds them in the top stack entry. -/
def execExec (a : Reg) (s : State) : Host.Outcome State Fault Refusal :=
  run s fun x => do
    let f : Form := { ctlForm 0x0F (Reg.unif a || Reg.isP a) with more := [(a, 1)] }
    check x f
    let m : Mask := match a with | .p n => predMask x.wp n | _ => x.rd 0 a
    let gone := x.gn.mask &&& ~~~m
    if gone = 0 then return retire x f x.s
    else match x.gn.stack with
      | [] => trapOf 0x0E 2
      | e :: rest =>
        let gn := { x.gn with mask := x.gn.mask &&& m, stack := { e with held := e.held ||| gone } :: rest }
        return retire x f (x.setWarp { x.wp with gangs := AMap.put x.wp.gangs x.g gn })

end Sys2Proof.Machine
end

