-- ==== Sys2Proof/Machine/Logic.lean ====
section
/-! DEFINITION. Sys2Proof/Machine/Logic.lean: opcodes 0x20 to 0x2F: logic, shifts, bit fields, compare and predicate logic (R66 to R73). -/

namespace Sys2Proof.Machine

/-- AND (R66). -/
def execAnd (d a b : Reg) (s : State) : Host.Outcome State Fault Refusal :=
  run s fun x => laneOp x (aluForm x 0x20 d a b true true false true 4) d x.width fun l => opA x a l &&& opB x b l

/-- OR (R66). -/
def execOr (d a b : Reg) (s : State) : Host.Outcome State Fault Refusal :=
  run s fun x => laneOp x (aluForm x 0x21 d a b true true false true 4) d x.width fun l => opA x a l ||| opB x b l

/-- XOR (R66). -/
def execXor (d a b : Reg) (s : State) : Host.Outcome State Fault Refusal :=
  run s fun x => laneOp x (aluForm x 0x22 d a b true true false true 4) d x.width fun l => opA x a l ^^^ opB x b l

/-- NOT (R66). -/
def execNot (d a : Reg) (s : State) : Host.Outcome State Fault Refusal :=
  run s fun x => laneOp x (aluForm x 0x23 d a .z true false false true 4) d x.width fun l => 2 ^ x.bits - 1 - opA x a l

/-- Element shifts by an unsigned count (R67). -/
def shlElem (w x n : Nat) : Nat := if w ≤ n then 0 else x * 2 ^ n % 2 ^ w
def shrElem (w x n : Nat) : Nat := if w ≤ n then 0 else x / 2 ^ n
def sarElem (w x n : Nat) : Nat := wrapN (sextN x w / ((2 ^ min n w : Nat) : Int)) w
def rolElem (w x n : Nat) : Nat := let k := n % w; (x * 2 ^ k % 2 ^ w) + x / 2 ^ (w - k)
/-- The low w bits of (a × 2^w + b) shifted right by c mod w. -/
def fshElem (w x y c : Nat) : Nat := (x * 2 ^ w + y) / 2 ^ (c % w) % 2 ^ w

/-- SHL (R67). -/
def execShl (d a b : Reg) (s : State) : Host.Outcome State Fault Refusal :=
  run s fun x => elemOp x (aluForm x 0x24 d a b true true false x.t.isInt 4) d fun p q _ => shlElem x.t.width p q

/-- SHR (R67). -/
def execShr (d a b : Reg) (s : State) : Host.Outcome State Fault Refusal :=
  run s fun x => elemOp x (aluForm x 0x25 d a b true true false x.t.isInt 4) d fun p q _ => shrElem x.t.width p q

/-- SAR (R67). -/
def execSar (d a b : Reg) (s : State) : Host.Outcome State Fault Refusal :=
  run s fun x => elemOp x (aluForm x 0x26 d a b true true false x.t.isInt 4) d fun p q _ => sarElem x.t.width p q

/-- ROL (R67). -/
def execRol (d a b : Reg) (s : State) : Host.Outcome State Fault Refusal :=
  run s fun x => elemOp x (aluForm x 0x27 d a b true true false x.t.isInt 4) d fun p q _ => rolElem x.t.width p q

/-- FSH (R67). -/
def execFsh (d a b : Reg) (s : State) : Host.Outcome State Fault Refusal :=
  run s fun x => elemOp x (aluForm x 0x28 d a b true true true x.t.isInt 4) d fun p q c => fshElem x.t.width p q c

/-- Leading zeros of a w-bit value, by width. -/
def clzN (w x : Nat) : Nat := if x = 0 then w else w - 1 - Nat.log2 x

/-- A w-bit value with its bits reversed. -/
def revN : Nat → Nat → Nat
  | 0, _ => 0
  | n + 1, x => x % 2 * 2 ^ n + revN n (x / 2)

/-- CLZ (R68). -/
def execClz (d a : Reg) (s : State) : Host.Outcome State Fault Refusal :=
  run s fun x => elemOp x (aluForm x 0x29 d a .z true false false x.t.isInt 4) d fun p _ _ => clzN x.t.width p

/-- POPC (R68). -/
def execPopc (d a : Reg) (s : State) : Host.Outcome State Fault Refusal :=
  run s fun x => elemOp x (aluForm x 0x2A d a .z true false false x.t.isInt 4) d fun p _ _ => popN x.t.width p

/-- BREV (R68). -/
def execBrev (d a : Reg) (s : State) : Host.Outcome State Fault Refusal :=
  run s fun x => elemOp x (aluForm x 0x2B d a .z true false false x.t.isInt 4) d fun p _ _ => revN x.t.width p

/-- i32, n32, i64, n64 (R60). -/
def wideInt (t : EType) : Bool := t.isInt && decide (32 ≤ t.width)

/-- The field that b names in a w-bit register: position and length, or none (R69). -/
def bitField (w b : Nat) : Option (Nat × Nat) :=
  let pos := bitsN b 7 0
  let len := bitsN b 15 8
  if w ≤ pos ∨ len = 0 then none else some (pos, min len (w - pos))

/-- BFX of a value (R69). -/
def bfxElem (t : EType) (x b : Nat) : Nat :=
  match bitField t.width b with
  | none => 0
  | some (pos, len) => if t.isSigned then wrapN (sextN (x / 2 ^ pos) len) t.width else x / 2 ^ pos % 2 ^ len

/-- BFI of a value into c (R69). -/
def bfiElem (t : EType) (x b c : Nat) : Nat :=
  match bitField t.width b with
  | none => c
  | some (pos, len) => c - (c / 2 ^ pos % 2 ^ len) * 2 ^ pos + (x % 2 ^ len) * 2 ^ pos

/-- BFX (R69). -/
def execBfx (d a b : Reg) (s : State) : Host.Outcome State Fault Refusal :=
  run s fun x => elemOp x (aluForm x 0x2C d a b true true false (wideInt x.t) 4) d fun p q _ => bfxElem x.t p q

/-- BFI (R69). -/
def execBfi (d a b : Reg) (s : State) : Host.Outcome State Fault Refusal :=
  run s fun x => elemOp x (aluForm x 0x2D d a b true true true (wideInt x.t) 4) d fun p q c => bfiElem x.t p q c

/-- The register field of predicate n. -/
def predReg (n : Nat) : Reg := .p (Fin.ofNat 8 n)

/-- A predicate written in the lanes of a mask. -/
def Warp.predIn (wp : Warp) (lanes : Mask) (n : Nat) (p : Nat → Bool) : Warp :=
  wp.setPred n (maskOf fun l => if lanes.getLsbD l then p l else (predMask wp n).getLsbD l)

/-- CMP (R71, R72). -/
def execCmp (c : BitVec 5) (p : BitVec 3) (a b : Reg) (s : State) : Host.Outcome State Fault Refusal :=
  run s fun x => do
    let f : Form := { op := 0x2E, classes := decide (c.toNat < 24), a := a, b := b, aw := x.width, bw := x.width, aLane := !x.is64,
                      bLane := !x.is64, writes := [(predReg p.toNat, 1)], lat := 4 }
    check x f
    return retire x f (x.setWarp (x.wp.predIn x.active p.toNat fun l => condHolds c.toNat x.t x.fm.ftz (opA x a l) (opB x b l)))

/-- PLOG (R73). -/
def execPlog (t : BitVec 4) (p : BitVec 3) (a b : Reg) (s : State) : Host.Outcome State Fault Refusal :=
  run s fun x => do
    let f : Form := { op := 0x2F, classes := Reg.isP a && Reg.isP b, more := [(a, 1), (b, 1)], writes := [(predReg p.toNat, 1)], lat := 2 }
    check x f
    return retire x f (x.setWarp (x.wp.predIn x.active p.toNat fun l => truthBit t.toNat (decide (x.rd l a ≠ 0)) (decide (x.rd l b ≠ 0))))

end Sys2Proof.Machine
end

