-- ==== Sys2Proof/Machine/Convert.lean ====
section
/-! DEFINITION. Sys2Proof/Machine/Convert.lean: opcodes 0x30 to 0x3D: conversions, special functions, FCLS, ADDC and the mode register
(R70, R74 to R83). -/

namespace Sys2Proof.Machine

/-- Registers of an operand of a type. -/
def EType.regs (t : EType) : Nat := if t.is64 then 2 else 1

/-- How many parts a conversion has (R74). -/
def cvtParts (ts td : EType) : Nat := max td.elems ts.elems / min td.elems ts.elems

/-- CVT of a whole operand (R74). -/
def cvtOp (ts td : EType) (m : FMode) (part x old : Nat) : Nat :=
  if ts.elems ≤ td.elems then
    (List.range ts.elems).foldl (fun out i => insElem td out (part * ts.elems + i) (cvtElem ts td m (elemOf ts x i))) old
  else
    (List.range td.elems).foldl (fun out i => insElem td out i (cvtElem ts td m (elemOf ts x (part * td.elems + i)))) old

/-- CVT (R74 to R76). Under a 64-bit source type a constant is read as R48 reads it under a 64-bit type in force, whatever type is in force: k0 to k7
are sign-extended (DESIGN CHOICE, log entry 85: R48 speaks of the type in force only). -/
def execCvt (d a : Reg) (part : BitVec 3) (t : BitVec 5) (s : State) : Host.Outcome State Fault Refusal :=
  run s fun x =>
    let ts := (etypeOf t.toNat).getD .i32
    let td := x.t
    let f : Form := { op := 0x30, classes := Reg.vz d && (etypeOf t.toNat).isSome && decide (part.toNat < cvtParts ts td), a := a, aw := ts.regs,
                      aLane := !ts.is64, res := !td.is64, more := if ts.elems < td.elems then [(d, td.regs)] else [],
                      writes := [(d, td.regs)], lat := if ts.is64 || td.is64 then 10 else 5 }
    laneOp x f d td.regs fun l =>
      cvtOp ts td x.fm part.toNat (if ts.is64 then (x.rd64 l a).toNat else (srcA x a l).toNat) (opD x d l)

/-- RND (R77). -/
def execRnd (d a : Reg) (s : State) : Host.Outcome State Fault Refusal :=
  run s fun x => elemOp x (aluForm x 0x31 d a .z true false false x.t.isFloat (if x.is64 then 10 else 5)) d fun p _ _ =>
    floatOp x.t x.fm (fun vs => match vs with | [v] => rndVal x.fm.rm v | _ => .invalid) [p]

/-- f16, bf16 and f32 (R60). -/
def sfuType (t : EType) : Bool := t.isFloat && !t.is64

/-- A special function of R79 on each element. -/
def sfuOp (f : SFun) (x : Ctx) (d a : Reg) : Except Stop State :=
  elemOp x (aluForm x f.code d a .z true false false (sfuType x.t) 14) d fun p _ _ => sfuElem f x.t x.fm p

/-- RCP (R79). -/
def execRcp (d a : Reg) (s : State) : Host.Outcome State Fault Refusal := run s fun x => sfuOp .rcp x d a

/-- RSQ (R79). -/
def execRsq (d a : Reg) (s : State) : Host.Outcome State Fault Refusal := run s fun x => sfuOp .rsq x d a

/-- SQRT (R79): correctly rounded by Mode().rnd, also in f64. -/
def execSqrt (d a : Reg) (s : State) : Host.Outcome State Fault Refusal :=
  run s fun x => elemOp x (aluForm x 0x34 d a .z true false false x.t.isFloat (if x.is64 then 28 else 14)) d fun p _ _ =>
    floatOp x.t x.fm (fun vs => match vs with | [v] => sqrtVal v | _ => .invalid) [p]

/-- EX2 (R79). -/
def execEx2 (d a : Reg) (s : State) : Host.Outcome State Fault Refusal := run s fun x => sfuOp .ex2 x d a

/-- LG2 (R79). -/
def execLg2 (d a : Reg) (s : State) : Host.Outcome State Fault Refusal := run s fun x => sfuOp .lg2 x d a

/-- SIN (R79). -/
def execSin (d a : Reg) (s : State) : Host.Outcome State Fault Refusal := run s fun x => sfuOp .sin x d a

/-- COS (R79). -/
def execCos (d a : Reg) (s : State) : Host.Outcome State Fault Refusal := run s fun x => sfuOp .cos x d a

/-- TANH (R79). -/
def execTanh (d a : Reg) (s : State) : Host.Outcome State Fault Refusal := run s fun x => sfuOp .tanh x d a

/-- FCLS (R78). -/
def execFcls (d a : Reg) (s : State) : Host.Outcome State Fault Refusal :=
  run s fun x => elemOp x (aluForm x 0x3A d a .z true false false (!x.t.isInt) 4) d fun p _ _ => fclass x.t p

/-- The 33-bit sum of ADDC in a lane (R70). -/
def addcSum (x : Ctx) (a b : Reg) (l : Nat) : Nat :=
  (srcA x a l).toNat + (srcB x b l).toNat + (if (guardMask x.wp x.mode).getLsbD l then 1 else 0)

/-- ADDC (R70): in every lane of the gang; predicate gp holds the carry, inverted under ginv. -/
def execAddc (d a b : Reg) (s : State) : Host.Outcome State Fault Refusal :=
  run s fun x => do
    let gp := modeGp x.mode
    let f : Form := { aluForm x 0x3B d a b true true false (decide (x.t = .i32 ∨ x.t = .n32)) 4 with
                      acts := some x.gn.mask, writes := [(d, 1), (predReg gp, 1)] }
    check x f
    let wp := x.wp.dst x.gn.mask d 1 fun l => addcSum x a b l
    let wp := wp.predIn x.gn.mask gp fun l => decide (2 ^ 32 ≤ addcSum x a b l) != modeGinv x.mode
    return retire x f (x.setWarp wp) fun l => w32 (addcSum x a b l)

/-- The state with the gang's mode replaced. -/
def Ctx.withMode (x : Ctx) (wp : Warp) (m : Word) : State :=
  x.setWarp { wp with gangs := AMap.put wp.gangs x.g { x.gn with mode := m } }

/-- MODE (R82): the old mode to d, then the mode from a; z leaves it. -/
def execMode (d a : Reg) (s : State) : Host.Outcome State Fault Refusal :=
  run s fun x => do
    let f0 : Form := { op := 0x3C, classes := Reg.sz d && Reg.unif a, guard := false, once := true, more := [(a, 1)], writes := [(d, 1)], lat := 2 }
    let v := x.rd 0 a
    let f := { f0 with typed := Reg.isZ a || modeOk v, early := regCodes a 1 }
    check x f
    return retire x f (x.withMode (x.wp.dstS d 1 (x.mode.toNat % 2 ^ 18)) (if Reg.isZ a then x.gn.mode else v))

/-- The mode bits that a field of MODEF selects: lowest bit and width (R83). -/
def modefField : Nat → Option (Nat × Nat)
  | 0 => some (0, 4) | 1 => some (4, 5) | 2 => some (9, 3) | 3 => some (12, 1) | 4 => some (13, 1) | 5 => some (14, 2)
  | 6 => some (16, 1) | 7 => some (17, 1) | 8 => some (4, 10) | 9 => some (0, 16) | _ => none

/-- The mode that MODEF writes, if it is legal (R83). -/
def modefValue (old : Word) (f : Nat) (n : Nat) : Option Word :=
  match modefField f with
  | none => none
  | some (lo, w) =>
    if 2 ^ w ≤ n then none
    else
      let m := w32 (old.toNat - (old.toNat / 2 ^ lo % 2 ^ w) * 2 ^ lo + n * 2 ^ lo)
      if modeOk m then some m else none

/-- MODEF (R83). -/
def execModef (f : BitVec 8) (n : BitVec 16) (s : State) : Host.Outcome State Fault Refusal :=
  run s fun x => do
    let v := modefValue x.gn.mode f.toNat n.toNat
    let fm : Form := { op := 0x3D, guard := false, once := true, typed := v.isSome }
    check x fm
    return retire x fm (x.withMode x.wp (v.getD x.gn.mode))

end Sys2Proof.Machine
end

