-- ==== Sys2Proof/Machine/Copy.lean ====
section
/-! DEFINITION. Sys2Proof/Machine/Copy.lean: the copy engine (R191 to R195): opcodes 0x7D and 0x7E, and the steps in which copies run. -/

namespace Sys2Proof.Machine

/-- What a copy asks of its memory. -/
def copyAsk (out : Bool) : Ask := { size := 16, write := out }

/-- Whether a piece covers a line. -/
def coversWhole (ps : List Piece) (s : State) (k : Nat) (did : BitVec 16) (tree : Option Nat) (key : Nat) : Bool :=
  ps.any fun p => decide (p.len = 128) && decide (keyAt s k did tree p.va = key / 128 * 128)

/-! ## CPY and CPYO at issue (R193) -/

def startCopy (op : Nat) (eop : EngineOp) (q : BitVec 8) (a : Reg) (s : State) : Host.Outcome State Fault Refusal :=
  run s fun x => do
    let f : Form := { op := op, classes := decide (q.toNat < 2) && groupReg a 56, guard := false, once := true, more := groupReads a 7 }
    check x f
    let g := (List.range 7).map (groupWord x a)
    let w := fun i => g.getD i 0
    let c := copyOf g
    need (decide (c.mem.toNat % 16 = 0)) { cause := 0x0A, addr := c.mem }
    need (decide (c.sp % 16 = 0)) (misaligned c.sp)
    need (decide (bitsW (w 2) 31 20 = 0)) illegal
    need (decide (c.len % 16 = 0)) (misaligned c.len)
    need (decide (c.mstride % 16 = 0)) (misaligned (w 4).toNat)
    need (decide (c.sstride % 16 = 0)) (misaligned c.sstride)
    need (decide (c.rows ≤ 1) || decide (c.len ≤ c.sstride)) illegal
    need (decide (bitsW (w 5) 31 16 = 0) && decide (bitsW (w 6) 30 20 = 0)) illegal
    let ranges := (List.range c.rows).map fun i => (c.sp + i * c.sstride, c.len)
    checkRanges x ranges
    let o ← (if (w 6).getLsbD 31 then do
        let o ← checkObject x (w32 (bitsW (w 6) 19 0)) true
        need (!ranges.any fun (p, n) => decide (p < bitsW (w 6) 19 0 + 16) && decide (bitsW (w 6) 19 0 < p + n)) (barFault (w32 (bitsW (w 6) 19 0)))
        return some o
      else return none : Except Stop (Option Nat))
    let eq : EngineQueue := if q = 0 then .cq0 else .cq1
    need ((queueMask x.c x.did).testBit (queueNum eq)) engineFault
    if c.total = 0 then
      needCount x .ec
      return retire x f (flushEntries x.s x.k fun e => contributed x.c x.w x.wp.age e)
    let ps := c.pieces 0
    let whole := coversWhole ps x.s x.k x.did x.wp.tree
    match rangeCheck x.s x.k x.did x.wp.tree (copyAsk (decide (eop = .cpyo))) whole (ps.map fun p => p.va) with
    | .miss vas => .error (.miss x.did vas)
    | .fault cause d addr => .error (.trap { cause := cause, detail := d, addr := addr })
    | .ok => enterQueue x f eq eop g o

/-- CPY (R191). -/
def execCpy (q : BitVec 8) (a : Reg) (s : State) : Host.Outcome State Fault Refusal := startCopy 0x7D .cpy q a s
/-- CPYO (R191). -/
def execCpyo (q : BitVec 8) (a : Reg) (s : State) : Host.Outcome State Fault Refusal := startCopy 0x7E .cpyo q a s

/-! ## Running -/

/-- Copy queue 0 or 1. -/
def copyQueue (q : Nat) : EngineQueue := if q = 0 then .cq0 else .cq1

/-- The copy that runs in a queue of a core. -/
def copyHead (s : State) (k q : Nat) : Option Command := runHead s (queueOf s k (copyQueue q))

/-- COPY_START (R193). -/
def execCopyStart (k q : Nat) (s : State) : Event :=
  match copyHead s k q with
  | none => .next s
  | some cmd => if cmd.started ∨ !drained s cmd then .next s else .next (modCommand s k (copyQueue q) cmd fun d => { d with started := true })

/-- Whether every piece of the chunks translated so far has landed. -/
def chunkDone (cmd : Command) : Bool :=
  decide (cmd.chunked = 0) || ((copyOf cmd.group).pieces (cmd.chunked - 1)).all fun p => cmd.landed.contains p.off

/-- A copy whose last piece has landed completes (R193). -/
def finishCopy (s : State) (k q : Nat) : State :=
  match copyHead s k q with
  | none => s
  | some cmd => if cmd.started && decide (cmd.chunked = (copyOf cmd.group).chunks) && chunkDone cmd then dropCommand s k (copyQueue q) cmd else s

/-- Bytes of a copy are counted at its barrier. -/
def copyLand (s : State) (cmd : Command) (n : Nat) (err : Bool) : State :=
  match cmd.barrier with
  | some o => barLand s cmd.core o n err
  | none => s

/-- COPY_CHUNK (R193, R194): the next chunk is translated and checked once the one before has landed; a failed check stops the
command. -/
def execCopyChunk (k q : Nat) (s : State) : Event :=
  match copyHead s k q with
  | none => .next s
  | some cmd =>
    let c := copyOf cmd.group
    if !cmd.started ∨ c.chunks ≤ cmd.chunked ∨ !chunkDone cmd ∨ domainHalted (coreAt s k) cmd.did then .next s
    else
      let ps := c.pieces cmd.chunked
      let tree := cmd.tree s
      match rangeCheck s k cmd.did tree (copyAsk (decide (cmd.op = .cpyo))) (coversWhole ps s k cmd.did tree) (ps.map fun p => p.va) with
      | .miss vas => .next (askPages s k cmd.did vas)
      | .fault cause d addr =>
        let s := copyLand s cmd (c.total - 4096 * cmd.chunked) true
        .next (dropAllRefusals (dropCommand (sendFault s (copyQueue q) cmd cause d addr) k (copyQueue q) cmd) k)
      | .ok =>
        let pages := ps.foldl (fun m p => AMap.put m p.off (keyAt s k cmd.did tree p.va)) ([] : AMap Nat)
        let s := if cmd.op = .cpyo ∧ worldOf (coreAt s k) cmd.did then markTensors s (ps.map fun p => keyAt s k cmd.did tree p.va) else markRead s tree (pages.map Prod.snd)
        .next (modCommand s k (copyQueue q) cmd fun d => { d with chunked := d.chunked + 1, busy := true, pages := pages, landed := [], mark := (coreAt s k).nextId })

/-- The piece of the running copy that begins at a byte of the stream and has not landed. -/
def pieceOf (cmd : Command) (off : Nat) : Option Piece :=
  if cmd.started && decide (0 < cmd.chunked) && !cmd.landed.contains off then ((copyOf cmd.group).pieces (cmd.chunked - 1)).find? fun p => decide (p.off = off) else none

/-- A piece has landed. -/
def landPiece (s : State) (k q : Nat) (cmd : Command) (p : Piece) : State :=
  let step := fun (d : Command) => let e := { d with landed := p.off :: d.landed }; { e with busy := !chunkDone e }
  let s := modCommand s k (copyQueue q) cmd step
  finishCopy (copyLand s cmd p.len false) k q

/-- COPY_PIECE_LAND (R193): a piece of a CPY is read at its home and written into the scratchpad; words marked uncorrectable stay so. -/
def execCopyPieceLand (k q off : Nat) (s : State) : Event :=
  match copyHead s k q with
  | none => .next s
  | some cmd => match pieceOf cmd off with
    | none => .next s
    | some p =>
      let key := AMap.getD cmd.pages off 0
      if cmd.op ≠ .cpy ∨ !clearBefore (coreAt s k) cmd.mark (key / 128) then .next s
      else match engineRead s k key p.len with
        | none => .next s
        | some (bs, bad, s) =>
          let mark := fun (c : Core) (w : Nat) => if key / 4 ≤ w ∧ w < (key + p.len) / 4 then viewMark c cmd.view (p.sp + 4 * (w - key / 4)) 4 else c
          let s := s.modCore k fun c => bad.foldl mark (viewPut c cmd.view p.sp bs)
          .next (landPiece s k q cmd p)

/-- The 16-byte units of a piece, by place, that a higher row of its command has not already supplied; rows begin and end at multiples of 16. -/
def ownUnits (cmd : Command) (p : Piece) : List Nat :=
  let c := copyOf cmd.group
  let later := ((List.range cmd.chunked).flatMap fun j => c.pieces j).filter fun r => decide (p.row < r.row) && (decide (r.off < 4096 * (cmd.chunked - 1)) || cmd.landed.contains r.off)
  (List.range (p.len / 16)).filter fun u => !later.any fun r => decide (r.va.toNat ≤ p.va.toNat + 16 * u) && decide (p.va.toNat + 16 * u < r.va.toNat + r.len)

/-- COPYO_PIECE_ACK (R193): a piece of a CPYO is read from the scratchpad, performed at its home and acknowledged; the core's sectors of it
leave the L1. -/
def execCopyoPieceAck (k q off : Nat) (s : State) : Event :=
  match copyHead s k q with
  | none => .next s
  | some cmd => match pieceOf cmd off with
    | none => .next s
    | some p =>
      let key := AMap.getD cmd.pages off 0
      if cmd.op ≠ .cpyo ∨ keyHeld s key ∨ !clearBefore (coreAt s k) cmd.mark (key / 128) then .next s
      else
        let bs := viewBytes (coreAt s k) cmd.view p.sp p.len
        let bad := viewBad (coreAt s k) cmd.view p.sp p.len
        let units := ownUnits cmd p
        let lanes := units.map fun u => { lane := 0, pa := key + 16 * u, size := 16, val := BitVec.ofNat 128 (leNat ((bs.drop (16 * u)).take 16)) : LaneAcc }
        let words := ((List.range (p.len / 4)).filter fun j => bad / 2 ^ j % 2 = 1 && units.contains (j / 4)).map (key / 4 + ·)
        let s := engineStore s k key cmd.did lanes words
        let s := s.modCore k fun c => (l1Drop c none fun sec => decide (key / 32 ≤ sec) && decide (sec ≤ (key + p.len - 1) / 32)).wrote cmd.did (key / 128)
        .next (landPiece s k q cmd p)

end Sys2Proof.Machine
end

