-- ==== Sys2Proof/Machine/Matrix.lean ====
section
/-! DEFINITION. Sys2Proof/Machine/Matrix.lean: the matrix engine (R249 to R261, R271, R272, R275 to R281): opcodes 0x92 to 0x9A at issue, and the
steps in which the operations of mq run. -/

namespace Sys2Proof.Machine

/-! ## Batches at issue (R250 to R253) -/

/-- Restored state with neither an open batch nor waiting operations: the domain's next batch finds it (DESIGN CHOICE, log entry 94: R311 speaks of an
open batch only). -/
def Reopen.idle (r : Reopen) : Bool := r.matrix.batch.isNone && r.mq.isEmpty

/-- Restored state that a gang's domain has waiting on its core. -/
def waitingState (x : Ctx) (idle : Bool) : Option Reopen := x.s.reopen.find? fun r => decide (r.core = x.k) && decide (r.matrix.did = x.did) && (r.idle == idle)

/-- Matrix instructions of a gang are held while another warp's batch is open, or its domain's saved batch waits to be reopened (R252, R311). -/
def batchHeld (x : Ctx) : Bool :=
  (match x.c.matrix.batch with | some b => !(decide (b.w = x.w) && decide (b.warpAge = x.wp.age)) | none => false) || (waitingState x false).isSome

/-- The saved matrix state of a domain put into an engine: its numbers follow those that the engine has given, its contents replace the
engine's, which are set aside (R311). -/
def Matrix.reopen (m r : Matrix) : Matrix :=
  let n := m.batches + 1
  let old := AMap.put m.aside m.seg m.toContents
  let renumber := fun (b : Batch) => { b with serial := n + b.serial }
  { m with toContents := r.toContents, seg := n + r.seg, aside := r.aside.foldl (fun a (i, t) => AMap.put a (n + i) t) old, batch := r.batch.map renumber,
           runs := r.runs.map renumber ++ m.runs, batches := n + r.batches, issueDid := r.issueDid, issueSeg := n + r.issueSeg, issuedNkb := r.issuedNkb,
           issuedEpi := r.issuedEpi }

/-- The matrix state at issue with the gang's batch open: restored state of the domain is taken up; a batch of another domain forgets what was issued
(R253). -/
def openBatch (x : Ctx) : Matrix × Nat :=
  let m := x.c.matrix
  match m.batch with
  | some b => (m, b.serial)
  | none =>
    let m := match waitingState x true with
      | some r => m.reopen r.matrix
      | none => if m.issueDid = x.did then m else { m with issueDid := x.did, issuedNkb := none, issuedEpi := 0x0A00, issueSeg := m.batches + 1 }
    ({ m with batches := m.batches + 1, batch := some { serial := m.batches + 1, w := x.w, warpAge := x.wp.age, did := x.did } }, m.batches + 1)

/-- The matrix state at issue of an MFENCE: with no batch open it closes an empty one, which opens nothing (R252). -/
def closeBatch (x : Ctx) : Matrix × Nat :=
  let m := x.c.matrix
  match m.batch with
  | some b => ({ m with batch := none }, b.serial)
  | none => ({ m with batches := m.batches + 1 }, m.batches + 1)

/-- The state in which the operation that opens a batch has taken up its domain's restored state (R311). -/
def takeUp (x : Ctx) (op : EngineOp) : State :=
  match (if op = .mfence || x.c.matrix.batch.isSome then none else waitingState x true) with
  | some r => { x.s.modCore x.k fun c => c.taint x.did [.matrix] with reopen := x.s.reopen.erase r }
  | none => x.s

/-- An operation enters mq (R251): engine mask, counter and queue, then the batch and the command. -/
def enterMq (x : Ctx) (f : Form) (op : EngineOp) (group : List Word) (barrier : Option Nat) (after : Matrix → Matrix) : Except Stop State := do
  need ((queueMask x.c x.did).testBit 2) engineFault
  needCount x .ec
  if 64 ≤ x.c.mq.length then .error (.hold .queueFull)
  let (m, serial) := if op = .mfence then closeBatch x else openBatch x
  let cmd : Command := { id := x.c.nextId, op := op, core := x.k, w := x.w, warpAge := x.wp.age, did := x.did, batch := serial, seg := m.issueSeg, group := group,
                         view := x.wp.view, barrier := barrier }
  let s := (takeUp x op).modCore x.k fun c => { c with mq := c.mq ++ [cmd], nextId := c.nextId + 1, matrix := after m }
  return retire x f (s.modWarp x.k x.w fun wp => wp.countUp .ec)

/-- The form of an mq instruction: it acts once per gang. -/
def mqForm (op : Nat) (classes : Bool) (reads : List (Reg × Nat)) : Form :=
  { op := op, classes := classes, guard := false, once := true, more := reads }

/-- The checks of R38, then the hold of R252. -/
def checkMq (x : Ctx) (f : Form) : Except Stop Unit := do
  check x f
  if batchHeld x then .error (.hold .batch)

/-- MLDB (R254). -/
def execMldb (a : Reg) (s : State) : Host.Outcome State Fault Refusal :=
  run s fun x => do
    let f := mqForm 0x92 (groupReg a 60) (groupReads a 3)
    checkMq x f
    let ws := (List.range 3).map (groupWord x a)
    let l ← checkLayout x (ws.getD 0 0) (ws.getD 1 0) (ws.getD 2 0) (List.range 16)
    enterMq x f .mldb ws none fun m => { m with issuedNkb := some l.nkb }

/-- MMAC (R254). -/
def execMmac (set : BitVec 8) (a : Reg) (s : State) : Host.Outcome State Fault Refusal :=
  run s fun x => do
    let f := mqForm 0x93 (groupReg a 60 && decide (set.toNat < 2)) (groupReads a 3)
    checkMq x f
    let ws := (List.range 3).map (groupWord x a)
    let l ← checkLayout x (ws.getD 0 0) (ws.getD 1 0) (ws.getD 2 0) (List.range 32)
    need (decide ((openBatch x).1.issuedNkb = some l.nkb)) illegal
    enterMq x f (.mmac set.toNat) ws none id

/-- Bits of an output type; none for a code that names none (R256). -/
def outType (code : Nat) : Option EType := (etypeOf code).filter fun t => !t.is64

/-- Output bytes of n elements (R258). -/
def outBytes (t : EType) (n : Nat) : Nat := ceilDiv (n * t.width) 8

/-- The bytes of the rows that an MRD writes. -/
def mrdRanges (t : EType) (o st : Nat) : List (Nat × Nat) := (List.range 32).map fun r => (o + r * st, outBytes t 16)

/-- MRD (R258): checked against the epilogue that will be in force. -/
def execMrd (clr set : Bool) (a : Reg) (s : State) : Host.Outcome State Fault Refusal :=
  run s fun x => do
    let f := mqForm 0x94 (groupReg a 62) (groupReads a 2)
    checkMq x f
    let w0 := groupWord x a 0
    let w1 := groupWord x a 1
    let o := bitsW w0 19 0
    let st := bitsW w1 15 0
    let t := (outType (bitsW (openBatch x).1.issuedEpi 12 8)).getD .f32
    need (decide (bitsW w0 31 20 = 0) && decide (bitsW w1 31 16 = 0)) illegal
    need (decide (o % 4 = 0)) (misaligned o)
    need (decide (st % 4 = 0)) (misaligned st)
    need (decide (outBytes t 16 ≤ st)) illegal
    checkRanges x (mrdRanges t o st)
    enterMq x f (.mrd (if set then 1 else 0) clr) [w0, w1] none id

/-- MZERO. -/
def execMzero (n : BitVec 16) (s : State) : Host.Outcome State Fault Refusal :=
  run s fun x => do
    let f := mqForm 0x95 (decide (1 ≤ n.toNat) && decide (n.toNat ≤ 3)) []
    checkMq x f
    enterMq x f (.mzero n.toNat) [] none id

/-- MANCH. -/
def execManch (set : BitVec 8) (a : Reg) (s : State) : Host.Outcome State Fault Refusal :=
  run s fun x => do
    let f := mqForm 0x96 (decide (1 ≤ set.toNat) && decide (set.toNat ≤ 3) && Reg.unif a) [(a, 1)]
    checkMq x f
    let v := (x.rd 0 a).toInt
    need (decide (-512 ≤ v) && decide (v ≤ 511)) illegal
    enterMq x f (.manch set.toNat v) [] none id

/-- The words that a source of EPI reads: 16 per column, 32 per row (R256). -/
def epiSource (x : Ctx) (perRow : Bool) (a : Word) : Except Stop Unit := do
  need (decide (a.toNat % 4 = 0)) { cause := 0x0A, addr := a.setWidth 64 }
  need (viewOk x.k x.c x.wp.view a.toNat (if perRow then 128 else 64)) { cause := 0x09, detail := 1, addr := a.setWidth 64 }

/-- EPI (R256). -/
def execEpi (a : Reg) (s : State) : Host.Outcome State Fault Refusal :=
  run s fun x => do
    let f := mqForm 0x97 (groupReg a 58) (groupReads a 5)
    checkMq x f
    let w := groupWord x a 0
    need (decide (bitsW w 31 17 = 0) && decide (bitsW w 15 13 < 5) && (outType (bitsW w 12 8)).isSome && decide (bitsW w 2 1 < 3)) illegal
    if w.getLsbD 0 && bitsW w 2 1 ≠ 0 then epiSource x (decide (bitsW w 2 1 = 2)) (groupWord x a 1)
    if w.getLsbD 3 then epiSource x (w.getLsbD 4) (groupWord x a 2)
    enterMq x f .epi ((List.range 5).map (groupWord x a)) none fun m => { m with issuedEpi := w }

/-- MFENCE (R259): closes the batch at issue. -/
def execMfence (a : Reg) (s : State) : Host.Outcome State Fault Refusal :=
  run s fun x => do
    let f := mqForm 0x98 (Reg.unif a) [(a, 1)]
    checkMq x f
    let o ← barrierWord x (x.rd 0 a)
    enterMq x f .mfence [x.rd 0 a] o id

/-- MTEST (R260). -/
def execMtest (s : State) : Host.Outcome State Fault Refusal :=
  run s fun x => do
    let f := mqForm 0x99 true []
    checkMq x f
    enterMq x f .mtest [] none id

/-- MSTAT (R261). -/
def execMstat (d : Reg) (n : BitVec 16) (s : State) : Host.Outcome State Fault Refusal :=
  run s fun x => do
    let f : Form := { mqForm 0x9A (Reg.sz d && decide (n.toNat < 3)) [] with writes := [(d, 1)], lat := 4 }
    check x f
    let m := x.c.matrix
    let own := match m.batch with | some b => decide (b.w = x.w) && decide (b.warpAge = x.wp.age) | none => false
    let engine := m.fenced.toNat + (if m.batch.isSome then 256 else 0) + (if own then 512 else 0) + min 127 x.c.mq.length * 65536
    let v := if n.toNat = 2 then engine else x.wp.mstat.toNat
    let wp := x.wp.dstS d 1 v
    return retire x f (x.setWarp (if n.toNat = 1 then { wp with mstat := 0 } else wp))

/-! ## Running mq -/

/-- A command that stands before another in mq does not hold it back: a marker, or an operation of another domain that a marker of its
domain holds (R208, R252). -/
def mqPassed (c : Core) (d q : Command) : Bool :=
  d.marks || (decide (d.did ≠ q.did) && !pastMarks c.mq d)

/-- The operation of mq that runs next. -/
def mqHead (c : Core) : Option Command :=
  if c.asleep.contains .matrix || c.scrubbing.contains .matrix then none
  else c.mq.find? fun q => !q.marks && pastMarks c.mq q && !domainHalted c q.did && (c.mq.takeWhile fun d => decide (d ≠ q)).all fun d => mqPassed c d q

/-- Segments whose contents something will still find: those of operations in mq, and that of the batch issued last. -/
def Matrix.needed (m : Matrix) (mq : List Command) (n : Nat) : Bool := decide (m.issueSeg = n) || mq.any fun q => decide (q.seg = n) && !q.marks

/-- The engine turns to a segment: its contents are brought in, reset where it begins, and those it had are set aside (R253). -/
def Matrix.turn (m : Matrix) (did : BitVec 16) (seg : Nat) : Matrix :=
  if seg = m.seg then m
  else { m with toContents := AMap.getD m.aside seg { did := did }, seg := seg, aside := AMap.put (AMap.del m.aside seg) m.seg m.toContents }

/-- The engine as an operation finds it. An MFENCE touches no contents. -/
def enterRun (m : Matrix) (q : Command) : Matrix := if q.op = .mfence then m else m.turn q.did q.seg

/-- What is kept of the batches that ran, and of contents set aside. -/
def Matrix.prune (m : Matrix) (mq : List Command) : Matrix :=
  { m with aside := m.aside.filter fun (n, _) => m.needed mq n,
           runs := m.runs.filter fun b => m.batch.any (fun o => decide (o.serial = b.serial)) || mq.any fun q => decide (q.batch = b.serial) && !q.marks }

/-- The record of a batch that runs (R281). -/
def Matrix.runOf (m : Matrix) (serial : Nat) : Option Batch := m.runs.find? fun b => decide (b.serial = serial)

/-- Change the record of a command's batch, which begins with it when there is none. -/
def Matrix.modRun (m : Matrix) (q : Command) (f : Batch → Batch) : Matrix :=
  { m with runs := if (m.runOf q.batch).isSome then mapIf (fun b => decide (b.serial = q.batch)) f m.runs
                   else f { serial := q.batch, w := q.w, warpAge := q.warpAge, did := q.did } :: m.runs }

/-- An operation takes effect and completes: it leaves mq and ec counts down (R251). The contents of another domain have been reset, and with them
the engine's taint is gone (R253, R327). -/
def completeMq (s : State) (k : Nat) (q : Command) (f : Core → Matrix → Matrix) : State :=
  let s := s.modCore k fun c =>
    let mq := c.mq.filter fun d => decide (d.id ≠ q.id) || d.marks
    let m := enterRun c.matrix q
    let c := if m.did = c.matrix.did then c else { c with tainted := c.tainted.filter fun u => decide (u ≠ .matrix) }
    { c.taint q.did [.matrix] with matrix := (f c m).prune mq, mq := mq }
  countDownAt s k q.w q.warpAge .ec

/-- The event of an operation at the head of mq, if it is of the kind. -/
def mqEvent (k : Nat) (s : State) (f : Command → Option State) : Event :=
  match mqHead (coreAt s k) with
  | none => .next s
  | some q => match f q with
    | some s' => .next s'
    | none => .next s

/-- The layout of a queued command. -/
def Command.layout (q : Command) : Layout := layoutOf (q.group.getD 0 0) (q.group.getD 1 0) (q.group.getD 2 0)

/-- The 16 columns that MLDB makes stationary (R254, R277). -/
def loadB (c : Core) (q : Command) : Stationary :=
  let l := q.layout
  let blocks := (List.range 16).map fun r => (List.range l.nkb).map fun j => tileBlock c q.view l r j
  { fmt := l.fmt, nkb := l.nkb, exps := blocks.map fun bs => bs.map Prod.fst, mants := blocks.map fun bs => bs.flatMap Prod.snd }

/-- MLDB_RUN (R254). -/
def execMldbRun (k : Nat) (s : State) : Event :=
  mqEvent k s fun q => if q.op = .mldb then some (completeMq s k q fun c m => { m with b := some (loadB c q) }) else none

/-- The anchor steps of addterm: the anchor that holds v × 2^e (R254). -/
def stepAnchor : Nat → Int → Int → Int → Int
  | 0, _, _, a => a
  | n + 1, v, e, a =>
    let bound : Int := ((2 ^ (255 + (a - 223) - e).toNat : Nat) : Int)
    if decide (v < -bound) || decide (bound ≤ v) then stepAnchor n v e (a + 32) else a

/-- addterm (R254): the term t × 2^k. -/
def Acc.addTerm (q : Acc) (t k : Int) : Acc :=
  if t = 0 then q
  else
    let a0 := q.anchor.getD ((Nat.log2 t.natAbs : Int) + k)
    let (v, e) := dyAdd q.a (a0 - 223) t k
    let a := stepAnchor 64 v e a0
    let u : Int := ((2 ^ (a - 223 - e).toNat : Nat) : Int)
    { q with a := v / u, anchor := some a, below := q.below || decide (v % u ≠ 0), span := q.span || decide (a ≠ a0) }

/-- The product sum of two blocks. -/
def dotBlock (xs ys : List Int) : Int := (xs.zip ys).foldl (fun acc (x, y) => acc + x * y) 0

/-- One cell of MMAC (R254). -/
def mmacCell (arow : List (Nat × List Int)) (bexp : List Nat) (bmant : List Int) (q : Acc) : Acc :=
  (List.range arow.length).foldl (fun q j =>
    let (ea, ma) := arow.getD j (0, [])
    let eb := bexp.getD j 0
    if ea = 255 ∨ eb = 255 then { q with nan := true }
    else q.addTerm (dotBlock ma ((bmant.drop (32 * j)).take 32)) ((ea : Int) + eb - 254)) q

/-- MMAC over the 32 × 16 cells of a set. -/
def mmacSet (c : Core) (q : Command) (b : Stationary) (acc : AMap Acc) : AMap Acc :=
  (List.range 32).foldl (fun acc r =>
    let arow := (List.range q.layout.nkb).map fun j => tileBlock c q.view q.layout r j
    (List.range 16).foldl (fun acc col =>
      AMap.putD acc (16 * r + col) (mmacCell arow (b.exps.getD col []) (b.mants.getD col []) (AMap.getD acc (16 * r + col) {})) {}) acc) acc

/-- Change one accumulator set. -/
def Matrix.modSet (m : Matrix) (set : Nat) (f : AMap Acc → AMap Acc) : Matrix := if set = 0 then { m with acc0 := f m.acc0 } else { m with acc1 := f m.acc1 }

/-- MMAC_RUN (R254, R280, R281): with every sub-array fenced it changes no accumulator and its batch carries the error flag. -/
def execMmacRun (k : Nat) (s : State) : Event :=
  mqEvent k s fun q => match q.op with
    | .mmac set => some (completeMq s k q fun c m =>
      if m.fenced = 0xFF then m.modRun q fun b => { b with flag := true }
      else
        let m := m.modRun q fun b => { b with used := b.used ||| ~~~m.fenced }
        match m.b with
        | some b => m.modSet set (mmacSet c q b)
        | none => m)
    | _ => none

/-- Every accumulator of a set reset, to no anchor or to a given one. -/
def zeroSet (anchor : Option Int) (acc : AMap Acc) : AMap Acc :=
  match anchor with
  | none => []
  | some a => (List.range 512).foldl (fun acc i => AMap.put acc i { anchor := some a }) (acc.filter fun _ => false)

def zeroSets (m : Matrix) (mask : Nat) (anchor : Option Int) : Matrix :=
  let m := if mask % 2 = 1 then m.modSet 0 (zeroSet anchor) else m
  if mask / 2 % 2 = 1 then m.modSet 1 (zeroSet anchor) else m

/-- MZERO_RUN (R254). -/
def execMzeroRun (k : Nat) (s : State) : Event :=
  mqEvent k s fun q => match q.op with
    | .mzero mask => some (completeMq s k q fun _ m => zeroSets m mask none)
    | _ => none

/-- MANCH_RUN (R254). -/
def execManchRun (k : Nat) (s : State) : Event :=
  mqEvent k s fun q => match q.op with
    | .manch mask a => some (completeMq s k q fun _ m => zeroSets m mask (some a))
    | _ => none

/-- EPI_RUN (R256, R278). -/
def execEpiRun (k : Nat) (s : State) : Event :=
  mqEvent k s fun q => if q.op = .epi then some (completeMq s k q fun _ m => { m with epi := q.group, epiView := q.view }) else none

/-! ## The epilogue (R257, R272) -/

/-- A stage value: a NaN, an infinity, or v × 2^e with an infinitesimal of sign eps. -/
inductive EpiVal where
  | nan
  | inf (neg : Bool)
  | num (v e eps : Int)
deriving DecidableEq, Repr

def epiOf (x : Nat) : EpiVal :=
  match fValue .f32 x with
  | .nan => .nan
  | .inf neg => .inf neg
  | .num s n e => .num (signed s n) e 0

/-- Sign of v × 2^e + eps. -/
def epiSign (v eps : Int) : Int := if v ≠ 0 then Int.sign v else Int.sign eps

/-- An accumulator's value (R272). -/
def Acc.value (q : Acc) : EpiVal :=
  if q.nan then .nan else match q.anchor with
    | none => .num 0 0 0
    | some a => .num q.a (a - 223) (if q.below then 1 else 0)

/-- Stage 1. -/
def epiScale : EpiVal → EpiVal → EpiVal
  | .nan, _ | _, .nan => .nan
  | .inf a, .inf b => .inf (a != b)
  | .inf a, .num v _ eps => if epiSign v eps = 0 then .nan else .inf (a != decide (epiSign v eps < 0))
  | .num v _ eps, .inf b => if epiSign v eps = 0 then .nan else .inf (b != decide (epiSign v eps < 0))
  | .num v e eps, .num w f _ => if w = 0 then .num 0 0 0 else .num (v * w) (e + f) (eps * Int.sign w)

/-- Stage 2. -/
def epiBias : EpiVal → EpiVal → EpiVal
  | .nan, _ | _, .nan => .nan
  | .inf a, .inf b => if a = b then .inf a else .nan
  | .inf a, _ | _, .inf a => .inf a
  | .num v e eps, .num w f _ => let (u, g) := dyAdd v e w f; .num u g eps

/-- The number that rounding sees: an infinitesimal alone is smaller than any value of the formats. -/
def epiExact (v e eps : Int) : Exact := if v = 0 then { neg := decide (eps < 0), n := 1, e := -3000 } else exactOf v e 1 eps

/-- x rounded to f32 by RNE, as bits. -/
def epiF32 : EpiVal → Nat
  | .nan => EType.qnan .f32
  | .inf neg => fSign .f32 neg 0x7F800000
  | .num v e eps => if epiSign v eps = 0 then 0 else fFinish .f32 { rm := 0, sat := false, ftz := false } (.val (epiExact v e eps))

/-- The f32 value that an activation gives. -/
def ofFRes : FRes → EpiVal
  | .bits x => epiOf x
  | .invalid => .nan
  | .inf neg => .inf neg
  | .zero _ => .num 0 0 0
  | .val x => .num (signed x.neg x.n) x.e 0

/-- Stage 3. -/
def epiAct (act : Nat) (x : EpiVal) : EpiVal :=
  match act with
  | 0 => x
  | 1 => (match x with
    | .inf true => .num 0 0 0
    | .num v e eps => if epiSign v eps < 0 then .num 0 0 0 else .num v e eps
    | x => x)
  | n => (match x with
    | .nan => .nan
    | x => ofFRes (actElem (decide (n = 3)) (epiF32 x)))

/-- x < y for stage values that are not NaN. -/
def epiLess : EpiVal → EpiVal → Bool
  | .nan, _ | _, .nan => false
  | .inf a, .inf b => a && !b
  | .inf a, _ => a
  | _, .inf b => !b
  | .num v e eps, .num w f del => let (u, _) := dyAdd v e (-w) f; decide (epiSign u (eps - del) < 0)

/-- Stage 4: min(max(x, lo), hi); a NaN bound is not applied. -/
def epiClamp (lo hi x : EpiVal) : EpiVal :=
  if x = .nan then .nan
  else
    let x := if lo ≠ .nan && epiLess x lo then lo else x
    if hi ≠ .nan && epiLess hi x then hi else x

/-- Stage 5, with the status bits NaN (16) and overflow (32) of the cell. An exact zero converts to +0 as R257 says of the readout (DEDUCED, log
entry 19: R274's rule for sums would make a cancelled one −0 under rounding toward −∞). -/
def epiConvert (t : EType) (rm : Nat) (sat : Bool) : EpiVal → Nat × Nat
  | .nan => (if t.isInt then 0 else t.qnan, 16)
  | .inf neg =>
    let r := convReal t { rm := rm, sat := sat, ftz := false } (.inf neg)
    (r, if !t.isInt && t.infBits.isSome && r = fSign t neg (t.infBits.getD 0) then 0 else 32)
  | .num v e eps =>
    if epiSign v eps = 0 then (0, 0)
    else
      let x := epiExact v e eps
      let big := if t.isInt then decide (satInt t (roundInt rm x) ≠ roundInt rm x) else decide (t.maxFinite < roundMag t rm x)
      (convReal t { rm := rm, sat := sat, ftz := false } (.val x), if big then 32 else 0)

/-- The f32 operand of a source for a cell: uniform, per column or per row. -/
def epiOperand (c : Core) (m : Matrix) (src : Nat) (i : Nat) (row col : Nat) : EpiVal :=
  let a := (m.epi.getD i 0).toNat
  match src with
  | 0 => epiOf a
  | 1 => epiOf (scratchNat c (m.epiView.at (a + 4 * col)) 4)
  | _ => epiOf (scratchNat c (m.epiView.at (a + 4 * row)) 4)

/-- The output of one cell and its status bits (R257, R258). -/
def mrdCell (c : Core) (m : Matrix) (row col : Nat) (q : Acc) : Nat × Nat :=
  let w := m.epi.getD 0 0
  let t := (outType (bitsW w 12 8)).getD .f32
  let x := q.value
  let x := if w.getLsbD 0 then epiScale x (epiOperand c m (bitsW w 2 1) 1 row col) else x
  let x := if w.getLsbD 3 then epiBias x (epiOperand c m (if w.getLsbD 4 then 2 else 1) 2 row col) else x
  let x := epiAct (bitsW w 6 5) x
  let x := if w.getLsbD 7 then epiClamp (epiOf (m.epi.getD 3 0).toNat) (epiOf (m.epi.getD 4 0).toNat) x else x
  let (r, st) := epiConvert t (bitsW w 15 13) (w.getLsbD 16) x
  (r, st + (if q.below || q.span then 8 else 0))

/-- The bytes of a row of outputs (R258): 16 elements in ascending places. -/
def rowBytes (t : EType) (vals : List Nat) : List Byte :=
  natLe (outBytes t 16) ((List.range 16).foldl (fun acc i => acc + vals.getD i 0 % 2 ^ t.width * 2 ^ (t.width * i)) 0)

/-- MRD_RUN (R257, R258): outputs into the scratchpad, the warp's status, and the reset of the set when asked. -/
def execMrdRun (k : Nat) (s : State) : Event :=
  mqEvent k s fun q => match q.op with
    | .mrd set clr =>
      let c := coreAt s k
      let m := enterRun c.matrix q
      let acc := if set = 0 then m.acc0 else m.acc1
      let t := (outType (bitsW (m.epi.getD 0 0) 12 8)).getD .f32
      let o := bitsW (q.group.getD 0 0) 19 0
      let st := bitsW (q.group.getD 1 0) 15 0
      let rows := (List.range 32).map fun r => (List.range 16).map fun col => mrdCell c m r col (AMap.getD acc (16 * r + col) {})
      let status := rows.foldl (fun a cells => cells.foldl (fun a p => a ||| p.2) a) 0
      let s := s.modCore k fun c => (List.range 32).foldl (fun c r => viewPut c q.view (o + r * st) (rowBytes t ((rows.getD r []).map Prod.fst))) c
      let s := s.modWarp k q.w fun wp => if wp.age = q.warpAge then { wp with mstat := wp.mstat ||| BitVec.ofNat 6 status } else wp
      some (completeMq s k q fun _ m => if clr then m.modSet set fun _ => [] else m)
    | _ => none

/-! ## Self-test and fences (R259, R260, R279 to R281) -/

/-- MTEST_RUN (R260): the unfenced sub-arrays that fail are fenced. -/
def execMtestRun (k : Nat) (fails : BitVec 8) (s : State) : Event :=
  mqEvent k s fun q => if q.op = .mtest then some (completeMq s k q fun _ m =>
    let new := fails &&& ~~~m.fenced
    let hit := decide (new &&& ((m.runOf q.batch).map Batch.used).getD 0 ≠ 0)
    let m := { m with fenced := m.fenced ||| new }
    if hit then m.modRun q fun b => { b with flag := true } else m) else none

/-- The first unfenced sub-array from a place on, round the array. -/
def nextUnfenced (fenced : BitVec 8) (p : Nat) : Option Nat := ((List.range 8).map fun i => (p + i) % 8).find? fun i => !fenced.getLsbD i

/-- The sequencer tests the sub-array at the pointer and moves the pointer on (R279, R280). -/
def selfTest (m : Matrix) (fail : Bool) : Matrix :=
  match nextUnfenced m.fenced m.pointer with
  | none => m
  | some p =>
    let fenced := if fail then m.fenced ||| BitVec.ofNat 8 (2 ^ p) else m.fenced
    { m with fenced := fenced, pointer := (nextUnfenced fenced (p + 1)).getD p }

/-- MFENCE_RUN (R259, R281): the self-test after the batch, then the arrival. -/
def execMfenceRun (k : Nat) (fail : Bool) (s : State) : Event :=
  mqEvent k s fun q => if q.op = .mfence then
      let m := (coreAt s k).matrix
      let tested := (nextUnfenced m.fenced m.pointer).isSome
      let err := (m.runOf q.batch).any fun b => b.flag || (tested && fail && decide (b.used ≠ 0))
      let s := completeMq s k q fun _ m => selfTest m fail
      some (match q.barrier with
        | some o => engineArrive s k o err
        | none => s)
    else none

/-- SCRUB_MATRIX_RUN (R289): the matrix state is reset. -/
def execScrubMatrixRun (k : Nat) (s : State) : Event :=
  mqEvent k s fun q => if q.op = .scrubMatrix then some (completeMq s k q fun _ m => { m with toContents := { did := q.did } }) else none

/-- SELF_TEST_IDLE (R279): after 256 cycles with no batch open and mq empty. -/
def execSelfTestIdle (k : Nat) (fail : Bool) (s : State) : Event :=
  let c := coreAt s k
  if c.matrix.batch.isSome ∨ !c.mq.isEmpty ∨ c.matrix.idle < 256 then .next s
  else .next (s.modCore k fun c => { c with matrix := { selfTest c.matrix fail with idle := 0 } })

/-- One cycle of the sequencer's idle count (R279). -/
def Core.idleTick (c : Core) : Core :=
  { c with matrix := { c.matrix with idle := if c.matrix.batch.isSome || !c.mq.isEmpty then 0 else min 256 (c.matrix.idle + 1) } }

/-- A domain's contents and what it issued last are forgotten: the scrub of a protected domain's state, or the unit's (R310, R326, R328). -/
def Matrix.scrubOf (m : Matrix) (did : BitVec 16) : Matrix :=
  let m := { m with aside := m.aside.filter fun (_, t) => decide (t.did ≠ did) }
  let m := if m.did = did then { m with toContents := { did := did } } else m
  if m.issueDid = did then { m with issuedNkb := none, issuedEpi := 0x0A00 } else m

/-- The engine scrubbed as a unit (R325, R327). -/
def Matrix.scrubAll (m : Matrix) : Matrix :=
  { m with toContents := { did := m.did }, aside := m.aside.map fun (i, t) => (i, { did := t.did }), issuedNkb := none, issuedEpi := 0x0A00 }

end Sys2Proof.Machine
end

