-- ==== Sys2Proof/Machine/Supervise.lean ====
section
/-! DEFINITION. Sys2Proof/Machine/Supervise.lean: the supervisor instructions of the service and firmware cores and BRK (R302 to R308), opcodes 0xC0 to
0xC8 and 0xCC to 0xCF, with the steps that complete them: CSRs (R126, R304, R333, R412), translation buffers (R306), domain slots (R315, R316, R328). -/

namespace Sys2Proof.Machine

/-! ## Selectors (R303) -/

/-- A selector: its low field, and the compute core that it names. -/
def selectorOf (x : Ctx) (v : Word) (dpre : Bool) : Except Stop (Nat × Option Nat) := do
  let named := v.getLsbD 20
  let slice := bitsW v 25 21
  need (decide (bitsW v 31 26 = 0) && decide (bitsW v 15 12 = 0)) illegal
  need (!named || (partAt x.s x.part).slices.contains slice) illegal
  need (!dpre || (decide (bitsW v 11 0 = 0) && (named || decide (bitsW v 25 16 = 0)))) illegal
  return (bitsW v 11 0, if named then some (16 * slice + bitsW v 19 16) else none)

/-- The compute core and the domain slot that a selector names. -/
def slotSelector (x : Ctx) (v : Word) : Except Stop (Nat × Nat) := do
  let (n, k) ← selectorOf x v false
  match k with
  | none => .error (.trap illegal)
  | some k =>
    need (decide (n < 8)) illegal
    return (k, n)

/-! ## CSRs (R304) -/

/-- A CSR of a compute core. -/
def csrCompute (n : Nat) : Bool := n = 0 || (8 ≤ n && n ≤ 15) || (0x40 ≤ n && n ≤ 0x43) || n = 0x50
/-- A CSR of a service or firmware core. -/
def csrLocal (n : Nat) : Bool := 0x10 ≤ n && n ≤ 0x1A

/-- The core and the number of the CSR that a selector names. -/
def csrTarget (x : Ctx) (v : Word) : Except Stop (Nat × Nat) := do
  let (n, k) ← selectorOf x v false
  match k with
  | some k =>
    need (csrCompute n) illegal
    return (k, n)
  | none =>
    need (csrLocal n) illegal
    return (x.k, n)

/-- The 32-bit value of a CSR. -/
def csrRead (c : Core) (n : Nat) : Word :=
  if n = 0 then c.isctl
  else if 8 ≤ n ∧ n ≤ 15 then (AMap.getD c.slots (n - 8) {}).w0
  else if 0x40 ≤ n ∧ n ≤ 0x43 then (AMap.getD c.watch (n - 0x40) {}).reg
  else if n = 0x50 then c.dbgmb
  else match n with
    | 0x10 => w32 ((if c.svc.pie then 2 else 0) + if c.svc.ie then 1 else 0)
    | 0x11 => loW c.svc.tvec
    | 0x12 => hiW c.svc.tvec
    | 0x13 => loW c.svc.tepc
    | 0x14 => hiW c.svc.tepc
    | 0x15 => c.svc.tcause
    | 0x16 => loW c.svc.tval
    | 0x17 => hiW c.svc.tval
    | 0x18 => c.svc.ipend.setWidth 32
    | 0x19 => c.svc.ienable.setWidth 32
    | _ => c.svc.imsg

/-- Whether a CSR accepts a value (R126, R304, R333). -/
def csrAccepts (n : Nat) (v : Word) : Bool :=
  if n = 0 then decide (64 ≤ bitsW v 31 16) && decide (bitsW v 15 4 = 0) && !v.getLsbD 2 && decide (bitsW v 1 0 ≠ 3)
  else if 8 ≤ n ∧ n ≤ 15 then false
  else if n = 0x10 then decide (v.toNat < 4)
  else if n = 0x11 then decide (bitsW v 3 0 = 0)
  else n ≠ 0x1A

/-- What an instruction of kind 0 write, 1 set, 2 clear makes of an old value. -/
def csrNew (kind : Nat) (old b : Word) : Word := match kind with | 0 => b | 1 => old ||| b | _ => old &&& ~~~b

/-- The form of a CSR instruction. -/
def csrForm (op : Nat) (d a : Reg) (b : Option Reg) : Form :=
  { op := op, classes := Reg.sz d && Reg.unif a && (match b with | some r => Reg.unif r | none => true), guard := false, once := true,
    more := (a, 1) :: (match b with | some r => [(r, 1)] | none => []), writes := [(d, 1)] }

/-- CSRR (R304). -/
def execCsrr (d a : Reg) (s : State) : Host.Outcome State Fault Refusal :=
  run s fun x => do
    let f := csrForm 0xC0 d a none
    check x f
    let (k, n) ← csrTarget x (x.rd 0 a)
    return retire x f (x.setWarp (x.wp.dstS d 1 (csrRead (coreAt x.s k) n).toNat))

/-- A supervisor instruction that waits for its completion step (R302). -/
def superWait (x : Ctx) (f : Form) (op : SvcOp) : State :=
  beginWait x f (x.s.modCore x.k fun c => { c with svc := { c.svc with op := some op } }) .supervisor

/-- CSRW, CSRS, CSRC: checked at issue; the write is a step of its own. -/
def csrOp (op kind : Nat) (d a b : Reg) (s : State) : Host.Outcome State Fault Refusal :=
  run s fun x => do
    let f := csrForm op d a (some b)
    check x f
    let (k, n) ← csrTarget x (x.rd 0 a)
    need (csrAccepts n (csrNew kind (csrRead (coreAt x.s k) n) (x.rd 0 b))) illegal
    return superWait x f (.csr k n kind (x.rd 0 b) d)

/-- CSRW. -/
def execCsrw (d a b : Reg) (s : State) : Host.Outcome State Fault Refusal := csrOp 0xC1 0 d a b s
/-- CSRS. -/
def execCsrs (d a b : Reg) (s : State) : Host.Outcome State Fault Refusal := csrOp 0xC2 1 d a b s
/-- CSRC. -/
def execCsrc (d a b : Reg) (s : State) : Host.Outcome State Fault Refusal := csrOp 0xC3 2 d a b s

/-- The core after a CSR of it takes a value that it accepts. -/
def csrWrite (c : Core) (n : Nat) (v : Word) : Core :=
  match n with
  | 0x10 => { c with svc := { c.svc with pie := v.getLsbD 1, ie := v.getLsbD 0 } }
  | 0x11 => { c with svc := { c.svc with tvec := pairW v (hiW c.svc.tvec) } }
  | 0x12 => { c with svc := { c.svc with tvec := pairW (loW c.svc.tvec) v } }
  | 0x13 => { c with svc := { c.svc with tepc := pairW v (hiW c.svc.tepc) } }
  | 0x14 => { c with svc := { c.svc with tepc := pairW (loW c.svc.tepc) v } }
  | 0x15 => { c with svc := { c.svc with tcause := v &&& 0x8000FFFF } }
  | 0x16 => { c with svc := { c.svc with tval := pairW v (hiW c.svc.tval) } }
  | 0x17 => { c with svc := { c.svc with tval := pairW (loW c.svc.tval) v } }
  | 0x19 => { c with svc := { c.svc with ienable := v.setWidth 3 } }
  | 0x50 => { c with dbgmb := v }
  | _ => c

/-- The service or firmware core's one gang goes on after its supervisor instruction, with a value in field d (R302). -/
def superDone (s : State) (k : Nat) (d : Reg) (v : Nat) : State :=
  let s := s.modCore k fun c => { c with svc := { c.svc with op := none } }
  wake (s.modWarp k 0 fun wp => wp.dstS d 1 v) k 0 0

/-- The completion of a CSR instruction of a core whose CSR is one of some, with what the write does; a value that is no longer
accepted faults. -/
def csrEvent (k : Nat) (mine : Nat → Bool) (f : State → Nat → Nat → Word → State) (s : State) : Event :=
  match (coreAt s k).svc.op with
  | some (.csr t n kind b d) =>
    if !mine n then .next s
    else
      let old := csrRead (coreAt s t) n
      let v := csrNew kind old b
      if !csrAccepts n v then .next (faultWaiting (s.modCore k fun c => { c with svc := { c.svc with op := none } }) k 0 0 illegal)
      else .next (superDone (f s t n v) k d old.toNat)
  | _ => .next s

/-- ISCTL_WRITE (R126): the policy changes and every greedy hold ends. -/
def execIsctlWrite (k : Nat) (s : State) : Event :=
  csrEvent k (fun n => n = 0) (fun s t _ v => s.modCore t fun c => { c with isctl := v, greedy := [] }) s

/-- IPEND_WRITE (R333): bits written as zero clear. -/
def execIpendWrite (k : Nat) (s : State) : Event :=
  csrEvent k (fun n => n = 0x18) (fun s t _ v => s.modCore t fun c => { c with svc := { c.svc with ipend := c.svc.ipend &&& v.setWidth 3 } }) s

/-- What a watch register latches from the mailbox (R412); bits [23:0] of a write are ignored. -/
def latchWatch (s : State) (t i : Nat) (v : Word) : WatchReg :=
  let old := AMap.getD (coreAt s t).watch i {}
  let v := v &&& 0xFF000000
  if !v.getLsbD 31 then { old with reg := v }
  else match mailboxKey s t with
    | some a => { reg := v, addr := BitVec.ofNat 64 (memNat s (a + 16 + 8 * i) 8), did := BitVec.ofNat 16 (memNat s (a + 48 + 4 * i) 2) }
    | none => { reg := v }

/-- WATCH_REG_WRITE (R412). -/
def execWatchRegWrite (k : Nat) (s : State) : Event :=
  csrEvent k (fun n => 0x40 ≤ n && n ≤ 0x43)
    (fun s t n v => s.modCore t fun c => { c with watch := AMap.put c.watch (n - 0x40) (latchWatch s t (n - 0x40) v) }) s

/-- CSR_WRITE (R304): every other CSR. -/
def execCsrWrite (k : Nat) (s : State) : Event :=
  csrEvent k (fun n => (csrLocal n && n ≠ 0x18) || n = 0x50) (fun s t n v => s.modCore t fun c => csrWrite c n v) s

/-! ## TRET, WFI, SIPI (R305) -/

/-- TRET. A TEPC whose bits [3:2] are 00 names slot 0, so the control word is fetched as an instruction (DESIGN CHOICE, log entry 48: R15 and R305
do not say what runs there). -/
def execTret (s : State) : Host.Outcome State Fault Refusal :=
  run s fun x => do
    let f : Form := { op := 0xC4, guard := false, once := true }
    check x f
    return retireTo x f (x.s.modCore x.k fun c => { c with svc := { c.svc with ie := c.svc.pie } }) x.c.svc.tepc

/-- WFI. -/
def execWfi (s : State) : Host.Outcome State Fault Refusal :=
  run s fun x => do
    let f : Form := { op := 0xC5, guard := false, once := true }
    check x f
    if x.c.svc.ipend ≠ 0 then return retire x f x.s
    else return superWait x f .wfi

/-- WFI_WAKE: an interrupt is pending, enabled or not. -/
def execWfiWake (k : Nat) (s : State) : Event :=
  match (coreAt s k).svc.op with
  | some .wfi => if (coreAt s k).svc.ipend = 0 then .next s else .next (superDone s k .z 0)
  | _ => .next s

/-- The core that a SIPI target word names. -/
def sipiTarget (v : Word) : Nat := if v.getLsbD 7 then 640 + bitsW v 4 0 else 512 + 4 * bitsW v 4 0 + bitsW v 6 5

/-- A message reaches a core. -/
def deliverMsg (s : State) (t : Nat) (m : Word) : State := s.modCore t fun c => { c with svc := { c.svc with imsg := m, ipend := c.svc.ipend ||| 1 } }

/-- SIPI. -/
def execSipi (a b : Reg) (s : State) : Host.Outcome State Fault Refusal :=
  run s fun x => do
    let f : Form := { op := 0xC6, classes := Reg.unif a && Reg.unif b, guard := false, once := true, more := [(a, 1), (b, 1)] }
    check x f
    let v := x.rd 0 a
    need (decide (bitsW v 31 8 = 0) && (partAt x.s x.part).slices.contains (bitsW v 4 0)) illegal
    let t := sipiTarget v
    if (coreAt x.s t).svc.ipend.getLsbD 0 then return superWait x f (.sipi t (x.rd 0 b))
    else return retire x f (deliverMsg x.s t (x.rd 0 b))

/-- SIPI_DELIVER: the target has cleared its bit. -/
def execSipiDeliver (k : Nat) (s : State) : Event :=
  match (coreAt s k).svc.op with
  | some (.sipi t m) => if (coreAt s t).svc.ipend.getLsbD 0 then .next s else .next (superDone (deliverMsg s t m) k .z 0)
  | _ => .next s

/-! ## TLBI (R306) -/

/-- Every TLB and translation service of a partition removes some entries and refusals; walks that have begun are discarded. -/
def removeEntries (s : State) (p : Nat) (gone : TlbEntry → Bool) (drop : BitVec 16 → Nat → Bool) : State :=
  let s := (coresOfPart s p).foldl (fun s k => s.modCore k fun c =>
    { c with tlb := c.tlb.filter fun e => !gone e, refusals := c.refusals.filter fun r => !drop r.did r.page }) s
  (partAt s p).slices.foldl (fun s n => s.modSlice n fun sl =>
    { sl with service := sl.service.filter fun e => !gone e, misses := sl.misses.map fun m => { m with walking := false } }) s

/-- TLBI of some kind: fields a and b are used as the kind says. -/
def tlbi (a b : Option Reg) (s : State) : Host.Outcome State Fault Refusal :=
  run s fun x => do
    let f : Form := { op := 0xC7, classes := (match a with | some r => Reg.unif r | none => true) && (match b with | some r => Reg.spair r | none => true),
                      guard := false, once := true, more := (match a with | some r => [(r, 1)] | none => []) ++ (match b with | some r => [(r, 2)] | none => []) }
    check x f
    let didOk := fun (d : BitVec 16) => match a with | some r => decide (d.toNat = (x.rd 0 r).toNat) | none => true
    let gone := fun (e : TlbEntry) => didOk e.did && (match b with | some r => e.ofPage e.did (vaNat (x.rd64 0 r)) | none => true)
    let drop := fun (d : BitVec 16) (page : Nat) => didOk d && (match b with | some r => decide (page = pageOf (x.rd64 0 r)) | none => true)
    return retire x f (removeEntries x.s x.part gone drop)

/-- TLBI.ALL. -/
def execTlbiAll (s : State) : Host.Outcome State Fault Refusal := tlbi none none s
/-- TLBI.DOM. -/
def execTlbiDom (a : Reg) (s : State) : Host.Outcome State Fault Refusal := tlbi (some a) none s
/-- TLBI.VA. -/
def execTlbiVa (a b : Reg) (s : State) : Host.Outcome State Fault Refusal := tlbi (some a) (some b) s
/-- TLBI.VAALL. -/
def execTlbiVaall (b : Reg) (s : State) : Host.Outcome State Fault Refusal := tlbi none (some b) s

/-! ## Domain slots (R315, R316, R328) -/

/-- A warp that counts as a warp of a domain: launched by it, in force, or a caller of an open gate (R285). -/
def Warp.ofDomain (wp : Warp) (did : BitVec 16) : Bool := decide (wp.did = did) || decide (wp.didNow = did) || wp.frames.any fun fr => decide (fr.caller = did)

/-- The warps of a domain on a core. -/
def warpsOf (c : Core) (did : BitVec 16) : List (Nat × Warp) := c.warps.filter fun (_, wp) => wp.ofDomain did

/-- The image of a slot. -/
def slotImage (ws : List Word) : Slot :=
  { w0 := ws.getD 0 0, w1 := ws.getD 1 0, w2 := ws.getD 2 0, w3 := ws.getD 3 0, w4 := ws.getD 4 0, w5 := ws.getD 5 0, w6 := ws.getD 6 0, w7 := ws.getD 7 0 }

def Slot.gtab (sl : Slot) : Nat := (pairW sl.w4 sl.w5).toNat

/-- The zero fields of an image (R315). -/
def Slot.zeroOk (sl : Slot) : Bool :=
  decide (bitsW sl.w0 30 20 = 0) && decide (bitsW sl.w1 31 21 = 0) && decide (bitsW sl.w1 7 6 = 0) && decide (bitsW sl.w3 31 25 = 0)
  && decide (bitsW sl.w3 15 9 = 0) && decide (bitsW sl.w3 7 5 = 0)

/-- The register and warp slot counts of an image (R316 step 4). -/
def Slot.countsOk (sl : Slot) : Bool :=
  let rc := bitsW sl.w1 15 8
  let resv := bitsW sl.w1 20 16
  decide (rc % 2 = 0) && decide (sl.rbase + rc / 2 ≤ 64) && decide (resv ≤ 16) && decide (ceilDiv resv 2 ≤ rc / 2) && decide (sl.wcount ≤ 16)
  && decide (sl.wbase + sl.wcount ≤ 16)

/-- Two ranges overlap. -/
def meetRange (a n b m : Nat) : Bool := decide (n ≠ 0) && decide (m ≠ 0) && decide (a < b + m) && decide (b < a + n)

/-- Two images overlap (R316 step 5). -/
def Slot.overlaps (a b : Slot) : Bool :=
  meetRange a.rbase a.granules b.rbase b.granules || meetRange a.wbase a.wcount b.wbase b.wcount || decide (a.groups &&& b.groups ≠ 0)

/-- The bytes of a domain area, 8,454,144, in 64 KiB frames. -/
def areaFrames : Nat := 129

/-- The domain area lies in HBM frames of the kernel (R316 step 7). -/
def areaOk (s : State) (p : Nat) (sl : Slot) : Bool :=
  decide (sl.area % 65536 = 0) && (List.range areaFrames).all fun i =>
    decide (paKind (sl.area + 65536 * i) = 0) && decide (sl.area + 65536 * i < 2 ^ 52) && !badFrame s p (sl.area + 65536 * i + 65535) && decide ((potAt s (physKey p (sl.area + 65536 * i))).owner = 0xFFFF)

/-- An engine queue of a core or its slice holds a command of a domain from the core. -/
def queuesHold (s : State) (k : Nat) (did : BitVec 16) : Bool :=
  allQueues.any fun q => (queueOf s k q).any fun cmd => decide (cmd.core = k) && decide (cmd.did = did)

/-- A slot's domain holds resident warps, bins, queue entries or an open batch (R306). -/
def slotBusy (s : State) (k : Nat) (did : BitVec 16) : Bool :=
  let c := coreAt s k
  !(warpsOf c did).isEmpty || c.bins.any (fun (_, b) => decide (b.did = did)) || c.binsBack.any (fun b => decide (b.did = did)) || queuesHold s k did
  || s.reopen.any (fun r => decide (r.core = k) && decide (r.matrix.did = did))
  || (match c.matrix.batch with | some b => decide (b.did = did) | none => false)

/-- An image differs from a valid one only in valid = 0: a domain reset (R328). -/
def isReset (old new : Slot) : Bool :=
  old.valid && !new.valid && decide (old.w0 = new.w0 ||| 0x80000000) && decide (old.w1 = new.w1) && decide (old.w2 = new.w2) && decide (old.w3 = new.w3)
  && decide (old.w4 = new.w4) && decide (old.w5 = new.w5) && decide (old.w6 = new.w6) && decide (old.w7 = new.w7)

/-- An image changes what a busy slot must keep (R306). -/
def changesHeld (old new : Slot) : Bool :=
  decide (old.did ≠ new.did) || (old.world != new.world) || decide (old.rbase ≠ new.rbase) || decide (old.granules ≠ new.granules)
  || decide (old.groups ≠ new.groups) || !new.valid

/-- Every gang of a warp is halted (R328). -/
def Warp.isHalted (wp : Warp) : Bool := wp.halted || wp.gangs.all fun (_, gn) => gn.trapped

/-- Two ways sets may not meet where one world is protected (R316 step 6). -/
def Slot.waysClash (a b : Slot) : Bool := (a.world || b.world) && decide (a.ways &&& b.ways ≠ 0)

/-- An illegal-operand fault of a detail. -/
def illegalAs (detail : Nat) : Trap := { cause := 0x03, detail := detail }

/-- The first cause for which DSLW refuses an image (R316, R328, R402). -/
def dslwChecks (s : State) (p k n : Nat) (new : Slot) : Except Stop Unit := do
  let c := coreAt s k
  let old := AMap.getD c.slots n {}
  let others := (c.slots.filter fun (i, sl) => decide (i ≠ n) && sl.valid).map Prod.snd
  need (new.zeroOk && !(new.valid && new.world && decide (s.lifecycle ≠ 1))) illegal
  need (!new.valid || (decide (new.did ≠ 0) && decide (new.did ≠ 0xFFFF))) (illegalAs 1)
  need (!new.valid || others.all fun sl => decide (sl.did ≠ new.did)) (illegalAs 2)
  need new.countsOk (illegalAs 3)
  need (others.all fun sl => !new.overlaps sl) (illegalAs 4)
  need (others.all fun sl => !new.waysClash sl) (illegalAs 5)
  need (decide (new.gtab % 2048 = 0) && areaOk s p new) (illegalAs 6)
  if isReset old new then need ((warpsOf c old.did).all fun (_, wp) => wp.isHalted) (illegalAs 8)
  else need (!(old.valid && slotBusy s k old.did && changesHeld old new)) (illegalAs 7)

/-! ### Scrubbing (R316, R325, R326) -/

/-- The bytes and marks of a scratchpad group zeroed. -/
def zeroGroup (c : Core) (g : Nat) : Core :=
  { c with scratch := cellsClear c.scratch (49152 * g) 49152,
           scratchPoison := c.scratchPoison.filter fun (w, _) => !(decide (12288 * g ≤ w) && decide (w < 12288 * g + 12288)) }

/-- A unit begins to be scrubbed. -/
def Core.scrub (c : Core) (us : List PowerUnit) : Core := { c with scrubbing := c.scrubbing ++ us.filter fun u => !c.scrubbing.contains u }

/-- Bits whose owner changes between two images of a slot. -/
def movedBits (old new : Slot) (f : Slot → Nat) : Nat :=
  let a := if old.valid then f old else 0
  let b := if new.valid then f new else 0
  if old.valid && new.valid && decide (old.did = new.did) then a ^^^ b else a ||| b

/-- The groups and ways that pass from or to a slot are emptied (R316). -/
def moveUnits (c : Core) (old new : Slot) : Core :=
  let gs := groupList (movedBits old new Slot.groups)
  let ways := movedBits old new Slot.ways
  let c := gs.foldl zeroGroup c
  { c.scrub (gs.map PowerUnit.scratchGroup) with l1 := c.l1.filter fun ln => !ways.testBit ln.way }

/-- The matrix state of a domain on a core, reset (R253, R325). -/
def scrubMatrixOf (m : Matrix) (did : BitVec 16) : Matrix := m.scrubOf did

/-- The units that hold state of a domain on a core, its scratchpad groups apart: matrix, L1 lines, TLB entries (R325). -/
def scrubDomain (c : Core) (did : BitVec 16) : Core :=
  let l1 := c.l1.filter fun ln => decide (ln.did ≠ did)
  let clean : PowerUnit → Bool := fun u => (decide (u = .matrix) && decide (c.matrix.did = did)) || (decide (u = .l1) && !l1.any fun ln => worldOf c ln.did)
  { c with tainted := c.tainted.filter fun u => !clean u, matrix := scrubMatrixOf c.matrix did, l1 := l1, tlb := c.tlb.filter fun e => decide (e.did ≠ did),
           refusals := c.refusals.filter fun r => decide (r.did ≠ did) }

/-- Every granule of a slot. -/
def slotGranules (sl : Slot) : List PowerUnit := (List.range 4).flatMap fun q => (List.range sl.granules).map fun g => .granule q (sl.rbase + g)

/-- Register granules of other slots' warps that are removed while they run in the domain, which are scrubbed too (R284, R326). -/
def freeGuests (c : Core) (did : BitVec 16) (gone : List (Nat × Warp)) : Core :=
  (gone.filter fun (_, wp) => decide (wp.did ≠ did)).foldl (fun c (w, wp) => freeGranule c wp.did (w / 16) (granulesFor wp.blocks) true) c

/-- Whether one of some warps has an age in a slot. -/
def warpAmong (ws : List (Nat × Warp)) (w age : Nat) : Bool := ws.any fun (v, wp) => decide (v = w) && decide (wp.age = age)

/-- A command that goes with a domain on a core, removed at its reset (R328): the domain's, or one that its warps issued inside another's gate; an
MCRED writes its whole destination in one step, or none of it (R296). -/
def Command.falls (q : Command) (k : Nat) (did : BitVec 16) (ws : List (Nat × Warp)) : Bool :=
  decide (q.core = k) && (decide (q.did = did) || warpAmong ws q.w q.warpAge)

/-- A batch that goes with a domain: the domain's, or one that its warps opened inside another's gate. -/
def Batch.falls (b : Batch) (did : BitVec 16) (ws : List (Nat × Warp)) : Bool := decide (b.did = did) || warpAmong ws b.w b.warpAge

/-- Saved matrix state that waits on a core and goes with a domain. -/
def Reopen.falls (r : Reopen) (k : Nat) (did : BitVec 16) (ws : List (Nat × Warp)) : Bool :=
  decide (r.core = k) && (decide (r.matrix.did = did) || r.matrix.batch.any fun b => b.falls did ws)

/-- A command of the domain runs between chunk boundaries. -/
def domainRuns (s : State) (k : Nat) (did : BitVec 16) : Bool :=
  allQueues.any fun q => (queueOf s k q).any fun cmd => cmd.falls k did (warpsOf (coreAt s k) did) && cmd.busy

/-- The commands that go with a domain leave their queues, and the pages of its broadcasts that wait in the cistern with them. -/
def dropCommands (s : State) (k : Nat) (did : BitVec 16) (ws : List (Nat × Warp)) : State :=
  let s := dropPages s ((queueOf s k .fq).filter fun cmd => cmd.falls k did ws)
  allQueues.foldl (fun s q => s.modQueue k q fun cs => cs.filter fun cmd => !cmd.falls k did ws) s

/-- Blocks of which no warp is resident leave the core with the warps that went. -/
def pruneBlocks (c : Core) (gone : List (Nat × Warp)) : Core :=
  let left := fun (i : Nat) => (c.warps.filter fun (_, wp) => decide (wp.blk = some i)).length
  { c with blocks := (c.blocks.map fun (i, b) => if gone.any fun (_, wp) => decide (wp.blk = some i) then (i, { b with live := left i }) else (i, b)).filter fun (_, b) =>
      decide (b.live ≠ 0) }

/-- The batches that go with a domain are discarded. -/
def Matrix.dropBatch (m : Matrix) (did : BitVec 16) (ws : List (Nat × Warp)) : Matrix :=
  { m with batch := m.batch.filter fun b => !b.falls did ws, runs := m.runs.filter fun b => !b.falls did ws }

/-- The key slots of a domain that no core holds any more are wiped (R408). -/
def wipeKeys (s : State) (p : Nat) (did : BitVec 16) : State :=
  if (coresOfPart s p).any fun k => (slotOf (coreAt s k) did).isSome then s
  else { s with keySlots := s.keySlots.filter fun (_, ks) => !(decide (ks.part = p) && decide (ks.did = did) && ks.bound) }

/-- Steps 1 to 4 of a domain reset (R328); step 5 is the slot's write. -/
def domainReset (s : State) (k : Nat) (sl : Slot) : State :=
  let did := sl.did
  let gone := warpsOf (coreAt s k) did
  let s := dropDisposals s k fun w => gone.any fun (v, _) => decide (v = w)
  let mine := fun (ac : Access) => gone.any fun (w, wp) => decide (ac.w = w) && decide (ac.warpAge = wp.age)
  let s := s.modCore k fun c =>
    let c := pruneBlocks { c with warps := c.warps.filter fun (_, wp) => !wp.ofDomain did } gone
    let c := { c with inflight := c.inflight.filter fun ac => !(mine ac && (ac.abandoned || decide (ac.kind = .gathered))), combine := c.combine.filter fun e => decide (e.did ≠ did),
                      bins := c.bins.filter fun (_, b) => decide (b.did ≠ did), binsBack := c.binsBack.filter fun b => decide (b.did ≠ did), matrix := c.matrix.dropBatch did gone }
    freeGuests ((scrubDomain c did).scrub (slotGranules sl)) did gone
  let s := dropCommands s k did gone
  { s with reopen := s.reopen.filter fun r => !r.falls k did gone }

/-- The board ends at which an assigned slot begins (R235). -/
def boardEnds (s : State) (k : Nat) : List Nat := (List.range 4).map fun i => (boardOf s (coreSlice k) (corePart s k) (i + 2)).count

/-- Every line that the publications which a board still holds name; every line where it has lost some. -/
def standSig (b : Board) : BitVec 2048 := if b.held.length < b.count then BitVec.allOnes 2048 else b.held.foldl (fun a p => a ||| p.sig) 0

/-- The slot's positions have moved past every publication, and no line of its domain stands in the L1: a domain's next publications carry what
an acquire would have read (R235, R237, R238). -/
def Core.hearAll (c : Core) (s : State) (k : Nat) (did : BitVec 16) : Core :=
  [2, 3, 4, 5].foldl (fun c n => c.hear did n (standSig (boardOf s (coreSlice k) (corePart s k) n))) c

/-- An accepted image takes its slot. -/
def writeSlot (s : State) (p k n : Nat) (new : Slot) : State :=
  let old := AMap.getD (coreAt s k).slots n {}
  let same := old.valid && new.valid && decide (old.did = new.did)
  let ends := boardEnds s k
  let s := if isReset old new then domainReset s k old else s
  let s := s.modCore k fun c =>
    let c := moveUnits c old new
    let c := if new.valid then (l1Drop c (some new.did) fun _ => true).hearAll s k new.did else c
    { c with slots := AMap.put c.slots n { new with pos := if new.valid then ends else old.pos, lent := if same then old.lent else [0, 0, 0, 0],
                                                        halted := same && old.halted, saved := same && old.saved } }
  let s := if isReset old new then wipeKeys s p old.did else s
  if new.valid then s.modPart p fun pt => if pt.domSeen.contains new.did.toNat then pt else { pt with domSeen := new.did.toNat :: pt.domSeen } else s

/-- DSLW (R306, R316): a domain reset holds until the domain's running commands stop. -/
def execDslw (a b : Reg) (s : State) : Host.Outcome State Fault Refusal :=
  run s fun x => do
    let f : Form := { op := 0xC8, classes := Reg.unif a && groupReg b 56, guard := false, once := true, more := (a, 1) :: groupReads b 8 }
    check x f
    let (k, n) ← slotSelector x (x.rd 0 a)
    let new := slotImage ((List.range 8).map (groupWord x b))
    dslwChecks x.s x.part k n new
    let old := AMap.getD (coreAt x.s k).slots n {}
    if isReset old new && domainRuns x.s k old.did then
      return (x.setStatus (.held .drain)).modCore k fun c => { c with slots := AMap.modify c.slots n fun sl => { sl with halted := true } }
    else return retire x f (writeSlot x.s x.part k n new)

/-! ## WSWAP, HGMB, SNAP, BRK (R308) -/

/-- A write pending to a generation of a pair. -/
def writePending (s : State) (p region : Nat) : Bool := s.cisternWrites.any fun w => decide (w.part = p) && decide (w.offset / 2 ^ 26 = region)

/-- WSWAP (R222, R308). -/
def execWswap (d : Reg) (n : BitVec 16) (s : State) : Host.Outcome State Fault Refusal :=
  run s fun x => do
    let p := n.toNat
    let ok := decide (p ≤ 95) && x.s.paired.contains p && regionOf x.s x.part (2 * p)
    let f : Form := { op := 0xCC, classes := Reg.sz d && ok, guard := false, once := true, writes := [(d, 1)] }
    check x f
    let new := if (partAt x.s x.part).current.contains p then 0 else 1
    if writePending x.s x.part (2 * p + new) then .error (.hold .drain)
    let s := (x.setWarp (x.wp.dstS d 1 new)).modPart x.part fun pt =>
      { pt with current := if new = 1 then p :: pt.current else pt.current.filter fun q => decide (q ≠ p) }
    return retire x f s

/-- The services of the headgate (R224, R322, R356, R359, R363, R364, R369, R373, R380, R381, R400). -/
def services : List Nat :=
  [0x01, 0x02, 0x10, 0x11, 0x20, 0x21, 0x30, 0x40, 0x42, 0x43, 0x50, 0x60, 0x70, 0x71, 0x80, 0x81, 0x90, 0x91, 0xA0, 0xA1, 0xA2]

/-- HGMB: the request is translated and handed over; an unknown service answers at once. -/
def execHgmb (d a : Reg) (s : State) : Host.Outcome State Fault Refusal :=
  run s fun x => do
    let f : Form := { op := 0xCD, classes := Reg.sz d && Reg.spair a, guard := false, once := true, more := [(a, 2)], writes := [(d, 1)] }
    check x f
    let va := x.rd64 0 a
    need (decide (va.toNat % 64 = 0)) { cause := 0x0A, addr := va }
    issueCheck x { size := 64, write := true } [va, va + 252]
    let split := min 256 (4096 - va.toNat % 4096)
    let lo := keyAt x.s x.k x.did none va
    let hi := if split = 256 then lo else keyAt x.s x.k x.did none (va + BitVec.ofNat 64 split)
    if decide ((potAt x.s lo).owner ≠ 0xFFFF) || decide ((potAt x.s hi).owner ≠ 0xFFFF) then return retire x f (x.setWarp (x.wp.dstS d 1 1))
    else if services.contains (memNat x.s lo 4) then return superWait x f (.hgmb (memNat x.s lo 4) lo hi split d)
    else return retire x f (homeWriteNat (x.setWarp (x.wp.dstS d 1 2)) lo 4 2)

/-- SNAP. -/
def execSnap (n : BitVec 16) (s : State) : Host.Outcome State Fault Refusal :=
  run s fun x => do
    let f : Form := { op := 0xCE, guard := false, once := true }
    check x f
    return retire x f (fireTrigger x.s x.part (n.setWidth 32))

/-- The warps of the block of a warp slot. -/
def blockWarps (c : Core) (w : Nat) : List Nat :=
  match AMap.get? c.warps w with
  | none => []
  | some wp => match wp.blk with
    | none => [w]
    | some i => (c.warps.filter fun (_, v) => decide (v.blk = some i)).map Prod.fst

/-- Every gang of a block stops issuing (R413). -/
def haltBlock (s : State) (k w : Nat) : State :=
  (blockWarps (coreAt s k) w).foldl (fun s w => s.modWarp k w fun wp => { wp with gangs := wp.gangs.map fun (g, gn) => (g, { gn with dbgHalt := true }) }) s

/-- Whether BRK goes to the debug port (R415). -/
def brkRouted (s : State) (k : Nat) : Bool :=
  s.debugOpen && isCompute k && match mailboxKey s k with | some a => (memWord s (a + 8)).getLsbD 3 | none => false

/-- BRK: routed to the debug port, its gang stops at the BRK's slot as mailbox op 1 would stop it, and the port is notified (R415); a single step of it ends
after that, with the next slot as its resume address (R329, R413). Otherwise it traps (R308). -/
def execBrk (n : BitVec 16) (s : State) : Host.Outcome State Fault Refusal :=
  run s fun x => do
    let f : Form := { op := 0xCF, guard := false, once := true }
    check x f
    if brkRouted x.s x.k then
      let s := { x.s with debugNotices := x.s.debugNotices ++ [(x.k, x.w, x.g)] }
      let s := (retireTo x.noStep f s x.gn.pc).modGang x.k x.w x.g fun gn => { gn with dbgHalt := true }
      return if x.gn.stepping then takeTrapAt x s { cause := 0x15 } (nextSlot x.gn.pc) else s
    else .error (.trap { cause := 0x13, n := n })

end Sys2Proof.Machine
end

