-- ==== Sys2Proof/Machine/Debug.lean ====
section
/-! DEFINITION. Sys2Proof/Machine/Debug.lean: the commands of a core's debug mailbox (R413, R415). -/

namespace Sys2Proof.Machine

/-- The fields of a command word. -/
def mbOp (m : Word) : Nat := bitsW m 7 0
def mbWarp (m : Word) : Nat := bitsW m 13 8
def mbGang (m : Word) : Nat := bitsW m 18 16

/-- The command that a core acts on, with the mailbox's key, if its op is the given one. -/
def mailboxCommand (s : State) (k : Nat) (op : Nat → Bool) : Option (Word × Nat) :=
  match (coreAt s k).mailbox, mailboxKey s k with
  | some m, some a => if op (mbOp m) then some (m, a) else none
  | _, _ => none

/-- A command finishes: its status is written and released at scope 3. -/
def finishDebug (s : State) (k a status : Nat) : State :=
  let s := homeWriteNat (s.modCore k fun c => { c with mailbox := none }) (a + 4) 4 status
  publishAt s (coreSlice k) (corePart s k) 3 { did := 0xFFFF, sig := signatureOf [lineOf a, lineOf (a + 256), lineOf (a + 384), lineOf (a + 512), lineOf (a + 640)] }

/-- The warp slot holds a protected warp (R413). -/
def debugRefused (s : State) (k w : Nat) : Bool := (warpAt s k w).any (protectedWarp (coreAt s k))

/-- Accesses of a block's warps are outstanding. -/
def blockOutstanding (c : Core) (w : Nat) : Bool :=
  (blockWarps c w).any fun v => match AMap.get? c.warps v with
    | some wp => c.inflight.any fun ac => decide (ac.w = v) && decide (ac.warpAge = wp.age)
    | none => false

/-- DEBUG_HALT (op 1): every gang of the block stops; done when no access is outstanding. A block with a protected warp is refused (DEDUCED, log
entry 96). -/
def execDebugHalt (k : Nat) (s : State) : Event :=
  match mailboxCommand s k fun op => op = 1 with
  | none => .next s
  | some (m, a) =>
    if (blockWarps (coreAt s k) (mbWarp m)).any (debugRefused s k) then .next (finishDebug s k a 3)
    else
      let s := haltBlock s k (mbWarp m)
      .next (if blockOutstanding (coreAt s k) (mbWarp m) then s else finishDebug s k a 2)

/-- DEBUG_RESUME (op 2): the gangs go on, and with them what parked gangs of their warps waited for (R142, R168). -/
def execDebugResume (k : Nat) (s : State) : Event :=
  match mailboxCommand s k fun op => op = 2 with
  | none => .next s
  | some (m, a) =>
    let free := fun (gn : Gang) => { gn with dbgHalt := false }
    let go := fun (s : State) (w : Nat) => afterGangs (s.modWarp k w fun wp => { wp with gangs := wp.gangs.map fun (g, gn) => (g, free gn) }) k w
    let s := (blockWarps (coreAt s k) (mbWarp m)).foldl go s
    .next (finishDebug s k a 2)

/-- DEBUG_STEP (op 3): the halted gang is set to issue one instruction; the command is done when it has halted again. -/
def execDebugStep (k : Nat) (s : State) : Event :=
  match mailboxCommand s k fun op => op = 3 with
  | none => .next s
  | some (m, a) =>
    if debugRefused s k (mbWarp m) then .next (finishDebug s k a 3)
    else match gangAt s k (mbWarp m) (mbGang m) with
      | none => .next (finishDebug s k a (if m.getLsbD 31 then 2 else 3))
      | some gn =>
        if m.getLsbD 31 then (if gn.stepping then .next s else .next (finishDebug s k a 2))
        else if !gn.dbgHalt then .next (finishDebug s k a 3)
        else .next ((s.modCore k fun c => { c with mailbox := some (m ||| 0x80000000) }).modGang k (mbWarp m) (mbGang m) fun gn => { gn with stepping := true })

/-- The instruction and control word at a gang's program counter, where its page is in the TLB. -/
def wordsAt (s : State) (k : Nat) (did : BitVec 16) (pc : DWord) : Word × Word :=
  match entryFor (coreAt s k) did pc with
  | some e => (memWord s (physKey (corePart s k) (e.paOf pc)), ctlThrough s (corePart s k) e pc)
  | none => (0, 0)

/-- DEBUG_DUMP (op 4): the gang's state in the layout of R330, with cause 0. -/
def execDebugDump (k : Nat) (s : State) : Event :=
  match mailboxCommand s k fun op => op = 4 with
  | none => .next s
  | some (m, a) =>
    if debugRefused s k (mbWarp m) then .next (finishDebug s k a 3)
    else match warpAt s k (mbWarp m), gangAt s k (mbWarp m) (mbGang m) with
      | some wp, some gn =>
        let (insn, ctl) := wordsAt s k wp.didNow gn.pc
        let d : Deferred := { entry := mbGang m, trap := { cause := 0 }, pc := gn.pc, resume := gn.pc, insn := insn, ctl := ctl, gmask := gn.mask, mode := gn.mode,
                              active := gn.mask &&& guardMask wp gn.mode }
        let slot := match slotOf (coreAt s k) wp.didNow with | some (n, _) => n | none => 0
        let ws := recordWords d (mbWarp m) slot wp.didNow (worldOf (coreAt s k) wp.didNow) wp.frames.length
        .next (finishDebug (homeWrite s (a + 256) (wordsBytes (ws ++ List.replicate (64 - ws.length) 0))) k a 2)
      | _, _ => .next (finishDebug s k a 3)

/-- DEBUG_ARM (op 5): the partition's snapshots are cleared and the trigger armed again. -/
def execDebugArm (k : Nat) (s : State) : Event :=
  match mailboxCommand s k fun op => op = 5 with
  | none => .next s
  | some (_, a) =>
    let p := corePart s k
    let s := (coresOfPart s p).foldl (fun s j => s.modCore j fun c => { c with snaps := [] }) s
    .next (finishDebug (s.modPart p fun pt => { pt with fired := false }) k a 2)

/-- The words of a snapshot, in the order in which R413 names them. -/
def snapshotWords (sn : Snapshot) : List Word :=
  [sn.tag, loW sn.clk, hiW sn.clk, sn.wld, w32 sn.lc, w32 sn.sc, w32 sn.ec] ++ (List.range 8).flatMap fun g =>
    let (pc, mask) := AMap.getD sn.gangs g (0, 0)
    [loW pc, hiW pc, mask]

/-- DEBUG_READ (op 6). -/
def execDebugRead (k : Nat) (s : State) : Event :=
  match mailboxCommand s k fun op => op = 6 with
  | none => .next s
  | some (m, a) =>
    if debugRefused s k (mbWarp m) then .next (finishDebug s k a 3)
    else
      let sn := AMap.getD (coreAt s k).snaps (mbWarp m) { tag := 0, clk := 0, wld := 0, lc := 0, sc := 0, ec := 0, gangs := [] }
      let ws := snapshotWords sn
      .next (finishDebug (homeWrite s (a + 512) (wordsBytes (ws ++ List.replicate (64 - ws.length) 0))) k a 2)

/-- DEBUG_BAD_COMMAND. -/
def execDebugBadCommand (k : Nat) (s : State) : Event :=
  match mailboxCommand s k fun op => op = 0 || decide (6 < op) with
  | none => .next s
  | some (_, a) => .next (finishDebug s k a 4)

end Sys2Proof.Machine
end

