-- ==== Sys2Proof/Machine/Engines.lean ====
section
/-! DEFINITION. Sys2Proof/Machine/Engines.lean: the pool and collective engines and the tensor table (R290 to R301, R363 to R366, R371 to R373): opcodes
0xA0 to 0xA8, and the steps in which their commands run. -/

namespace Sys2Proof.Machine

/-! ## What the commands share at issue (R290) -/

/-- The form of an engine command. -/
def engineForm (op : Nat) (d a : Reg) (last n : Nat) : Form :=
  { op := op, classes := Reg.unif d && groupReg a last, guard := false, once := true, more := (d, 1) :: groupReads a n }

/-- The queue is in the slot's engine queue mask. -/
def needQueue (x : Ctx) (eq : EngineQueue) : Except Stop Unit := need ((queueMask x.c x.did).testBit (queueNum eq)) engineFault

/-! ## GATH and POOL (R291 to R293, R372) -/

/-- What the eight scalars of a gather say. -/
structure PoolCmd where
  base : DWord
  list : Nat
  k : Nat
  b : Nat
  e : Nat
  fmt : EType
  pool : Nat
  okind : Bool
  rm : Nat
  stride : Nat
  out : DWord
deriving DecidableEq, Repr

def poolOf (g : List Word) : PoolCmd :=
  let w := fun i => g.getD i 0
  { base := pairW (w 0) (w 1), list := bitsW (w 2) 19 0, k := bitsW (w 3) 15 0, b := bitsW (w 3) 31 16, e := bitsW (w 4) 12 0,
    fmt := (etypeOf (bitsW (w 4) 17 13)).getD .f32, pool := bitsW (w 4) 20 18, okind := (w 4).getLsbD 21, rm := bitsW (w 4) 26 24, stride := (w 5).toNat,
    out := pairW (w 6) (w 7) }

/-- Rb. -/
def PoolCmd.rowBytes (c : PoolCmd) : Nat := ceilDiv (c.e * c.fmt.width) 8
/-- Bytes of a list entry. -/
def PoolCmd.entry (c : PoolCmd) : Nat := if c.pool = 3 then 8 else 4
/-- Bytes between gathered rows. -/
def PoolCmd.outStride (c : PoolCmd) : Nat := 16 * ceilDiv c.rowBytes 16
/-- Entries of the list. -/
def PoolCmd.entries (c : PoolCmd) : Nat := c.k * c.b
/-- Bytes of the output. -/
def PoolCmd.outBytes (c : PoolCmd) (gath : Bool) : Nat := if gath then c.entries * c.outStride else 4 * c.e * c.b

/-- The row formats. -/
def poolFormat (t : Option EType) : Bool := [some .i8, some .f16, some .bf16, some .f32, some .e4m3, some .e5m2, some .e2m1].contains t

/-- The addresses of a range of memory, one in each line. -/
def rangeLines (va : DWord) (n : Nat) : List DWord :=
  (List.range (ceilDiv (va.toNat % 128 + n) 128)).map fun i => if i = 0 then va else va - BitVec.ofNat 64 (va.toNat % 128) + BitVec.ofNat 64 (128 * i)

/-- GATH and POOL at issue (R291). The table is no range whose first 4 KiB could be checked here: its extent is in the list (DEDUCED, log entry 45). -/
def poolOp (op : Nat) (gath : Bool) (d a : Reg) (s : State) : Host.Outcome State Fault Refusal :=
  run s fun x => do
    let f := engineForm op d a 56 8
    check x f
    let g := (List.range 8).map (groupWord x a)
    let w := fun i => g.getD i 0
    let c := poolOf g
    need (decide (c.base.toNat % 16 = 0)) { cause := 0x0A, addr := c.base }
    need (decide (c.list % c.entry = 0)) (misaligned c.list)
    need (decide (bitsW (w 2) 31 20 = 0) && decide (c.k ≠ 0) && decide (c.b ≠ 0) && decide (1 ≤ c.e) && decide (c.e ≤ 4096)
      && poolFormat (etypeOf (bitsW (w 4) 17 13)) && decide (c.pool < if gath then 1 else 4) && decide (bitsW (w 4) 23 22 = 0) && decide (c.rm < 5)
      && decide (bitsW (w 4) 31 27 = 0) && decide (c.stride % 16 = 0) && decide (c.rowBytes ≤ c.stride)) illegal
    need (decide (c.out.toNat % (if c.okind then 16 else if gath then 16 else 4) = 0)) { cause := 0x0A, addr := c.out }
    need (c.okind || decide (c.out.toNat < 2 ^ 20)) illegal
    checkRanges x ([(c.list, c.entry * c.entries)] ++ if c.okind then [] else [(c.out.toNat, c.outBytes gath)])
    let o ← barrierWord x (x.rd 0 d)
    needQueue x .pq
    if c.okind then issueCheck x { size := 16, write := true } (firstLines c.out (c.outBytes gath))
    enterQueue x f .pq (if gath then .gath else .pool) g o

/-- GATH (R291). -/
def execGath (d a : Reg) (s : State) : Host.Outcome State Fault Refusal := poolOp 0xA0 true d a s
/-- POOL (R291). -/
def execPool (d a : Reg) (s : State) : Host.Outcome State Fault Refusal := poolOp 0xA1 false d a s

/-- The command that runs in a slice's queue. -/
def sliceHead (s : State) (slice : Nat) (eq : EngineQueue) : Option Command := runHead s (match eq with | .pq => (sliceAt s slice).pq | _ => (sliceAt s slice).fq)

/-- Change the running command of a slice's queue; `512 + 4 × slice` names a core of the slice. -/
def modHead (s : State) (slice : Nat) (eq : EngineQueue) (q : Command) (f : Command → Command) : State := modCommand s (512 + 4 * slice) eq q f

/-- The key under which a command keeps the index list it read when it started. -/
def listKey : Nat := 2 ^ 40

/-- The index of a list entry, and its weight. -/
def entryOf (q : Command) (i : Nat) : Nat × Nat :=
  let c := poolOf q.group
  let bs := (AMap.getD q.data listKey []).drop (c.entry * i)
  (leNat (bs.take 4), leNat ((bs.drop 4).take 4))

/-- A padding entry. -/
def isPad (q : Command) (i : Nat) : Bool := decide ((entryOf q i).1 = 0xFFFFFFFF)

/-- A gather starts: its list is read; an entry that is marked uncorrectable spoils its bag. -/
def startPool (s : State) (slice : Nat) (q : Command) : State :=
  let c := poolOf q.group
  let core := coreAt s q.core
  let bs := viewBytes core q.view c.list (c.entry * c.entries)
  let bad := (List.range c.entries).filter fun i => viewBad core q.view (c.list + c.entry * i) c.entry ≠ 0
  modHead s slice .pq q fun d => { d with started := true, data := AMap.put d.data listKey bs, rows := bad, rowPoison := bad }

/-- A later fault stops a command, which completes with the error flag (R194, R290). -/
def failCommand (s : State) (slice : Nat) (eq : EngineQueue) (q : Command) (cause detail : Nat) (addr : DWord) (status : Option Nat) : State :=
  let s := modHead (sendFault s eq q cause detail addr) slice eq q fun d => { d with ran := true, error := true, status := status }
  dropAllRefusals s q.core

/-- Whether the engine may start the read of an entry's row: at most 2,048 are in flight (R372). -/
def rowStarts (q : Command) (row : Nat) : Bool :=
  let first := (List.range row).find? fun i => !(q.rows.contains i || isPad q i)
  decide (row < (first.getD row) + 2048)

/-- The first byte of an entry's row. -/
def rowAddr (q : Command) (row : Nat) : DWord := (poolOf q.group).base + BitVec.ofNat 64 ((entryOf q row).1 * (poolOf q.group).stride)

/-- The pieces of a row by line: key and bytes. -/
def rowParts (s : State) (q : Command) (row : Nat) : List (Nat × Nat) :=
  (rangeLines (rowAddr q row) (poolOf q.group).rowBytes).map fun v =>
    (keyAt s q.core q.did (q.tree s) v, min (128 - v.toNat % 128) ((rowAddr q row).toNat + (poolOf q.group).rowBytes - v.toNat))

/-- Pieces of lines read at their homes in order: their bytes and their uncorrectable words; none while one cannot be read. -/
def readParts (s : State) (k : Nat) (parts : List (Nat × Nat)) : Option (List Byte × List Nat × State) :=
  parts.foldl (fun (acc : Option (List Byte × List Nat × State)) p => acc.bind fun (bs, bad, s) =>
    (engineRead s k p.1 p.2).map fun (cs, ps, s) => (bs ++ cs, bad ++ ps.filter fun w => decide (p.1 / 4 ≤ w) && decide (4 * w < p.1 + p.2), s)) (some ([], [], s))

/-- POOL_ROW_ARRIVE (R372): a row is read at its home and accepted; one that cannot be had is accepted as uncorrectable (R293). -/
def execPoolRowArrive (slice row : Nat) (s : State) : Event :=
  match sliceHead s slice .pq with
  | none => .next s
  | some q =>
    let c := poolOf q.group
    if !q.started ∨ q.ran ∨ c.entries ≤ row ∨ q.rows.contains row ∨ isPad q row ∨ !rowStarts q row then .next s
    else
      match rangeCheck s q.core q.did (q.tree s) { size := 16, write := false } (fun _ => false) (rangeLines (rowAddr q row) c.rowBytes) with
      | .miss vas => .next (askPages s q.core q.did vas)
      | .fault cause d addr => .next (failCommand s slice .pq q cause d addr none)
      | .ok => match readParts s q.core (rowParts s q row) with
        | none => .next s
        | some (bs, bad, u) => .next (modHead (markRead u (q.tree s) ((rowParts s q row).map Prod.fst)) slice .pq q fun d =>
            { d with rows := row :: d.rows, data := AMap.put d.data row bs, rowPoison := if bad.isEmpty then d.rowPoison else row :: d.rowPoison })

/-- Element j of a row. -/
def rowElem (t : EType) (bs : List Byte) (j : Nat) : Nat := leNat bs / 2 ^ (t.width * j) % 2 ^ t.width

/-- An element's value. -/
def elemVal (t : EType) (x : Nat) : FVal :=
  if t.isInt then let v := intValue t x; .num (decide (v < 0)) v.natAbs 0 else fValue t x

/-- A value as f32: every source value is one (R292). -/
def f32Of : FVal → Nat
  | .nan => EType.qnan .f32
  | .inf neg => fSign .f32 neg 0x7F800000
  | .num neg n e => if n = 0 then fSign .f32 neg 0 else roundTo .f32 0 false { neg := neg, n := n, e := e }

/-- The rounding of a pool command. -/
def poolMode (rm : Nat) : FMode := { rm := rm, sat := false, ftz := false }

/-- The mean of a sum of n values. -/
def meanOf (rm n : Nat) (s : Sum) : FRes :=
  match s.res rm with
  | .val x => .val { x with d := x.d * n }
  | r => r

/-- One output word of a bag (R292). -/
def bagWord (q : Command) (bag j : Nat) : Nat :=
  let c := poolOf q.group
  let es := ((List.range c.k).map fun i => c.k * bag + i).filter fun i => !isPad q i
  let vals := es.map fun i =>
    let x := elemVal c.fmt (rowElem c.fmt (AMap.getD q.data i []) j)
    if c.pool = 3 then mulVals x (fValue .f32 (entryOf q i).2) else x
  match vals with
  | [] => 0
  | v :: vs =>
    if c.pool = 2 then vs.foldl (fun y x => minMax true .f32 (poolMode 0) y (f32Of x)) (minMax true .f32 (poolMode 0) (f32Of v) (f32Of v))
    else
      let sum := vals.foldl Sum.addVal {}
      fFinish .f32 (poolMode c.rm) (if c.pool = 1 then meanOf c.rm vals.length sum else sum.res c.rm)

/-- The output of a gather: rows or words in ascending places, and which of its bytes are uncorrectable, as ranges. -/
def poolOutput (q : Command) (gath : Bool) : List Byte × List (Nat × Nat) :=
  let c := poolOf q.group
  let bagBad := fun b => (List.range c.k).any fun i => q.rowPoison.contains (c.k * b + i)
  if gath then
    let row := fun i =>
      let bs := if isPad q i then [] else AMap.getD q.data i []
      bs.take c.rowBytes ++ List.replicate (c.rowBytes - bs.length) 0
    ((List.range c.entries).flatMap fun i => row i ++ List.replicate (c.outStride - c.rowBytes) 0,
     ((List.range c.entries).filter fun i => bagBad (i / c.k)).map fun i => (i * c.outStride, c.rowBytes))
  else
    ((List.range c.b).flatMap fun b => (List.range c.e).flatMap fun j => natLe 4 (bagWord q b j),
     ((List.range c.b).filter bagBad).map fun b => (4 * c.e * b, 4 * c.e))

/-- The parts of the output that are written: a gathered row's bytes past Rb are not. -/
def outParts (c : PoolCmd) (gath : Bool) : List (Nat × Nat) :=
  if gath then (List.range c.entries).map fun i => (i * c.outStride, c.rowBytes) else [(0, 4 * c.e * c.b)]

/-- Pieces of an output within lines of memory. -/
def linePieces (va : DWord) (off n : Nat) : List (Nat × Nat × DWord) :=
  (rangeLines (va + BitVec.ofNat 64 off) n).map fun v =>
    let o := v.toNat - (va + BitVec.ofNat 64 off).toNat
    (off + o, min (128 - v.toNat % 128) (n - o), v)

/-- Bytes written to memory by an engine, piece by piece, at translated addresses that have been checked; the words of some ranges of the output are
marked uncorrectable, and lines of open tensors are marked written (R371). -/
def engineWriteAll (s : State) (slice : Nat) (q : Command) (bs : List Byte) (bad : List (Nat × Nat)) (pieces : List (Nat × Nat × DWord)) : State :=
  let s := if worldOf (coreAt s q.core) q.did then markTensors s (pieces.map fun p => keyAt s q.core q.did (q.tree s) p.2.2) else s
  pieces.foldl (fun s (o, n, v) =>
    let key := keyAt s q.core q.did (q.tree s) v
    let spoilt := fun j => bad.any fun (a, m) => decide (a < o + 4 * j + 4) && decide (o + 4 * j < a + m)
    let words := ((List.range (ceilDiv n 4)).filter spoilt).map (key / 4 + ·)
    let s := engineStore s q.core key q.did (byteLanes key 8 ((bs.drop o).take n)) words
    if paKind key = 0 then publishWide s (homeSlice s key) (key / 2 ^ 52) q.did [key / 128] else publishWide s slice (corePart s q.core) q.did [key / 128]) s

/-- The pieces of a chunk of an output in memory: the lines of 4 KiB, from the line on with which the output begins. -/
def chunkPieces (c : PoolCmd) (gath : Bool) (chunk : Nat) : List (Nat × Nat × DWord) :=
  ((outParts c gath).flatMap fun (o, n) => linePieces c.out o n).filter fun p => decide ((p.2.2.toNat / 128 - c.out.toNat / 128) / 32 = chunk)

/-- The chunks of an output in memory. -/
def poolChunks (c : PoolCmd) (gath : Bool) : Nat := ceilDiv (c.out.toNat % 128 + c.outBytes gath) 4096

/-- Whether some pieces carry every byte of a line. -/
def piecesCover (s : State) (q : Command) (pieces : List (Nat × Nat × DWord)) (key : Nat) : Bool :=
  decide ((pieces.filter fun p => decide (keyAt s q.core q.did (q.tree s) p.2.2 / 128 = key / 128)).foldl (fun n p => n + p.2.1) 0 = 128)

/-- A gather or pooling whose rows are in writes its output (R292, R293): in memory chunk by chunk, each checked before it is written (R194, R290). -/
def finishPool (s : State) (slice : Nat) (q : Command) (gath : Bool) : State :=
  let c := poolOf q.group
  let (bs, bad) := poolOutput q gath
  if c.okind then
    let pieces := chunkPieces c gath q.chunked
    match rangeCheck s q.core q.did (q.tree s) { size := 16, write := true } (piecesCover s q pieces) (pieces.map fun p => p.2.2) with
    | .miss vas => askPages s q.core q.did vas
    | .fault cause d addr => failCommand s slice .pq q cause d addr none
    | .ok => modHead (engineWriteAll s slice q bs bad pieces) slice .pq q fun d =>
        { d with chunked := q.chunked + 1, ran := decide (poolChunks c gath ≤ q.chunked + 1), error := !bad.isEmpty }
  else
    let put := fun (core : Core) (p : Nat × Nat) => viewPut core q.view (c.out.toNat + p.1) ((bs.drop p.1).take p.2)
    let s := s.modCore q.core fun core => bad.foldl (fun core (a, m) => viewMark core q.view (c.out.toNat + a) m) ((outParts c gath).foldl put core)
    modHead s slice .pq q fun d => { d with ran := true, error := !bad.isEmpty }

/-- A gather's next step in its queue: it starts, or, with every row in, writes its output. -/
def poolRun (op : EngineOp) (slice : Nat) (s : State) : Event :=
  match sliceHead s slice .pq with
  | none => .next s
  | some q =>
    if q.op ≠ op ∨ q.ran then .next s
    else if !q.started then .next (if drained s q then startPool s slice q else s)
    else if (List.range (poolOf q.group).entries).all fun i => q.rows.contains i || isPad q i then .next (finishPool s slice q (decide (op = .gath)))
    else .next s

/-- GATH_RUN (R292). -/
def execGathRun (slice : Nat) (s : State) : Event := poolRun .gath slice s
/-- POOL_RUN (R292). -/
def execPoolRun (slice : Nat) (s : State) : Event := poolRun .pool slice s

/-! ## Address groups (R294 to R298, R363 to R366) -/

/-- A partition's group. -/
def groupAt (s : State) (p g : Nat) : Group := AMap.getD s.groups (256 * p + g) {}

/-- The word that names a group and a status word. -/
def groupField (w : Word) : Nat := bitsW w 7 0
def statusField (w : Word) : Nat := bitsW w 27 8

/-- The checks of a group and status word (R295). -/
def checkGroupWord (x : Ctx) (w : Word) : Except Stop Unit := do
  need (decide (statusField w % 4 = 0)) (misaligned (statusField w))
  need (decide (bitsW w 31 28 = 0)) illegal

/-- MCRED and MCST at issue (R295). -/
def collective (op : Nat) (eop : EngineOp) (d a : Reg) (s : State) : Host.Outcome State Fault Refusal :=
  run s fun x => do
    let f := engineForm op d a 58 5
    check x f
    let g := (List.range 5).map (groupWord x a)
    let w := fun i => g.getD i 0
    let n := (w 2).toNat
    let addr := pairW (w 3) (w 4)
    checkGroupWord x (w 0)
    need (decide ((w 1).toNat % 128 = 0)) (misaligned (w 1).toNat)
    need (decide (1 ≤ n) && decide (n ≤ 2 ^ 24) && decide (n * 4 % 128 = 0)) illegal
    need (decide (addr.toNat % 128 = 0)) { cause := 0x0A, addr := addr }
    checkRanges x [(statusField (w 0), 4)]
    let o ← barrierWord x (x.rd 0 d)
    needQueue x .fq
    issueCheck x { size := 128, write := decide (eop = .mcred) } (firstLines addr (4 * n))
    enterQueue x f .fq eop g o

/-- MCRED (R295). -/
def execMcred (d a : Reg) (s : State) : Host.Outcome State Fault Refusal := collective 0xA2 .mcred d a s
/-- MCST (R295). -/
def execMcst (d a : Reg) (s : State) : Host.Outcome State Fault Refusal := collective 0xA3 .mcst d a s

/-- The element type of a group. -/
def Group.etype (g : Group) : EType := match (g.members.headD { module := 0, etype := 2, op := 0, mask := 0, buffer := 0, length := 0 }).etype with
  | 0 => .bf16 | 1 => .f16 | 2 => .f32 | 3 => .i32 | _ => .n32
/-- The operation of a group: 0 sum, 1 min, 2 max. -/
def Group.op (g : Group) : Nat := match g.members with | m :: _ => m.op | [] => 0

/-- A group's nodes that are up. -/
def nodeUp (s : State) (n : Nat) : Bool := (AMap.getD s.ports n {}).up

/-- The node through which a line of a command goes. -/
def Group.nodeFor (g : Group) (line : Nat) : Nat := g.nodes.getD (line % g.nodes.length) 0

/-- Whether the node through which a line goes has stayed up since the group was formed (R363). -/
def Group.nodeOk (g : Group) (s : State) (line : Nat) : Bool := nodeUp s (g.nodeFor line) && !g.lost.contains (g.nodeFor line)

/-- The group that a collective command has read at its start (R366). -/
def startedGroup (s : State) (q : Command) : Group := q.snap.getD (groupAt s (corePart s q.core) (groupField (q.group.getD 0 0)))

/-- A collective command starts: it reads its group (R296, R297, R366). -/
def startCollective (s : State) (slice : Nat) (q : Command) : State :=
  if drained s q then modHead s slice .fq q fun d => { d with started := true, snap := some (groupAt s (corePart s q.core) (groupField (q.group.getD 0 0))) } else s

/-- What running commands have read of some groups loses a member or a node. -/
def mapSnaps (s : State) (mine : Nat → Bool) (f : Group → Group) : State :=
  let step := fun (q : Command) => if mine (256 * corePart s q.core + groupField (q.group.getD 0 0)) then { q with snap := q.snap.map f } else q
  { s with slices := s.slices.map fun (n, sl) => (n, { sl with fq := sl.fq.map step }), saved := s.saved.map fun v => { v with fq := v.fq.map step } }

/-- A line of a collective leaves for the other members that are present, through its node, which fans it out (R297, R299, R352). How the packet names
the group and the place is the model's: log entry 29. -/
def sendLine (s : State) (slice : Nat) (g : Group) (number line offset : Nat) (bs : List Byte) : State :=
  if g.members.any (fun m => decide (m.module ≠ s.moduleId) && m.present) && g.nodeOk s line then
    sendPacket s (g.nodeFor line) { requestTo s slice number 0 8 with offset := BitVec.ofNat 64 offset, payload := bs }
  else s

/-- The status that stops a command before it does anything: NOGROUP, PEER-CHANGED, RANGE (R294). -/
def groupStop (g : Group) (off bytes : Nat) (whole : Bool) : Option Nat :=
  if !g.formed || g.nodes.isEmpty then some 3
  else if g.changed then some 2
  else if !whole || g.members.any fun m => decide (m.length < off + bytes) then some 4
  else none

/-- The key of a byte of a member's buffer. -/
def Member.key (m : Member) (o : Nat) : Nat := m.frames.getD ((m.buffer + o) / 4096) 0 + (m.buffer + o) % 4096

/-- Whether every frame of a range of a member's buffer may still be used by its domain; none lies in the cistern (R221). -/
def memberOwns (s : State) (m : Member) (off n : Nat) : Bool :=
  (List.range (ceilDiv ((m.buffer + off) % 4096 + n) 4096)).all fun i => decide (paKind (m.key (off + 4096 * i)) ≠ 1) && potAllows (potAt s (m.key (off + 4096 * i))) m.did (domainWorld s m.part m.did)

/-- n bytes of a member's buffer: this module's memory, or, for another module, values that this module does not know. -/
def memberRead (s : State) (m : Member) (off n : Nat) : List Byte × Bool × State :=
  if m.module = s.moduleId then
    let bytes := (List.range (n / 128)).flatMap fun i => cellsRead s.mem (m.key (off + 128 * i)) 128
    (bytes, (List.range (n / 128)).any fun i => memPoisoned s (m.key (off + 128 * i)) 128, s)
  else (natLe n (Config.freeNat s.free), false, { s with free := s.free + 1 })

/-- A value of a group's type, widened to the type of the result. -/
def widen (t : EType) (x : Nat) : Nat := if t.isFloat then f32Of (fValue t x) else x

/-- The reduction of one element (R296). -/
def reduceElem (t : EType) (op : Nat) (xs : List Nat) : Nat :=
  match xs with
  | [] => 0
  | x :: rest =>
    if op = 0 then
      if t.isFloat then fFinish .f32 (poolMode 0) ((xs.foldl (fun (a : Sum) x => a.addVal (fValue t x)) {}).res 0)
      else wrapN (satInt t ((xs.map (intValue t)).foldl (· + ·) 0)) 32
    else
      let rt : EType := if t.isFloat then .f32 else t
      rest.foldl (fun y x => minMax (decide (op = 2)) rt (poolMode 0) y (widen t x)) (minMax (decide (op = 2)) rt (poolMode 0) (widen t x) (widen t x))

/-- A command ends with a status (R290, R294). -/
def endCommand (s : State) (slice : Nat) (q : Command) (status : Nat) : State :=
  modHead s slice .fq q fun d => { d with ran := true, status := some status, error := decide (status ≠ 0) }

/-- The words of a collective's group. -/
def Command.word (q : Command) (i : Nat) : Word := q.group.getD i 0

/-- Whether the buffer of a member of another module fails, which this module does not know: a free value (log entry 21). -/
def otherFails (s : State) (g : Group) : Bool := g.members.zipIdx.any fun (m, i) => decide (m.module ≠ s.moduleId) && m.present && Config.freeBool (s.free + i)

/-- Whether the nodes of some lines of a command, from one on, are up. -/
def nodesOk (s : State) (g : Group) (first n : Nat) : Bool := (List.range (min g.nodes.length n)).all fun i => g.nodeOk s (first + i)

/-- The members' elements are read and reduced, and the destination written whole (R296). -/
def performMcred (s : State) (slice : Nat) (q : Command) (g : Group) : State :=
  let n := (q.word 2).toNat
  let size := g.etype.width / 8
  let off := (q.word 1).toNat
  let dst := pairW (q.word 3) (q.word 4)
  if g.members.any fun m => !m.present then endCommand s slice q 1
  else if (g.members.any fun m => decide (m.module = s.moduleId) && !memberOwns s m off (n * size))
      || !nodesOk s g 0 (4 * n / 128) || otherFails s g then endCommand { s with free := s.free + 64 } slice q 5
  else
    let pieces := linePieces dst 0 (4 * n)
    match rangeCheck s q.core q.did (q.tree s) { size := 128, write := true } (fun _ => true) (pieces.map fun p => p.2.2) with
    | .miss vas => askPages s q.core q.did vas
    | .fault cause d addr => failCommand s slice .fq q cause d addr (some 5)
    | .ok =>
      let (data, bad, s) := g.members.foldl (fun (acc : List (List Byte) × Bool × State) m =>
        let (bs, b, s) := memberRead acc.2.2 m off (n * size)
        (acc.1 ++ [bs], acc.2.1 || b, s)) ([], false, s)
      let nums := data.map leNat
      let out := (List.range n).flatMap fun i => natLe 4 (reduceElem g.etype g.op (nums.map fun x => x / 2 ^ (8 * size * i) % 2 ^ (8 * size)))
      endCommand (engineWriteAll s slice q out (if bad then [(0, 4 * n)] else []) pieces) slice q 0

/-- MCRED_RUN (R296): it starts; then the group is checked, and the command performed. -/
def execMcredRun (slice : Nat) (s : State) : Event :=
  match sliceHead s slice .fq with
  | none => .next s
  | some q =>
    if q.op ≠ .mcred ∨ q.ran then .next s
    else if !q.started then .next (startCollective s slice q)
    else
      let g := startedGroup s q
      let bytes := (q.word 2).toNat * (g.etype.width / 8)
      match groupStop g (q.word 1).toNat bytes (decide (bytes % 128 = 0)) with
      | some st => .next (endCommand s slice q st)
      | none => .next (performMcred s slice q g)

/-- Some lines of a multicast store, from one on, are written to a member and published (R297). -/
def memberWrite (s : State) (slice : Nat) (g : Group) (m : Member) (off first : Nat) (bs : List Byte) (bad : List Nat) : State :=
  if m.module ≠ s.moduleId then s
  else (List.range (bs.length / 128)).foldl (fun s i =>
    let key := m.key (off + 128 * (first + i))
    if g.nodeOk s (first + i) then
      let s := engineWrite s slice m.part m.did key ((bs.drop (128 * i)).take 128)
      if bad.contains i then memMark s key 128 else s
    else s) s

/-- The pieces of a chunk of at most 4 KiB of a collective's source or destination, of n bytes from the address in words 3 and 4 (R290). -/
def Command.span (q : Command) (n : Nat) : List (Nat × Nat × DWord) := linePieces (pairW (q.word 3) (q.word 4)) (4096 * q.chunked) (min 4096 (n - 4096 * q.chunked))

/-- The keys and bytes of a command's pieces. -/
def keysOf (s : State) (q : Command) (pieces : List (Nat × Nat × DWord)) : List (Nat × Nat) :=
  pieces.map fun p => (keyAt s q.core q.did (q.tree s) p.2.2, p.2.1)

/-- The lines of a command's source, by number, that hold words marked uncorrectable. -/
def badLines (keys : List (Nat × Nat)) (bad : List Nat) : List Nat :=
  (keys.zipIdx.filter fun (p, _) => bad.any fun w => decide (p.1 / 4 ≤ w) && decide (4 * w < p.1 + p.2)).map Prod.snd

/-- The status of a collective after a chunk: ABSENT before FAULT, and what an earlier chunk met stays (R294). -/
def chunkStatus (q : Command) (absent lost : Bool) : Nat := if absent ∨ q.status = some 1 then 1 else if lost ∨ q.status = some 5 then 5 else 0

/-- A chunk has been done: the command goes on to the next, or ends with a status. -/
def nextChunk (s : State) (slice : Nat) (q : Command) (n status : Nat) : State :=
  if n ≤ 4096 * (q.chunked + 1) then endCommand s slice q status
  else modHead s slice .fq q fun d => { d with chunked := q.chunked + 1, status := if status = 0 then none else some status }

/-- A chunk of a multicast store's source is given to every member that is present and may still use what is left of its range; where a member's buffer
or a node fails for any line that is left and none is absent, the store stops (R294, R297). -/
def performMcst (s : State) (slice : Nat) (q : Command) (g : Group) (bs : List Byte) (bad : List Nat) : State :=
  let n := 4 * (q.word 2).toNat
  let off := (q.word 1).toNat
  let left := n - 4096 * q.chunked
  let here := g.members.filter fun m => m.present
  let able := here.filter fun m => decide (m.module ≠ s.moduleId) || memberOwns s m (off + 4096 * q.chunked) left
  let absent := g.members.any fun m => !m.present
  let lost := decide (able.length ≠ here.length) || !nodesOk s g (32 * q.chunked) (left / 128) || (decide (q.chunked = 0) && otherFails s g)
  let s := { s with free := s.free + 64 }
  if lost && decide (chunkStatus q absent lost = 5) then endCommand s slice q 5
  else
    let s' := able.foldl (fun s m => memberWrite s slice g m off (32 * q.chunked) bs (badLines (keysOf s q (q.span n)) bad)) s
    let out := fun (s : State) i => sendLine s slice g (groupField (q.word 0)) (32 * q.chunked + i) (off + 4096 * q.chunked + 128 * i) ((bs.drop (128 * i)).take 128)
    nextChunk ((List.range (bs.length / 128)).foldl out s') slice q n (chunkStatus q absent lost)

/-- MCST_RUN (R297): the command starts, or does its next chunk. -/
def execMcstRun (slice : Nat) (s : State) : Event :=
  match sliceHead s slice .fq with
  | none => .next s
  | some q =>
    if q.op ≠ .mcst ∨ q.ran then .next s
    else if !q.started then .next (startCollective s slice q)
    else
      let g := startedGroup s q
      let n := 4 * (q.word 2).toNat
      match groupStop g (q.word 1).toNat n true with
      | some st => .next (endCommand s slice q st)
      | none =>
        match rangeCheck s q.core q.did (q.tree s) { size := 128, write := false } (fun _ => false) ((q.span n).map fun p => p.2.2) with
        | .miss vas => .next (askPages s q.core q.did vas)
        | .fault cause d addr => .next (failCommand s slice .fq q cause d addr (some 5))
        | .ok => match readParts s q.core (keysOf s q (q.span n)) with
          | none => .next s
          | some (bs, bad, s) => .next (performMcst (markRead s (q.tree s) ((keysOf s q (q.span n)).map Prod.fst)) slice q g bs bad)

/-- AGQ (R298): the state of a group. -/
def execAgq (d : Reg) (n : BitVec 16) (s : State) : Host.Outcome State Fault Refusal :=
  run s fun x => do
    let f : Form := { op := 0xA4, classes := Reg.sz d && decide (n.toNat ≤ 255), guard := false, once := true, writes := [(d, 1)] }
    check x f
    needCount x .lc
    let g := groupAt x.s x.part n.toNat
    let v := if g.formed then g.members.length + 256 * (g.members.filter fun m => m.present).length + 65536 + (if g.changed then 131072 else 0)
      + g.generation % 16384 * 262144 else 0
    return retire x f (x.setWarp (x.wp.dstS d 1 v))

/-! ## Weights (R299, R373 to R375) -/

/-- The checks of a cistern range (R299): its offset and length words. -/
def checkCistern (x : Ctx) (off len : Word) : Except Stop Unit := do
  let o := bitsW off 21 0
  let n := len.toNat
  need (decide (o < 3145728) && decide (bitsW off 31 22 = 0) && decide (1 ≤ n) && decide (n ≤ 16384) && decide (o % 16384 + n ≤ 16384)) illegal

/-- The frames of a cistern range belong to a domain. -/
def cisternOwned (s : State) (did : BitVec 16) (world : Bool) (off len : Nat) : Bool :=
  (List.range (ceilDiv (off % 16 + len) 16)).all fun i =>
    let e := potAt s (cisternKey (4096 * off / 65536 * 65536 + 65536 * i))
    decide (e.owner = did) && (e.world == world)

/-- The domain fault of class page for a cistern range. -/
def pageFault (addr : Nat) : Trap := { cause := 0x09, detail := 2, addr := BitVec.ofNat 64 addr }

/-- WBCAST at issue (R299). -/
def execWbcast (d a : Reg) (s : State) : Host.Outcome State Fault Refusal :=
  run s fun x => do
    let f := engineForm 0xA5 d a 58 5
    check x f
    let g := (List.range 5).map (groupWord x a)
    let w := fun i => g.getD i 0
    let src := pairW (w 3) (w 4)
    checkGroupWord x (w 0)
    checkCistern x (w 1) (w 2)
    need (decide (src.toNat % 4096 = 0)) { cause := 0x0A, addr := src }
    checkRanges x [(statusField (w 0), 4)]
    let o ← barrierWord x (x.rd 0 d)
    needQueue x .fq
    need (cisternOwned x.s x.did x.world (w 1).toNat (w 2).toNat) (pageFault (cisternKey (4096 * (w 1).toNat)))
    issueCheck x { size := 128, write := false } (firstLines src 4096)
    enterQueue x f .fq .wbcast g o

/-- DGST at issue (R299). -/
def execDgst (d a : Reg) (s : State) : Host.Outcome State Fault Refusal :=
  run s fun x => do
    let f := engineForm 0xA6 d a 60 3
    check x f
    let g := (List.range 3).map (groupWord x a)
    let w := fun i => g.getD i 0
    let p := bitsW (w 0) 19 0
    need (decide (p % 16 = 0)) (misaligned p)
    need (decide (bitsW (w 0) 31 20 = 0)) illegal
    checkCistern x (w 1) (w 2)
    checkRanges x [(p, 52)]
    let o ← barrierWord x (x.rd 0 d)
    needQueue x .fq
    need (cisternOwned x.s x.did x.world (w 1).toNat (w 2).toNat) (pageFault (cisternKey (4096 * (w 1).toNat)))
    enterQueue x f .fq .dgst g o

/-- A page of a cistern broadcast's source goes to every member; this module's write takes its place among the cistern's writes (R222, R299). -/
def performWbcast (s : State) (slice : Nat) (q : Command) (g : Group) (bs : List Byte) (bad : List Nat) : State :=
  let n := 4096 * (q.word 2).toNat
  let off := 4096 * (q.word 1).toNat
  let down := (List.range (bs.length / 128)).filter fun i => !g.nodeOk s (32 * q.chunked + i)
  let mine := g.members.find? fun m => decide (m.module = s.moduleId) && m.present
  let foreign := match mine with | some m => !regionOf s m.part (off / 2 ^ 26) | none => false
  let status := chunkStatus q (g.members.any fun m => !m.present) (foreign || !down.isEmpty || (decide (q.chunked = 0) && otherFails s g))
  let s := { s with free := s.free + 64 }
  let out := fun (s : State) i => sendLine s slice g (groupField (q.word 0)) (32 * q.chunked + i) (2 ^ 41 + off + 4096 * q.chunked + 128 * i) ((bs.drop (128 * i)).take 128)
  let s := (List.range (bs.length / 128)).foldl out s
  match mine, foreign with
  | some m, false =>
    let w : CisternWrite := { part := m.part, did := q.did, offset := off + 4096 * q.chunked, bytes := bs, bad := badLines (keysOf s q (q.span n)) bad, skip := down,
                              queue := some slice, command := some q.number }
    modHead { s with cisternWrites := s.cisternWrites ++ [w] } slice .fq q fun d =>
      { d with chunked := q.chunked + 1, status := some status, error := decide (status ≠ 0) }
  | _, _ => nextChunk s slice q n status

/-- A write of a command waits in the cistern. -/
def cisternWaits (s : State) (slice : Nat) (q : Command) : Bool := s.cisternWrites.any fun w => decide (w.queue = some slice) && decide (w.command = some q.number)

/-- WBCAST_RUN (R299): the command starts, or does its next page: the source is read once, and each line goes to every member. -/
def execWbcastRun (slice : Nat) (s : State) : Event :=
  match sliceHead s slice .fq with
  | none => .next s
  | some q =>
    if q.op ≠ .wbcast ∨ q.ran ∨ cisternWaits s slice q then .next s
    else if !q.started then .next (startCollective s slice q)
    else
      let g := startedGroup s q
      let n := 4096 * (q.word 2).toNat
      match groupStop { g with members := [] } 0 0 true with
      | some st => .next (endCommand s slice q st)
      | none =>
        match rangeCheck s q.core q.did (q.tree s) { size := 128, write := false } (fun _ => false) ((q.span n).map fun p => p.2.2) with
        | .miss vas => .next (askPages s q.core q.did vas)
        | .fault cause d addr => .next (failCommand s slice .fq q cause d addr (some 5))
        | .ok => match readParts s q.core (keysOf s q (q.span n)) with
          | none => .next s
          | some (bs, bad, s) => .next (performWbcast (markRead s (q.tree s) ((keysOf s q (q.span n)).map Prod.fst)) slice q g bs bad)

/-- DGST_RUN (R299, R373): after the writes to its range that are pending, the digest is compared with an accepted one; the pages become
verified, or the region is quarantined. -/
def execDgstRun (slice : Nat) (s : State) : Event :=
  match sliceHead s slice .fq with
  | none => .next s
  | some q =>
    let off := 4096 * (q.word 1).toNat
    let pages := (q.word 2).toNat
    let region := off / 2 ^ 26
    let p := corePart s q.core
    let here := s.ranges.filter fun r => decide (r.offset / 2 ^ 26 = region)
    if q.op ≠ .dgst ∨ q.ran then .next s
    else if !q.started then .next (if drained s q then modHead s slice .fq q fun d => { d with started := true } else s)
    else if s.cisternWrites.any fun w => decide (w.offset < off + 4096 * pages) && decide (off < w.offset + w.length) then .next s
    else if !regionOf s p region then .next (endCommand s slice q 5)
    else if (List.range pages).any fun i => refreshing s (cisternKey (off + 4096 * i)) then .next s
    else if 64 ≤ here.length ∧ !here.any (fun r => decide (r.offset = off) && decide (r.pages = pages)) then
      .next (failCommand s slice .fq q 0x03 0 0 none)
    else
      let expected : Digest := BitVec.ofNat 384 (leNat (viewBytes (coreAt s q.core) q.view (bitsW (q.word 0) 19 0) 48))
      let rec_ : CisternRange := { offset := off, pages := pages, digest := expected }
      if Config.sha384 (rec_.bytes s) = expected ∧ !rec_.bad s ∧ (partAt s p).manifests.contains expected then
        let s := { s with unverified := s.unverified.filter fun (i, _) => !(decide (off / 4096 ≤ i) && decide (i < off / 4096 + pages)),
                          ranges := (s.ranges.filter fun r => !(decide (r.offset = off) && decide (r.pages = pages))) ++ [rec_] }
        .next (endCommand s slice q 0)
      else .next (endCommand (quarantine s region) slice q 7)

/-- Where a command's status word stands in its scratchpad view, if it has one. -/
def Command.statusPlace (q : Command) : Option Nat :=
  match q.op with
  | .mcred | .mcst | .wbcast => some (statusField (q.word 0))
  | .dgst => some (bitsW (q.word 0) 19 0 + 48)
  | _ => none

/-- ENGINE_COMMAND_COMPLETE (R290): a command that has run writes its status word and makes its arrival; ec counts down. -/
def execEngineCommandComplete (slice : Nat) (eq : EngineQueue) (s : State) : Event :=
  match sliceHead s slice eq with
  | none => .next s
  | some q =>
    if !q.ran then .next s
    else
      let s := match q.statusPlace, q.status with
        | some o, some st => s.modCore q.core fun c => scratchPutNat c (q.view.at o) 4 st
        | _, _ => s
      let s := match q.barrier with
        | some o => engineArrive s q.core o q.error
        | none => s
      .next (dropCommand s (512 + 4 * slice) eq q)

/-! ## Tensors (R300, R371) -/

/-- The tensor a domain names, checked (R300). -/
def tensorOf (x : Ctx) (a : Reg) : Except Stop (Nat × Tensor) := do
  let i := (x.rd 0 a).toNat
  need (decide (i ≤ 16383)) illegal
  match AMap.get? x.s.tensors i with
  | some t => if t.owner = x.did ∧ t.base / 2 ^ 52 = x.part then return (i, t) else .error (.trap (pageFault 0))
  | none => .error (.trap (pageFault 0))

/-- The form of TOPEN and TCOMMIT. -/
def tensorForm (op : Nat) (d a : Reg) : Form :=
  { op := op, classes := Reg.sz d && Reg.unif a, guard := false, once := true, more := [(a, 1)], writes := [(d, 1)] }

/-- Bits of bitmap in use (R371). -/
def bitmapBits (s : State) : Nat := (s.tensors.filter fun (_, t) => t.open_).foldl (fun n (_, t) => n + t.length / 128) 0

/-- TOPEN (R300, R371). -/
def execTopen (d a : Reg) (s : State) : Host.Outcome State Fault Refusal :=
  run s fun x => do
    let f := tensorForm 0xA7 d a
    check x f
    let (i, t) ← tensorOf x a
    needCount x .lc
    if t.open_ then return retire x f (x.setWarp (x.wp.dstS d 1 t.version))
    need (decide (t.version < 2 ^ 32 - 1)) { cause := 0x08, detail := 8 }
    need (decide (bitmapBits x.s + t.length / 128 ≤ 2 ^ 27)) { cause := 0x03, detail := 10 }
    let s := x.setWarp (x.wp.dstS d 1 (t.version + 1))
    return retire x f { s with tensors := AMap.put s.tensors i { t with version := t.version + 1, open_ := true, lines := [], done := [] } }

/-- A store of the domain to the CXL tier that has not been acknowledged. -/
def cxlStorePending (x : Ctx) : Bool :=
  x.c.inflight.any fun ac => decide (ac.kind = .store) && decide (ac.did = x.did) && ac.parts.any fun p => decide (lineKind p.line = 3)

/-- TCOMMIT (R300, R371). -/
def execTcommit (d a : Reg) (s : State) : Host.Outcome State Fault Refusal :=
  run s fun x => do
    let f := tensorForm 0xA8 d a
    check x f
    let (i, t) ← tensorOf x a
    needCount x .lc
    let s := x.setWarp (x.wp.dstS d 1 t.version)
    if !t.open_ then return retire x f s
    if cxlStorePending x then .error (.hold .drain)
    return retire x f { s with tensors := AMap.put s.tensors i { t with open_ := false, lines := [], done := [] } }

end Sys2Proof.Machine
end

