-- ==== Sys2Proof/Machine/Spawn.lean ====
section
/-! DEFINITION. Sys2Proof/Machine/Spawn.lean: opcodes 0x4C to 0x4F (R154 to R158). -/

namespace Sys2Proof.Machine

/-! ## Register blocks (R106 to R110, R154, R155) -/

/-- A register-request fault for a resource (R330). -/
def requestFault (resource : Nat) : Trap := { cause := 0x07, extra := w32 resource }

/-- The gate fault of VGROW and VSHRINK inside a gate (R285). -/
def resizeFault : Trap := { cause := 0x0F, detail := 8 }

/-- Whether a gang waits in VGROW. -/
def Gang.growing (gn : Gang) : Option (Nat × Reg) := match gn.status with | .waiting (.vgrow n d) => some (n, d) | _ => none

/-- The request of a warp, if it is blocked in VGROW. -/
def Warp.growing (wp : Warp) : Option (Nat × Nat × Reg) := wp.gangs.findSome? fun (g, gn) => gn.growing.map fun (n, d) => (g, n, d)

/-- Granules that growth by n blocks needs beyond the slack. -/
def growNeed (wp : Warp) (n : Nat) : Nat := granulesFor (wp.blocks + n) - granulesFor wp.blocks

/-- VGROW (R154): the fault, the grant, or the wait. -/
def execVgrow (d : Reg) (n : BitVec 16) (s : State) : Host.Outcome State Fault Refusal :=
  run s fun x => do
    let f : Form := { op := 0x4C, classes := Reg.sz d && decide (n.toNat ≤ 15), guard := false, once := true, writes := [(d, 1)] }
    check x f
    need x.wp.frames.isEmpty resizeFault
    let n := n.toNat
    need (decide (x.wp.blocks + n ≤ 16)) (requestFault 3)
    let g := growNeed x.wp n
    match slotOf x.c x.wp.did with
    | none => if g = 0 then return retire x f (x.setWarp { x.wp.dstS d 1 (x.wp.blocks + n) with blocks := x.wp.blocks + n }) else .error (.trap (requestFault 1))
    | some (_, sl) =>
      need (decide (g ≤ sl.granules - sl.reserve - granulesFor x.wp.blocks)) (requestFault 1)
      let older := (quadWarps x.c (x.w / 16) x.wp.did).any fun (_, wp) => decide (wp.age < x.wp.age) && wp.growing.isSome
      if g = 0 || (decide (g ≤ openGranules x.c sl (x.w / 16)) && !older) then
        return retire x f (x.setWarp { x.wp.dstS d 1 (x.wp.blocks + n) with blocks := x.wp.blocks + n })
      else return beginWait x f x.s (.vgrow n d)

/-- The registers of a warp from a number on become unreachable: zeroed, their poison tags dropped. -/
def Warp.cut (wp : Warp) (blocks : Nat) : Warp :=
  { wp with blocks := blocks, vregs := wp.vregs.filter fun (i, _) => decide (i < 256 * blocks), vpoison := wp.vpoison.filter fun (r, _) => decide (r < 8 * blocks) }

/-- Whether a vector register of a warp from r on has a pending result, in any lane (R155). -/
def landsAbove (c : Core) (w age r : Nat) : Bool :=
  ((AMap.get? c.warps w).any fun wp => wp.pend.any fun p => decide (r ≤ p.code) && decide (p.code < 0x80))
  || c.inflight.any fun ac => decide (ac.w = w) && decide (ac.warpAge = age) && match ac.dest with
    | .vec i n _ => decide (r < i + n)
    | _ => false

/-- VSHRINK (R155). -/
def execVshrink (d : Reg) (n : BitVec 16) (s : State) : Host.Outcome State Fault Refusal :=
  run s fun x => do
    let f : Form := { op := 0x4D, classes := Reg.sz d && decide (n.toNat ≤ 15) && decide (n.toNat < x.wp.blocks), guard := false, once := true, writes := [(d, 1)],
                      waits := (List.range (8 * n.toNat)).map (8 * (x.wp.blocks - n.toNat) + ·) }
    check x f
    need x.wp.frames.isEmpty resizeFault
    let left := x.wp.blocks - n.toNat
    if landsAbove x.c x.w x.wp.age (8 * left) then .error (.hold .register)
    let s := retire x f (x.setWarp ((x.wp.cut left).dstS d 1 left))
    return s.modCore x.k fun c => freeGranule c x.wp.did (x.w / 16) (granulesFor x.wp.blocks - granulesFor left) false

/-! ## The release before a launch (R158) -/

/-- Stores and reductions of a warp that a release at a scope still waits for. -/
def launchPending (x : Ctx) (scope : Nat) : Bool :=
  x.c.inflight.any fun ac => decide (ac.w = x.w) && decide (ac.warpAge = x.wp.age) && relPending scope ac

/-- The state in which the gang's launch waits for its release, or none when nothing is outstanding. -/
def launchDrain (x : Ctx) (scope : Nat) : Option State :=
  if launchPending x scope || x.c.combine.any (fun e => contributed x.c x.w x.wp.age e) then
    some ((flushEntries x.s x.k fun e => contributed x.c x.w x.wp.age e).modGang x.k x.w x.g fun gn => { gn with status := .held .drain })
  else none

/-! ## SPAWN (R111, R112, R156) -/

/-- The bin that a thread of a key enters: the open bin of the key, else the lowest empty bin; none while it must wait. A restored bin of the key that
waits for a number takes no thread: a second bin of the key opens (DESIGN CHOICE, log entry 14). -/
def binFor (c : Core) (entry : DWord) (did : BitVec 16) (tree : Option Nat) : Option Nat :=
  match c.bins.find? fun (_, b) => decide (b.entry = entry) && decide (b.did = did) && decide (b.tree = tree) with
  | some (i, b) => if b.closed then none else some i
  | none => (List.range 32).find? fun i => (AMap.get? c.bins i).isNone

/-- ISCTL's bin limit (R126). -/
def Core.binLimit (c : Core) : Nat := bitsW c.isctl 31 16

/-- A bin with no thread yet. -/
def emptyBin (c : Core) (entry : DWord) (did : BitVec 16) (tree : Option Nat) : Bin :=
  { entry := entry, did := did, tree := tree, threads := [], timer := c.binLimit }

/-- A thread enters a bin, which launches when it is full. The emptied bin takes the threads of the key that the SPAWN has left (R112). -/
def enterBin (s : State) (k i : Nat) (entry : DWord) (did : BitVec 16) (tree : Option Nat) (args : Word × Word) (more : Bool) : State :=
  let c := coreAt s k
  let empty := emptyBin c entry did tree
  let b := AMap.getD c.bins i empty
  let b := { b with threads := b.threads ++ [args] }
  let s := s.modCore k fun c => { c with bins := AMap.put c.bins i b }
  if b.threads.length < 32 then s
  else
    let s := launchBin s k i
    if more && (AMap.get? (coreAt s k).bins i).isNone then s.modCore k fun c => { c with bins := AMap.put c.bins i empty } else s

/-- Lanes enter bins in ascending order until one must wait: the state and the lanes left. -/
def enterLanes (s : State) (k : Nat) (did : BitVec 16) (tree : Option Nat) (entry : Nat → DWord) (args : Nat → Word × Word) : List Nat → State × List Nat
  | [] => (s, [])
  | l :: ls =>
    match binFor (coreAt s k) (entry l) did tree with
    | none => (s, l :: ls)
    | some i => enterLanes (enterBin s k i (entry l) did tree (args l) (ls.any fun j => decide (entry j = entry l))) k did tree entry args ls

/-- SPAWN (R156): checks, the count, then the lanes enter bins; while no bin takes the next one the gang is held. -/
def execSpawn (d a b : Reg) (s : State) : Host.Outcome State Fault Refusal :=
  run s fun x => do
    let f : Form := { op := 0x4E, classes := Reg.addrPair d, a := a, b := b, aw := 1, bw := 1, aLane := true, bLane := true, more := [(d, 2)] }
    check x f
    if x.active = 0 then return retire x f x.s
    let fresh := x.gn.spawnLeft.isNone
    if fresh then checkTargets x x.did x.active (fun l => x.rd64 l d) false
    match (if fresh then launchDrain x 2 else none) with
    | some s => return s
    | none =>
      if fresh && treeHeld x.s x.wp.tree then .error (.hold .drain)
      let s := if fresh then addTree (publishWrites x.s x.k x.did 2) x.wp.tree (popCount x.active) else x.s
      let (s, left) := enterLanes s x.k x.did x.wp.tree (fun l => x.rd64 l d) (fun l => (srcA x a l, srcB x b l)) (lanesOf (x.gn.spawnLeft.getD x.active))
      let s := s.modCore x.k fun c => { c with bins := c.bins.filter fun (_, b) => !b.threads.isEmpty }
      if left.isEmpty then return retire x f (s.modGang x.k x.w x.g fun gn => { gn with spawnLeft := none })
      else return s.modGang x.k x.w x.g fun gn => { gn with status := .held .spawnBin, spawnLeft := some (maskOf fun l => left.contains l) }

/-! ## GRID (R157) -/

/-- A grid takes its place in the dispatcher's order: by the cycle of arrival, then by rank (R121). A GRID goes before the requests that arrive in its
cycle (DESIGN CHOICE, log entry 17). -/
def insertGrid (g : Grid) : List Grid → List Grid
  | [] => [g]
  | h :: hs => if g.came < h.came ∨ (g.came = h.came ∧ g.rank < h.rank) then g :: h :: hs else h :: insertGrid g hs

/-- A fault of a whole instruction names the active lanes (R330). -/
def wholeFault {α : Type} : Except Stop α → Except Stop α
  | .error (.trap t) => .error (.trap { t with lanes := none })
  | r => r

/-- The descriptor a GRID names, checked (R157 steps 3 and 4). -/
def gridDesc (x : Ctx) (va : DWord) : Except Stop Desc := do
  need (decide (va.toNat % 64 = 0)) { cause := 0x0A, addr := va }
  match tlbLook x.c x.did va with
  | .notCanonical => .error (.trap { cause := 0x08, detail := 9, addr := va })
  | .refused c dt => .error (.trap { cause := c, detail := dt, addr := va })
  | .miss => .error (.miss x.did [va])
  | .hit e =>
    let key := boundKey x.s x.part x.wp.tree (e.paOf va)
    let entry : DWord := BitVec.ofNat 64 (memNat x.s key 8)
    wholeFault (checkTargets x x.did 1 (fun _ => entry) false)
    match descAt x.s x.part x.did key with
    | some d => return d
    | none => .error (.trap { cause := 0x03 })

/-- GRID (R157): once per gang, from scalars only. -/
def execGrid (a : Reg) (s : State) : Host.Outcome State Fault Refusal :=
  run s fun x => do
    let f : Form := { op := 0x4F, classes := groupReg a 58, guard := false, once := true, more := groupReads a 6 }
    check x f
    let w := groupWord x a
    let gx := bitsW (w 2) 15 0
    let gy := bitsW (w 2) 31 16
    let gz := bitsW (w 3) 15 0
    need (decide (gx ≠ 0) && decide (gy ≠ 0)) { cause := 0x03 }
    need (decide (bitsW (w 3) 31 16 = 0) && decide (gz ≠ 0)) { cause := 0x03 }
    let d ← gridDesc x (pairW (w 0) (w 1))
    match launchRefused x.s x.part x.did d with
    | some r => .error (.trap (requestFault r))
    | none =>
      match launchDrain x 3 with
      | some s => return s
      | none =>
        if treeHeld x.s x.wp.tree then .error (.hold .drain)
        let s := addTree (publishWrites x.s x.k x.did 3) x.wp.tree ((gx * gy * gz : Nat) : Int)
        let prio := match x.wp.tree.bind fun t => AMap.get? s.trees t with | some tr => tr.prio | none => 0
        let grid : Grid := { id := (partAt s x.part).nextGrid, tree := x.wp.tree, did := x.did, desc := d, gx := gx, gy := gy, gz := gz, arga := w 4, argb := w 5,
                             prio := prio, slice := coreSlice x.k, came := partClk s x.k }
        return retire x f (s.modPart x.part fun pt => { pt with grids := insertGrid grid pt.grids, nextGrid := pt.nextGrid + 1 })

end Sys2Proof.Machine
end

