-- ==== Sys2Proof/Machine/Launch.lean ====
section
/-! DEFINITION. Sys2Proof/Machine/Launch.lean: the steps that grant register blocks, launch and place warps and blocks, and retire them (R103, R104,
R109, R112, R114, R117, R118, R121 to R125). -/

namespace Sys2Proof.Machine

/-! ## VGROW (R109) -/

/-- The blocked requests of a quadrant for a domain's granules, oldest warp first. -/
def growers (c : Core) (q : Nat) (did : BitVec 16) : List (Nat × Warp) :=
  ((quadWarps c q did).filter fun (_, wp) => wp.growing.isSome && !wp.preempt && !wp.halted).foldl (fun acc e =>
    (acc.takeWhile fun a => decide (a.2.age ≤ e.2.age)) ++ [e] ++ (acc.dropWhile fun a => decide (a.2.age ≤ e.2.age))) []

/-- Every live warp of the domain in the quadrant is blocked in VGROW. -/
def allGrowing (c : Core) (q : Nat) (did : BitVec 16) : Bool := (quadWarps c q did).all fun (_, wp) => decide (wp.wld = 0) || wp.growing.isSome

/-- What the oldest blocked request of a slot's domain gets now: the grant, the fault, or none. -/
def serveGrow (s : State) (k q : Nat) (sl : Slot) : Option State :=
  let c := coreAt s k
  match growers c q sl.did with
  | [] => none
  | (w, wp) :: _ => wp.growing.bind fun (g, n, d) =>
    let grant := wake (s.modWarp k w fun wp => { wp.dstS d 1 (wp.blocks + n) with blocks := wp.blocks + n }) k w g
    if growNeed wp n ≤ openGranules c sl q then some grant
    else if !allGrowing c q sl.did then none
    else if growNeed wp n ≤ min (sl.kept q) (freeGranules c sl q) then some (grant.modCore k fun c => lend c sl.did q (growNeed wp n))
    else some (faultWaiting s k w g (requestFault 1))

/-- A warp may retire: no lane of it lives and nothing of it is outstanding (R117). -/
def Warp.mayRetire (wp : Warp) : Bool :=
  decide (wp.wld = 0) && decide (wp.lc = 0) && decide (wp.sc = 0) && decide (wp.ec = 0) && !wp.preempt && !wp.halted

/-- VGROW_GRANT (R109, R110): the oldest blocked request of a domain in the quadrant is granted, from the reserve if need be, or faults, after every
warp of the quadrant that retires has freed its granules. -/
def execVgrowGrant (k q : Nat) (s : State) : Event :=
  if (coreAt s k).warps.any fun (w, wp) => decide (w / 16 = q) && wp.mayRetire then .next s
  else match (coreAt s k).slots.findSome? fun (_, sl) => if sl.valid then serveGrow s k q sl else none with
  | some s' => .next s'
  | none => .next s

/-! ## Bins (R112, R114, R115) -/

/-- BIN_TIMER_EXPIRY (R112): the bin launches with the threads it has. -/
def execBinTimerExpiry (k i : Nat) (s : State) : Event :=
  match AMap.get? (coreAt s k).bins i with
  | none => .next s
  | some b =>
    let paused : Bool := b.threads.isEmpty || match slotOf (coreAt s k) b.did with | some (_, sl) => sl.halted | none => true
    if b.closed ∨ b.timer ≠ 0 ∨ paused then .next s else .next (launchBin s k i)

/-- The timers of a core that have run out launch their bins, after every entry of the cycle in which they ran out (R112); of several bins the
lower number goes first (DESIGN CHOICE, log entry 88: R112 gives no order). -/
def expireBins (s : State) (k : Nat) : State :=
  (coreAt s k).bins.foldl (fun s b => match execBinTimerExpiry k b.1 s with | .next s' => s' | _ => s) s

/-- LOOSE_WARP_PLACE (R114, R120): the warp of the waiting bin is placed, if nothing that has waited longer can be. -/
def execLooseWarpPlace (k i : Nat) (s : State) : Event :=
  match AMap.get? (coreAt s k).bins i with
  | none => .next s
  | some b => if b.closed && !olderUnit s k i b.since b.did then .next ((placeLoose s k i).getD s) else .next s

/-! ## The dispatcher (R121 to R125) -/

/-- The rank of a request among those that reach the dispatcher in its cycle: queue priority, slice, lane (R121). -/
def Launch.rank (l : Launch) : Nat := 1 + 1024 * (7 - l.grid.prio) + 32 * l.slice + l.lane

/-- LAUNCH_REQUEST (R121): a lane's oldest request, which is due, enters the order of the dispatcher of its slice's partition. -/
def execLaunchRequest (slice lane : Nat) (s : State) : Event :=
  match (sliceAt s slice).part with
  | none => .next s
  | some p => match (partAt s p).launches.find? fun l => decide (l.slice = slice) && decide (l.lane = lane) with
    | none => .next s
    | some l =>
      if (partAt s p).clk < l.due then .next s
      else .next (s.modPart p fun pt =>
        { pt with launches := pt.launches.erase l, grids := insertGrid { l.grid with id := pt.nextGrid, came := l.due, rank := l.rank } pt.grids, nextGrid := pt.nextGrid + 1 })

/-- A closed bin of a grid's domain that has waited longer than the grid can be placed on a core now (R120). -/
def binBefore (s : State) (k : Nat) (g : Grid) : Bool :=
  (coreAt s k).bins.any fun (j, o) => o.closed && decide (o.did = g.did) && decide (o.since < g.came) && (placeLoose s k j).isSome

/-- The cores of a partition on which a grid's next block can be placed now. -/
def coresFor (s : State) (p : Nat) (g : Grid) : List Nat :=
  (coresOfPart s p).filter fun k => isCompute k && (roomFor (coreAt s k) g.did g.desc).isSome && !binBefore s k g

/-- Issue priority of a domain's slot on a core. -/
def corePrio (s : State) (k : Nat) (did : BitVec 16) : Nat := match slotOf (coreAt s k) did with | some (_, sl) => bitsW sl.w0 19 17 | none => 0

/-- Resident warps of a domain on a core. -/
def residentOf (s : State) (k : Nat) (did : BitVec 16) : Nat := ((coreAt s k).warps.filter fun (_, wp) => decide (wp.did = did)).length

/-- The core that takes a block (R124): of the preferred slice, else of the others in ascending order; fewest warps, lowest number. -/
def coreForBlock (s : State) (p : Nat) (g : Grid) : Option Nat :=
  let cs := coresFor s p g
  let best := fun (l : List Nat) => l.foldl (fun (b : Option Nat) k => match b with
    | some j => if residentOf s k g.did < residentOf s j g.did then some k else some j
    | none => some k) none
  match best (cs.filter fun k => decide (coreSlice k = g.slice)) with
  | some k => some k
  | none => ((partAt s p).slices.findSome? fun sl => best (cs.filter fun k => decide (coreSlice k = sl)))

/-- The slice of the core that would take a grid's next block has had one placed within the last 8 cycles, so the block waits (R124; that it waits
for that core, and is not placed elsewhere, is a DESIGN CHOICE, log entry 17). -/
def cooling (s : State) (p : Nat) (g : Grid) : Bool := (coreForBlock s p g).any fun k => decide ((sliceAt s (coreSlice k)).cool ≠ 0)

/-- The grids that may be offered: the oldest of each domain, if its next block can be placed (R104, R123). -/
def offered (s : State) (p : Nat) : List Grid :=
  ((partAt s p).grids.foldl (fun acc g => if acc.any fun h => decide (h.did = g.did) then acc else acc ++ [g]) ([] : List Grid)).filter fun g => !(coresFor s p g).isEmpty && !cooling s p g

/-- The keys of R123, the higher first. -/
def gridKey (s : State) (p : Nat) (g : Grid) : Nat := 8 * g.prio + ((coresFor s p g).map fun k => corePrio s k g.did).foldl max 0

/-- The grid the dispatcher takes: the highest key, then the oldest. -/
def nextGridOf (s : State) (p : Nat) : Option Grid :=
  (offered s p).foldl (fun best g => match best with
    | some b => if gridKey s p b < gridKey s p g then some g else some b
    | none => some g) none

/-- The barrier objects that a kernel declares stand at the end of its block's allotment, put there as BINIT puts them (R45, R209). -/
def initBarriers (c : Core) (base : Nat) (d : Desc) : Core :=
  (List.range d.bars).foldl (fun c i => if 16 * (i + 1) ≤ d.allot then scratchPutNat c (base + d.allot - 16 * (i + 1)) 16 (32 * d.nwarp * 65536) else c) c

/-- A block of a grid is placed on a core: its barrier objects are made and its warps enter in ascending order, one per
quadrant and cycle (R103, R125, R209). -/
def placeBlock (s : State) (k : Nat) (g : Grid) : State :=
  match roomFor (coreAt s k) g.did g.desc with
  | none => s
  | some (ws, base) =>
    let i := (coreAt s k).blockSerial
    let view : View := { base := base, size := g.desc.allot, did := g.did }
    let blk : Block := { grid := g.id, did := g.did, tree := g.tree, live := g.desc.nwarp, view := view }
    let s := s.modCore k fun c => { initBarriers c base g.desc with blockSerial := i + 1, blocks := AMap.put c.blocks i blk }
    ws.zipIdx.foldl (fun s (w, j) =>
      let wp : Warp := { did := g.did, didNow := g.did, wid := j, blk := some i, blkx := g.next % g.gx, blky := g.next / g.gx % g.gy, blkz := g.next / g.gx / g.gy,
                         nwarp := g.desc.nwarp, arga := g.arga, argb := g.argb, tree := g.tree, meetLimit := g.desc.meet, blocks := g.desc.vblocks,
                         wld := allLanes, view := view, baseView := view }
      enterWarp s k w wp g.desc.entry (if g.seed then 5 else 3)) s

/-- A seed block's dispatch: the descriptor's counts stay with the tree, which binds the current generations (R114, R222). -/
def bindTree (s : State) (p : Nat) (g : Grid) : State :=
  match g.tree with
  | none => s
  | some t => { s with trees := AMap.modify s.trees t fun tr => { tr with blocks := g.desc.vblocks, meet := g.desc.meet, bound := (partAt s p).current, dispatched := true } }

/-- DISPATCH_BLOCK (R121, R123, R124): the dispatcher places the next block, after every request that has reached it has its place in the order. -/
def execDispatchBlock (p : Nat) (s : State) : Event :=
  if (partAt s p).launches.any fun l => decide (l.due ≤ (partAt s p).clk) then .next s
  else match nextGridOf s p with
  | none => .next s
  | some g => match coreForBlock s p g with
    | none => .next s
    | some k =>
      let s := if g.seed then bindTree s p g else s
      let s := (placeBlock s k g).modSlice (coreSlice k) fun sl => { sl with cool := 8 }
      let last := decide (g.gx * g.gy * g.gz ≤ g.next + 1)
      let step := fun (h : Grid) => if h.id = g.id then { h with next := h.next + 1 } else h
      .next (s.modPart p fun pt => { pt with grids := if last then pt.grids.filter fun h => decide (h.id ≠ g.id) else pt.grids.map step })

/-! ## Retirement (R117, R118) -/

/-- The writes of some domains on a core are released at partition scope; the tree remembers what was, and what they had not published to the system
(R118, R388). -/
def releaseUnit (s : State) (k : Nat) (tree : Option Nat) (dids : List (BitVec 16)) : State :=
  dids.foldl (fun s did =>
    let sig := releaseSig (coreAt s k) did 3
    let sys := releaseSig (coreAt s k) did 5
    let s := match tree with
      | some t => { s with trees := AMap.modify s.trees t fun tr => { tr with wrote := tr.wrote ||| sig, wroteSys := tr.wroteSys ||| sys } }
      | none => s
    publishWrites s k did 3) s

/-- A unit of a tree has retired: it is counted off (R116). -/
def unitRetired (s : State) (tree : Option Nat) (n : Nat) : State := addTree s tree (-(n : Int))

/-- A warp's open batch is closed without an arrival (R252). -/
def Matrix.closeFor (m : Matrix) (w age : Nat) : Matrix :=
  match m.batch with
  | some b => if b.w = w ∧ b.warpAge = age then { m with batch := none } else m
  | none => m

/-- The same of its batch that waits to be reopened. -/
def closeSaved (s : State) (k w age : Nat) : State :=
  { s with reopen := s.reopen.map fun (r : Reopen) => if r.core = k then { r with matrix := r.matrix.closeFor w age } else r }

/-- A warp leaves its slot: its writes, those it made inside gates too, are released (R118); its granules are freed, its open batch closes; with the
last warp of a block its allotment is freed, with a loose warp its window. -/
def retireWarp (s : State) (k w : Nat) (wp : Warp) : State :=
  let s := (closeSaved s k w wp.age).modCore k fun c =>
    freeGranule { c with warps := AMap.del c.warps w, matrix := c.matrix.closeFor w wp.age } wp.did (w / 16) (granulesFor wp.blocks) (worldOf c wp.didNow)
  let s := releaseUnit s k wp.tree (wp.did :: wp.gated)
  match wp.loose, wp.blk with
  | some n, _ => unitRetired s wp.tree n
  | none, some i =>
    (match AMap.get? (coreAt s k).blocks i with
    | none => s
    | some b =>
      if b.live ≤ 1 then unitRetired (s.modCore k fun c => { c with blocks := AMap.del c.blocks i }) b.tree 1
      else s.modCore k fun c => { c with blocks := AMap.put c.blocks i { b with live := b.live - 1 } })
  | none, none => s

/-- WARP_RETIRE (R117): a warp with no lane and no count outstanding retires. -/
def execWarpRetire (k w : Nat) (s : State) : Event :=
  match warpAt s k w with
  | none => .next s
  | some wp =>
    if !isCompute k || !wp.mayRetire || treeHeld s wp.tree then .next s
    else .next (retireWarp s k w wp)

end Sys2Proof.Machine
end

