-- ==== Sys2Proof/Machine/Firmware.lean ====
section
/-! DEFINITION. Sys2Proof/Machine/Firmware.lean: the firmware cores: queues and packets (R384 to R391, R416), the journal (R392 to R395), cistern copies (R222). -/

namespace Sys2Proof.Machine

/-! ## Queue descriptors (R384, R385) -/

/-- The fields of a queue descriptor that are read. -/
structure QDesc where
  key : Nat
  ring : DWord
  slice : Nat
  prio : Nat
  lsize : Nat
  did : BitVec 16
  wake : Nat
  read : Nat
  err : Nat
  ok : Bool
deriving DecidableEq, Repr

/-- The key of the descriptor of a queue. -/
def queueKey (s : State) (p q : Nat) : Option Nat :=
  let pt := partAt s p
  if q < pt.queueCount then keyOfVa s p 0xFFFF (pt.queueTable + BitVec.ofNat 64 (64 * q)) else none

/-- The descriptor of a queue. -/
def queueDesc (s : State) (p q : Nat) : Option QDesc :=
  (queueKey s p q).map fun key =>
    let w8 := memNat s (key + 8) 4
    let ring := memNat s key 8
    let lsize := bitsN w8 4 0
    { key := key, ring := BitVec.ofNat 64 ring, slice := bitsN w8 20 16, prio := bitsN w8 10 8, lsize := lsize, did := BitVec.ofNat 16 (memNat s (key + 12) 2),
      wake := memNat s (key + 16) 8, read := memNat s (key + 24) 8, err := memNat s (key + 32) 4,
      ok := decide (ring % 4096 = 0) && decide (bitsN w8 31 21 = 0) && decide (bitsN w8 15 11 = 0) && decide (bitsN w8 7 5 = 0) && decide (4 ≤ lsize) && decide (lsize ≤ 16)
        && decide (memNat s (key + 36) 28 = 0) }

/-- A queue has packets to parse, or a write index that its firmware must still refuse, and is neither blocked nor in error (R391). -/
def queueEligible (s : State) (p slice q : Nat) : Bool :=
  match queueDesc s p q with
  | none => false
  | some d => decide (d.slice = slice) && decide (d.err = 0) && decide (d.wake ≠ d.read) && (AMap.getD (partAt s p).queues q {}).blocked.isNone

/-! ## The resident set (R122, R391) -/

/-- Rank of an eligible queue, lower first: priority, last residence, index. -/
def queueRank (s : State) (p q : Nat) : Nat × Nat × Nat :=
  (7 - (match queueDesc s p q with | some d => d.prio | none => 0), (AMap.getD (partAt s p).queues q {}).lastResident, q)

def rankLess (a b : Nat × Nat × Nat) : Bool :=
  decide (a.1 < b.1) || (decide (a.1 = b.1) && (decide (a.2.1 < b.2.1) || (decide (a.2.1 = b.2.1) && decide (a.2.2 < b.2.2))))

/-- A queue put into a list that is in rank order. -/
def insertRank (s : State) (p q : Nat) : List Nat → List Nat
  | [] => [q]
  | r :: rs => if rankLess (queueRank s p q) (queueRank s p r) then q :: r :: rs else r :: insertRank s p q rs

/-- The eligible queues of a slice, best first. -/
def eligibleQueues (s : State) (p slice : Nat) : List Nat :=
  let v := s.seenBy p slice
  ((List.range (partAt v p).queueCount).filter (queueEligible v p slice)).foldl (fun l q => insertRank v p q l) []

/-- A queue leaves the resident set of a slice now. -/
def leaveLane (s : State) (p slice l : Nat) : State :=
  match AMap.get? (sliceAt s slice).lanes l with
  | none => s
  | some ln =>
    let now := (coreAt s (640 + slice)).clk.toNat
    let s := s.modPart p fun pt => { pt with queues := AMap.put pt.queues ln.queue { AMap.getD pt.queues ln.queue {} with lastResident := now, slice := slice } }
    s.modSlice slice fun sl => { sl with lanes := AMap.del sl.lanes l, serving := AMap.del sl.serving l }

/-- A queue becomes resident on a lane. -/
def enterLane (s : State) (p slice l q : Nat) : State :=
  let s := s.modPart p fun pt => { pt with queues := AMap.put pt.queues q { AMap.getD pt.queues q {} with slice := slice } }
  s.modSlice slice fun sl => { sl with lanes := AMap.put sl.lanes l { queue := q } }

/-- The settings of service 0x0001 take effect for a slice; with the last slice of the partition they are in force for all of it, the journal too, and
queues in error are served again (R380, R384; log entry 79). -/
def applySetup (s : State) (p slice : Nat) : State :=
  match (partAt s p).setup with
  | none => s
  | some ws =>
    let w := fun i => ws.getD i 0
    let s := s.modPart p fun pt => { pt with adopted := insertNat slice pt.adopted }
    if !(partAt s p).slices.all fun n => (partAt s p).adopted.contains n then s
    else
    let s := s.modPart p fun pt =>
      let moved := decide (pt.journalVa ≠ pairW (w 14) (w 15)) || decide (pt.journalSize ≠ (w 16).toNat)
      { pt.withSetup ws with journalVa := pairW (w 14) (w 15), journalSize := (w 16).toNat, journal := if moved then [] else pt.journal,
                             journalNext := if moved then 0 else pt.journalNext, discarded := if moved then [] else pt.discarded, setup := none, adopted := [] }
    (List.range (partAt s p).queueCount).foldl (fun s q => match queueDesc s p q with
      | some d => if d.err = 0 then s else homeWriteNat s (d.key + 32) 4 0
      | none => s) s

/-- Blocked queues of a slice whose signal has reached its operand become eligible (R391). -/
def checkBlocked (s : State) (p slice : Nat) : State :=
  s.modPart p fun pt => { pt with queues := pt.queues.map fun (q, i) => match i.blocked with
    | some (key, operand) => if i.slice = slice ∧ operand.toNat ≤ memNat s key 8 then (q, { i with blocked := none }) else (q, i)
    | none => (q, i) }

/-- A quantum of a slice's firmware core has ended (R122, R391). -/
def quantumOver (s : State) (n : Nat) : Bool :=
  match (sliceAt s n).part with
  | some p => decide ((sliceAt s n).swapAt + max 1 (partSeen s p n).quantum ≤ (coreAt s (640 + n)).clk.toNat)
  | none => false

/-- QUANTUM_END (R122, R380, R391): a swap takes place between packets, so not while a step serves them. -/
def execQuantumEnd (slice : Nat) (s : State) : Event :=
  match (sliceAt s slice).part with
  | none => .next s
  | some p =>
    if !(sliceAt s slice).serving.isEmpty || !quantumOver s slice then .next s
    else
    let s := s.modSlice slice fun sl => { sl with swapAt := (coreAt s (640 + slice)).clk.toNat }
    let s := checkBlocked (applySetup s p slice) p slice
    let s := (List.range 32).foldl (fun s l => leaveLane s p slice l) s
    .next (((eligibleQueues s p slice).take 32).zipIdx.foldl (fun s (q, l) => enterLane s p slice l q) s)

/-! ## Fetching (R385, R416) -/

/-- The key of the packet at an index of a queue's ring. -/
def packetKey (s : State) (p slice : Nat) (d : QDesc) : Option Nat := keyOfVa (s.seenBy p slice) p 0xFFFF (d.ring + BitVec.ofNat 64 (64 * (d.read % 2 ^ d.lsize)))

/-- A sector that a firmware lane reads: through its core's data cache, which it fills (R216, R227). -/
def laneSector (s : State) (slice sector : Nat) : List Byte × State :=
  match l1Sector (coreAt s (640 + slice)) 0xFFFF sector with
  | some q => (cellsRead q.bytes (32 * sector) 32, s.modCore (640 + slice) fun c => l1Touch c 0xFFFF (sector / 4))
  | none =>
    let q : L1Sector := { sector := sector, bytes := cellsIn s.mem (32 * sector) 32 }
    (cellsRead s.mem (32 * sector) 32, s.modCore (640 + slice) fun c => l1Fill (640 + slice) c 0xFFFF q)

/-- The 64 bytes of a packet, two sectors. -/
def packetAt (s : State) (slice key : Nat) : BitVec 512 × State :=
  let (lo, s) := laneSector s slice (key / 32)
  let (hi, s) := laneSector s slice (key / 32 + 1)
  (BitVec.ofNat 512 (leNat (lo ++ hi)), s)

/-- PACKET_FETCH: a lane reads wake at its home (DEDUCED, log entry 12), acquires at scope 5 and reads its next packet; a descriptor in error is
marked. What is shut waits (R368, R383). -/
def execPacketFetch (slice lane : Nat) (s : State) : Event :=
  match (sliceAt s slice).part, AMap.get? (sliceAt s slice).lanes lane with
  | some p, some ln =>
    if ln.packet.isSome then .next s
    else match queueDesc (s.seenBy p slice) p ln.queue with
      | none => .next s
      | some d =>
        if d.err ≠ 0 ∨ d.slice ≠ slice ∨ keyShut s d.key then .next s
        else if !d.ok then .next (laneWrite s slice (d.key + 32) 4 1)
        else if d.wake < d.read ∨ 2 ^ d.lsize < d.wake - d.read then .next (laneWrite s slice (d.key + 32) 4 2)
        else if d.wake = d.read then .next s
        else match packetKey s p slice d with
          | none => .next (laneWrite s slice (d.key + 32) 4 1)
          | some key =>
            if keyShut s key then .next s
            else
            let (pkt, s) := packetAt (acquire s (640 + slice) 0xFFFF 5) slice key
            .next (s.modSlice slice fun sl => { sl with lanes := AMap.put sl.lanes lane { ln with packet := some pkt, index := d.read } })
  | _, _ => .next s

/-! ## Parsing (R386, R387) -/

/-- Type of a packet, with every unknown type as 0. -/
def pktType (pkt : BitVec 512) : Nat := let t := pktNat pkt 0 1; if t ≤ 6 then t else 0

/-- The order in which types are served (R391); an unknown type is served with NOP. -/
def typeRank (t : Nat) : Nat := match t with | 2 => 0 | 3 => 1 | 4 => 2 | 5 => 3 | 6 => 4 | _ => 5

/-- A packet whose wait bit holds it: a tree or cistern copy of an earlier packet of its queue is not complete (R386). -/
def pktWaits (s : State) (p : Nat) (ln : Lane) (pkt : BitVec 512) : Bool := (pktNat pkt 1 1 % 2 = 1) && !(AMap.getD (partAt s p).queues ln.queue {}).open_.isEmpty

/-- A lock-step step begins where none runs, with every lane whose packet may be parsed: 16 cycles for each type among them, in the order of
R391 (R416). -/
def beginServing (s : State) (p n : Nat) : List (Nat × Nat) :=
  let held := (sliceAt s n).lanes.filterMap fun (l, ln) => match ln.packet with
    | some pkt => if pktWaits s p ln pkt then none else some (l, typeRank (pktType pkt))
    | none => none
  held.map fun (l, r) => (l, 16 * (List.range (r + 1)).countP fun o => held.any fun h => decide (h.2 = o))

/-- An arithmetic cycle of the firmware core of a slice and of its partition's dispatcher (R124, R416). -/
def tickSlice (s : State) (n : Nat) (sl : Slice) : Slice :=
  let sl := { sl with cool := sl.cool - 1 }
  match sl.part with
  | none => sl
  | some p =>
    if !sl.serving.isEmpty then { sl with stepAge := sl.stepAge + 1 }
    else if quantumOver s n then sl
    else { sl with serving := beginServing s p n, stepAge := 0 }

/-- An arithmetic cycle of every dispatcher and firmware core. -/
def tickDispatch (s : State) : State :=
  { s with parts := s.parts.map fun (p, pt) => (p, { pt with clk := pt.clk + 1 }), slices := s.slices.map fun (n, sl) => (n, tickSlice s n sl) }

/-- The next place of the journal's ring. -/
def journalKey (s : State) (p : Nat) : Option Nat :=
  let pt := partAt s p
  if pt.journalSize = 0 then none else keyOfVa s p 0xFFFF (pt.journalVa + BitVec.ofNat 64 (16 * (pt.journalNext % pt.journalSize)))

/-- The words of memory that the parse of a packet may read or write. -/
def packetKeys (s : State) (p slice : Nat) (d : QDesc) (pkt : BitVec 512) : List Nat :=
  let v := s.seenBy p slice
  d.key :: ([statusKey s p slice d.did pkt, signalKey s p slice d.did pkt, journalKey s p] ++ [16, 24].map fun o => keyOfVa v p d.did (pktVa pkt o)).filterMap id

/-- What a parse works on. -/
structure Parse where
  p : Nat
  slice : Nat
  lane : Nat
  ln : Lane
  d : QDesc
  pkt : BitVec 512

/-- The packet that a lane parses now, if it is of one of some types: the running step serves it, and the cycles of its type and of those served
before it have passed (R416). -/
def parseAt (s : State) (slice lane : Nat) (mine : Nat → Bool) : Option Parse :=
  match (sliceAt s slice).part, AMap.get? (sliceAt s slice).lanes lane with
  | some p, some ln => match ln.packet, queueDesc (s.seenBy p slice) p ln.queue with
    | some pkt, some d =>
      let due := match AMap.get? (sliceAt s slice).serving lane with
        | some n => decide (n ≤ (sliceAt s slice).stepAge) && (sliceAt s slice).serving.all fun o => decide (n ≤ o.2)
        | none => false
      if mine (pktType pkt) && due && !(packetKeys s p slice d pkt).any (keyShut s) then some { p := p, slice := slice, lane := lane, ln := ln, d := d, pkt := pkt } else none
    | _, _ => none
  | _, _ => none

/-- The packet has been parsed: read moves on, and the lane may fetch the next. -/
def parsed (x : Parse) (s : State) : State :=
  let s := laneWrite s x.slice (x.d.key + 24) 8 (x.ln.index + 1)
  s.modSlice x.slice fun sl => { sl with lanes := AMap.modify sl.lanes x.lane fun ln => { ln with packet := none }, serving := AMap.del sl.serving x.lane }

/-- Completion with a status (R388), after the packet's parse. -/
def complete (x : Parse) (s : State) (status : Nat) : State := completePacket (parsed x s) x.p x.slice x.d.did x.pkt status 0

/-- PACKET-ERROR and LAUNCH-ERROR of a detail. -/
def packetError (detail : Nat) : Nat := 2 + 256 * detail
def launchError (detail : Nat) : Nat := 1 + 256 * detail

/-- The common fields of the header word (R386). -/
def headerOk (pkt : BitVec 512) : Bool := decide (bitsN (pktNat pkt 0 4) 15 10 = 0) && decide (pktNat pkt 2 2 = 64) && decide (pktType pkt ≠ 0)

/-! ## The journal (R393, R394) -/

/-- The entry of an identifier. -/
def journalFind (s : State) (p id : Nat) : Option JEntry := (partAt s p).journal.find? fun e => decide (e.id.toNat = id)

/-- An entry joins the ring; a full ring discards its oldest, whose sequence number is remembered. -/
def journalAdd (s : State) (slice p : Nat) (e : JEntry) : State :=
  let pt := partAt s p
  if pt.journalSize = 0 then s
  else
    let full := decide (pt.journalSize ≤ pt.journal.length)
    let disc := match pt.journal with
      | o :: _ => if full then AMap.put pt.discarded (o.id.toNat / 2 ^ 48) (max (AMap.getD pt.discarded (o.id.toNat / 2 ^ 48) 0) (o.id.toNat % 2 ^ 48)) else pt.discarded
      | [] => pt.discarded
    let key := journalKey s p
    let s := s.modPart p fun pt => { pt with journal := (if full then pt.journal.drop 1 else pt.journal) ++ [e], discarded := disc, journalNext := pt.journalNext + 1 }
    match key with
    | some key => laneWrite s slice key 16 (e.id.toNat + 2 ^ 64 * e.status + 2 ^ 96 * e.result.toNat)
    | none => s

/-- A journaled packet: STALE, or its effect and its entry together. The effect answers its status and the state. -/
def journaled (x : Parse) (s : State) (result : Word) (eff : State → Nat × State × Bool) : State :=
  let id := pktNat x.pkt 56 8
  if id ≠ 0 ∧ (journalFind s x.p id).isSome then complete x s 3
  else if id ≠ 0 ∧ id / 2 ^ 48 ≠ (partAt s x.p).generation.toNat then complete x (journalAdd s x.slice x.p { id := BitVec.ofNat 64 id, status := 3, result := result }) 3
  else
    let (status, s, done) := eff s
    let s := if id = 0 then s else journalAdd s x.slice x.p { id := BitVec.ofNat 64 id, status := status, result := result }
    if done then complete x s status else parsed x s

/-! ## The packets (R387) -/

/-- A queue's packet has work that is not complete (R386). -/
def openWork (s : State) (p q o : Nat) : State :=
  let info := AMap.getD (partAt s p).queues q {}
  s.modPart p fun pt => { pt with queues := AMap.put pt.queues q { info with open_ := o :: info.open_ } }

/-- PACKET_NOP: a NOP, and a packet of an unknown type. -/
def execPacketNop (slice lane : Nat) (s : State) : Event :=
  match parseAt s slice lane fun t => t ≤ 1 with
  | none => .next s
  | some x => .next (if pktType x.pkt = 1 then parsed x s else complete x s (packetError 0))

/-- Steps between two dies of the 2 by 4 grid (R226). -/
def dieSteps (a b : Nat) : Nat := (a / 4 - b / 4) + (b / 4 - a / 4) + (a % 4 - b % 4) + (b % 4 - a % 4)

/-- The dispatcher's cycle in which a request made in the running step of a slice reaches it: 12 cycles after the step ends, and 20 more for each
step between dies; the dispatcher stands on the die of the partition's lowest slice (R416). -/
def requestDue (s : State) (p n : Nat) : Nat :=
  let sl := sliceAt s n
  (partAt s p).clk + ((sl.serving.foldl (fun m e => max m e.2) 0) - sl.stepAge) + 12 + 20 * dieSteps (sliceDie n) (sliceDie ((partAt s p).slices.headD 0))

/-- The launch of a SEED: its status, and whether its completion is made now. -/
def seedEffect (x : Parse) (s : State) : Nat × State × Bool :=
  let fail := fun (st : Nat) => (st, s, true)
  if !headerOk x.pkt then fail (packetError 0)
  else if pktNat x.pkt 12 4 ≠ 0 ∨ pktNat x.pkt 24 8 % 8 ≠ 0 then fail (packetError 1)
  else if (domainCore s x.p x.d.did).isNone then fail (launchError 3)
  else match firmwareDesc (s.seenBy x.p x.slice) x.p x.d.did (pktVa x.pkt 16), notCistern (keyOfVa (s.seenBy x.p x.slice) x.p x.d.did (pktVa x.pkt 24)) with
    | some d, some key =>
      if (launchRefused s x.p x.d.did d).isSome then fail (launchError 2)
      else
        let t := s.nextTree
        let tree : Tree := { part := x.p, did := x.d.did, counter := key, counterVa := pktVa x.pkt 24, slice := x.slice, lane := x.lane, queue := x.ln.queue, prio := x.d.prio,
                             blocks := d.vblocks, meet := d.meet, packet := x.pkt }
        let grid : Grid := { id := 0, tree := some t, did := x.d.did, desc := d, arga := w32 (pktNat x.pkt 4 4), argb := w32 (pktNat x.pkt 8 4), prio := x.d.prio,
                             slice := x.slice, seed := true }
        let launch : Launch := { slice := x.slice, lane := x.lane, grid := grid, due := requestDue s x.p x.slice }
        let s := laneWrite s x.slice key 8 1
        let s := { s with trees := AMap.put s.trees t tree, nextTree := t + 1 }
        let s := s.modPart x.p fun pt => { pt with launches := pt.launches ++ [launch] }
        (0, openWork s x.p x.ln.queue (2 * t), false)
    | _, _ => fail (launchError 1)

/-- PACKET_SEED: the tree, its counter and a launch request; a SEED that fails completes at once. -/
def execPacketSeed (slice lane : Nat) (s : State) : Event :=
  match parseAt s slice lane fun t => t = 2 with
  | none => .next s
  | some x => .next (journaled x s (w32 (pktNat x.pkt 24 4)) (seedEffect x))

/-- PACKET_SIGNAL. -/
def execPacketSignal (slice lane : Nat) (s : State) : Event :=
  match parseAt s slice lane fun t => t = 3 with
  | none => .next s
  | some x => .next (journaled x s 0 fun s =>
      (if !headerOk x.pkt then packetError 0 else if pktNat x.pkt 4 28 ≠ 0 then packetError 1 else 0, s, true))

/-- A queue blocks: it leaves its lane, which takes the best eligible queue that is not resident (R391). -/
def blockQueue (x : Parse) (s : State) (key : Nat) (operand : DWord) : State :=
  let s := leaveLane s x.p x.slice x.lane
  let s := s.modPart x.p fun pt => { pt with queues := AMap.modify pt.queues x.ln.queue fun i => { i with blocked := some (key, operand) } }
  let resident := fun (q : Nat) => (sliceAt s x.slice).lanes.any fun (_, o) => decide (o.queue = q)
  match (eligibleQueues s x.p x.slice).find? fun q => !resident q with
  | some q => enterLane s x.p x.slice x.lane q
  | none => s

/-- PACKET_WAITSIG: it completes once the signal has reached the operand, else its queue blocks. -/
def execPacketWaitsig (slice lane : Nat) (s : State) : Event :=
  match parseAt s slice lane fun t => t = 4 with
  | none => .next s
  | some x =>
    if !headerOk x.pkt then .next (complete x s (packetError 0))
    else if pktNat x.pkt 16 8 % 8 ≠ 0 then .next (complete x s (packetError 1))
    else match keyOfVa (s.seenBy x.p x.slice) x.p x.d.did (pktVa x.pkt 16) with
      | none => .next (complete x s (packetError 2))
      | some key =>
        if pktNat x.pkt 24 8 ≤ memNat s key 8 then .next (complete x s 0) else .next (blockQueue x s key (pktVa x.pkt 24))

/-- The frames of a cistern range belong to a domain (R320). -/
def rangeOwned (s : State) (p : Nat) (did : BitVec 16) (off len : Nat) : Bool :=
  (List.range (ceilDiv (off % 16 + len) 16)).all fun i =>
    let e := potAt s (cisternKey (4096 * off / 65536 * 65536 + 65536 * i))
    decide (e.owner = did) && (e.world == domainWorld s p did)

/-- The copy of a CISTERN packet enters the waiting writes; its completion is made when it has been performed. -/
def cisternEffect (x : Parse) (s : State) : Nat × State × Bool :=
  let fail := fun (st : Nat) => (st, s, true)
  let off := bitsN (pktNat x.pkt 16 4) 21 0
  let len := pktNat x.pkt 20 4
  let src := pktVa x.pkt 8
  if !headerOk x.pkt then fail (packetError 0)
  else if bitsN (pktNat x.pkt 16 4) 31 22 ≠ 0 ∨ 3145728 ≤ off ∨ len = 0 ∨ 16384 < len ∨ 16384 < off % 16384 + len ∨ src.toNat % 4096 ≠ 0 then fail (packetError 1)
  else
    let keys := (List.range len).map fun i => keyOfVa (s.seenBy x.p x.slice) x.p x.d.did (src + BitVec.ofNat 64 (4096 * i))
    if keys.any Option.isNone then fail (packetError 2)
    else if !regionOf s x.p (off / 16384) || !rangeOwned s x.p x.d.did off len then fail (packetError 3)
    else
      let w : CisternWrite := { part := x.p, did := x.d.did, offset := 4096 * off, pages := keys.filterMap id, packet := some (x.ln.queue, x.d.did, x.pkt) }
      (0, openWork { s with cisternWrites := s.cisternWrites ++ [w] } x.p x.ln.queue (2 * w.offset + 1), false)

/-- PACKET_CISTERN. -/
def execPacketCistern (slice lane : Nat) (s : State) : Event :=
  match parseAt s slice lane fun t => t = 5 with
  | none => .next s
  | some x => .next (journaled x s 0 (cisternEffect x))

/-- The answer to a query of an identifier, and whether the QUERY journals it as ABSENT (R395). -/
def queryAnswer (s : State) (p id : Nat) : Nat × Word × Bool :=
  let pt := partAt s p
  let gen := id / 2 ^ 48
  match journalFind s p id with
  | some e => if e.status % 256 < 3 then (e.status, e.result, false) else (4, 0, false)
  | none =>
    let newer : Bool := match AMap.get? pt.discarded gen with | some hd => decide (hd < id % 2 ^ 48) | none => true
    if newer then (4, 0, decide (gen = pt.generation.toNat)) else (5, 0, false)

/-- PACKET_QUERY. -/
def execPacketQuery (slice lane : Nat) (s : State) : Event :=
  match parseAt s slice lane fun t => t = 6 with
  | none => .next s
  | some x =>
    if !headerOk x.pkt then .next (complete x s (packetError 0))
    else
      let id := pktNat x.pkt 16 8
      match notCistern (keyOfVa (s.seenBy x.p x.slice) x.p x.d.did (pktVa x.pkt 24)) with
      | none => .next (complete x s (packetError 1))
      | some key =>
        if id = 0 ∨ pktNat x.pkt 24 8 % 8 ≠ 0 then .next (complete x s (packetError 1))
        else
          let (status, result, absent) := queryAnswer s x.p id
          let s := if absent then journalAdd s x.slice x.p { id := BitVec.ofNat 64 id, status := 4, result := 0 } else s
          let s := laneWrite s x.slice key 8 (status + 2 ^ 32 * result.toNat)
          .next (complete x s 0)

/-! ## Starting the firmware (R392, R407) -/

/-- An image that the headgate accepts (R407). -/
def imageOk (s : State) (i : FirmwareImage) : Bool := i.ecdsaOk && i.lmsOk && i.bodyOk && decide (s.rollback ≤ i.version) && decide (i.version ≤ 63)

/-- An image is taken into use, after the fuses are blown up to its version (R407). -/
def takeImage (s : State) (i : FirmwareImage) : State := { s with rollback := max s.rollback i.version, firmware := some i }

/-- The firmware core of a slice runs. -/
def firmwareUp (s : State) (n : Nat) : State := s.modCore (640 + n) fun c => { c with held := false }

/-- The firmware of a slice starts, in some tries more: whether a try fails is a free value. When every try has failed, the headgate fetches the recovery image
and starts the slice from it if it accepts it; else the firmware core stays at reset (R407; log entry 95). -/
def tryFirmware (n : Nat) : Nat → State → State
  | 0, s =>
    let s' := { s with free := s.free + 1 }
    match Config.recoveryImage s.free with
    | some i => if imageOk s i then firmwareUp (takeImage s' i) n else s'
    | none => s'
  | tries + 1, s =>
    let s' := { s with free := s.free + 1 }
    if Config.freeBool s.free then firmwareUp s' n else tryFirmware n tries s'

/-- The firmware of a slice starts: three failures in a row bring the recovery image (R407). -/
def startFirmware (s : State) (n : Nat) : State := tryFirmware n 3 (s.modCore (640 + n) fun c => { c with held := true })

/-- A message of the firmware or the headgate to service core 0 of a partition's lowest slice. -/
def notifyLowest (s : State) (p : Nat) (m : Word) : State := deliverMsg s (512 + 4 * (partAt s p).slices.headD 0) m

/-- FIRMWARE_RESTART: queues are parsed again from their read indexes, the generation advances, the kernel is told. -/
def execFirmwareRestart (p : Nat) (s : State) : Event :=
  if (partAt s p).slices.isEmpty then .next s
  else
    let s := (partAt s p).slices.foldl (fun s n => s.modSlice n fun sl => { sl with lanes := [], serving := [] }) s
    let s := (partAt s p).slices.foldl startFirmware s
    let s := s.modPart p fun pt => { pt with generation := pt.generation + 1, queues := pt.queues.map fun (q, i) => (q, { i with blocked := none }) }
    .next ((notifyLowest s p (w32 (0x10000 + (partAt s p).generation.toNat))).logEvent 5 p ((partAt s p).slices.headD 0))

/-! ## Cistern writes (R222) -/

/-- HGMB returns: the status stands in word 0 of the response and in d (R308, R322). -/
def hgmbDone (s : State) (k : Nat) (lo status : Nat) (d : Reg) : State := superDone (homeWriteNat s lo 4 status) k d status

/-- A cistern write is performed, with the marks of uncorrectable lines. -/
def performCistern (s : State) (w : CisternWrite) (bs : List Byte) (bad : List Nat) : State :=
  bad.foldl (fun s j => memMark s (cisternKey w.offset + 128 * j) 128) (cisternWrite s (regionSlice (w.offset / 2 ^ 26)) w.part w.did w.offset bs w.skip)

/-- CISTERN_WRITE_START: a write that no tree and no current bit blocks is performed, or refused where its region has left the partition
(R223); what waits for it goes on. -/
def execCisternWriteStart (i : Nat) (s : State) : Event :=
  match s.cisternWrites[i]? with
  | none => .next s
  | some w =>
    let ok := regionOf s w.part (w.offset / 2 ^ 26)
    if ok && cisternBlocked s w.part (w.offset / 2 ^ 26) then .next s
    else match (if ok then w.content s else some ([], [], s)) with
      | none => .next s
      | some (bs, bad, s) =>
        let s := cisternDone { (if ok then performCistern s w bs bad else s) with cisternWrites := s.cisternWrites.eraseIdx i } w ok
        match w.core with
        | none => .next s
        | some k => match (coreAt s k).svc.op with
          | some (.hgmb 0x43 lo _ _ d) => .next (hgmbDone s k lo (if ok then 0 else 1) d)
          | _ => .next s

end Sys2Proof.Machine
end

