-- ==== Sys2Proof/Machine/Gates.lean ====
section
/-! DEFINITION. Sys2Proof/Machine/Gates.lean: call gates, tree queries and scrubbing by program (R282 to R289, R323): opcodes 0xB0 to 0xB3. -/

namespace Sys2Proof.Machine

/-! ## Frames (R284 steps 7 and 8, R286, R287) -/

/-- Converged (R284). -/
def Warp.converged (wp : Warp) : Bool :=
  match wp.gangs with
  | [(_, gn)] => decide (gn.mask = wp.wld) && gn.pending.isEmpty && gn.stack.all fun e => decide (e.held = 0)
  | _ => false

/-- The warp owns an open batch, or one that waits to be reopened (R252, R311). -/
def ownsBatch (x : Ctx) : Bool :=
  let mine := fun (m : Matrix) => match m.batch with | some b => decide (b.w = x.w) && decide (b.warpAge = x.wp.age) | none => false
  mine x.c.matrix || x.s.reopen.any fun r => decide (r.core = x.k) && mine r.matrix

/-- A gate fault of a detail. -/
def gateFault (detail : Nat) : Trap := { cause := 0x0F, detail := detail }

/-- Steps 7 to 9 of R284 in a warp: the frame, the cleared registers, the domain in force, the window. -/
def Warp.enterGate (wp : Warp) (g : Nat) (gn : Gang) (d : Reg) (e : GateEntry) : Warp :=
  let keep := fun (n : Nat) (i : Nat) => decide (i < n)
  let fr : GateFrame := { nargs := e.nargs, vregs := wp.vregs.filter fun (i, _) => !keep (32 * e.nargs) i, vpoison := wp.vpoison.filter fun (i, _) => !keep e.nargs i,
                          sregs := wp.sregs.filter fun (i, _) => !keep 16 i, spoison := wp.spoison.filter fun (i, _) => !keep 16 i,
                          preds := wp.preds, ppoison := wp.ppoison, mode := gn.mode, stack := gn.stack, ret := nextSlot gn.pc, dst := d, caller := wp.didNow,
                          view := wp.view }
  { wp with frames := fr :: wp.frames, vregs := wp.vregs.filter fun (i, _) => keep (32 * e.nargs) i, vpoison := wp.vpoison.filter fun (i, _) => keep e.nargs i,
            sregs := wp.sregs.filter fun (i, _) => keep 16 i, spoison := wp.spoison.filter fun (i, _) => keep 16 i, preds := [], ppoison := [], latch := [],
            didNow := e.target, view := { wp.view with base := wp.view.base + e.base, size := e.bytes },
            gangs := AMap.put wp.gangs g { gn with stack := [], mode := 0x27 } }

/-- The top frame restored over the arguments and results that stay (R286 step 2). -/
def Warp.restoreFrame (wp : Warp) (g : Nat) (gn : Gang) (fr : GateFrame) (rest : List GateFrame) : Warp :=
  { wp with frames := rest, vregs := (wp.vregs.filter fun (i, _) => decide (i < 32 * fr.nargs)) ++ fr.vregs,
            vpoison := (wp.vpoison.filter fun (i, _) => decide (i < fr.nargs)) ++ fr.vpoison,
            sregs := (wp.sregs.filter fun (i, _) => decide (i < 16)) ++ fr.sregs, spoison := (wp.spoison.filter fun (i, _) => decide (i < 16)) ++ fr.spoison,
            preds := fr.preds, ppoison := fr.ppoison, latch := [], didNow := fr.caller, view := fr.view,
            gangs := AMap.put wp.gangs g { gn with stack := fr.stack, mode := fr.mode } }

/-- The return from a gate: the frame and 0 in the GATE's register (R286 steps 2 and 4). -/
def Warp.leaveGate (wp : Warp) (g : Nat) (gn : Gang) : Warp :=
  match wp.frames with
  | [] => wp
  | fr :: rest => (wp.restoreFrame g gn fr rest).dstS fr.dst 1 0

/-! ## GATE (R283, R284, R323) -/

/-- The translation of a gate table entry, read as the calling domain. -/
def gateKey (x : Ctx) (va : DWord) : Except Stop Nat :=
  match tlbLook x.c x.did va with
  | .notCanonical => .error (.trap { cause := 0x08, detail := 9, addr := va })
  | .refused c d => .error (.trap { cause := c, detail := d, addr := va })
  | .miss => .error (.miss x.did [va])
  | .hit e => .ok (boundKey x.s x.part x.wp.tree (e.paOf va))

/-- The table entry at a key. -/
def gateEntryAt (s : State) (key : Nat) : GateEntry :=
  let w0 := memWord s key
  { target := BitVec.ofNat 16 (bitsW w0 15 0), nargs := bitsW w0 31 24, entry := BitVec.ofNat 64 (memNat s (key + 4) 8),
    base := bitsW (memWord s (key + 12)) 19 0, bytes := bitsW (memWord s (key + 16)) 19 0 }

/-- Steps 1 to 5 of GATE with R323: the entry, or the fault of the first check that fails. A GATE into a domain that DPRE has halted on the core is
held until the domain runs (DESIGN CHOICE, log entry 15: R336 lets no gang of the domain issue, and R284 names no such check). -/
def gateChecks (x : Ctx) (n : Nat) : Except Stop GateEntry := do
  need x.wp.converged (gateFault 3)
  need (decide (x.wp.frames.length < 4)) (gateFault 4)
  need (!ownsBatch x) (gateFault 5)
  let gtab : DWord := match slotOf x.c x.did with | some (_, sl) => pairW sl.w4 sl.w5 | none => 0
  need (decide (gtab ≠ 0)) (gateFault 0)
  let key ← gateKey x (gtab + BitVec.ofNat 64 (32 * n))
  let w0 := memWord x.s key
  let e := gateEntryAt x.s key
  need (w0.getLsbD 16) (gateFault 0)
  need (decide (bitsW w0 23 17 = 0) && decide (e.nargs ≤ 128)) (gateFault 1)
  need (decide (e.base + e.bytes ≤ x.wp.view.size)) (gateFault 2)
  match slotOf x.c e.target with
  | none => .error (.trap (gateFault 6))
  | some (_, sl) =>
    need (decide (e.nargs ≤ 8 * x.wp.blocks)) (gateFault 7)
    need (!sl.w3.getLsbD 8 && !(sl.world && decide ((potAt x.s key).owner ≠ x.did))) { cause := 0x09, detail := 4 }
    wholeFault (checkTargets x e.target 1 (fun _ => e.entry) false)
    if sl.halted then .error (.hold .drain)
    return e

/-- The registers that a gate saves and restores, of which none may be pending (R18): the vector registers above the arguments, s16 to s63 and
the predicates. -/
def gateCodes (wp : Warp) (nargs : Nat) : List Nat :=
  (List.range (8 * wp.blocks - nargs)).map (nargs + ·) ++ (List.range 48).map (0x90 + ·) ++ (List.range 7).map (0xC0 + ·)

/-- A gate waits for those registers. -/
def gateRegs (x : Ctx) (nargs : Nat) : Except Stop Unit := if pendingOn x (gateCodes x.wp nargs) then .error (.hold .register) else .ok ()

/-- lc, sc and ec are 0 and the release at scope 2 has drained (R284 step 6, R286 step 1). -/
def gateDrained (s : State) (k w : Nat) (wp : Warp) (mark : Nat) : Bool :=
  decide (wp.lc = 0) && decide (wp.sc = 0) && decide (wp.ec = 0) && relReady s k wp.didNow w wp.age 2 mark

/-- Where the gate frame of a warp slot at a depth stands (R324). -/
def framePa (sl : Slot) (w depth : Nat) : Nat := (pairW sl.w6 sl.w7).toNat + 65536 + 32768 * (4 * w + depth)

/-- The frame is written into the gate save area (R284 step 7). The spec gives it no layout, so the bytes are free values (log entry 16). -/
def writeFrame (s : State) (k w depth : Nat) (caller : BitVec 16) : State :=
  match slotOf (coreAt s k) caller with
  | some (_, sl) => homeFill s (physKey (corePart s k) (framePa sl w depth)) 256
  | none => s

/-- Steps 6 to 9 of R284 once the warp is drained. -/
def passGate (s : State) (k w g : Nat) (d : Reg) (e : GateEntry) : State :=
  match warpAt s k w, gangAt s k w g with
  | some wp, some gn =>
    let s := writeFrame (publishWrites s k wp.didNow 2) k w wp.frames.length wp.didNow
    let s := s.modWarp k w fun wp => { wp.enterGate g gn d e with gated := if wp.gated.contains e.target then wp.gated else e.target :: wp.gated }
    let s := s.modCore k fun c => c.taintWarp e.target w (match AMap.get? c.warps w with | some wp => wp.view | none => {})
    acquire s k e.target 2
  | _, _ => s

/-- Steps 1 to 4 of R286 once the warp is drained. -/
def passReturn (s : State) (k w g : Nat) : State :=
  match warpAt s k w, gangAt s k w g with
  | some wp, some gn =>
    let s := publishWrites s k wp.didNow 2
    let caller := match wp.frames with | fr :: _ => fr.caller | [] => wp.didNow
    acquire ((s.modWarp k w fun wp => wp.leaveGate g gn).modCore k fun c => c.taint caller [.regFile (w / 16)]) k caller 2
  | _, _ => s

/-- GATE (R282 to R284). -/
def execGate (d : Reg) (n : BitVec 16) (s : State) : Host.Outcome State Fault Refusal :=
  run s fun x => do
    let f : Form := { op := 0xB0, classes := Reg.sz d && decide (n.toNat ≤ 63), guard := false, once := true, writes := [(d, 1)] }
    check x f
    let e ← gateChecks x n.toNat
    gateRegs x e.nargs
    let s := flushEntries x.s x.k fun _ => true
    let mark := (coreAt s x.k).nextId
    if gateDrained s x.k x.w x.wp mark then return retireTo x f (passGate s x.k x.w x.g d e) (slot0 e.entry)
    else return beginWait x f s (.gate d e mark)

/-- GATE_PROCEED (R284): the waiting GATE is drained; a target whose slot has gone or is halted meanwhile makes the GATE execute again. -/
def execGateProceed (k w : Nat) (s : State) : Event :=
  match warpAt s k w with
  | none => .next s
  | some wp => match wp.gangs with
    | [(g, gn)] => (match gn.status with
      | .waiting (.gate d e mark) =>
        if !gateDrained s k w wp mark || wp.preempt || wp.halted then .next s
        else if !(slotOf (coreAt s k) e.target).any fun p => !p.2.halted then .next (s.modGang k w g fun gn => { gn with status := .ready })
        else .next (wakeTo (passGate s k w g d e) k w g (slot0 e.entry))
      | _ => .next s)
    | _ => .next s

/-! ## GRET (R286) -/

/-- The slot after the GATE of the top frame. -/
def Warp.gateReturn (wp : Warp) : DWord := match wp.frames with | fr :: _ => fr.ret | [] => 0

/-- GRET. -/
def execGret (s : State) : Host.Outcome State Fault Refusal :=
  run s fun x => do
    let f : Form := { op := 0xB1, guard := false, once := true }
    check x f
    need (!x.wp.frames.isEmpty) (gateFault 0)
    need x.wp.converged (gateFault 3)
    need (!ownsBatch x) (gateFault 5)
    gateRegs x (match x.wp.frames with | fr :: _ => fr.nargs | [] => 0)
    let s := flushEntries x.s x.k fun _ => true
    let mark := (coreAt s x.k).nextId
    if gateDrained s x.k x.w x.wp mark then return retireTo x f (passReturn s x.k x.w x.g) x.wp.gateReturn
    else return beginWait x f s (.gret mark)

/-- GRET_PROCEED (R286). -/
def execGretProceed (k w : Nat) (s : State) : Event :=
  match warpAt s k w with
  | none => .next s
  | some wp => match wp.gangs with
    | [(g, gn)] => (match gn.status with
      | .waiting (.gret mark) =>
        if !gateDrained s k w wp mark || wp.preempt || wp.halted then .next s
        else .next (wakeTo (passReturn s k w g) k w g wp.gateReturn)
      | _ => .next s)
    | _ => .next s

/-! ## A kill inside a gate (R287) -/

/-- The argument registers, zeroed. -/
def Warp.zeroArgs (wp : Warp) (nargs : Nat) : Warp :=
  { wp with vregs := wp.vregs.filter fun (i, _) => !decide (i < 32 * nargs), vpoison := wp.vpoison.filter fun (i, _) => !decide (i < nargs),
            sregs := wp.sregs.filter fun (i, _) => !decide (i < 16), spoison := wp.spoison.filter fun (i, _) => !decide (i < 16) }

/-- The warp leaves one level of gate: it goes on after the GATE as one gang of its live lanes; the callee's loads land nowhere and its
batch closes. -/
def killGate (s : State) (k w g : Nat) (wp : Warp) (gn : Gang) (fr : GateFrame) (rest : List GateFrame) : State :=
  let s := closeSaved s k w wp.age
  let s := s.modCore k fun c =>
    { c with matrix := c.matrix.closeFor w wp.age,
             inflight := mapIf (fun ac : Access => decide (ac.w = w) && decide (ac.warpAge = wp.age)) (fun ac => { ac with dest := .none }) c.inflight }
  s.modWarp k w fun wp =>
    let wp := ((wp.restoreFrame g gn fr rest).zeroArgs fr.nargs).dstS fr.dst 1 1
    { wp with deferred := [], gangs := if wp.wld = 0 then [] else
        [(g, { pc := fr.ret, mask := wp.wld, mode := fr.mode, stack := fr.stack, dbgHalt := gn.dbgHalt, lastIssue := gn.lastIssue, inBundle := decide (slotNo fr.ret ≠ 0) })] }

/-! ## TREEQ (R288) -/

/-- What a selector gives: a doubleword, and whether the memory it was read from is uncorrectable. -/
def treeAnswer (s : State) (tree : Option Nat) (n : Nat) : Nat × Bool :=
  match tree.bind fun t => AMap.get? s.trees t with
  | none => (0, false)
  | some tr =>
    if n = 0 then (memNat s tr.counter 8, memPoisoned s tr.counter 8)
    else if n = 1 then (tr.lane % 32 + tr.prio % 8 * 256 + tr.slice % 32 * 65536, false)
    else (tr.counterVa.toNat, false)

/-- TREEQ: it counts in lc until it answers, here in the same step. -/
def execTreeq (d : Reg) (n : BitVec 16) (s : State) : Host.Outcome State Fault Refusal :=
  run s fun x => do
    let f : Form := { op := 0xB2, classes := (Reg.spair d || Reg.isZ d) && decide (n.toNat < 3), guard := false, once := true, writes := [(d, 2)] }
    check x f
    needCount x .lc
    let (v, bad) := treeAnswer x.s x.wp.tree n.toNat
    let wp := match d with
      | .s i => if bad then (x.wp.landS i.val (w32 v) true).landS (i.val + 1) (w32 (v / 2 ^ 32)) true else x.wp.dstS d 2 v
      | _ => x.wp
    return retire x f (x.setWarp wp)

/-! ## SCRUB (R289) -/

/-- Zero, in the lanes of a mask, the vector registers from a number on. -/
def Warp.scrubRegs (wp : Warp) (lanes : Mask) (r : Nat) : Warp :=
  { wp with vregs := wp.vregs.filter fun (i, _) => !(decide (32 * r ≤ i) && lanes.getLsbD (i % 32)),
            vpoison := ((wp.vpoison.map fun (i, m) => (i, if r ≤ i then m &&& ~~~lanes else m)) : AMap Mask).filter fun (_, m) => decide (m ≠ 0) }

/-- Clear, in the lanes of a mask, predicates, poison tags and latch. -/
def Warp.scrubRest (wp : Warp) (lanes : Mask) : Warp :=
  let clear := fun (m : AMap Mask) => ((m.map fun (i, v) => (i, v &&& ~~~lanes)) : AMap Mask).filter fun (_, v) => decide (v ≠ 0)
  { wp.clearLatch lanes with preds := clear wp.preds, vpoison := clear wp.vpoison, spoison := [], ppoison := clear wp.ppoison }

/-- The checks of SCRUB's scratchpad range. -/
def scrubRange (x : Ctx) (b n : Nat) : Except Stop Unit := do
  need (decide (b % 16 = 0) && decide (n % 16 = 0)) (misaligned b)
  need (viewOk x.k x.c x.wp.view b n) (scratchFault b)
  if n ≠ 0 && viewScrubbing x.c x.wp.view b n then .error (.hold .scrub)

/-- The effects of bits 0 to 2. -/
def scrubEffect (x : Ctx) (m : BitVec 8) (first b n : Nat) : State :=
  let wp := if m.getLsbD 0 then x.wp.scrubRegs x.gn.mask (8 * first) else x.wp
  let wp := if m.getLsbD 1 then wp.scrubRest x.gn.mask else wp
  let s := x.setWarp wp
  if m.getLsbD 2 then s.modCore x.k fun c => viewClear c x.wp.view b n else s

/-- The registers that SCRUB zeroes are readable after 4 cycles. -/
def scrubRecent (x : Ctx) (s : State) (first : Nat) : State :=
  let codes := (List.range (8 * x.wp.blocks - 8 * first)).map (8 * first + ·)
  let s := s.modWarp x.k x.w fun wp => { wp with pend := (codes.map fun i => { code := i, lanes := x.gn.mask, left := 3 : Pend }) ++ wp.pend }
  if 4 ≤ x.stall then s
  else s.modGang x.k x.w x.g fun gn => { gn with recent := (codes.map fun i => { code := i, left := 4 - x.stall : Recent }) ++ gn.recent }

/-- The first block that bit 0 zeroes: field a's value. -/
def scrubFirst (x : Ctx) (m : BitVec 8) (a : Reg) : Nat := if m.getLsbD 0 then (x.rd 0 a).toNat else 0

/-- The form of SCRUB: it waits for every register that it zeroes. Field a is checked whatever m[0] is (DESIGN CHOICE, log entry 36: R24 and
R289 do not say whether it is unused when m[0] is 0). -/
def scrubForm (x : Ctx) (m : BitVec 8) (a b : Reg) (first : Nat) : Form :=
  { op := 0xB3, guard := false, once := true,
    classes := decide (m.toNat < 16) && Reg.unif a && (!m.getLsbD 2 || Reg.spair b) && (!m.getLsbD 3 || isCompute x.k) && decide (first ≤ x.wp.blocks),
    early := regCodes a 1, more := (a, 1) :: (if m.getLsbD 2 then [(b, 2)] else []),
    waits := (if m.getLsbD 0 then (List.range (8 * x.wp.blocks - 8 * first)).map (8 * first + ·) else [])
      ++ (if m.getLsbD 1 then (List.range 7).map (0xC0 + ·) else []) }

/-- SCRUB. -/
def execScrub (m : BitVec 8) (a b : Reg) (s : State) : Host.Outcome State Fault Refusal :=
  run s fun x => do
    let first := scrubFirst x m a
    let f := scrubForm x m a b first
    check x f
    let pair := x.rd64 0 b
    let lo := (loW pair).toNat
    let n := (hiW pair).toNat
    if m.getLsbD 2 then scrubRange x lo n
    if m.getLsbD 3 && batchHeld x then .error (.hold .batch)
    let s := scrubEffect x m first lo n
    let s ← if m.getLsbD 3 then enterMq { x with s := s } f .scrubMatrix [] none fun mx => { mx with issuedNkb := none, issuedEpi := 0x0A00 }
      else .ok (retire x f s)
    return if m.getLsbD 0 then scrubRecent x s first else s

end Sys2Proof.Machine
end

