-- ==== Sys2Proof/Machine/Preempt.lean ====
section
/-! DEFINITION. Sys2Proof/Machine/Preempt.lean: pre-emption, saving and restoring a domain (R307, R310, R311, R336 to R339), opcodes 0xC9 to 0xCB, and the
scrubbing and powering of units (R325, R327). -/

namespace Sys2Proof.Machine

/-! ## DPRE (R307, R336) -/

/-- A load that pre-emption abandons: not returned, with no later write of its warp over its bytes (R336 step 2). -/
def abandons (ac : Access) : Bool := (decide (ac.kind = .load) || decide (ac.kind = .ldw)) && !ac.abandoned && !ac.overtaken

/-- The loads of a warp are abandoned, their counts withdrawn. -/
def abandonLoads (s : State) (k w : Nat) (age : Nat) : State :=
  let mine := fun (ac : Access) => decide (ac.w = w) && decide (ac.warpAge = age) && abandons ac
  let n := ((coreAt s k).inflight.filter mine).length
  let s := s.modCore k fun c => { c with inflight := mapIf mine (fun ac => { ac with abandoned := true }) c.inflight }
  s.modWarp k w fun wp => { wp with lc := wp.lc - n }

/-- The request of a DPRE reaches a core (R336 steps 1, 2 and 4). -/
def preemptCore (s : State) (did : BitVec 16) (k : Nat) : State :=
  match slotOf (coreAt s k) did with
  | none => s
  | some (n, _) =>
    let ws := (warpsOf (coreAt s k) did).filter fun (_, wp) => !wp.preempt
    let s := s.modCore k fun c => { c with slots := AMap.modify c.slots n fun sl => { sl with halted := true },
                                           warps := (c.warps.map fun (w, wp) => if wp.ofDomain did then (w, { wp with preempt := true }) else (w, wp) : AMap Warp) }
    let s := ws.foldl (fun s (w, wp) => abandonLoads s k w wp.age) s
    flushEntries s k fun e => decide (e.did = did)

/-- The warps that a DPRE halts: those of the domain that are not halted by one already. -/
def dpreCount (s : State) (did : BitVec 16) (ks : List Nat) : Nat :=
  ks.foldl (fun n k => n + ((warpsOf (coreAt s k) did).filter fun (_, wp) => !wp.preempt && (slotOf (coreAt s k) did).isSome).length) 0

/-- DPRE (R307). -/
def execDpre (d a b : Reg) (s : State) : Host.Outcome State Fault Refusal :=
  run s fun x => do
    let f : Form := { op := 0xC9, classes := Reg.sz d && Reg.unif a && Reg.unif b, guard := false, once := true, more := [(a, 1), (b, 1)], writes := [(d, 1)] }
    check x f
    let v := x.rd 0 a
    need (decide (bitsW v 31 16 = 0)) illegal
    let (_, k) ← selectorOf x (x.rd 0 b) true
    let ks := match k with | some k => [k] | none => (coresOfPart x.s x.part).filter isCompute
    let did : BitVec 16 := v.setWidth 16
    return superWait { x with s := ks.foldl (fun s k => preemptCore s did k) x.s } f (.dpre ks did (dpreCount x.s did ks) d)

/-- An access that keeps a pre-empted warp from halting: an atomic or CAS, a load that is waited for (R336 steps 2, 3 and 6). -/
def keepsRunning (ac : Access) : Bool :=
  match ac.kind with
  | .atomic _ | .lds | .watch => true
  | .load | .ldw => !ac.abandoned
  | _ => false

/-- WARP_HALT (R336 step 6). -/
def execWarpHalt (k w : Nat) (s : State) : Event :=
  match warpAt s k w with
  | none => .next s
  | some wp =>
    if !wp.preempt || wp.halted || (coreAt s k).inflight.any (fun ac => decide (ac.w = w) && decide (ac.warpAge = wp.age) && keepsRunning ac) then .next s
    else .next (s.modWarp k w fun wp => { wp with halted := true })

/-- Every warp of a domain on a core is halted and its commands have stopped. -/
def domainStopped (s : State) (did : BitVec 16) (k : Nat) : Bool := (warpsOf (coreAt s k) did).all (fun (_, wp) => wp.halted) && !domainRuns s k did

/-- DPRE_COMPLETE (R307, R336). -/
def execDpreComplete (k : Nat) (s : State) : Event :=
  match (coreAt s k).svc.op with
  | some (.dpre ks did n d) => if ks.all (domainStopped s did) then .next (superDone s k d n) else .next s
  | _ => .next s

/-! ## Save areas (R338) -/

def saveBytes : Nat := 4194304
def areaBytes : Nat := 8454144

/-- The domain areas of the valid slots of a partition. -/
def domainAreas (s : State) (p : Nat) : List Nat :=
  (coresOfPart s p).flatMap fun k => ((coreAt s k).slots.filter fun (_, sl) => sl.valid).map fun (_, sl) => sl.area

/-- A save area that R338 accepts for a domain. -/
def saveAreaOk (s : State) (p : Nat) (sl : Slot) (pa : Nat) : Bool :=
  decide (pa % 4096 = 0) && (List.range (ceilDiv (pa % 65536 + saveBytes) 65536)).all (fun i =>
      let frame := pa / 65536 * 65536 + 65536 * i
      let e := potAt s (physKey p frame)
      decide (frame < 2 ^ 48) && !badFrame s p frame && (e.world == sl.world) && (decide (e.owner = sl.did) || (!sl.world && decide (e.owner = 0xFFFF))))
  && (domainAreas s p).all fun a => decide (a + areaBytes ≤ pa) || decide (pa + saveBytes ≤ a)

/-- Writes of a domain on a core that a release at scope 5 waits for (R239). -/
def writesOut (c : Core) (did : BitVec 16) : Bool :=
  c.inflight.any (fun ac => decide (ac.did = did) && relPending 5 ac) || c.combine.any fun e => decide (e.did = did)

/-- A scratchpad's groups, end to end in ascending order. -/
def packGroups (m : List Host.Cell) (unit : Nat) (gs : List Nat) : List Host.Cell :=
  gs.zipIdx.flatMap fun (g, i) => (cellsIn m (unit * g) unit).map fun (a, b) => (a - unit * g + unit * i, b)

/-- Marks of the groups' words, end to end. -/
def packMarks (m : AMap Bool) (gs : List Nat) : AMap Bool :=
  gs.zipIdx.flatMap fun (g, i) => (m.filter fun (w, _) => decide (12288 * g ≤ w) && decide (w < 12288 * g + 12288)).map fun (w, b) => (w - 12288 * g + 12288 * i, b)

/-- The matrix state that CTXS saves with a domain (R310): the contents that its next batch would find, unless a batch of another domain has opened
since, which has reset them (R253); and those that its waiting operations will find. -/
def matrixOf (m : Matrix) (did : BitVec 16) (ws : List (Nat × Warp)) (mq : List Command) : Matrix :=
  let batch := m.batch.filter fun b => b.falls did ws
  let owner := match batch with | some b => b.did | none => did
  let last := decide (m.issueDid = owner)
  let own := (AMap.put m.aside m.seg m.toContents).filter fun (n, _) => (last && decide (n = m.issueSeg)) || mq.any fun q => decide (q.seg = n) && !q.marks
  let seg := if last then m.issueSeg else m.batches + 1
  { toContents := AMap.getD own seg { did := owner }, seg := seg, aside := AMap.del own seg, batch := batch, runs := m.runs.filter fun b => b.falls did ws,
    batches := m.batches + 1, issueDid := owner, issueSeg := seg, issuedNkb := if last then m.issuedNkb else none, issuedEpi := if last then m.issuedEpi else 0x0A00 }

/-- Whether a core's engine holds anything for a domain and its warps. -/
def Matrix.holds (m : Matrix) (did : BitVec 16) (ws : List (Nat × Warp)) : Bool := decide (m.issueDid = did) || m.batch.any fun b => b.falls did ws

/-- The disposition that a warp's record has received, which is kept for its restore (R336). -/
def dispositionOf (s : State) (k w : Nat) : Nat :=
  match s.disposals.find? fun d => decide (d.1 = k) && decide (d.2.1 = w) with
  | some d => d.2.2
  | none => match warpAt s k w with
    | some wp => wp.lateDisp
    | none => 0

/-- A warp as saved: its monitors are disarmed (R204), its results are readable (R336 step 1). -/
def Warp.packed (wp : Warp) (disp : Nat) : Warp :=
  { wp with lateDisp := disp, pend := [], gangs := wp.gangs.map fun (g, gn) => (g, { gn with own := [], monitor := gn.monitor.map fun m => { m with lost := true } }) }

/-- A command as saved: MCRED runs again from the start after restore (R296), a broadcast whose last page has not been written does it again. -/
def Command.restarted (s : State) (q : Command) : Command :=
  if q.op = .mcred && !q.ran then { q with started := false, snap := none }
  else if q.op = .wbcast && s.cisternWrites.any fun w => w.queue.isSome && decide (w.command = some q.number) then { q with chunked := q.chunked - 1 }
  else q

/-- Everything of a domain on a core, packed. -/
def packDomain (s : State) (p k : Nat) (sl : Slot) (pa : Nat) : Saved :=
  let c := coreAt s k
  let did := sl.did
  let ws := warpsOf c did
  let gs := groupList sl.groups
  let mine := fun (cs : List Command) => cs.filter fun q => q.falls k did ws
  let back := s.reopen.find? fun r => r.falls k did ws
  let mq := (match back with | some r => r.mq | none => []) ++ mine c.mq
  { serial := s.nextSerial, core := k, part := p, area := pa, did := did, world := sl.world, rcount := bitsW sl.w1 15 8, groups := gs.length,
    warps := ws.map fun (w, wp) => (w, wp.packed (dispositionOf s k w)),
    blocks := c.blocks.filter fun (i, _) => ws.any fun (_, wp) => decide (wp.blk = some i),
    inflight := c.inflight.filter fun ac => ac.abandoned && ws.any fun (w, wp) => decide (ac.w = w) && decide (ac.warpAge = wp.age),
    scratch := packGroups c.scratch 49152 gs, scratchPoison := packMarks c.scratchPoison gs, bins := (c.bins.filter fun (_, b) => decide (b.did = did)) ++ (c.binsBack.filter fun b => decide (b.did = did)).map fun b => (0, b),
    cq0 := mine c.cq0, cq1 := mine c.cq1, mq := mq, pq := mine (sliceAt s (coreSlice k)).pq, fq := (mine (sliceAt s (coreSlice k)).fq).map (Command.restarted s),
    matrix := match back with
      | some r => some r.matrix
      | none => if c.matrix.holds did ws || !mq.isEmpty then some (matrixOf c.matrix did ws mq) else none,
    groupList := gs,
    heard := (did :: ws.flatMap fun (_, wp) => wp.gated).eraseDups.flatMap fun d => [2, 3, 4, 5].map fun n => (d, n, releaseSig c d n) }

/-- The words of a save area's header. -/
def saveHeader (sv : Saved) (k : Nat) : List Byte :=
  natLe 4 1 ++ natLe 4 (sv.did.toNat + (if sv.world then 65536 else 0)) ++ natLe 4 sv.rcount ++ natLe 4 sv.groups ++ natLe 4 sv.warps.length ++ natLe 4 k
  ++ natLe 8 sv.serial ++ List.replicate 24 0 ++ natLe 8 (Config.checkValue sv.serial).toNat

/-- What a saved domain leaves behind on its core: nothing of it runs; a protected domain's units are scrubbed (R310, R326), and granules of an ordinary
domain's warps that leave a protected domain's gate (R284). -/
def vacate (c : Core) (n : Nat) (sl : Slot) : Core :=
  let did := sl.did
  let gone := warpsOf c did
  let c := { c with warps := c.warps.filter fun (_, wp) => !wp.ofDomain did,
                    inflight := c.inflight.filter fun ac => !(ac.abandoned && gone.any fun (w, wp) => decide (ac.w = w) && decide (ac.warpAge = wp.age)),
                    bins := c.bins.filter fun (_, b) => decide (b.did ≠ did), binsBack := c.binsBack.filter fun b => decide (b.did ≠ did), matrix := c.matrix.dropBatch did gone }
  let c := pruneBlocks c gone
  if sl.world then freeGuests ((scrubDomain c did).scrub (slotGranules sl)) did gone
  else
    let c := { c with slots := AMap.modify c.slots n fun sl => { sl with lent := [0, 0, 0, 0] } }
    gone.foldl (fun c (w, wp) => freeGranule c wp.did (w / 16) (granulesFor wp.blocks) (worldOf c wp.didNow)) c

/-- The save (R307, R338): release, header, the packed domain recorded under its serial as live. -/
def saveDomain (s : State) (p k n : Nat) (sl : Slot) (pa : Nat) : State :=
  let s := publishWrites s k sl.did 5
  let sv := packDomain s p k sl pa
  let key := physKey p pa
  let s := homeWrite (memZero s key saveBytes) key (saveHeader sv k)
  let ws := warpsOf (coreAt s k) sl.did
  let s := dropCommands s k sl.did ws
  let s := s.modCore k fun c =>
    let c := vacate c n sl
    { c with slots := AMap.modify c.slots n fun sl => { sl with saved := true } }
  let s := dropDisposals s k fun w => sv.warps.any fun (v, _) => decide (v = w)
  { s with saved := sv :: s.saved, nextSerial := s.nextSerial + 1, liveSerials := s.nextSerial :: s.liveSerials,
           reopen := s.reopen.filter fun r => !r.falls k sl.did ws }

/-- CTXS (R307). -/
def execCtxs (a b : Reg) (s : State) : Host.Outcome State Fault Refusal :=
  run s fun x => do
    let f : Form := { op := 0xCA, classes := Reg.unif a && Reg.spair b, guard := false, once := true, more := [(a, 1), (b, 2)] }
    check x f
    let (k, n) ← slotSelector x (x.rd 0 a)
    let sl := AMap.getD (coreAt x.s k).slots n {}
    need sl.valid illegal
    need (sl.halted && domainStopped x.s sl.did k) (illegalAs 8)
    let pa := (x.rd64 0 b).toNat
    need (saveAreaOk x.s x.part sl pa) (illegalAs 9)
    need (decide (x.s.liveSerials.length < 65536)) (illegalAs 10)
    if writesOut (coreAt x.s k) sl.did then
      return flushEntries (x.setStatus (.held .drain)) k fun e => decide (e.did = sl.did)
    else return retire x f (saveDomain x.s x.part k n sl pa)

/-! ## CTXL (R307, R311, R337, R339) -/

/-- A core scratchpad address moved from a list of groups to another. -/
def movedAddr (old new : List Nat) (a : Nat) : Nat :=
  match old.findIdx? fun g => g = a / 49152 with
  | some i => 49152 * new.getD i 0 + a % 49152
  | none => a

/-- What the move of a domain changes: groups, first access or command number, first age, slot of each saved warp, first block number. -/
structure Move where
  old : List Nat
  new : List Nat
  core : Nat
  ids : Nat
  ages : Nat
  slots : List (Nat × Nat)
  blocks : Nat
  /-- The cycle of the restore. -/
  clk : Nat := 0
deriving DecidableEq, Repr

def Move.addr (m : Move) (a : Nat) : Nat := movedAddr m.old m.new a
def Move.view (m : Move) (v : View) : View := { v with groups := v.groups.map fun g => m.addr (49152 * g) / 49152 }
def Move.slot (m : Move) (w : Nat) : Nat := match m.slots.find? fun (o, _) => decide (o = w) with | some (_, n) => n | none => w

/-- A command on its new core. -/
def Move.command (m : Move) (q : Command) : Command :=
  { q with id := m.ids + q.id, core := m.core, w := m.slot q.w, warpAge := m.ages + q.warpAge, view := m.view q.view, barrier := q.barrier.map m.addr,
           op := match q.op with | .marker i => .marker (m.ids + i) | o => o }

/-- The state of a gang after its restore (R337). No gang of the warp counts as having issued most recently (DESIGN CHOICE, log entry 91: R127 does
not say which does then). -/
def Move.gang (m : Move) (meet : Nat) (gn : Gang) : Gang :=
  { gn with watching := none, clkHigh := none, lastIssue := 0, thresholdAt := gn.thresholdAt.map fun _ => m.clk,
            status := match gn.status with
              | .parked _ => .parked meet
              | .waiting (.barrier o p kd l) => .waiting (.barrier (m.addr o) p kd l)
              | .waiting (.vgrow _ _) => .ready
              | .waiting (.gate _ _ _) => .ready
              | .waiting (.gret _) => .ready
              | .waiting (.fence _ _ _ _) => .ready
              | st => st }

/-- A warp on its new core; its record is to be written again. -/
def Move.warp (m : Move) (wp : Warp) : Warp :=
  { wp with age := m.ages + wp.age, blk := wp.blk.map (m.blocks + ·), view := m.view wp.view, baseView := m.view wp.baseView,
            frames := wp.frames.map fun fr => { fr with view := m.view fr.view }, preempt := false, halted := false, recordLive := none, liveTrap := none,
            deferred := wp.liveTrap.toList ++ wp.deferred, gangs := wp.gangs.map fun (g, gn) => (g, m.gang wp.meetLimit gn) }

/-- The warp slots that saved warps take: the lowest free ones of their quadrants; none where a quadrant lacks them. -/
def slotsFor (c : Core) (sl : Slot) (ws : List Nat) : Option (List (Nat × Nat)) :=
  let pick := fun (q : Nat) => (ws.filter fun w => decide (w / 16 = q)).zip (freeSlots c sl q)
  let all := (List.range 4).flatMap pick
  if all.length = ws.length then some all else none

/-- A sleeper whose domain was saved wakes with status 4 (R204, R337). -/
def wakeSleepers (s : State) (k w : Nat) : State :=
  match warpAt s k w with
  | none => s
  | some wp => wp.gangs.foldl (fun s (g, _) => endSleep s { core := k, w := w, g := g } 4) s

/-- A lane of a replayed load, translated anew: its key, or none where a check of R87 fails. -/
def replayKey (s : State) (p k : Nat) (did : BitVec 16) (tree : Option Nat) (kind : AccKind) (la : LaneAcc) : Option Nat :=
  match if canonical la.va then walk s p (rootOf s k did) did (worldOf (coreAt s k) did) (vaNat la.va) else .error (0x08, 9) with
  | .error _ => none
  | .ok e =>
    let c := (coreAt s k).fill e
    let ask : Ask := { size := la.size, write := false, kindDetail := fun n => if kind = .ldw ∧ n ≠ 1 then some 2 else none }
    if (step3 s c p did tree ask (fun _ => true) (fun _ => false) la.va).isSome then none else some (boundKey s p tree (e.paOf la.va))

/-- A load kept for replay is issued on the new core; if a check fails, its destination lanes land as marked uncorrectable (R337). -/
def replayLoad (m : Move) (s : State) (p : Nat) (ac : Access) : State :=
  let k := m.core
  let w := m.slot ac.w
  match warpAt s k w with
  | none => s
  | some wp =>
    let keys := ac.lanes.map fun la => (la, replayKey s p k ac.did wp.tree ac.kind la)
    if keys.any fun (_, key) => key.isNone then
      watchDone (s.modWarp k w fun wp => ac.lanes.foldl (fun (wp : Warp) la => wp.land ac.dest la.lane la.size 0 15) wp) k { ac with w := w, warpAge := wp.age }
    else
      let lanes := keys.filterMap fun (la, key) => key.map fun a => { la with pa := a }
      let parts := (linesOf lanes).map fun (ln, qs) => ({ line := ln, sectors := qs, fills := if ac.kind = .load ∧ wayMask k (coreAt s k) ac.did ≠ 0 then qs else [] } : LinePart)
      let s := s.modWarp k w fun wp => wp.countUp .lc
      pushAccess s k { ac with w := w, warpAge := wp.age, lanes := lanes, parts := parts, abandoned := false }

/-- The accesses of a warp's gangs under the numbers of their replays (R165, R337). -/
def Warp.reboard (ids : List (Nat × Nat)) (wp : Warp) : Warp :=
  { wp with gangs := wp.gangs.map fun (g, gn) => (g, { gn with board := gn.board.filterMap fun (e, i) => (ids.find? fun r => decide (r.1 = i)).map fun r => (e, r.2) }) }

/-- The record of a restored warp is written again in the new domain area, with a disposition that came meanwhile (R336, R337). -/
def rewriteRecord (s : State) (k w : Nat) : State :=
  match warpAt s k w with
  | none => s
  | some wp => match wp.deferred with
    | [] => s
    | d :: rest => if 64 ≤ (sliceAt s (coreSlice k)).notices.length then s else recordOut s k w wp d rest

/-- The gate frames of a restored warp are written again in the new domain areas (R324). -/
def rewriteFrames (s : State) (k w : Nat) : State :=
  match warpAt s k w with
  | none => s
  | some wp => wp.frames.reverse.zipIdx.foldl (fun s (fr, i) => writeFrame s k w i fr.caller) s

/-- A spawn bin returns to its number, or to the lowest of the 32 that is free; with none free it waits for one (DESIGN CHOICE, log entry 14:
R339 does not say what happens to a saved bin then). -/
def restoreBin (c : Core) (i : Nat) (b : Bin) : Core :=
  match (i :: List.range 32).find? fun j => (AMap.get? c.bins j).isNone with
  | some j => { c with bins := AMap.put c.bins j b }
  | none => { c with binsBack := c.binsBack ++ [b] }

/-- The saved domain's parts put into a core: warps, blocks, scratchpad groups, bins, queue entries. The sub-arrays of another core have computed nothing
of its batches (R281). -/
def unpack (s : State) (k n : Nat) (sv : Saved) (m : Move) : State :=
  let s := s.modCore k fun c =>
    let c : Core := m.new.foldl zeroGroup c
    let cells := sv.scratch.foldl (fun cs (a, b) => cellWrite cs (49152 * m.new.getD (a / 49152) 0 + a % 49152) b) c.scratch
    let marks := sv.scratchPoison.foldl (fun ms (w, b) => AMap.put ms (12288 * m.new.getD (w / 12288) 0 + w % 12288) b) c.scratchPoison
    let c : Core :=
             { c with scratch := cells, scratchPoison := marks,
                      warps := sv.warps.foldl (fun ws (w, wp) => AMap.put ws (m.slot w) (m.warp wp)) c.warps,
                      blocks := sv.blocks.foldl (fun bs (i, b) => AMap.put bs (m.blocks + i) { b with view := m.view b.view }) c.blocks,
                      residents := sv.warps.foldl (fun r (_, wp) => max r (m.ages + wp.age + 1)) c.residents,
                      blockSerial := sv.blocks.foldl (fun r (i, _) => max r (m.blocks + i + 1)) c.blockSerial,
                      nextId := (sv.cq0 ++ sv.cq1 ++ sv.mq ++ sv.pq ++ sv.fq).foldl (fun r (q : Command) => max r (m.ids + q.id + 1)) c.nextId,
                      slots := AMap.modify c.slots n fun sl => { sl with halted := false, saved := false } }
    let c := sv.warps.foldl (fun c (w, wp) => c.taintWarp wp.didNow (m.slot w) (m.view wp.view)) c
    let c := c.taint sv.did (m.new.map PowerUnit.scratchGroup)
    let short := fun (sl : Slot) (q : Nat) => sl.reserve - min sl.reserve (freeGranules c sl q)
    let c := { c with slots := AMap.modify c.slots n fun sl => { sl with lent := (List.range 4).map (short sl) } }
    sv.bins.foldl (fun c (i, b) => restoreBin c i b) c
  let s := s.modQueue k .cq0 fun cs => cs ++ sv.cq0.map m.command
  let s := s.modQueue k .cq1 fun cs => cs ++ sv.cq1.map m.command
  let s := s.modQueue k .pq fun cs => cs ++ sv.pq.map m.command
  let s := s.modQueue k .fq fun cs => cs ++ sv.fq.map m.command
  match sv.matrix with
  | none => s
  | some mx =>
    let shift := fun (b : Batch) => { b with w := m.slot b.w, warpAge := m.ages + b.warpAge, used := if sv.core = k then b.used else 0 }
    let put := fun (t : Contents) => { t with epiView := m.view t.epiView }
    let mx := { mx with batch := mx.batch.map shift, runs := mx.runs.map shift, toContents := put mx.toContents, aside := mx.aside.map fun (i, t) => (i, put t) }
    let r : Reopen := { core := k, mq := sv.mq.map m.command, matrix := mx }
    { s with reopen := s.reopen ++ [r] }

/-- The restore (R339): everything in place, the serial retired, an acquire at scope 5 (R239), sleepers woken, records written again, what the domain
had still to publish taken over (R118, R237), kept loads issued. -/
def restoreDomain (s : State) (p k n : Nat) (sv : Saved) (m : Move) : State :=
  let s := unpack s k n sv m
  let s := { s with saved := s.saved.filter fun t => decide (t.serial ≠ sv.serial), liveSerials := s.liveSerials.filter fun i => decide (i ≠ sv.serial) }
  let s := acquire s k sv.did 5
  let ws := sv.warps.map fun (w, _) => m.slot w
  let s := ws.foldl (fun s w => rewriteFrames (rewriteRecord (wakeSleepers s k w) k w) k w) s
  let s := s.modCore k fun c => sv.heard.foldl Core.carry c
  let (s, ids) := sv.inflight.foldl (fun (r : State × List (Nat × Nat)) ac => 
    let t := replayLoad m r.1 p ac
    (t, if (coreAt t k).nextId = (coreAt r.1 k).nextId then r.2 else (ac.id, (coreAt r.1 k).nextId) :: r.2)) (s, [])
  ws.foldl (fun s w => s.modWarp k w (Warp.reboard ids)) s

/-- The saved domain that an area's header names, if the area is sound: its serial is live, its check value matches, no byte of it has
changed, no export of it has begun (R338, R409). -/
def savedAt (s : State) (p pa : Nat) : Option Saved :=
  let key := physKey p pa
  let serial := memNat s (key + 24) 8
  (s.saved.find? fun sv => decide (sv.serial = serial)).filter fun sv =>
    s.liveSerials.contains serial && !sv.exporting && decide (sv.part = p) && decide (memNat s key 4 = 1) && decide (memNat s (key + 8) 4 = sv.rcount)
    && decide (memNat s (key + 20) 4 = sv.core) && decide (memNat s (key + 12) 4 = sv.groups)
    && decide (memNat s (key + 56) 8 = (Config.checkValue serial).toNat) && (cellsIn s.mem (key + 64) (saveBytes - 64)).isEmpty
    && decide (memNat s (key + 16) 4 = sv.warps.length) && decide (memNat s (key + 32) 24 = 0)

/-- The header of an area agrees with a slot (R307). -/
def headerAgrees (s : State) (p pa : Nat) (sl : Slot) : Bool :=
  let key := physKey p pa
  decide (memNat s (key + 4) 4 = bitsW sl.w0 16 0) && decide (memNat s (key + 8) 4 = bitsW sl.w1 15 8)
  && decide (memNat s (key + 12) 4 = (groupList sl.groups).length)

/-- Whether a unit that a restore fills is being scrubbed or asleep (R325, R327). -/
def unitsClosed (c : Core) (sl : Slot) (sv : Saved) : Bool :=
  (c.scrubbing ++ c.asleep).any fun u => match u with
    | .scratchGroup g => sl.groups.testBit g
    | .granule _ g => decide (sl.rbase ≤ g) && decide (g < sl.rbase + sl.granules)
    | .regFile q => sv.warps.any fun (w, _) => decide (w / 16 = q)
    | _ => false

/-- CTXL (R307): it waits while a unit that it fills is being scrubbed. -/
def execCtxl (a b : Reg) (s : State) : Host.Outcome State Fault Refusal :=
  run s fun x => do
    let f : Form := { op := 0xCB, classes := Reg.unif a && Reg.spair b, guard := false, once := true, more := [(a, 1), (b, 2)] }
    check x f
    let (k, n) ← slotSelector x (x.rd 0 a)
    let c := coreAt x.s k
    let sl := AMap.getD c.slots n {}
    need sl.valid illegal
    let pa := (x.rd64 0 b).toNat
    need (saveAreaOk x.s x.part sl pa && headerAgrees x.s x.part pa sl) (illegalAs 9)
    match savedAt x.s x.part pa with
    | none => .error (.trap (illegalAs 9))
    | some sv =>
      need (decide (sv.did = sl.did) && (sv.world == sl.world) && decide (sv.groups = (groupList sl.groups).length)) (illegalAs 9)
      need (warpsOf c sl.did).isEmpty (illegalAs 7)
      match slotsFor c sl (sv.warps.map Prod.fst) with
      | none => .error (.trap (illegalAs 10))
      | some ws =>
        if unitsClosed c sl sv then .error (.hold .scrub)
        let m : Move := { old := sv.groupList, new := groupList sl.groups, core := k, ids := c.nextId, ages := c.residents, slots := ws, blocks := c.blockSerial, clk := c.clk.toNat }
        return retire x f (restoreDomain x.s x.part k n sv m)

/-- A saved command on an engine that has given its own numbers. -/
def Command.renumber (n : Nat) (q : Command) : Command := { q with batch := n + q.batch, seg := n + q.seg }

/-- A saved batch that may reopen: its domain is not halted, and mq has room for its entries. -/
def mayReopen (c : Core) (k : Nat) (r : Reopen) : Bool :=
  decide (r.core = k) && !r.idle && !domainHalted c r.matrix.did && decide (c.mq.length + r.mq.length ≤ 64)

/-- BATCH_REOPEN (R311): no other batch is open; the saved state is loaded in place of the reset, and the saved entries run in their order. -/
def execBatchReopen (k : Nat) (s : State) : Event :=
  let c := coreAt s k
  match s.reopen.find? (mayReopen c k) with
  | none => .next s
  | some r =>
    if c.matrix.batch.isSome || c.asleep.contains .matrix || c.scrubbing.contains .matrix then .next s
    else
      let ahead := c.mq.takeWhile fun q => decide (q.did ≠ r.matrix.did)
      let mq := ahead ++ r.mq.map (Command.renumber (c.matrix.batches + 1)) ++ c.mq.drop ahead.length
      let s := s.modCore k fun c => { c.taint r.matrix.did [.matrix] with matrix := (c.matrix.reopen r.matrix).prune mq, mq := mq }
      .next { s with reopen := s.reopen.erase r }

/-! ## Units: scrubbing and power (R325, R327) -/

/-- A unit in its scrubbed state. -/
def scrubUnit (c : Core) : PowerUnit → Core
  | .scratchGroup g => zeroGroup c g
  | .matrix => { c with matrix := c.matrix.scrubAll }
  | .l1 => { c with l1 := [] }
  | .regFile _ => c
  | .granule _ _ => c

/-- UNIT_SCRUB_DONE (R325): the unit may be granted again, and its taint is gone; a granule refills its slot's reserve first (R109). -/
def execUnitScrubDone (k : Nat) (u : PowerUnit) (s : State) : Event :=
  if !(coreAt s k).scrubbing.contains u then .next s
  else .next (s.modCore k fun c =>
    let c := { scrubUnit c u with scrubbing := c.scrubbing.filter fun v => decide (v ≠ u), tainted := c.tainted.filter fun v => decide (v ≠ u) }
    match u with
    | .granule q g => (match c.slots.find? fun (_, sl) => sl.valid && decide (sl.rbase ≤ g) && decide (g < sl.rbase + sl.granules) with
      | some (i, _) => refill c i q 1
      | none => c)
    | _ => c)

/-- UNIT_WAKE (R327): a unit that wakes tainted is scrubbed before it is allocated. -/
def execUnitWake (k : Nat) (u : PowerUnit) (s : State) : Event :=
  if !(coreAt s k).asleep.contains u || (coreAt s k).held then .next s
  else .next (s.modCore k fun c =>
    let c := { c with asleep := c.asleep.filter fun v => decide (v ≠ u) }
    if c.tainted.contains u then c.scrub [u] else c)

/-- Whether a unit is idle: nothing that a domain can still reach stands in it. -/
def unitIdle (s : State) (k : Nat) (u : PowerUnit) : Bool :=
  let c := coreAt s k
  let live := (c.slots.filter fun (_, sl) => sl.valid).map Prod.snd
  match u with
  | .regFile q => !c.warps.any fun (w, _) => decide (w / 16 = q)
  | .granule _ _ => false
  | .scratchGroup g => !live.any fun sl => sl.groups.testBit g
  | .matrix => c.matrix.batch.isNone && c.mq.isEmpty && !(s.reopen.any fun r => decide (r.core = k)) && !live.any fun sl => decide (sl.did = c.matrix.did)
  | .l1 => live.isEmpty

/-- UNIT_POWER_DOWN (R327): an idle unit keeps only its taint bit. -/
def execUnitPowerDown (k : Nat) (u : PowerUnit) (s : State) : Event :=
  let c := coreAt s k
  if !isCompute k || c.asleep.contains u || c.scrubbing.contains u || !unitIdle s k u then .next s
  else .next (s.modCore k fun c => { c with asleep := u :: c.asleep, l1 := if u = .l1 then [] else c.l1 })

end Sys2Proof.Machine
end

