-- ==== Sys2Proof/Machine/Services.lean ====
section
/-! DEFINITION. Sys2Proof/Machine/Services.lean: what every service of the headgate shares (R308, R322, R400), and the services of a partition's kernel:
setup (R380), resizing (R381 to R383), page ownership (R322), cistern (R224, R373), keys of fabric streams (R356), peer windows (R359). -/

namespace Sys2Proof.Machine

/-! ## Requests -/

/-- A request that waits at the headgate: its core and partition, its place, the destination of its status. -/
structure Req where
  k : Nat
  p : Nat
  lo : Nat
  hi : Nat
  split : Nat
  d : Reg

/-- The key of a word of a request. -/
def Req.key (r : Req) (i : Nat) : Nat := if 4 * i < r.split then r.lo + 4 * i else r.hi + (4 * i - r.split)
/-- A word of a request, and two words as an address or length. -/
def Req.w (r : Req) (s : State) (i : Nat) : Nat := memNat s (r.key i) 4
def Req.w2 (r : Req) (s : State) (i : Nat) : Nat := r.w s i + 2 ^ 32 * r.w s (i + 1)
/-- The 48 bytes from word 4 (R400). -/
def Req.digest (r : Req) (s : State) : Digest := BitVec.ofNat 384 (((List.range 12).map fun i => r.w s (4 + i) * 2 ^ (32 * i)).foldl (· + ·) 0)

/-- The request of a service that a core waits with. -/
def reqAt (s : State) (k num : Nat) : Option Req :=
  match (coreAt s k).svc.op with
  | some (.hgmb n lo hi split d) => if n = num then some { k := k, p := corePart s k, lo := lo, hi := hi, split := split, d := d } else none
  | _ => none

/-- A service: its body answers a status and the state, or waits. A module in lifecycle 3 answers every service but 0x0081 with status 4
(R402). -/
def serviceEvent (k num : Nat) (body : Req → State → Option (Nat × State)) (s : State) : Event :=
  match reqAt s k num with
  | none => .next s
  | some r =>
    if s.lifecycle = 3 ∧ num ≠ 0x81 then .next (hgmbDone s k r.lo 4 r.d)
    else match body r s with
      | none => .next s
      | some (st, s) => .next (hgmbDone s k r.lo st r.d)

/-- A service that answers at once: refused with a status, or done. -/
def answer (f : Req → State → Except Nat State) (r : Req) (s : State) : Option (Nat × State) :=
  match f r s with
  | .ok s => some (0, s)
  | .error n => some (n, s)

/-- Refuse with a status unless something holds. -/
def want (b : Bool) (status : Nat) : Except Nat Unit := if b then .ok () else .error status

/-- A physical range that a partition may name (R322, R400): memory that exists for it, in frames of the kernel. -/
def kernelRange (s : State) (p pa n : Nat) : Bool :=
  decide (pa + n ≤ 2 ^ 52) && (List.range (ceilDiv (pa % 65536 + n) 65536)).all fun i =>
    let frame := pa / 65536 * 65536 + 65536 * i
    !badFrame s p (max pa frame) && !badFrame s p (min (frame + 65535) (pa + n - 1)) && decide (paKind frame ≠ 1 ∨ regionOf s p (cisternRegion frame))
    && decide ((potAt s (physKey p frame)).owner = 0xFFFF)

/-- A physical range that the headgate may write for a partition: one of kernelRange without a page of the cistern, which only its loader, its packets and
WBCAST write (R221). -/
def kernelBuffer (s : State) (p pa n : Nat) : Bool :=
  kernelRange s p pa n && (List.range (ceilDiv (pa % 65536 + n) 65536)).all fun i => decide (paKind (pa / 65536 * 65536 + 65536 * i) ≠ 1)

/-- The bytes of a physical range. -/
def rangeBytes (s : State) (p pa n : Nat) : List Byte := cellsRead s.mem (physKey p pa) n

/-! ## 0x0001: the kernel's structures (R380) -/

/-- The journal in force or about to be. -/
def namedJournal (pt : Partition) : DWord × Nat :=
  match pt.setup with
  | some ws => (pairW (ws.getD 14 0) (ws.getD 15 0), (ws.getD 16 0).toNat)
  | none => (pt.journalVa, pt.journalSize)

def isPow2 (n : Nat) : Bool := (List.range 32).any fun i => decide (n = 2 ^ i)

/-- Service 0x0001. -/
def setupKernel (r : Req) (s : State) : Except Nat State := do
  let pt := partAt s r.p
  let w := r.w s
  want (decide (r.w2 s 2 % 4096 = 0) && kernelRange s r.p (r.w2 s 2) 4096) 2
  want (decide (r.w2 s 4 % 64 = 0) && decide (w 6 ≤ 4096)) 2
  want (decide (r.w2 s 8 % 16 = 0) && decide (w 10 ≤ 65536)) 2
  want (decide (w 12 = 0) || decide (11000 ≤ w 12)) 2
  want (decide (r.w2 s 14 % 4096 = 0) && decide (1024 ≤ w 16) && decide (w 16 ≤ 65536) && isPow2 (w 16)) 2
  let named := (BitVec.ofNat 64 (r.w2 s 14), w 16)
  want (decide (pt.journalGen ≠ some pt.generation) || decide (named = namedJournal pt)) 2
  let s := s.modPart r.p fun pt => { pt with setup := some ((List.range 17).map fun i => w32 (w i)), adopted := [], journalGen := some pt.generation }
  return homeWriteNat s (r.key 1) 4 pt.generation.toNat

/-- KERNEL_SETUP. -/
def execKernelSetup (k : Nat) (s : State) : Event := serviceEvent k 0x01 (answer setupKernel) s

/-! ## 0x0002: resizing (R381 to R383) -/

/-- The slices of a rectangle, rising. -/
def rectSlices (r : Rect) : List Nat :=
  (List.range 32).filter fun n => decide (r.row0 ≤ n / 8) && decide (n / 8 ≤ r.row1) && decide (r.col0 ≤ n % 8) && decide (n % 8 ≤ r.col1)

/-- A rectangle of the module. -/
def rectOk (r : Rect) : Bool := decide (r.row0 ≤ r.row1) && decide (r.row1 ≤ 3) && decide (r.col0 ≤ r.col1) && decide (r.col1 ≤ 7)

/-- A slice that another partition holds, or that its resize will take. -/
def takenByOther (s : State) (p n : Nat) : Bool :=
  (match (sliceAt s n).part with | some q => decide (q ≠ p) | none => false)
  || s.parts.any fun (q, pt) => decide (q ≠ p) && match pt.resize with | some rz => rz.goal.contains n | none => false

/-- A service core that waits in WFI with every interrupt disabled, or was never started. -/
def restsInWfi (c : Core) : Bool := c.held || (decide (c.svc.op = some .wfi) && decide (c.svc.ienable = 0))

/-- A slice is drained (R382). -/
def sliceDrained (s : State) (p n : Nat) : Bool :=
  ((List.range 16).all fun i => (coreAt s (16 * n + i)).slots.all fun (_, sl) => !sl.valid)
  && (List.range (partAt s p).queueCount).all (fun q => match queueDesc (s.seenBy p n) p q with | some d => decide (d.slice ≠ n) | none => true)
  && (List.range 4).all (fun i => restsInWfi (coreAt s (512 + 4 * n + i)))
  && (sliceAt s n).pq.isEmpty && (sliceAt s n).fq.isEmpty

/-- A frame of a partition's HBM at or above a granule that is not the kernel's. -/
def ownedAbove (s : State) (p g : Nat) : Bool :=
  s.pot.any fun (f, e) => decide (65536 * f / 2 ^ 52 = p) && decide (paKind (65536 * f) = 0) && decide (g < bitsN (paOf (65536 * f)) 47 12 + 16) && decide (e.owner ≠ 0xFFFF)

/-- A slice's four service cores and its firmware core come out of reset: the service cores wait in WFI before the loader's first bundle,
until a message starts them (the spec gives no start but that of R379). -/
def startSlice (s : State) (n : Nat) : State :=
  let gang : Gang := { mask := 1, status := .waiting .supervisor }
  let warp : Warp := { did := 0xFFFF, didNow := 0xFFFF, blocks := 16, wld := 1, gangs := [(0, gang)] }
  let s := (List.range 16).foldl (fun s i => s.modCore (16 * n + i) fun c => { c with held := false }) s
  let s := (List.range 4).foldl (fun s i => s.modCore (512 + 4 * n + i) fun c => { c with held := false, warps := [(0, warp)], svc := { c.svc with op := some .wfi } }) s
  startFirmware s n

/-- The regions of a slice become zero and its pairs unpaired (R223, R376). -/
def clearRegions (s : State) (n : Nat) : State :=
  (List.range 192).foldl (fun s r =>
    if regionSlice r ≠ n then s
    else
      let s := memZero s (2 ^ 48 + 2 ^ 26 * r) (2 ^ 26)
      { s with paired := s.paired.filter fun q => decide (q ≠ r / 2), quarantined := AMap.del s.quarantined r,
               unverified := s.unverified.filter fun (i, _) => decide (i / 16384 ≠ r), ranges := s.ranges.filter fun x => decide (x.offset / 2 ^ 26 ≠ r),
               pot := s.pot.filter fun (f, _) => !(decide (f / 2 ^ 32 = 1) && decide (f % 2 ^ 32 / 1024 = r)) }) s

/-- The cores of a slice. -/
def sliceCores (n : Nat) : List Nat := (List.range 16).map (16 * n + ·) ++ (List.range 4).map (512 + 4 * n + ·) ++ [640 + n]

/-- The units of a core that power down (R327). -/
def powerUnits : List PowerUnit := [.matrix, .l1] ++ (List.range 4).map PowerUnit.regFile ++ (List.range 16).map PowerUnit.scratchGroup

/-- What a core keeps when its slice is reset: the fenced sub-arrays and the test pointer of its matrix engine, which only a module reset clears (R260,
R279, R280), and its taint bits. Without a partition it is powered down; in one its tainted units are scrubbed first (R327, R376). -/
def Core.kept (c : Core) (part : Option Nat) : Core :=
  { matrix := { fenced := c.matrix.fenced, pointer := c.matrix.pointer }, tainted := c.tainted, asleep := if part.isSome then [] else powerUnits,
    scrubbing := if part.isSome then c.tainted else [] }

/-- A slice at reset. -/
def resetSlice (s : State) (n : Nat) (part : Option Nat) : State :=
  let s := { s with disposals := s.disposals.filter fun d => !(sliceCores n).contains d.1 }
  let s := { s with cores := s.cores.map (fun (e : Nat × Core) => if (sliceCores n).contains e.1 then (e.1, e.2.kept part) else e), slices := AMap.put s.slices n { part := part, sensor := (sliceAt s n).sensor, quota := (sliceAt s n).quota } }
  { s with reopen := s.reopen.filter fun r => !(sliceCores n).contains r.core }

/-- A measurement register of the module or of a partition is extended (R404). -/
def extended (m : AMap Digest) (i : Nat) (x : Digest) : AMap Digest := AMap.put m i (Config.sha384 (natLe 48 (AMap.getD m i 0).toNat ++ natLe 48 x.toNat))

/-- Register 4 is extended by a formation or a resize: with the digest of the partition's number and slices. -/
def measureShape (s : State) (p : Nat) : State :=
  { s with measures := extended s.measures 4 (Config.sha384 (natLe 1 p ++ (partAt s p).slices.flatMap (natLe 1))) }

/-- The next change of one slice in a resize, or its end (R382). -/
def resizeNext (s : State) (p : Nat) (goal : List Nat) : State :=
  let now := (partAt s p).slices
  match goal.find? fun n => !now.contains n with
  | some n =>
    let target := risingNat (n :: now)
    let s := startSlice (clearRegions (resetSlice s n (some p)) n) n
    s.modPart p fun pt => { pt with slices := target, resize := some { target := target, old := now, goal := goal, total := 15625000 * now.length } }
  | none => match now.find? fun n => !goal.contains n with
    | some n =>
      let target := now.filter fun m => decide (m ≠ n)
      s.modPart p fun pt => { pt with resize := some { target := target, old := now, goal := goal, total := 15625000 * target.length } }
    | none =>
      let s := s.modPart p fun pt => { pt with resize := none }
      let s := (measureShape s p).logEvent 1 p (now.headD 0)
      notifyLowest s p (w32 (0x20000 + now.length))

/-- Service 0x0002. -/
def startResize (r : Req) (s : State) : Except Nat State := do
  let v := r.w s 1
  let rect : Rect := { row0 := bitsN v 2 0, row1 := bitsN v 5 3, col0 := bitsN v 10 8, col1 := bitsN v 13 11 }
  let pt := partAt s r.p
  want (rectOk rect) 2
  let goal := rectSlices rect
  want (pt.resize.isNone && (goal.all fun n => !takenByOther s r.p n) && goal.contains (pt.slices.headD 0)) 3
  want ((pt.slices.filter fun n => !goal.contains n).all (sliceDrained s r.p)) 3
  want (decide (pt.slices.length ≤ goal.length) || !ownedAbove s r.p (15625000 * goal.length)) 2
  return resizeNext s r.p goal

/-- RESIZE. -/
def execResize (k : Nat) (s : State) : Event := serviceEvent k 0x02 (answer startResize) s

/-- The HBM of a partition above a granule becomes zero. -/
def zeroAbove (s : State) (p g : Nat) : State := memZero s (2 ^ 52 * p + 4096 * g) (2 ^ 48 - 4096 * g)

/-- A re-interleave has ended: a removed slice leaves the partition scrubbed (R382). -/
def interleaved (s : State) (p : Nat) (rz : Resize) : State :=
  let gone := rz.old.filter fun n => !rz.target.contains n
  let keep := fun (q : Nat) => !gone.contains (regionSlice (2 * q))
  let s := s.modPart p fun pt => { pt with slices := rz.target, resize := none, current := pt.current.filter keep }
  let s := gone.foldl (fun s n => resetSlice (clearRegions s n) n none) s
  resizeNext (if gone.isEmpty then s else zeroAbove s p (15625000 * rz.target.length)) p rz.goal

/-- REINTERLEAVE_GROUP (R383): the combining-buffer entries of a group of 64 granules are flushed, and the group moves. -/
def execReinterleaveGroup (p : Nat) (s : State) : Event :=
  match (partAt s p).resize with
  | none => .next s
  | some rz =>
    let mine := fun (e : CombineEntry) => decide (paKind e.pa = 0) && decide (rz.moving ≤ bitsN (paOf e.pa) 47 12) && decide (bitsN (paOf e.pa) 47 12 < rz.moving + 64)
    let s := (coresOfPart s p).foldl (fun s k => flushEntries s k mine) s
    let s := s.modPart p fun pt => { pt with resize := some { rz with moving := rz.moving + 64 } }
    .next (if rz.total ≤ rz.moving + 64 then interleaved s p rz else s)

/-! ## 0x0010: page ownership (R320, R322) -/

/-- Whether a frame lies inside a partition (R322). -/
def frameInside (s : State) (p pa : Nat) : Bool :=
  match paKind pa with
  | 0 | 3 => !badFrame s p pa && !badFrame s p (pa + 65535)
  | 1 => decide (cisternRegion pa < 192) && regionOf s p (cisternRegion pa)
  | 2 => let e := potAt s (physKey p pa)
         decide (e.owner = 0xFFFF) || decide (e.setter = some p)
  | _ => false

/-- An access that was translated to a frame and is not performed, a buffered reduction, an engine chunk, a copy that waits (R322 step 3). -/
def frameBusy (s : State) (f : Nat) : Bool :=
  s.cores.any (fun (_, c) => c.inflight.any (fun ac => ac.lanes.any fun la => decide (la.pa / 65536 = f) && ac.requests (la.pa / 128))
    || c.combine.any fun e => decide (e.pa / 65536 = f))
  || s.cores.any (fun (k, _) => allQueues.any fun q => (queueOf s k q).any fun cmd => cmd.busy && cmd.pages.any fun (_, a) => decide (a / 65536 = f))
  || s.cisternWrites.any fun w => (w.pages.any fun a => decide (a / 65536 = f)) || (decide (cisternKey w.offset / 65536 ≤ f) && decide (65536 * f < cisternKey w.offset + w.length))

/-- A frame becomes zero through its home: gangs that watch its lines see the write; a pod frame through its windows (R322, R360). -/
def zeroFrame (s : State) (p f : Nat) : State :=
  if paKind (65536 * f) = 2 then
    (List.range 512).foldl (fun s i => match podPlace s (65536 * f + 128 * i) true with
      | .at_ a => engineWrite s ((partAt s p).slices.headD 0) p 0xFFFF a (List.replicate 128 0)
      | _ => s) s
  else
    let s := { s with lost := (List.range 512).foldl (fun rs i => cutLine (512 * f + i) rs) s.lost }
    ((watchedLines s).filter fun l => decide (l / 512 = f)).foldl wakeWatchers (memZero s (65536 * f) 65536)

/-- Steps 1 to 3 of R322 for some frames: owner 0xFFFF, no translation left, their buffered reductions on the way. -/
def revoke (s : State) (p : Nat) (fs : List Nat) : State :=
  let s := fs.foldl (fun s f => let e := potAt s (65536 * f)
    if e.owner = 0xFFFF then s else { s with pot := AMap.put s.pot f { e with owner := 0xFFFF } }) s
  let gone := fun (e : TlbEntry) => fs.any fun f => decide (65536 * f < physKey p e.pa + e.size) && decide (physKey p e.pa < 65536 * f + 65536)
  let s := removeEntries s p gone fun _ _ => false
  (coresOfPart s p).foldl (fun s k => flushEntries s k fun e => fs.contains (e.pa / 65536)) s

/-- Steps 4 and 5 of R322 for a frame. -/
def handOver (s : State) (p f : Nat) (new : PotEntry) (zero : Bool) : State :=
  let s := if zero && ((potAt s (65536 * f)).world || new.world) then zeroFrame s p f else s
  let setter := if paKind (65536 * f) = 2 ∧ new.owner ≠ 0xFFFF then some p else none
  { s with pot := AMap.putD s.pot f { new with setter := setter } {} }

/-- The frames, as numbers, and the entry of a request of service 0x0010 or 0x0011; a blank module refuses protected domains (R402). -/
def ownerRequest (r : Req) (s : State) : Except Nat (List Nat × PotEntry) := do
  let first := r.w2 s 2
  let n := r.w s 4
  let e := r.w s 5
  want (decide (first % 65536 = 0) && decide (1 ≤ n) && decide (n ≤ 65536)) 2
  let pas := (List.range n).map fun i => first + 65536 * i
  want (decide (first + 65536 * n ≤ 2 ^ 52) && pas.all (frameInside s r.p)) 1
  let new : PotEntry := { world := e / 65536 % 2 = 1, owner := BitVec.ofNat 16 e }
  want ((pas.all fun pa => decide (paKind pa = bitsN e 19 17)) && !(decide (new.owner = 0) && new.world)) 2
  want (!new.world || decide (s.lifecycle ≠ 0)) 4
  return (pas.map fun pa => physKey r.p pa / 65536, new)

/-- Service 0x0010: refused, or steps 1 to 3 at once and the rest when nothing is on its way to the frames. -/
def setOwner (r : Req) (s : State) : Option (Nat × State) :=
  match ownerRequest r s with
  | .error n => some (n, s)
  | .ok (fs, new) =>
    let s := revoke s r.p fs
    if fs.any (frameBusy s) then none else some (0, fs.foldl (fun s f => handOver s r.p f new true) s)

/-- SET_OWNER: while accesses to the frames are on their way, the owner is 0xFFFF already (R322 step 1). -/
def execSetOwner (k : Nat) (s : State) : Event :=
  match reqAt s k 0x10 with
  | none => .next s
  | some r => match setOwner r s, ownerRequest r s with
    | none, .ok (fs, _) => if s.lifecycle = 3 then .next (hgmbDone s k r.lo 4 r.d) else .next (revoke s r.p fs)
    | _, _ => serviceEvent k 0x10 setOwner s

/-! ## 0x0011: sealing (R400, R401) -/

/-- The measurement of a domain is extended with frames' addresses and contents (R401). -/
def measureFrames (s : State) (p : Nat) (did : BitVec 16) (fs : List Nat) : State :=
  s.modPart p fun pt => { pt with domMeasures := fs.foldl (fun m f =>
    extended m did.toNat (Config.sha384 (natLe 8 (paOf (65536 * f)) ++ cellsRead s.mem (65536 * f) 65536))) pt.domMeasures }

/-- Service 0x0011. -/
def sealFrames (r : Req) (s : State) : Option (Nat × State) :=
  if s.unlock.isSome then some (3, s)
  else match ownerRequest r s with
  | .error n => some (n, s)
  | .ok (fs, new) =>
    if !new.world || (partAt s r.p).domSeen.contains new.owner.toNat || fs.any fun f => decide ((potAt s (65536 * f)).owner ≠ 0xFFFF) then some (2, s)
    else
      let s := revoke s r.p fs
      if fs.any (frameBusy s) then none else some (0, fs.foldl (fun s f => handOver s r.p f new false) (measureFrames s r.p new.owner fs))

/-- SEAL_FRAMES. -/
def execSealFrames (k : Nat) (s : State) : Event :=
  match reqAt s k 0x11 with
  | none => .next s
  | some r => match sealFrames r s, ownerRequest r s with
    | none, .ok (fs, _) => if s.lifecycle = 3 then .next (hgmbDone s k r.lo 4 r.d) else .next (revoke s r.p fs)
    | _, _ => serviceEvent k 0x11 sealFrames s

/-! ## 0x0040, 0x0042, 0x0043: manifests and the cistern loader (R224, R373) -/

/-- Service 0x0040. -/
def submitManifest (r : Req) (s : State) : Except Nat State := do
  let n := r.w s 1
  let pa := r.w2 s 2
  want (kernelRange s r.p pa n) 1
  let bs := rangeBytes s r.p pa n
  want ((partAt s r.p).ownerKeys.any fun key => Config.manifestOk key bs) 4
  return s.modPart r.p fun pt => { pt with manifests := pt.manifests ++ Config.manifestDigests bs }

/-- MANIFEST_SUBMIT. -/
def execManifestSubmit (k : Nat) (s : State) : Event := serviceEvent k 0x40 (answer submitManifest) s

/-- A running tree is bound to a pair, or has read one of its regions (R224). -/
def pairInUse (s : State) (p q : Nat) : Bool :=
  (runningTrees s p).any fun t => s.paired.contains q || t.read.contains (2 * q) || t.read.contains (2 * q + 1)

/-- Service 0x0042. -/
def pairRegions (r : Req) (s : State) : Option (Nat × State) :=
  let v := r.w s 1
  let q := bitsN v 6 0
  if bitsN v 31 9 ≠ 0 ∨ bitsN v 7 7 ≠ 0 then some (2, s)
  else if decide (96 ≤ q) || !regionOf s r.p (2 * q) then some (1, s)
  else if pairInUse s r.p q then none
  else
    let others := s.paired.filter fun n => decide (n ≠ q)
    let s := { s with paired := if bitsN v 8 8 = 1 then q :: others else others }
    let second := fun (e : TlbEntry) => decide (paKind e.pa = 1) && decide (cisternRegion e.pa = 2 * q + 1)
    let s := if bitsN v 8 8 = 1 then removeEntries s r.p second fun _ _ => false else s
    some (0, s.modPart r.p fun pt => { pt with current := pt.current.filter fun n => decide (n ≠ q) })

/-- CISTERN_PAIRING. -/
def execCisternPairing (k : Nat) (s : State) : Event := serviceEvent k 0x42 pairRegions s

/-- The copy that a request of service 0x0043 asks for. -/
def loadRequest (r : Req) (s : State) : Except Nat CisternWrite := do
  let src := r.w2 s 2
  let off := r.w s 4
  let n := r.w s 5
  want (decide (src % 4096 = 0) && decide (bitsN off 31 22 = 0) && decide (1 ≤ n) && decide (n ≤ 16384) && decide (off % 16384 + n ≤ 16384)) 2
  want (decide (paKind src = 0) && kernelRange s r.p src (4096 * n) && decide (off / 16384 < 192) && regionOf s r.p (off / 16384)) 1
  return { part := r.p, did := 0xFFFF, offset := 4096 * off, pages := (List.range n).map fun i => physKey r.p (src + 4096 * i), core := some r.k }

/-- Service 0x0043: the copy joins the writes that wait; its status is written when it has been performed. -/
def loadCistern (r : Req) (s : State) : Event :=
  match loadRequest r s with
  | .error n => .next (hgmbDone s r.k r.lo n r.d)
  | .ok w => if s.cisternWrites.any fun v => decide (v.core = some r.k) then .next s else .next { s with cisternWrites := s.cisternWrites ++ [w] }

/-- CISTERN_LOAD. -/
def execCisternLoad (k : Nat) (s : State) : Event :=
  match reqAt s k 0x43 with
  | none => .next s
  | some r => if s.lifecycle = 3 then .next (hgmbDone s k r.lo 4 r.d) else loadCistern r s

/-! ## 0x0050, 0x0060: fabric keys and peer windows (R356, R359) -/

/-- The ports of a partition, rising (R3). -/
def portsOf (s : State) (p : Nat) : List Nat := (List.range 64).filter fun n => (partAt s p).slices.contains (n / 2)

/-- Service 0x0050: bit i of word 1 names the partition's i-th port. -/
def rotateKeys (r : Req) (s : State) : Except Nat State :=
  .ok (((portsOf s r.p).zipIdx.filter fun (_, i) => i < 32 && (r.w s 1).testBit i).foldl (fun s (n, _) => rotatePort s n) s)

/-- KEY_ROTATE_REQUEST. -/
def execKeyRotateRequest (k : Nat) (s : State) : Event := serviceEvent k 0x50 (answer rotateKeys) s

/-- Service 0x0060. Whether another module uses the window number at the node is left free. -/
def exportWindow (r : Req) (s : State) : Option (Nat × State) :=
  let v := r.w s 1
  let node := bitsN v 5 0
  let win := bitsN v 13 8
  let base := r.w2 s 2
  let len := r.w2 s 4
  let mine := fun (w : Window) => decide (w.node = node) && decide (w.win = win)
  let spare := decide (bitsN v 7 6 ≠ 0) || decide (bitsN v 15 14 ≠ 0) || decide (bitsN v 31 18 ≠ 0)
  if spare then some (2, s)
  else if len = 0 then
    if s.windows.any fun w => mine w && decide (w.part ≠ r.p) then some (2, s)
    else some (0, { s with windows := s.windows.filter fun w => !mine w })
  else if decide (len % 65536 ≠ 0) || decide (2 ^ 35 < len) || s.windows.any mine then some (2, s)
  else if decide (base % 65536 ≠ 0) || decide (paKind base ≠ 0) || decide (2 ^ 48 < base + len) || badFrame s r.p base || badFrame s r.p (base + len - 1) then some (1, s)
  else
    let used := Config.freeBool s.free
    let s := { s with free := s.free + 1 }
    if used then some (2, s)
    else some (0, { s with windows := s.windows ++ [{ node := node, win := win, part := r.p, base := base, length := len, r := v.testBit 16, w := v.testBit 17,
                                                      importers := BitVec.ofNat 64 (r.w2 s 6) }] })

/-- PEER_WINDOW. -/
def execPeerWindow (k : Nat) (s : State) : Event := serviceEvent k 0x60 exportWindow s

end Sys2Proof.Machine
end

