-- ==== Sys2Proof/Machine/Groups.lean ====
section
/-! DEFINITION. Sys2Proof/Machine/Groups.lean: address groups as the headgate forms them (R363 to R366), and the tensor table (R369). What other modules
register, and whether they do, is left free. -/

namespace Sys2Proof.Machine

/-! ## 0x0020, 0x0021: registration (R363, R364) -/

/-- The 4 KiB pages of a buffer of the kernel, as keys; none where one does not translate or lies in the cistern (R221, R363). -/
def bufferPages (s : State) (p : Nat) (va : DWord) (n : Nat) : Option (List Nat) :=
  let first := va.toNat / 4096 * 4096
  ((List.range (ceilDiv (va.toNat % 4096 + n) 4096)).map fun i => (keyOfVa s p 0xFFFF (BitVec.ofNat 64 (first + 4096 * i))).filter fun k => decide (paKind k ≠ 1)).foldr
    (fun k acc => match k, acc with | some k, some ks => some (k :: ks) | _, _ => none) (some [])

/-- The registration that a request of service 0x0020 makes: the group's number and this module's member. -/
def registration (r : Req) (s : State) : Except Nat (Nat × Member) := do
  let v := r.w s 1
  let va := BitVec.ofNat 64 (r.w2 s 2)
  let n := r.w s 4
  let mask := BitVec.ofNat 64 (r.w2 s 6)
  want (decide (bitsN v 10 8 ≤ 4) && decide (bitsN v 13 12 ≤ 2) && decide (bitsN v 31 14 = 0) && decide (bitsN v 11 11 = 0)) 2
  want (decide (va.toNat % 128 = 0) && decide (n % 128 = 0) && decide (128 ≤ n) && decide (n ≤ 2 ^ 26) && mask.getLsbD s.moduleId) 2
  match bufferPages s r.p va n with
  | none => .error 1
  | some ks => return (bitsN v 7 0, { module := s.moduleId, etype := bitsN v 10 8, op := bitsN v 13 12, mask := mask, buffer := va.toNat % 4096, frames := ks, length := n,
                                      part := r.p, did := 0xFFFF, meas := AMap.getD (partAt s r.p).measures 8 0 })

/-- A registration has the type, operation and mask of another. -/
def Member.agrees (m n : Member) : Bool := decide (m.etype = n.etype) && decide (m.op = n.op) && decide (m.mask = n.mask)

/-- The registration of another module: its buffer and measurement are not known here. -/
def foreignMember (s : State) (own : Member) (i : Nat) : Member :=
  { own with module := i, buffer := 0, frames := [], length := Config.freeNat (s.free + 3 * i), part := 0, did := 0, meas := BitVec.ofNat 384 (Config.freeNat (s.free + 3 * i + 1)) }

/-- Whether every other module of the mask has registered alike: left free. -/
def othersRegistered (s : State) (own : Member) : Bool := decide (own.mask.toNat = 2 ^ own.module) || Config.freeBool s.free

/-- The nodes whose ports are up here, and at every other member: left free (R363). -/
def nodeSet (s : State) (own : Member) : List Nat :=
  (List.range 64).filter fun n => nodeUp s n && (decide (own.mask.toNat = 2 ^ own.module) || Config.freeBool (s.free + 200 + n))

/-- A group is formed: its members in ascending order, its node set, a new generation. -/
def formGroup (s : State) (old : Group) (own : Member) : Group :=
  let ms := ((List.range 64).filter own.mask.getLsbD).map fun i => if i = own.module then own else foreignMember s own i
  { members := ms, formed := true, changed := false, generation := old.generation + 1, nodes := nodeSet s own }

/-- A group after a registration of this module (R363 to R365). -/
def registered (s : State) (g : Group) (own : Member) : Group :=
  let stands := g.formed && g.members.all (fun m => m.agrees own && m.present) && !g.changed
  if stands then { g with members := mapIf (fun m => decide (m.module = own.module)) (fun _ => own) g.members }
  else if othersRegistered s own && !(nodeSet s own).isEmpty then formGroup s g own
  else if g.formed && g.members.all fun m => m.agrees own then g
  else { g with formed := false, members := [own] }

/-- Service 0x0020. -/
def registerMember (r : Req) (s : State) : Except Nat State := do
  let (n, own) ← registration r s
  let key := 256 * r.p + n
  return { s with groups := AMap.put s.groups key (registered s (AMap.getD s.groups key {}) own), free := s.free + 300 }

/-- GROUP_REGISTER. -/
def execGroupRegister (k : Nat) (s : State) : Event := serviceEvent k 0x20 (answer registerMember) s

/-- A group without a member that has become absent. -/
def Group.without (g : Group) (m : Nat) : Group :=
  if g.formed then { g with members := mapIf (fun x => decide (x.module = m)) (fun x => { x with present := false }) g.members }
  else { g with members := g.members.filter fun x => decide (x.module ≠ m) }

/-- A member of a group becomes absent (R365), for the commands that run too (R366). -/
def absent (s : State) (key m : Nat) : State :=
  mapSnaps { s with groups := AMap.modify s.groups key fun g => g.without m } (fun i => decide (i = key)) fun g => g.without m

/-- Other modules register as they please (R363, R364): a group that waits for them may form, and one that is formed may be given up by another
member's registration. Where the group has members in other modules, which happens is free (log entry 22). -/
def stirGroup (s : State) (key : Nat) (g : Group) : State :=
  match g.members.find? fun m => decide (m.module = s.moduleId) with
  | none => s
  | some own =>
    if own.mask.toNat = 2 ^ own.module then s
    else
      let s' := { s with free := s.free + 300 }
      if !g.formed then { s' with groups := AMap.put s.groups key (registered s g own) }
      else if Config.freeBool s.free then { s' with groups := AMap.put s.groups key { g with formed := false, members := [own] } }
      else s'

/-- What the surroundings may have done since the last round: registrations, and writes to lines of pooled memory that monitors watch (R203, R348). -/
def stirPods (s : State) : State :=
  ((watchedLines s).filter lineKindPod).foldl podStir (s.groups.foldl (fun s (key, g) => stirGroup s key g) s)

/-- Service 0x0021. -/
def withdrawMember (r : Req) (s : State) : Except Nat State := .ok (absent s (256 * r.p + bitsN (r.w s 1) 7 0) s.moduleId)

/-- GROUP_WITHDRAW. -/
def execGroupWithdraw (k : Nat) (s : State) : Event := serviceEvent k 0x21 (answer withdrawMember) s

/-- MEMBER_ABSENT (R365): the headgates' liveness exchange fails a member. -/
def execMemberAbsent (group member : Nat) (s : State) : Event := .next (absent s group member)

/-- MEMBER_RETURN (R365): an absent member boots again; a measurement that differs from the recorded one changes the group. -/
def execMemberReturn (group member : Nat) (meas : BitVec 384) (s : State) : Event :=
  let other := fun (m : Member) => decide (m.module = member) && !m.present && decide (m.meas ≠ meas)
  .next { s with groups := AMap.modify s.groups group fun g => if g.formed && g.members.any other then { g with changed := true } else g }

/-! ## 0x0030: tensors (R369) -/

/-- A domain is protected in a partition: a valid slot says so, or frames that it owns. -/
def protectedDom (s : State) (p : Nat) (did : BitVec 16) : Bool :=
  domainWorld s p did || s.pot.any fun (f, e) => e.world && decide (e.owner = did) && (decide (65536 * f / 2 ^ 52 = p ∧ paKind (65536 * f) ≠ 1)
    || (decide (paKind (65536 * f) = 1) && regionOf s p (cisternRegion (65536 * f))))

/-- A CXL range of a partition (R367). -/
def cxlRange (s : State) (p pa n : Nat) : Bool :=
  decide (pa % 4096 = 0) && decide (paKind pa = 3) && decide (pa < 2 ^ 52) && decide (bitsN pa 47 0 + n ≤ (partAt s p).cxlBytes)

/-- Every frame of a range belongs to a protected domain. -/
def rangeOf (s : State) (p pa n : Nat) (did : BitVec 16) : Bool :=
  (List.range (ceilDiv (pa % 65536 + n) 65536)).all fun i =>
    let e := potAt s (physKey p (pa / 65536 * 65536 + 65536 * i))
    e.world && decide (e.owner = did)

/-- Service 0x0030; an entry that another partition defined is not touched. -/
def defineTensor (r : Req) (s : State) : Except Nat State := do
  let v := r.w s 1
  let id := bitsN v 13 0
  let did := BitVec.ofNat 16 (r.w s 2)
  let len := r.w2 s 6
  want (decide (bitsN v 15 14 = 0) && decide (bitsN v 31 24 = 0)) 2
  want (match AMap.get? s.tensors id with | some t => decide (t.base / 2 ^ 52 = r.p) | none => true) 2
  if len = 0 then return { s with tensors := AMap.del s.tensors id }
  want (match AMap.get? s.keySlots (bitsN v 23 16) with | some ks => ks.bound && decide (ks.part = r.p) && decide (ks.did = did) | none => false) 2
  want (protectedDom s r.p did) 2
  want (decide (len % 128 = 0) && decide (len ≤ 2 ^ 40)) 2
  want (cxlRange s r.p (r.w2 s 4) len && cxlRange s r.p (r.w2 s 8) (len / 16)) 1
  want (rangeOf s r.p (r.w2 s 4) len did && rangeOf s r.p (r.w2 s 8) (len / 16) did) 2
  return { s with tensors := AMap.put s.tensors id { slot := bitsN v 23 16, owner := did, base := physKey r.p (r.w2 s 4), length := len, mac := physKey r.p (r.w2 s 8) } }

/-- TENSOR_DEFINE. -/
def execTensorDefine (k : Nat) (s : State) : Event := serviceEvent k 0x30 (answer defineTensor) s

end Sys2Proof.Machine
end

