-- ==== Sys2Proof/Machine/Fabric.lean ====
section
/-! DEFINITION. Sys2Proof/Machine/Fabric.lean: the fabric ports (R352 to R362): frames received, packets acted on, peer windows, ports that go down; and
the CXL regions that pass between the module and a host (R368). -/

namespace Sys2Proof.Machine

/-! ## Ports and frames (R353 to R356) -/

/-- Sectors that a packet names, in ascending order. -/
def pktSectors (p : Packet) : List Nat := (List.range 4).filter fun i => p.sectors.getLsbD i

/-- The operation field of a request performed at a node. -/
def pktOp (p : Packet) : Nat := bitsW p.opWord 3 0

/-- The operation field of a packet is well formed (R353). -/
def opWordOk (p : Packet) : Bool :=
  if p.kind = 5 ∨ p.kind = 7 then
    decide (pktOp p ≤ if p.kind = 5 then 7 else 5) && (match etypeOf (bitsW p.opWord 8 4) with | some t => atomType t | none => false)
    && decide (bitsW p.opWord 11 9 ≤ 4) && decide (bitsW p.opWord 15 14 = 0)
  else decide (p.opWord = 0)

/-- Payload bytes of a packet's type (R352). -/
def payloadSize (p : Packet) : Nat := if p.kind = 2 ∨ p.kind = 3 then 32 * (pktSectors p).length else if p.kind = 8 then 128 else 0

/-- A packet that is not discarded (R352, R353). -/
def packetOk (p : Packet) : Bool :=
  decide (1 ≤ p.kind.toNat) && decide (p.kind.toNat ≤ 9) && decide (p.spare = 0) && decide (bitsW p.module 7 6 = 0) && decide (bitsW p.slice 7 5 = 0)
  && !(decide (p.kind.toNat ≤ 3) && decide (p.sectors = 0)) && opWordOk p && decide (p.payload.length = payloadSize p)

/-- The phase of a frame. -/
def framePhase (f : Frame) : Bool := match f.packets with | a :: _ => a.phase | [] => false

/-- The key by which a port receives a frame: that of the slot which its phase names, if the slot holds one (R356). -/
def frameKey (p : Port) (port : Nat) (f : Frame) : Option (BitVec 256) :=
  (if framePhase f == p.rxPhase then some p.rxActive else p.rxPending).map (Config.linkKey port p.session false)

/-- A frame of 1 to 16 packets of one phase that are not discarded, whose tag verifies (R354, R356). -/
def frameOk (p : Port) (port : Nat) (f : Frame) : Bool :=
  decide (1 ≤ f.packets.length) && decide (f.packets.length ≤ 16) && f.packets.all packetOk && (f.packets.all fun b => b.phase == framePhase f)
  && (frameKey p port f).any fun key => decide (frameTag key port f.seq f.packets = f.tag)

/-- A port after it has accepted its next frame, whose payloads it decrypts; the first frame of a new phase makes the pending key active, and a rotation
that waited for that begins; a stream that has received 2^36 frames under one key is rotated (R356). How many frames of the other direction have been
acknowledged by then is left free. -/
def acceptFrame (p : Port) (port : Nat) (f : Frame) (acks : Nat) : Port :=
  let n := acks % (p.unacked.length + 1)
  let packets := cryptPackets ((frameKey p port f).getD 0) port f.seq 0 f.packets
  let p := { p with rxSeq := p.rxSeq + 1, replays := 0, dropped := false, inbox := p.inbox ++ packets, unacked := p.unacked.drop n,
                    txReplays := if n = 0 then p.txReplays else 0, rxFrames := p.rxFrames + 1 }
  let p := if framePhase f == p.rxPhase then p else { p with rxPhase := framePhase f, rxActive := p.rxPending.getD 0, rxPending := none, rxFrames := 1 }
  if p.rotateDue || decide (2 ^ 36 ≤ p.rxFrames) then p.rotate else p

/-- FRAME_RECEIVE (R355): the next frame in sequence is accepted; one that fails, or that skips a number, is dropped. -/
def execFrameReceive (port : Nat) (frame : Frame) (s : State) : Event :=
  let p := portAt s port
  if 64 ≤ port ∨ !p.up ∨ frame.seq < p.rxSeq then .next s
  else if frameOk p port frame ∧ frame.seq = p.rxSeq then
    .next ({ s with free := s.free + 1 }.modPort port fun p => acceptFrame p port frame (Config.freeNat s.free))
  else .next (s.modPort port fun p => { p with dropped := true })

/-- FRAME_REPLAY (R355): after a drop, the sending end begins again at the first frame that was not acknowledged: the node, where the port has dropped
a frame; else the port, because the node has dropped one of its frames. -/
def execFrameReplay (port : Nat) (s : State) : Event :=
  let p := portAt s port
  if !p.up then .next s
  else if p.dropped then .next (s.modPort port fun p => { p with dropped := false, replays := p.replays + 1 })
  else if p.unacked.isEmpty then .next s
  else .next (s.modPort port fun p => { p with txReplays := p.txReplays + 1 })

/-- PORT_RETRAIN (R362, R398): the port takes requests again; its streams begin anew in a new session with the node, whose other end the headgate has
authenticated as it was (R406), under its first key. -/
def execPortRetrain (port : Nat) (s : State) : Event :=
  let p := portAt s port
  if 64 ≤ port ∨ p.up then .next s
  else
    let s := s.modPort port fun p => { up := true, inbox := p.inbox, keys := p.keys + 1, rxActive := p.keys + 1, txActive := p.keys + 1, session := p.session + 1 }
    .next (s.logEvent 6 ((sliceAt s (port / 2)).part.getD 0) (port / 2))

/-- KEY_ROTATION (R356): the headgate rotates the keys of a port's streams. -/
def execKeyRotation (port : Nat) (s : State) : Event := .next (rotatePort s port)

/-- A packet at the head of a port's inbox, of some type. -/
def nextPacket (s : State) (port : Nat) (pkt : Packet) (mine : Nat → Bool) : Bool :=
  decide ((portAt s port).inbox.head? = some pkt) && mine pkt.kind.toNat

/-- The packet has been acted on. -/
def popPacket (s : State) (port : Nat) : State := s.modPort port fun p => { p with inbox := p.inbox.drop 1 }

/-! ## Responses (R352, R362, R377) -/

/-- A request that only another module can answer, found by the tag of a response: core and access. -/
structure Pending where
  k : Nat
  ac : Access

/-- A line part that waits for a response of a tag. -/
def partWaits (s : State) (port tag : Nat) (write : Bool) (p : LinePart) : Bool :=
  decide (p.tag = some tag) && p.sent && !p.performed && decide (podPort (128 * p.line) = port) && decide (podPlace s (128 * p.line) write = .outside)
/-- A lane that waits for a response of a tag. -/
def laneWaits (s : State) (port tag : Nat) (la : LaneAcc) : Bool :=
  decide (la.tag = some tag) && la.sent && !la.done && decide (podPort la.pa = port) && decide (podPlace s la.pa true = .outside)

/-- The access that a response of a tag completes: it returns to the slice that its header names (R377). -/
def pendingOf (s : State) (pkt : Packet) (waits : Access → Bool) : Option Pending :=
  s.cores.findSome? fun (k, c) =>
    if coreSlice k ≠ pkt.slice.toNat then none
    else (c.inflight.find? fun ac => !ac.abandoned && waits ac).map fun ac => { k := k, ac := ac }

/-- A part of a line is performed with some data. -/
def performPart (s : State) (k id line : Nat) (h : HomeData) : State :=
  s.modAccess k id fun ac =>
    let put := fun (q : LinePart) =>
      let miss := fun a => q.sectors.contains (a / 32) && !q.hits.contains (a / 32)
      if q.line = line then { q with performed := true, snap := (h.cells.filter fun (a, _) => miss a).foldl (fun m (a, b) => cellWrite m a b) q.snap,
                                     snapPoison := q.snapPoison ++ h.poison.filter fun w => miss (4 * w) } else q
    { ac with parts := ac.parts.map put }

/-- An access that writes to a line has been performed there. -/
def storeDone (s : State) (k id line : Nat) : State :=
  let s := performPart s k id line {}
  match accessAt s k id with
  | none => s
  | some ac =>
    let s := wakeWatchers (s.modCore k fun c => c.wrote ac.did line) line
    if ac.parts.all fun p => p.performed then watchDone s k ac else s

/-- Reads and WATCHes answer with data. -/
def readsData (ac : Access) : Bool := match ac.kind with | .load | .ldw | .watch | .pref => true | _ => false

/-- A reduction, alone or merged, answers with an acknowledgement. -/
def reduces (ac : Access) : Bool := match ac.kind with | .red _ | .merged _ => true | _ => false

/-- The cells of a read response for a line. -/
def responseCells (pkt : Packet) (line : Nat) : List Host.Cell :=
  (pktSectors pkt).zipIdx.foldl (fun m (q, i) => cellsWrite m (128 * line + 32 * q) ((pkt.payload.drop (32 * i)).take 32)) []

/-- FABRIC_READ_RESPONSE (R352): the sectors named complete the request. -/
def execFabricReadResponse (port : Nat) (pkt : Packet) (s : State) : Event :=
  if !nextPacket s port pkt fun t => t = 2 then .next s
  else
    let covers := fun (p : LinePart) => (p.sectors.filter fun q => !p.hits.contains q).all fun q => pkt.sectors.getLsbD (q % 4)
    let waits := fun (p : LinePart) => partWaits s port pkt.tag.toNat false p && covers p
    match pendingOf s pkt fun ac => readsData ac && ac.parts.any waits with
    | none => .next (popPacket s port)
    | some x => match x.ac.parts.find? waits with
      | none => .next (popPacket s port)
      | some p => .next (armMonitor (performPart (popPacket s port) x.k x.ac.id p.line { cells := responseCells pkt p.line }) x.k x.ac p.line)

/-- FABRIC_WRITE_ACK (R352): the write, or the reduction, has been performed. -/
def execFabricWriteAck (port : Nat) (pkt : Packet) (s : State) : Event :=
  if !nextPacket s port pkt fun t => t = 4 then .next s
  else
    let part := partWaits s port pkt.tag.toNat true
    let lane := laneWaits s port pkt.tag.toNat
    match pendingOf s pkt fun ac => (decide (ac.kind = .store) && ac.parts.any part) || (reduces ac && ac.lanes.any lane) with
    | none => .next (popPacket s port)
    | some x =>
      let s := popPacket s port
      if x.ac.kind = .store then match x.ac.parts.find? part with
        | some p => .next (storeDone s x.k x.ac.id p.line)
        | none => .next s
      else match x.ac.lanes.find? lane with
        | some la =>
          let s := s.modCore x.k fun c => c.wrote x.ac.did (la.pa / 128)
          .next (afterAtomic (markLane (wakeWatchers s (la.pa / 128)) x.k x.ac.id la.lane id) x.k x.ac la [])
        | none => .next s

/-- FABRIC_ATOMIC_RESPONSE (R352): the old value returns. -/
def execFabricAtomicResponse (port : Nat) (pkt : Packet) (s : State) : Event :=
  if !nextPacket s port pkt fun t => t = 6 then .next s
  else
    let lane := laneWaits s port pkt.tag.toNat
    match pendingOf s pkt fun ac => ac.isAtomic && ac.lanes.any lane with
    | none => .next (popPacket s port)
    | some x => match x.ac.lanes.find? lane with
      | none => .next (popPacket s port)
      | some la =>
        let s := (popPacket s port).modCore x.k fun c => c.wrote x.ac.did (la.pa / 128)
        let old := pkt.operands.toNat % 2 ^ (8 * la.size)
        let s := if (atomFun x.ac la old).isSome then wakeWatchers s (la.pa / 128) else s
        .next (afterAtomic (markLane s x.k x.ac.id la.lane fun la => { la with val := BitVec.ofNat 128 old }) x.k x.ac la [])

/-- A line of an access is answered with an error (R362): a load's data is marked uncorrectable, a store is dropped; the error is reported. -/
def failPart (s : State) (k : Nat) (ac : Access) (line : Nat) : State :=
  let s := reportError s (coreSlice k) (paOf (128 * line))
  if ac.kind = .store then
    let s := performPart s k ac.id line {}
    match accessAt s k ac.id with
    | some ac => if ac.parts.all fun p => p.performed then watchDone s k ac else s
    | none => s
  else armMonitor (performPart s k ac.id line (lineFailed line false)) k ac line

/-- The same of a lane of an atomic or reduction. -/
def failLane (s : State) (k : Nat) (ac : Access) (la : LaneAcc) : State :=
  let s := reportError s (coreSlice k) (paOf la.pa)
  afterAtomic (markLane s k ac.id la.lane fun la => { la with poison := 15 }) k ac la []

/-- A port that goes down answers every request that it holds with cause 4 (R362): those that have left through it and are not performed. -/
def answerHeld (s : State) (port : Nat) : State :=
  s.cores.foldl (fun s (k, c) => c.inflight.foldl (fun s ac =>
    let s := (ac.parts.filter fun p => p.sent && !p.performed && decide (podPort (128 * p.line) = port)).foldl (fun s p => failPart s k ac p.line) s
    (ac.lanes.filter fun la => la.sent && !la.done && decide (podPort la.pa = port)).foldl (fun s la => failLane s k ac la) s) s) s

/-- PORT_DOWN (R355, R362, R363): 16 consecutive replays of one frame, of either direction. The requests that the port holds are answered with cause
4; groups that route through the node lose it, for the commands that run too. -/
def execPortDown (port : Nat) (s : State) : Event :=
  let p := portAt s port
  if !p.up ∨ (p.replays < 16 ∧ p.txReplays < 16) then .next s
  else
    let lose := fun (g : Group) => if g.nodes.contains port then { g with lost := insertNat port g.lost } else g
    let s := answerHeld (s.modPort port fun p => { inbox := p.inbox, keys := p.keys, session := p.session }) port
    .next (mapSnaps { s with groups := s.groups.map fun (i, g) => (i, lose g) } (fun _ => true) lose)

/-- FABRIC_ERROR_RESPONSE (R362): loads and atomics receive data marked uncorrectable, stores and reductions are dropped and counted; the
error is reported with the physical address. -/
def execFabricErrorResponse (port : Nat) (pkt : Packet) (s : State) : Event :=
  if !nextPacket s port pkt fun t => t = 9 then .next s
  else
    let part := fun (ac : Access) => partWaits s port pkt.tag.toNat (decide (ac.kind = .store))
    let lane := laneWaits s port pkt.tag.toNat
    match pendingOf s pkt fun ac => ((readsData ac || decide (ac.kind = .store)) && ac.parts.any (part ac)) || ((ac.isAtomic || reduces ac) && ac.lanes.any lane) with
    | none => .next (popPacket s port)
    | some x =>
      let s := popPacket s port
      match x.ac.parts.find? (part x.ac), x.ac.lanes.find? lane with
      | some p, _ => .next (failPart s x.k x.ac p.line)
      | none, some la => .next (failLane s x.k x.ac la)
      | none, none => .next s

/-! ## Requests from other modules (R357 to R360) -/

/-- A response to a request of another module. -/
def responseTo (s : State) (pkt : Packet) (kind : BitVec 8) : Packet :=
  { kind := kind, sectors := 0, phase := false, spare := 0, tag := pkt.tag, module := BitVec.ofNat 8 s.moduleId, slice := pkt.slice, opWord := 0, offset := pkt.offset,
    operands := 0, payload := [] }

/-- An error response of a cause. -/
def errorTo (s : State) (pkt : Packet) (cause : Nat) : Packet := { responseTo s pkt 9 with operands := BitVec.ofNat 128 cause }

/-- The home of an inbound window access: its key, or the cause of an error response (R353, R358 to R360, R377). -/
def windowHome (s : State) (port : Nat) (pkt : Packet) : Except Nat Nat :=
  let off := pkt.offset.toNat
  let write := decide (pkt.kind ≠ 1)
  if off / 2 ^ 42 ≠ 0 then .error 1
  else if bitsN off 41 41 = 0 then .error 2
  else match s.windows.find? fun w => decide (w.node = port) && decide (w.win = bitsN off 40 35) with
    | none => .error 3
    | some w =>
      let b := bitsN off 34 0
      let key := physKey w.part (w.base + b)
      let owner := (potAt s key).owner
      if !w.importers.getLsbD pkt.module.toNat || decide (w.length ≤ b) then .error 3
      else if write && (!w.w || decide (owner ≠ 0 ∧ owner ≠ 0xFFFF)) then .error 3
      else if !write && (!w.r || (potAt s key).world) then .error 3
      else .ok key

/-- The bytes that a write packet enables, with their places in the line. -/
def enabledBytes (pkt : Packet) : List (Nat × Byte) :=
  ((pktSectors pkt).zipIdx.flatMap fun (q, i) => (List.range 32).map fun j => (32 * q + j, pkt.payload.getD (32 * i + j) 0)).filter fun (a, _) => pkt.operands.getLsbD a

/-- The operation that a packet asks for at its home. -/
def packetOp (pkt : Packet) : AtomOp :=
  match pktOp pkt with
  | 0 => .add | 1 => .min | 2 => .max | 3 => .and | 4 => .or | 5 => .xor | 6 => .xchg | _ => .cas

/-- The new value of an operation at its home: none when a CAS does not match. -/
def packetFun (pkt : Packet) (t : EType) (old : Nat) : Option Nat :=
  let n := t.width
  let v := pkt.operands.toNat % 2 ^ n
  let m : FMode := { rm := bitsW pkt.opWord 11 9, sat := pkt.opWord.getLsbD 13, ftz := pkt.opWord.getLsbD 12 }
  if packetOp pkt = .cas then (if old = pkt.operands.toNat / 2 ^ 64 % 2 ^ n then some v else none) else some (atomF (packetOp pkt) t m old v % 2 ^ n)

/-- A window access is performed at its home and answered; writes publish (R236). -/
def performWindow (s : State) (port : Nat) (pkt : Packet) (key : Nat) : State :=
  let line := key / 128
  let publish := fun (s : State) => publishWide s (homeSlice s key) (key / 2 ^ 52) 0xFFFF [line]
  if pkt.kind = 1 then
    let bs := (pktSectors pkt).flatMap fun q => cellsRead s.mem (128 * line + 32 * q) 32
    sendPacket s port { responseTo s pkt 2 with sectors := pkt.sectors, payload := bs }
  else if pkt.kind = 3 then
    let s := (enabledBytes pkt).foldl (fun s (a, b) => homeWrite s (128 * line + a) [b]) s
    sendPacket (publish s) port (responseTo s pkt 4)
  else
    let t := (etypeOf (bitsW pkt.opWord 8 4)).getD .i32
    let old := memNat s key (t.width / 8)
    let s := match packetFun pkt t old with
      | some v => publish (homeWriteNat s key (t.width / 8) v)
      | none => s
    sendPacket s port (if pkt.kind = 5 then { responseTo s pkt 6 with operands := BitVec.ofNat 128 old } else responseTo s pkt 4)

/-- WINDOW_ACCESS (R359): it passes the sluice and is performed at the home, or refused; it waits while its line is being moved or is owned by
a host (R368, R383). -/
def execWindowAccess (port : Nat) (pkt : Packet) (s : State) : Event :=
  if !nextPacket s port pkt fun t => t = 1 || t = 3 || t = 5 || t = 7 then .next s
  else match windowHome s port pkt with
    | .error c => .next (sendPacket (popPacket s port) port (errorTo s pkt c))
    | .ok key =>
      if keyShut s key then .next s
      else .next (performWindow (popPacket s port) port pkt key)

/-- This module's member of a group of a number: the lowest partition's whose group is formed. -/
def memberFor (s : State) (n : Nat) : Option Member :=
  s.groups.findSome? fun (key, g) => if key % 256 = n && g.formed then g.members.find? fun m => decide (m.module = s.moduleId) && m.present else none

/-- FABRIC_MULTICAST_LINE (R297, R299, R352): a line of a collective of another module reaches this member: its buffer, or the cistern when
bit 41 of the offset is set. The tag's low byte names the group, the offset the byte in the buffer or the cistern: DESIGN CHOICE, log entry 29. -/
def execFabricMulticastLine (port : Nat) (pkt : Packet) (s : State) : Event :=
  if !nextPacket s port pkt fun t => t = 8 then .next s
  else
    let s := popPacket s port
    let off := bitsN pkt.offset.toNat 40 0 / 128 * 128
    match (memberFor s (pkt.tag.toNat % 256)).filter fun m => decide (pkt.module.toNat ≠ m.module) with
    | none => .next s
    | some m =>
      if pkt.offset.getLsbD 41 then
        if off < 192 * 2 ^ 26 && regionOf s m.part (off / 2 ^ 26) then
          .next { s with cisternWrites := s.cisternWrites ++ [{ part := m.part, did := m.did, offset := off, bytes := pkt.payload }] }
        else .next s
      else if off + 128 ≤ m.length && memberOwns s m off 128 then .next (engineWrite s ((partAt s m.part).slices.headD 0) m.part m.did (m.key off) pkt.payload)
      else .next s

/-! ## Type 2 regions (R368) -/

/-- A region of 2 MiB of the range of its HBM that a partition exports (DESIGN CHOICE, log entry 44: no rule names the range). -/
def regionOk (s : State) (p r : Nat) : Bool := decide (512 * (r + 1) ≤ 15625000 * hbmStacks (partAt s p)) && Config.hostExports p r

/-- A key lies in a region. -/
def inRegion (p r key : Nat) : Bool := decide (key / 2 ^ 52 = p) && decide (paKind key = 0) && decide (paOf key / 2 ^ 21 = r)

/-- A request of the partition's cores, or a piece of an engine's chunk, to a region is on its way. -/
def regionBusy (s : State) (p r : Nat) : Bool :=
  (s.cores.any fun (k, c) => (c.cq0 ++ c.cq1).any fun q => q.busy && decide (q.core = k) && q.pages.any fun (o, a) => inRegion p r a && !q.landed.contains o)
  || s.cores.any fun (_, c) => c.combine.any (fun e => inRegion p r e.pa) || c.inflight.any fun ac => ac.lanes.any fun la => inRegion p r la.pa && ac.requests (la.pa / 128)

/-- A region keeps its owner of the last 2,048 cycles; the request that moved it is that owner's access (R368; log entry 81). -/
def keepsOwner (pt : Partition) (r : Nat) : Bool := (AMap.get? pt.moved r).any fun t => decide (pt.clk < t + 2048)

/-- A region passes to the processor, or back. -/
def Partition.toHost (pt : Partition) (r : Nat) : Partition := { pt with hostOwned := insertNat r pt.hostOwned, moved := AMap.put pt.moved r pt.clk }
def Partition.toModule (pt : Partition) (r : Nat) : Partition := { pt with hostOwned := pt.hostOwned.filter fun n => decide (n ≠ r), moved := AMap.put pt.moved r pt.clk }

/-- CXL_HOST_REQUEST: a host request to a region that the module owns is held until the L1 lines of the region are invalid and its buffered
reductions performed; then the processor owns it. -/
def execCxlHostRequest (part region : Nat) (s : State) : Event :=
  if !regionOk s part region || (partAt s part).hostOwned.contains region || keepsOwner (partAt s part) region then .next s
  else
    let s := (coresOfPart s part).foldl (fun s k =>
      (flushEntries s k fun e => inRegion part region e.pa).modCore k fun c => l1Drop c none fun q => inRegion part region (32 * q)) s
    if regionBusy s part region then .next s
    else .next (s.modPart part fun pt => pt.toHost region)

/-- CXL_REGION_RECLAIM: the host writes its copies back, which the model leaves free, as writes of a party at system scope; then the module
owns the region. -/
def execCxlRegionReclaim (part region : Nat) (s : State) : Event :=
  if !(partAt s part).hostOwned.contains region || keepsOwner (partAt s part) region then .next s
  else
    let key := 2 ^ 52 * part + 2 ^ 21 * region
    let s := memPut { s with free := s.free + 1 } key (natLe (2 ^ 21) (Config.freeNat s.free))
    let watched := (s.cores.flatMap fun (_, c) => c.warps.flatMap fun (_, wp) => wp.gangs.filterMap fun (_, gn) => gn.monitor.map fun m => m.line).filter fun l => inRegion part region (128 * l)
    let s := watched.eraseDups.foldl wakeWatchers s
    let s := publishAt s 0 part 5 { did := 0xFFFF, sig := signatureOf ((List.range 16384).map (key / 128 + ·)) }
    .next (s.modPart part fun pt => pt.toModule region)

end Sys2Proof.Machine
end

