-- ==== Sys2Proof/Machine/Lanes.lean ====
section
/-! DEFINITION. Sys2Proof/Machine/Lanes.lean: opcodes 0x40 to 0x4B, the cross-lane instructions and registers by number (R146 to R153). -/

namespace Sys2Proof.Machine

/-- The form of a cross-lane instruction (R146). -/
def laneForm (x : Ctx) (op : Nat) (classes : Bool) (a : Reg) (aw : Nat) (d : Reg) (dw : Nat) : Form :=
  { op := op, classes := classes, a := a, aw := aw, aLane := decide (aw = 1), res := Reg.vz d && decide (dw = 1), writes := [(d, dw)], lat := 6 }

/-- The lanes of a mask whose predicate is 1. -/
def predLanes (x : Ctx) (m : Mask) (a : Reg) : Mask := laneWhere m fun l => decide (x.rd l a ≠ 0)

/-- VOTE (R147, R152). -/
def execVote (d a : Reg) (op : BitVec 8) (s : State) : Host.Outcome State Fault Refusal :=
  run s fun x => do
    let v := op.toNat
    let dOk := if v < 2 then Reg.isP d || Reg.isZ d else Reg.vz d || Reg.isS d
    let f : Form := { op := 0x40, classes := decide (v < 4) && dOk && Reg.isP a, more := [(a, 1)], writes := [(d, 1)], lat := 6,
                      res := decide (2 ≤ v) && Reg.vz d }
    check x f
    let ballot := predLanes x x.active a
    let r : Nat := match v with
      | 0 => if ballot = x.active then 1 else 0
      | 1 => if ballot = 0 then 0 else 1
      | 2 => ballot.toNat
      | _ => popCount ballot
    let wp := if Reg.isS d then x.wp.dstS d 1 r else x.wp.dst x.active d 1 fun _ => r
    return retire x f (x.setWarp wp) fun _ => w32 r

/-- The source lane of a shuffle, when it is in the gang (R148). -/
def pickSource (x : Ctx) (kind c l : Nat) : Option Nat :=
  let src : Option Nat := match kind with
    | 0 => some (c % 32)
    | 1 => if c ≤ l then some (l - c) else none
    | 2 => if l + c ≤ 31 then some (l + c) else none
    | _ => some (l ^^^ (c % 32))
  src.filter fun m => x.gn.mask.getLsbD m

/-- The lanes of a mask for which register a is poisoned in the lane a value is taken from, with its code (R90, R148); where the edge policy applies,
a neighbour select that leaves the gang takes what the policy gives (R21). -/
def takenPoison (x : Ctx) (lanes : Mask) (from_ : Nat → Nat) (a : Reg) (n : Nat) (edge : Bool := false) : Option (Nat × Mask) :=
  if x.asel = 3 then none
  else (List.range n).findSome? fun j => match a with
    | .v i =>
      let tag := AMap.getD x.wp.vpoison (i + j) 0
      let src := fun l => match x.asel with
        | 0 => some (from_ l)
        | k => if !edge && neighbourOut x (k == 1) (from_ l) then none else neighbour x (k == 1) (from_ l)
      let p := laneWhere lanes fun l => match src l with | some m => tag.getLsbD m | none => false
      if p = 0 then none else some (i.val + j, p)
    | .s i => if AMap.getD x.wp.spoison (i + j) 0 = 0 || lanes = 0 then none else some (0x80 + i.val + j, lanes)
    | _ => none

/-- The poison-consumed fault (R90). -/
def needClean (p : Option (Nat × Mask)) : Except Stop Unit :=
  match p with
  | some (code, m) => .error (.trap { cause := 0x11, lanes := some m, extra := w32 code })
  | none => .ok ()

/-- The a value that lane l takes from a lane. The edge policy does not apply to shuffles: where a neighbour select leaves the gang, the spec
states no value, and a free one is taken (DESIGN CHOICE, log entry 35). -/
def pickValue (x : Ctx) (a : Reg) (l src : Nat) : Nat :=
  if (x.asel == 1 || x.asel == 2) && neighbourOut x (x.asel == 1) src then (w32 (Config.freeNat (x.s.free + l))).toNat else opA x a src

/-- A shuffle (R148): value, poison, then the guard predicate. -/
def pickOp (kind op : Nat) (d a b : Reg) (s : State) : Host.Outcome State Fault Refusal :=
  run s fun x => do
    let gp := modeGp x.mode
    let from_ := fun l => (pickSource x kind (srcB x b l).toNat l).getD l
    let f : Form := { laneForm x op (Reg.vz d) a x.width d x.width with
                      b := b, bw := 1, bLane := true, ownPoison := true, writes := [(d, x.width), (predReg gp, 1)],
                      from_ := some ((List.range 32).map from_), noEdge := true,
                      early := if x.asel = 3 ∧ !x.blatch then regCodes b 1 else [] }
    check x f
    needClean (takenPoison x x.active from_ a x.width)
    let r := fun l => pickValue x a l (from_ l)
    let wp := x.wp.dst x.active d x.width r
    let wp := wp.predIn x.active gp fun l => (pickSource x kind (srcB x b l).toNat l).isSome != modeGinv x.mode
    return retire x f { (x.setWarp wp) with free := x.s.free + 32 } fun l => w32 (r l)

/-- PICK_IDX (R148). -/
def execPickIdx (d a b : Reg) (s : State) : Host.Outcome State Fault Refusal := pickOp 0 0x41 d a b s

/-- PICK_UP (R148). -/
def execPickUp (d a b : Reg) (s : State) : Host.Outcome State Fault Refusal := pickOp 1 0x42 d a b s

/-- PICK_DN (R148). -/
def execPickDn (d a b : Reg) (s : State) : Host.Outcome State Fault Refusal := pickOp 2 0x43 d a b s

/-- PICK_XOR (R148). -/
def execPickXor (d a b : Reg) (s : State) : Host.Outcome State Fault Refusal := pickOp 3 0x44 d a b s

/-- The identity of an operation on one element (R149). -/
def scanIdentity (op : Nat) (t : EType) : Nat :=
  let extreme := fun (top : Bool) =>
    if t.isInt then wrapN (if top then intMax t else intMin t) t.width
    else match t with
      | .e4m3 | .e5m2 | .e2m1 => fSign t (!top) t.maxFinite
      | _ => fSign t (!top) (t.infBits.getD 0)
  match op with
  | 1 => extreme true
  | 2 => extreme false
  | _ => 0

/-- The combination of one element position over values in lane order (R149). -/
def combineElem (op : Nat) (t : EType) (m : FMode) (es : List Nat) : Nat :=
  match es with
  | [] => scanIdentity op t
  | e :: _ =>
    match op with
    | 0 =>
      if t.isInt then intResult t m.sat (es.foldl (fun acc y => acc + intValue t y) 0)
      else
        let fs := es.map (fFlush m.ftz t)
        match firstNan t fs with
        | some q => fFinish t m (.bits q)
        | none => fFinish t m ((fs.foldl (fun (acc : Sum) y => acc.addVal (fValue t y)) {}).res m.rm)
    | 1 => es.foldl (minMax false t m) e
    | _ => es.foldl (minMax true t m) e

/-- The combination of whole operands: and, or and xor over every bit, the others by element (R149). -/
def combineAll (op : Nat) (t : EType) (m : FMode) (bits : Nat) (xs : List Nat) : Nat :=
  match op with
  | 3 => xs.foldl (· &&& ·) (2 ^ bits - 1)
  | 4 => xs.foldl (· ||| ·) 0
  | 5 => xs.foldl (· ^^^ ·) 0
  | _ => buildElems t (fun i => combineElem op t m (xs.map fun v => elemOf t v i)) t.elems

/-- What the scans accept: six operations, addition not in the narrow float types (R146). -/
def scanForm (x : Ctx) (code : Nat) (d a : Reg) (op : BitVec 8) (dOk : Bool) : Form :=
  { laneForm x code (dOk && decide (op.toNat < 6)) a x.width d x.width with typed := !(decide (op.toNat = 0) && x.t.isNarrow) }

/-- The a values of the lanes of a mask, in ascending lane order. -/
def laneValues (x : Ctx) (a : Reg) (m : Mask) (p : Nat → Bool) : List Nat := ((lanesOf m).filter p).map fun l => opA x a l

/-- SCAN (R149): inclusive. -/
def execScan (d a : Reg) (op : BitVec 8) (s : State) : Host.Outcome State Fault Refusal :=
  run s fun x => laneOp x (scanForm x 0x45 d a op (Reg.vz d)) d x.width fun l =>
    combineAll op.toNat x.t x.fm x.bits (laneValues x a x.active fun m => decide (m ≤ l))

/-- SCANX (R149): exclusive. -/
def execScanx (d a : Reg) (op : BitVec 8) (s : State) : Host.Outcome State Fault Refusal :=
  run s fun x => laneOp x (scanForm x 0x46 d a op (Reg.vz d)) d x.width fun l =>
    combineAll op.toNat x.t x.fm x.bits (laneValues x a x.active fun m => decide (m < l))

/-- REDX (R149, R152): every active lane, or a scalar once. -/
def execRedx (d a : Reg) (op : BitVec 8) (s : State) : Host.Outcome State Fault Refusal :=
  run s fun x => do
    let f := scanForm x 0x47 d a op (Reg.vz d || Reg.isS d)
    check x f
    let r := combineAll op.toNat x.t x.fm x.bits (laneValues x a x.active fun _ => true)
    let wp := if Reg.isS d then x.wp.dstS d x.width r else x.wp.dst x.active d x.width fun _ => r
    return retire x f (x.setWarp wp) fun _ => w32 r

/-- MATCH (R150): the mask of equal lanes, zero-extended to a pair under a 64-bit type (R48). -/
def execMatchEq (d a : Reg) (s : State) : Host.Outcome State Fault Refusal :=
  run s fun x => laneOp x (laneForm x 0x48 (Reg.vz d) a x.width d x.width) d x.width fun l =>
    (laneWhere x.active fun m => decide (opA x a m = opA x a l)).toNat

/-- V2S (R151, R152). Field b is one 32-bit register under every element type, and only the source lane's a is consumed under R90, besides what
hold 01 pushes (DESIGN CHOICE, log entry 87: R48 and R17 do not say). -/
def execV2s (d a b : Reg) (s : State) : Host.Outcome State Fault Refusal :=
  run s fun x => do
    let f : Form := { laneForm x 0x49 (Reg.sz d && Reg.unif b) a x.width d x.width with
                      aOk := Reg.isV a, more := [(b, 1)], ownPoison := true, res := false }
    check x f
    let c := (x.rd 0 b).toNat
    let src := if c ≤ 31 then c else firstLane x.active
    let live := decide (src < 32) && x.active.getLsbD src
    if live then needClean (takenPoison x (bitMask src) (fun l => l) a x.width true)
    needClean (holdPoison x f)
    return retire x f (x.setWarp (x.wp.dstS d x.width (if live then opA x a src else 0)))

/-- The number of a field's first vector register. -/
def vNum : Reg → Nat
  | .v i => i.val
  | _ => 0

/-- Every vector register of the allocation, as codes. -/
def allVectors (wp : Warp) : List Nat := List.range (8 * wp.blocks)

/-- The lanes in which VMOVX takes its value from a poisoned register, and the first lane's register (R90). Of several registers the
record names the first lane's with every lane (DESIGN CHOICE, log entry 31). -/
def indexedPoison (x : Ctx) (num : Nat → Nat) : Option (Nat × Mask) :=
  let from_ := fun l => match x.asel with
    | 0 => some l
    | 1 => neighbour x true l
    | 2 => neighbour x false l
    | _ => none
  let tag := laneWhere x.active fun l => match from_ l with | some m => (AMap.getD x.wp.vpoison (num l) 0).getLsbD m | none => false
  if tag = 0 then none else some (num (firstLane tag), tag)

/-- VMOVX (R153): the register numbered a + b, through a-select; a latch read names no register (R17). -/
def execVmovx (d a b : Reg) (s : State) : Host.Outcome State Fault Refusal :=
  run s fun x => do
    let f : Form := { op := 0x4A, classes := Reg.vz d, a := a, b := b, aw := 1, bw := 1, aOk := Reg.isV a, bOk := Reg.isV b || Reg.unif b,
                      aLane := true, bLane := true, res := true, ownPoison := true, writes := [(d, 1)], lat := 6, waits := allVectors x.wp,
                      indexed := if x.asel = 3 then none else some (vNum a), early := if x.blatch then [] else regCodes b 1 }
    check x f
    let num := fun l => vNum a + (srcB x b l).toNat
    needClean (indexedPoison x num)
    needClean (holdPoison x f)
    let r := fun l => srcSel x (fun m => x.wp.vreg (num l) m) l
    return retire x f (x.setWarp (x.wp.dst x.active d 1 fun l => (r l).toNat)) r

/-- VSTX (R153): writes the register numbered d + b; until it lands every vector register counts as pending. -/
def execVstx (d a b : Reg) (s : State) : Host.Outcome State Fault Refusal :=
  run s fun x => do
    let num := fun l => vNum d + (srcB x b l).toNat
    let f : Form := { op := 0x4B, classes := Reg.isV d, a := a, b := b, aw := 1, bw := 1, bOk := Reg.isV b || Reg.unif b,
                      aLane := true, bLane := true, indexed := some (vNum d), early := if x.blatch then [] else regCodes b 1,
                      waits := ((lanesOf x.active).map num).filter fun n => decide (n < 8 * x.wp.blocks) }
    check x f
    let wp := (lanesOf x.active).foldl (fun (wp : Warp) l => wp.setV (num l) l (srcA x a l)) x.wp
    return retire x { f with writes := (allVectors x.wp).map fun n => (.v (Fin.ofNat 128 n), 1), lat := 6 } (x.setWarp wp)

end Sys2Proof.Machine
end

