-- ==== Sys2Proof/Machine/Trust.lean ====
section
/-! DEFINITION. Sys2Proof/Machine/Trust.lean: key slots and measurements (R400, R404, R408), migration (R409), debug unlock and return (R402, R410, R411),
identity and SPDM (R403, R405). The primitives of cryptography are opaque. -/

namespace Sys2Proof.Machine

/-! ## Key slots and owner keys (R400, R408) -/

/-- Service 0x0070. -/
def bindSlot (r : Req) (s : State) : Except Nat State := do
  let v := r.w s 1
  let n := bitsN v 7 0
  let did := BitVec.ofNat 16 (r.w s 2)
  want s.unlock.isNone 3
  let foreign := match AMap.get? s.keySlots n with | some ks => ks.bound && decide (ks.did ≠ did ∨ ks.part ≠ r.p) | none => false
  want (!foreign) 2
  if v.testBit 8 then return { s with keySlots := AMap.del s.keySlots n }
  want (protectedDom s r.p did) 2
  match AMap.get? s.keySlots n with
  | none => .error 4
  | some ks =>
    want (decide (ks.session = r.w s 3)) 4
    return { s with keySlots := AMap.put s.keySlots n { ks with part := r.p, did := did, bound := true } }

/-- BIND_KEY_SLOT. -/
def execBindKeySlot (k : Nat) (s : State) : Event := serviceEvent k 0x70 (answer bindSlot) s

/-- A register of a partition is extended. -/
def extendPart (s : State) (p i : Nat) (x : Digest) : State := s.modPart p fun pt => { pt with measures := extended pt.measures i x }

/-- Service 0x0071: the key also extends register 10 (R404). -/
def registerKey (r : Req) (s : State) : Except Nat State := do
  let pa := r.w2 s 2
  want (kernelRange s r.p pa 97) 1
  want (decide ((partAt s r.p).ownerKeys.length < 8)) 2
  let bs := rangeBytes s r.p pa 97
  return extendPart (s.modPart r.p fun pt => { pt with ownerKeys := pt.ownerKeys ++ [bs] }) r.p 10 (Config.sha384 bs)

/-- REGISTER_OWNER_KEY. -/
def execRegisterOwnerKey (k : Nat) (s : State) : Event := serviceEvent k 0x71 (answer registerKey) s

/-! ## Measurements (R404, R405) -/

/-- Service 0x0080. -/
def extendRegister (r : Req) (s : State) : Except Nat State := do
  want (decide (9 ≤ r.w s 1) && decide (r.w s 1 ≤ 15)) 2
  return extendPart s r.p (r.w s 1) (r.digest s)

/-- EXTEND_MEASUREMENT. -/
def execExtendMeasurement (k : Nat) (s : State) : Event := serviceEvent k 0x80 (answer extendRegister) s

/-- A measurement register as a partition sees it. -/
def measureOf (s : State) (p i : Nat) : Digest := if i < 8 then AMap.getD s.measures i 0 else AMap.getD (partAt s p).measures i 0

/-- The compound device identifier, the seed of the DeviceID key (R403): of the device secret and the headgate firmware. -/
def compoundId : Digest := Config.hmac384 (natLe 32 Config.deviceSecret.toNat) (natLe 48 (Config.measured 0).toNat)

/-- The device identifier (R403). -/
def deviceId : Digest := Config.sha384 (Config.p384Public compoundId)

/-- The seed of the alias key, of the DeviceID key and registers 0 to 2 (R403). HMAC-SHA-384 as this derivation is the model's (DESIGN CHOICE, log entry 82). -/
def aliasSeed (s : State) : Digest :=
  Config.hmac384 (natLe 48 compoundId.toNat) ((List.range 3).flatMap fun i => natLe 48 (AMap.getD s.measures i 0).toNat)

/-- The certificate chain of slot 0: the DeviceID key's certificate, the alias key, its signature by the DeviceID key (R403, R405). -/
def certificateChain (s : State) : List Byte :=
  Config.deviceCertificate ++ Config.p384Public (aliasSeed s) ++ Config.p384Sign compoundId (Config.p384Public (aliasSeed s))

/-- A response that carries the requester's nonce: encoded, and signed by the alias key (R405). -/
def signedResponse (s : State) (code : Nat) (body : List Byte) : List Byte :=
  let bs := Config.spdmEncode code body
  bs ++ Config.p384Sign (aliasSeed s) bs

/-- The measurement blocks 1 to 18 of a partition and a domain, with the requester's nonce (R405). -/
def measureBlocks (s : State) (p : Nat) (did : BitVec 16) (nonce : Digest) : List Byte :=
  (List.range 16).flatMap (fun i => natLe 48 (measureOf s p i).toNat) ++ natLe 1 s.lifecycle
  ++ (if did = 0 then [] else natLe 48 (AMap.getD (partAt s p).domMeasures did.toNat 0).toNat) ++ natLe 48 nonce.toNat

/-- A MEASUREMENTS response in a 4 KiB buffer. -/
def measureReport (s : State) (p : Nat) (did : BitVec 16) (nonce : Digest) : List Byte :=
  let bs := signedResponse s 0x60 (measureBlocks s p did nonce)
  (List.range 4096).map fun i => bs.getD i 0

/-- Service 0x0081. -/
def reportMeasures (r : Req) (s : State) : Except Nat State := do
  let did := BitVec.ofNat 16 (r.w s 1)
  let pa := r.w2 s 2
  want (kernelBuffer s r.p pa 4096) 1
  want (decide (did = 0) || protectedDom s r.p did) 2
  return homeWrite s (physKey r.p pa) (measureReport s r.p did (r.digest s))

/-- MEASUREMENT_REPORT. -/
def execMeasurementReport (k : Nat) (s : State) : Event := serviceEvent k 0x81 (answer reportMeasures) s

/-! ## Migration (R409). The layouts of the two requests and of the bundle are the model's: the spec names their contents only (DESIGN CHOICE, log entries 67 and 82). -/

end Sys2Proof.Machine

namespace Sys2Proof.Config

/-- The contents of a save area as bytes of a bundle, and what such bytes hold (R338, R409). -/
opaque packSaved : Machine.Saved → List Byte
opaque unpackSaved : List Byte → Option Machine.Saved

end Sys2Proof.Config

namespace Sys2Proof.Machine

/-- What a bundle carries: the domain's measurement, its keys, its frames in ascending order, its saved context. -/
structure Bundle where
  meas : Digest
  keys : List (BitVec 256)
  frames : List (List Byte)
  saved : Saved

/-- A bundle as bytes. -/
def Bundle.bytes (b : Bundle) : List Byte :=
  natLe 48 b.meas.toNat ++ natLe 4 b.keys.length ++ natLe 4 b.frames.length ++ b.keys.flatMap (fun k => natLe 32 k.toNat) ++ b.frames.flatten ++ Config.packSaved b.saved

/-- A little-endian field of a string of bytes. -/
def fieldAt (bs : List Byte) (at_ n : Nat) : Nat := leNat ((bs.drop at_).take n)

/-- The bundle in some bytes. -/
def bundleIn (bs : List Byte) : Option Bundle :=
  let nk := fieldAt bs 48 4
  let nf := fieldAt bs 52 4
  let body := bs.drop (56 + 32 * nk)
  (Config.unpackSaved (body.drop (65536 * nf))).map fun sv =>
    { meas := BitVec.ofNat 384 (fieldAt bs 0 48), keys := (List.range nk).map fun i => BitVec.ofNat 256 (fieldAt bs (56 + 32 * i) 32),
      frames := (List.range nf).map fun i => (body.drop (65536 * i)).take 65536, saved := sv }

/-- A requester holds an established session in which both sides have authenticated themselves (R405). -/
def peerSession (s : State) : Bool := s.spdm.any fun (_, e) => e.finished && e.bothSides

/-- The frames of a protected domain in a partition, by number. -/
def domainFrames (s : State) (p : Nat) (did : BitVec 16) : List Nat :=
  (s.pot.filter fun (f, e) => e.world && decide (e.owner = did) && (decide (65536 * f / 2 ^ 52 = p) || decide (paKind (65536 * f) = 1 ∧ regionOf s p (cisternRegion (65536 * f))))).map
    Prod.fst

/-- The key slots of a domain, the lowest first. -/
def domainKeys (s : State) (p : Nat) (did : BitVec 16) : List KeySlot :=
  (s.keySlots.filter fun (_, ks) => ks.bound && decide (ks.part = p) && decide (ks.did = did)).map Prod.snd

/-- Step 7: the source erases the domain. -/
def eraseExport (s : State) (x : Export) : State :=
  let s := (domainFrames s x.part x.did).foldl (fun s f => zeroFrame s x.part f) s
  let mine := fun (sv : Saved) => decide (sv.part = x.part) && decide (sv.did = x.did) && decide (sv.area = x.area)
  let serials := (s.saved.filter mine).map fun sv => sv.serial
  { s with keySlots := s.keySlots.filter fun (_, ks) => !(ks.bound && decide (ks.part = x.part) && decide (ks.did = x.did)),
           saved := s.saved.filter fun sv => !mine sv, liveSerials := s.liveSerials.filter fun n => !serials.contains n, exports := s.exports.erase x }

/-- An export for the device that the headgate has attested, under the transport key of the two and a fresh nonce: the policy allows the device, and the
bundle, with the nonce before it, goes to its place (steps 2 to 5). -/
def exportTo (r : Req) (s : State) (did : BitVec 16) (sv : Saved) (keys : List KeySlot) (policy : List Byte) : Except Nat State :=
  match Config.peerAttested s.free with
  | none => .error 4
  | some (dest, regs, lifecycle) => do
    want (Config.policySigned (Config.tenantKey ((keys.map KeySlot.session).headD 0)) policy && Config.policyAllows policy regs lifecycle) 4
    let nonce := Config.fresh s.free
    let b : Bundle := { meas := AMap.getD (partAt s r.p).domMeasures did.toNat 0, keys := keys.map KeySlot.key,
                        frames := (domainFrames s r.p did).map fun f => cellsRead s.mem (65536 * f) 65536, saved := sv }
    let bs := natLe 48 nonce.toNat ++ gcmSeal (Config.transportKey deviceId dest nonce) 0 b.bytes
    want (kernelBuffer s r.p (r.w2 s 8) bs.length) 1
    let s := homeWrite s (physKey r.p (r.w2 s 8)) bs
    return { s with free := s.free + 1, exports := s.exports ++ [{ part := r.p, did := did, area := sv.area, nonce := nonce, dest := dest }],
                    saved := mapIf (fun v => decide (v.serial = sv.serial)) (fun v => { v with exporting := true }) s.saved }

/-- Service 0x0090: word 1 the domain, 2 and 3 the save area, 4 and 5 the policy, 6 its length, 8 and 9 the bundle's place. Without a
policy it cancels an export in progress. -/
def exportDomain (r : Req) (s : State) : Except Nat State := do
  let did := BitVec.ofNat 16 (r.w s 1)
  let n := r.w s 6
  want s.unlock.isNone 3
  if n = 0 then
    match s.exports.find? fun x => decide (x.part = r.p) && decide (x.did = did) with
    | some x => return eraseExport s x
    | none => .error 4
  want (kernelRange s r.p (r.w2 s 4) n) 1
  match savedAt s r.p (r.w2 s 2) with
  | none => .error 4
  | some sv =>
    want (decide (sv.did = did) && sv.world && (coresOfPart s r.p).all fun k => (warpsOf (coreAt s k) did).isEmpty) 4
    want (peerSession s && !(domainKeys s r.p did).isEmpty) 4
    exportTo r s did sv (domainKeys s r.p did) (rangeBytes s r.p (r.w2 s 4) n)

/-- A service that uses a free value: a request that is refused has used its value up too. -/
def answerFree (f : Req → State → Except Nat State) (r : Req) (s : State) : Option (Nat × State) :=
  match f r s with
  | .ok s => some (0, s)
  | .error n => some (n, { s with free := s.free + 1 })

/-- MIGRATION_EXPORT. -/
def execMigrationExport (k : Nat) (s : State) : Event := serviceEvent k 0x90 (answerFree exportDomain) s

/-- MIGRATION_RECEIPT: a receipt arrives in a session of the two headgates; one that the destination has signed ends the export (step 7). -/
def execMigrationReceipt (part : Nat) (did : BitVec 16) (s : State) : Event :=
  match s.exports.find? fun x => decide (x.part = part) && decide (x.did = did) with
  | some x => .next (if peerSession s && Config.receiptOk x.nonce s.free then { eraseExport s x with free := s.free + 1 } else { s with free := s.free + 1 })
  | none => .next s

/-- The keys of a bundle go into slots from one on. -/
def installKeys (s : State) (p : Nat) (did : BitVec 16) (first : Nat) (keys : List (BitVec 256)) : State :=
  { s with keySlots := (keys.zipIdx.foldl (fun m (k, i) => AMap.put m (first + i) { key := k, part := p, did := did, bound := true }) s.keySlots) }

/-- The bundle that a device sent this one, with its nonce: opened under the transport key of the device that the headgate has attested. -/
def openBundle (s : State) (bs : List Byte) : Option (Digest × Bundle) :=
  let nonce := BitVec.ofNat 384 (fieldAt bs 0 48)
  match Config.peerAttested s.free with
  | none => none
  | some (source, _, _) => ((gcmOpen (Config.transportKey source deviceId nonce) 0 (bs.drop 48)).bind bundleIn).map fun b => (nonce, b)

/-- Service 0x0091: 2 and 3 the bundle, 4 its length, 5 the domain, 6 and 7 its first frame, 8 and 9 the save area within its frames, 10 the
first key slot. A step that fails gives status 4 and changes nothing; a module at lifecycle 0 has no protected domain (R402). -/
def importDomain (r : Req) (s : State) : Except Nat State := do
  let pa := r.w2 s 2
  let n := r.w s 4
  let did := BitVec.ofNat 16 (r.w s 5)
  let first := r.w2 s 6
  let area := r.w2 s 8
  want (kernelRange s r.p pa n) 1
  want (peerSession s && decide (s.lifecycle ≠ 0)) 4
  match openBundle s (rangeBytes s r.p pa n) with
  | none => .error 4
  | some (nonce, b) =>
    want (!s.importNonces.contains nonce) 4
    let pas := (List.range b.frames.length).map fun i => first + 65536 * i
    want (decide (first % 65536 = 0) && decide (first + 65536 * b.frames.length ≤ 2 ^ 52) && pas.all (frameInside s r.p)) 4
    let fs := pas.map fun a => physKey r.p a / 65536
    want (!(partAt s r.p).domSeen.contains did.toNat && decide (did ≠ 0 ∧ did ≠ 0xFFFF) && fs.all fun f => decide ((potAt s (65536 * f)).owner = 0xFFFF)) 4
    want (decide (first ≤ area) && decide (area % 4096 = 0) && decide (area + saveBytes ≤ first + 65536 * b.frames.length)) 4
    want ((List.range b.keys.length).all fun i => decide (r.w s 10 + i < 256) && (AMap.get? s.keySlots (r.w s 10 + i)).isNone) 4
    let s := revoke s r.p fs
    let s := (fs.zip b.frames).foldl (fun s (f, bs) => handOver (homeWrite s (65536 * f) bs) r.p f { world := true, owner := did } false) s
    let s := installKeys (s.modPart r.p fun pt => { pt with domMeasures := AMap.put pt.domMeasures did.toNat b.meas }) r.p did (r.w s 10) b.keys
    let sv := { b.saved with serial := s.nextSerial, part := r.p, area := area, did := did, world := true, exporting := false, scratch := b.saved.scratch.foldl (fun m (a, v) => cellWrite m a v) [] }
    let key := physKey r.p area
    let s := homeWrite (memZero s key saveBytes) key (saveHeader sv 0)
    return { s with free := s.free + 1, importNonces := nonce :: s.importNonces, saved := sv :: s.saved, nextSerial := s.nextSerial + 1, liveSerials := s.nextSerial :: s.liveSerials }

/-- MIGRATION_IMPORT. -/
def execMigrationImport (k : Nat) (s : State) : Event := serviceEvent k 0x91 (answerFree importDomain) s

/-! ## Debug unlock and return (R402, R410, R411) -/

/-- Service 0x00A1. -/
def drawChallenge (r : Req) (s : State) : Except Nat State :=
  let c := Config.fresh s.free
  let s := { s with challenge := some c, free := s.free + 1 }
  .ok ((List.range 12).foldl (fun s i => homeWriteNat s (r.key (4 + i)) 4 (c.toNat / 2 ^ (32 * i) % 2 ^ 32)) s)

/-- DEBUG_CHALLENGE. -/
def execDebugChallenge (k : Nat) (s : State) : Event := serviceEvent k 0xA1 (answer drawChallenge) s

/-- Both signatures, the identifier, the lifecycle state, the scope and the challenge of a token (R410, R411 steps 2 and 3). -/
def tokenGood (s : State) (scope : Nat) (bs : List Byte) : Bool :=
  decide (205 ≤ bs.length) && Config.tokenOk bs
  && decide (fieldAt bs 0 4 = 1) && decide (BitVec.ofNat 384 (fieldAt bs 8 48) = deviceId) && decide (fieldAt bs 4 4 = s.lifecycle)
  && decide (fieldAt bs 104 4 = scope) && decide (s.challenge = some (BitVec.ofNat 384 (fieldAt bs 56 48)))

/-- Steps 1 to 3 of R411 for a scope, of a request, or of a token that arrives through the management controller (R410): the token's bytes, or the status. -/
def tokenChecked (r : Option Req) (s : State) (scope : Nat) : Except Nat (List Byte) := do
  want (!Config.debugDisabled) 4
  let bs ← match r with
    | none => pure (Config.managerToken s.free)
    | some r => do
      want (kernelRange s r.p (r.w2 s 2) (r.w s 1)) 1
      pure (rangeBytes s r.p (r.w2 s 2) (r.w s 1))
  want (tokenGood s scope bs) 4
  return bs

/-- The cores that hold a valid slot of a protected domain, with the slots. -/
def protectedSlots (s : State) : List (Nat × Nat × Slot) :=
  s.cores.flatMap fun (k, c) => (c.slots.filter fun (_, sl) => sl.valid && sl.world).map fun (n, sl) => (k, n, sl)

/-- Step 4 and the pre-emption of step 5. -/
def beginUnlock (s : State) (k : Nat) (token : Option Digest) : State :=
  let s := { s with challenge := none, keySlots := [], unlock := some (k, token) }
  (protectedSlots s).foldl (fun s (k, _, sl) => preemptCore s sl.did k) s

/-- The lines of a tensor. -/
def tensorLines (t : Tensor) : Nat × Nat := (t.base / 128, ceilDiv t.length 128)

/-- The rest of step 5: domain resets, frames zeroed and given to the kernel, tensors undefined, save areas and exports void. A line of a tensor reads as
uncorrectable from then on (R408, R415). -/
def scrubProtected (s : State) : State :=
  let s := (protectedSlots s).foldl (fun s (k, n, sl) => writeSlot s (corePart s k) k n { sl with w0 := sl.w0 &&& 0x7FFFFFFF, pos := sl.pos }) s
  let fs := (s.pot.filter fun (_, e) => e.world).map Prod.fst
  let s := fs.foldl (fun s f => zeroFrame s (((potAt s (65536 * f)).setter).getD (65536 * f / 2 ^ 52)) f) s
  { s with lost := s.lost ++ s.tensors.map (fun (_, t) => tensorLines t), pot := s.pot.filter fun (_, e) => !e.world, tensors := [], saved := [], liveSerials := [], exports := [] }

/-- An unlock or a return, presented by a core or through the management controller (672 and above), goes on: none while it waits. What comes at its end is given. -/
def unlockService (scope : Nat) (finish : State → Option Digest → State) (r : Option Req) (k : Nat) (s : State) : Option (Nat × State) ⊕ State :=
  match s.unlock with
  | some (j, token) =>
    if j ≠ k then .inl none
    else if (protectedSlots s).all fun (k, _, sl) => domainStopped s sl.did k then .inl (some (0, finish { scrubProtected s with unlock := none } token))
    else .inl none
  | none =>
    if s.lifecycle = 0 ∧ scope = 1 ∧ Config.debugDisabled = false then .inr (beginUnlock s k none)
    else match tokenChecked r s scope with
      | .error n => .inl (some (n, s))
      | .ok bs => .inr (beginUnlock s k (some (Config.sha384 bs)))

/-- The request of a core, or of the management controller, which is numbered 672 (R410). -/
def presented (s : State) (k num : Nat) : Option (Option Req) := if k = 672 then some none else (reqAt s k num).map some

/-- An unlock or a return is answered: with a status to a core; what the management controller answers stays outside the model. -/
def answerUnlock (s : State) (r : Option Req) (status : Nat) : State :=
  match r with
  | some r => hgmbDone s r.k r.lo status r.d
  | none => { s with free := s.free + 1 }

/-- An unlock or a return, refused at once or taken on. -/
def unlockEvent (k num scope : Nat) (refuse : Option Nat) (finish : State → Option Digest → State) (s : State) : Event :=
  match presented s k num with
  | none => .next s
  | some r => match refuse with
    | some st => .next (answerUnlock s r st)
    | none => match unlockService scope finish r (if r.isSome then k else 671 + scope) s with
      | .inr s => .next s
      | .inl none => .next s
      | .inl (some (st, s)) => .next (answerUnlock s r st)

/-- Register 3 records an accepted token. -/
def recordToken (s : State) (token : Option Digest) : State :=
  match token with
  | some x => { s with measures := extended s.measures 3 x }
  | none => s

/-- DEBUG_UNLOCK: it begins, and ends when every protected domain has stopped. -/
def execDebugUnlock (k : Nat) (s : State) : Event :=
  unlockEvent k 0xA0 1 (if s.lifecycle = 3 then some 4 else none) (fun s t => recordToken { s with lifecycle := 2, debugOpen := true } t) s

/-- RETURN_MODULE. -/
def execReturnModule (k : Nat) (s : State) : Event :=
  unlockEvent k 0xA2 2 (if s.lifecycle = 3 then some 4 else if s.lifecycle ≠ 1 then some 2 else none)
    (fun s t => recordToken { s with lifecycle := 3, fuses := 3 } t) s

/-! ## SPDM (R405, R408). Message codes are those of DSP0274. -/

/-- The endpoint's state for a requester. -/
def spdmAt (s : State) (req : Nat) : Spdm := AMap.getD s.spdm req {}

/-- A response, with the endpoint's state after it. -/
def respond (s : State) (req : Nat) (e : Spdm) (code : Nat) (body : List Byte) : Event :=
  .next { s with spdm := AMap.put s.spdm req { e with code := code, body := body } }

/-- An ERROR response. -/
def spdmError (s : State) (req n : Nat) : Event := respond s req (spdmAt s req) 0x7F (natLe 1 n)

/-- A request that needs negotiated algorithms; otherwise it is unexpected. -/
def negotiated (s : State) (req : Nat) (f : Spdm → Event) : Event := if (spdmAt s req).algorithms then f (spdmAt s req) else spdmError s req 4

/-- SPDM_GET_VERSION: the connection begins anew. -/
def execSpdmGetVersion (req : Nat) (s : State) : Event := respond s req { version := true } 0x04 (natLe 2 0x1300)

/-- SPDM_GET_CAPABILITIES. -/
def execSpdmGetCapabilities (req : Nat) (s : State) : Event :=
  if (spdmAt s req).version then respond s req { spdmAt s req with capabilities := true } 0x61 (Config.spdmEncode 0x61 []) else spdmError s req 4

/-- SPDM_NEGOTIATE_ALGORITHMS: the one set of algorithms, or none. -/
def execSpdmNegotiateAlgorithms (req : Nat) (supported : Bool) (s : State) : Event :=
  if !(spdmAt s req).capabilities then spdmError s req 4
  else if !supported then spdmError s req 1
  else respond s req { spdmAt s req with algorithms := true } 0x63 (Config.spdmEncode 0x63 [])

/-- SPDM_GET_DIGESTS: of the one chain. -/
def execSpdmGetDigests (req : Nat) (s : State) : Event :=
  negotiated s req fun e => respond s req e 0x01 (Config.spdmEncode 0x01 (natLe 48 (Config.sha384 (certificateChain s)).toNat))

/-- SPDM_GET_CERTIFICATE: slot 0 holds the one chain. -/
def execSpdmGetCertificate (req slot : Nat) (s : State) : Event :=
  negotiated s req fun e => if slot = 0 then respond s req e 0x02 (Config.spdmEncode 0x02 (certificateChain s)) else spdmError s req 1

/-- SPDM_CHALLENGE: signed by the alias key over the nonce. -/
def execSpdmChallenge (req : Nat) (nonce : BitVec 384) (s : State) : Event :=
  negotiated s req fun e => respond s req e 0x03 (signedResponse s 0x03 (natLe 48 nonce.toNat))

/-- SPDM_GET_MEASUREMENTS: the blocks of a partition and, if one is named, of a protected domain. -/
def execSpdmGetMeasurements (req part : Nat) (did : BitVec 16) (nonce : BitVec 384) (s : State) : Event :=
  negotiated s req fun e =>
    if did ≠ 0 && !protectedDom s part did then spdmError s req 1
    else respond s req e 0x60 (signedResponse s 0x60 (measureBlocks s part did nonce))

/-- SPDM_KEY_EXCHANGE: a session begins. -/
def execSpdmKeyExchange (req session : Nat) (s : State) : Event :=
  negotiated s req fun e => respond s req { e with session := some session, finished := false, bothSides := false } 0x64 (signedResponse s 0x64 (natLe 4 session))

/-- SPDM_FINISH: the session is established; whether the requester's signature, where it sends one, has verified is a free value. -/
def execSpdmFinish (req : Nat) (s : State) : Event :=
  if (spdmAt s req).session.isSome then
    respond { s with free := s.free + 1 } req { spdmAt s req with finished := true, bothSides := Config.requesterOk s.free } 0x65 (Config.spdmEncode 0x65 [])
  else spdmError s req 4

/-- SPDM_END_SESSION. -/
def execSpdmEndSession (req : Nat) (s : State) : Event :=
  if (spdmAt s req).session.isSome then respond s req { spdmAt s req with session := none, finished := false, bothSides := false } 0x6C [] else spdmError s req 4

/-- SPDM_KEY_DELIVERY: a tenant's key enters a slot that no domain is bound to, inside an established session. -/
def execSpdmKeyDelivery (session : Nat) (slot : BitVec 8) (key : BitVec 256) (s : State) : Event :=
  match s.spdm.find? fun (_, e) => decide (e.session = some session) && e.finished with
  | none => .next s
  | some (req, e) =>
    if match AMap.get? s.keySlots slot.toNat with | some ks => ks.bound | none => false then spdmError s req 1
    else respond { s with keySlots := AMap.put s.keySlots slot.toNat { key := key, session := session } } req e 0x7E []

end Sys2Proof.Machine
end

