-- ==== Sys2Proof/Machine/Manage.lean ====
section
/-! DEFINITION. Sys2Proof/Machine/Manage.lean: partitions formed, booted and reset (R376 to R379), the management controller (R396 to R399), firmware and
module reset (R402, R404, R407). -/

namespace Sys2Proof.Machine

/-! ## Partitions (R376 to R379) -/

/-- The port over which a partition boots: that of its lowest slice (R379). -/
def bootPort (s : State) (p : Nat) : Nat := (ethernetPorts s p).headD 0

/-- A partition has booted again: a group in which it is absent and whose record of its measurement differs enters PEER-CHANGED (R365). -/
def returnedMember (s : State) (p : Nat) : State :=
  let meas := AMap.getD (partAt s p).measures 8 0
  let other := fun (m : Member) => decide (m.module = s.moduleId) && !m.present && decide (m.meas ≠ meas)
  { s with groups := s.groups.map fun (i, g) => (i, if decide (i / 256 = p) && g.formed && g.members.any other then { g with changed := true } else g) }

/-- A loader that verifies as firmware does, both signatures and its digest (R379, R407). -/
def loaderGood (s : State) (bytes : List Byte) (digest : Digest) : Bool := decide (Config.sha384 bytes = digest) && Config.loaderOk bytes s.rollback

/-- A boot attempt: a loader that verifies is copied to physical offset 0 and measured, and service core 0 of the lowest slice starts at its
first bundle (R379 steps 4 and 5). -/
def bootWith (s : State) (p : Nat) (bytes : List Byte) (digest : Digest) : State :=
  let s := memPut s (physKey p 0) bytes
  let s := returnedMember (extendPart s p 8 digest) p
  let s := (partAt s p).slices.foldl startSlice s
  let s := s.modCore (512 + 4 * bootPort s p) fun c =>
    { c with svc := { c.svc with op := none }, warps := c.warps.map fun (w, wp) => (w, { wp with gangs := [(0, { mask := 1, pc := slot0 0 })] }) }
  s.modPart p fun pt => { pt with booted := true, bootTries := 0 }

/-- The headgate assigns CXL ports that no partition has to a new one: which, it chooses (a free value, log entry 44). -/
def assignCxl (s : State) (p : Nat) : State :=
  { s with cxlPorts := (List.range 16).foldl (fun m n => if (AMap.get? m n).isNone && Config.cxlGiven p n then AMap.put m n p else m) s.cxlPorts }

/-- PARTITION_FORM (R376, R379, R404): a rectangle of free slices becomes a partition, its HBM and cistern regions zero and unpaired; then the
first boot attempt. -/
def execPartitionForm (part : Nat) (rect : Rect) (boot : BootResult) (s : State) : Event :=
  let ns := rectSlices rect
  if 32 ≤ part ∨ !(partAt s part).slices.isEmpty ∨ !rectOk rect ∨ ns.any (fun n => (sliceAt s n).part.isSome || takenByOther s part n) ∨ s.lifecycle = 3 then .next s
  else
    let s := memZero s (2 ^ 52 * part) (2 ^ 48)
    let s := { s with pot := s.pot.filter fun (f, _) => decide (65536 * f / 2 ^ 52 ≠ part) || decide (paKind (65536 * f) = 1) || decide (paKind (65536 * f) = 2) }
    let s := ns.foldl (fun s n => resetSlice (clearRegions s n) n (some part)) s
    let s := assignCxl { s with cxlPorts := s.cxlPorts.filter fun e => decide (e.2 ≠ part) } part
    let s := { s with parts := AMap.put s.parts part { slices := ns, cxlBytes := if (cxlPortsOf s part).isEmpty then 0 else Config.cxlWindow part, bootTries := 8 } }
    let s := (measureShape s part).logEvent 0 part (ns.headD 0)
    match boot with
    | .failed => .next s
    | .loader bytes digest => .next (if loaderGood s bytes digest then bootWith s part bytes digest else s)

/-- BOOT_RETRY (R379): one of up to 8 retries of a failed step. -/
def execBootRetry (part : Nat) (boot : BootResult) (s : State) : Event :=
  let pt := partAt s part
  if pt.slices.isEmpty ∨ pt.booted ∨ pt.bootTries = 0 ∨ s.lifecycle = 3 then .next s
  else
    let failed := s.modPart part fun pt => { pt with bootTries := pt.bootTries - 1 }
    let failed := if pt.bootTries = 1 then failed.logEvent 3 part (pt.slices.headD 0) else failed
    match boot with
    | .loader bytes digest => .next (if loaderGood s bytes digest then bootWith s part bytes digest else failed)
    | .failed => .next failed

/-- A partition at reset: its slices, its trees and waiting writes, its key slots; its pod frames return to the kernel, zeroed where they were
protected; its group members are absent (R322, R365, R378, R408). -/
def resetPartition (s : State) (p : Nat) (tries : Nat) : State :=
  let s := (partAt s p).slices.foldl (fun s n => resetSlice s n (some p)) s
  let pods := (s.pot.filter fun (_, e) => decide (e.setter = some p)).map Prod.fst
  let s := pods.foldl (fun s f => handOver s p f {} true) s
  let s := (s.groups.map Prod.fst).foldl (fun s key => if key / 256 = p then absent s key s.moduleId else s) s
  let s := { s with trees := s.trees.filter (fun (_, t) => decide (t.part ≠ p)), cisternWrites := s.cisternWrites.filter (fun w => decide (w.part ≠ p)),
                    keySlots := s.keySlots.filter fun (_, ks) => !(ks.bound && decide (ks.part = p)) }
  s.modPart p fun pt => { slices := pt.slices, resize := pt.resize, cxlBytes := pt.cxlBytes, current := pt.current, hostOwned := pt.hostOwned, moved := pt.moved, clk := pt.clk, domMeasures := pt.domMeasures, bootTries := tries }

/-- PARTITION_RESET (R378): the partition's slices are reset and nothing else; it boots again. -/
def execPartitionReset (part : Nat) (s : State) : Event :=
  if (partAt s part).slices.isEmpty then .next s
  else .next ((resetPartition s part 9).logEvent 2 part ((partAt s part).slices.headD 0))

/-! ## Sensors and power (R396, R397) -/

/-- SENSOR_SAMPLE (R396, R397): a slice at 105 degrees is held at a quota of at most 32; at 115 every partition is held at reset. -/
def execSensorSample (slice : Nat) (reading : Sensor) (s : State) : Event :=
  if 32 ≤ slice then .next s
  else
    let s := s.modSlice slice fun sl => { sl with sensor := some reading, quota := if 105 ≤ reading.temp then 32 else 64 }
    let s := if 105 ≤ reading.temp then s.logEvent 7 ((sliceAt s slice).part.getD 0) slice else s
    if 115 ≤ reading.temp then .next ((s.parts.map Prod.fst).foldl (fun s p => resetPartition s p 0) s) else .next s

/-- POWER_QUOTA_UPDATE (R397). -/
def execPowerQuotaUpdate (q : Nat) (s : State) : Event := if 8 ≤ q ∧ q ≤ 64 then .next { s with quota := q } else .next s

/-- POWER_LIMIT_SET (R397): from 4.0 to 11.0 kW. -/
def execPowerLimitSet (watts : Nat) (s : State) : Event := if 4000 ≤ watts ∧ watts ≤ 11000 then .next ({ s with powerLimit := watts }.logEvent 8 0 0) else .next s

/-! ## Firmware and module reset (R399, R402, R404, R407) -/

/-- FIRMWARE_UPDATE (R399): an image that verifies is staged for the next module reset; any other is discarded. -/
def execFirmwareUpdate (image : FirmwareImage) (s : State) : Event :=
  .next ((if imageOk s image then { s with staged := some image } else s).logEvent 9 0 0)

/-- What register 2 measures: the fuse configuration and the operator's loader key hashes, with the lifecycle state that the fuses hold (R404). -/
def fuseDigest (lifecycle : Nat) : Digest := Config.sha384 (natLe 48 (Config.measured 2).toNat ++ natLe 1 lifecycle)

/-- MODULE_RESET (R376, R399, R402, R404, R407): a staged image that still verifies is taken into use after the rollback counter has been
raised to it; the module's registers 0 to 2 are measured anew. Fuses, the event log, and memory outside the module stay. -/
def execModuleReset (s : State) : Event :=
  let fw := match s.staged with
    | some i => if imageOk s i then some i else s.firmware
    | none => s.firmware
  let image := match fw with | some i => i.digest | none => Config.measured 1
  let ms := extended (extended (extended [] 0 (Config.measured 0)) 1 image) 2 (fuseDigest s.fuses)
  let far := fun (key : Nat) => decide (paKind key = 2) || decide (paKind key = 3)
  let clean := State.reset
  let r := match fw with | some i => max s.rollback i.version | none => s.rollback
  .next { clean with agenda := s.agenda, free := s.free, mem := s.mem.filter fun (a, _) => far a, memPoison := s.memPoison.filter fun (w, _) => far (4 * w),
                     lifecycle := s.fuses, fuses := s.fuses, measures := ms, rollback := r, firmware := fw, importNonces := s.importNonces, log := s.log, moduleId := s.moduleId }

end Sys2Proof.Machine
end

