-- ==== Sys2Proof/Machine/Scalar.lean ====
section
/-! DEFINITION. Sys2Proof/Machine/Scalar.lean: opcodes 0x50 to 0x5F, the scalar ALU (R84). -/

namespace Sys2Proof.Machine

/-- Signed reading of a w-bit scalar. -/
def Ctx.sval (x : Ctx) (v : Nat) : Int := sextN v x.bits

/-- SMOV. -/
def execSmov (d a : Reg) (s : State) : Host.Outcome State Fault Refusal :=
  run s fun x => scalarOp x (scalForm x 0x50 d a .z true false) d (x.scal a)

/-- SMOVI: the sign-extended immediate. -/
def execSmovi (d : Reg) (n : BitVec 16) (s : State) : Host.Outcome State Fault Refusal :=
  run s fun x => scalarOp x (scalForm x 0x51 d .z .z false false) d (wrapN n.toInt x.bits)

/-- SMOVH: bits [31:16] of the named 32-bit register, whatever w. -/
def execSmovh (d : Reg) (n : BitVec 16) (s : State) : Host.Outcome State Fault Refusal :=
  run s fun x => do
    let f : Form := { op := 0x52, classes := Reg.sz d, guard := false, once := true, more := [(d, 1)], writes := [(d, 1)], lat := 2 }
    check x f
    return retire x f (x.setWarp (x.wp.dstS d 1 (n.toNat * 65536 + (x.rd 0 d).toNat % 65536)))

/-- SADD. -/
def execSadd (d a b : Reg) (s : State) : Host.Outcome State Fault Refusal :=
  run s fun x => scalarOp x (scalForm x 0x53 d a b true true) d (x.scal a + x.scal b)

/-- SSUB. -/
def execSsub (d a b : Reg) (s : State) : Host.Outcome State Fault Refusal :=
  run s fun x => scalarOp x (scalForm x 0x54 d a b true true) d (wrapN ((x.scal a : Int) - x.scal b) x.bits)

/-- SMUL: the low w bits. -/
def execSmul (d a b : Reg) (s : State) : Host.Outcome State Fault Refusal :=
  run s fun x => scalarOp x (scalForm x 0x55 d a b true true) d (x.scal a * x.scal b)

/-- SMULH: the high w bits, unsigned when etype is an n type, signed otherwise. -/
def execSmulh (d a b : Reg) (s : State) : Host.Outcome State Fault Refusal :=
  run s fun x => scalarOp x (scalForm x 0x56 d a b true true) d
    (if x.t.isUnsigned then x.scal a * x.scal b / 2 ^ x.bits
     else wrapN (x.sval (x.scal a) * x.sval (x.scal b) / ((2 ^ x.bits : Nat) : Int)) x.bits)

/-- SAND. -/
def execSand (d a b : Reg) (s : State) : Host.Outcome State Fault Refusal :=
  run s fun x => scalarOp x (scalForm x 0x57 d a b true true) d (x.scal a &&& x.scal b)

/-- SOR. -/
def execSor (d a b : Reg) (s : State) : Host.Outcome State Fault Refusal :=
  run s fun x => scalarOp x (scalForm x 0x58 d a b true true) d (x.scal a ||| x.scal b)

/-- SXOR. -/
def execSxor (d a b : Reg) (s : State) : Host.Outcome State Fault Refusal :=
  run s fun x => scalarOp x (scalForm x 0x59 d a b true true) d (x.scal a ^^^ x.scal b)

/-- SSHL: a count of w or more gives 0. -/
def execSshl (d a b : Reg) (s : State) : Host.Outcome State Fault Refusal :=
  run s fun x => scalarOp x (scalForm x 0x5A d a b true true) d (if x.bits ≤ x.scal b then 0 else x.scal a * 2 ^ x.scal b)

/-- SSHR. -/
def execSshr (d a b : Reg) (s : State) : Host.Outcome State Fault Refusal :=
  run s fun x => scalarOp x (scalForm x 0x5B d a b true true) d (if x.bits ≤ x.scal b then 0 else x.scal a / 2 ^ x.scal b)

/-- SSAR: a count of w or more gives copies of the top bit. -/
def execSsar (d a b : Reg) (s : State) : Host.Outcome State Fault Refusal :=
  run s fun x => scalarOp x (scalForm x 0x5C d a b true true) d
    (wrapN (x.sval (x.scal a) / ((2 ^ min (x.scal b) x.bits : Nat) : Int)) x.bits)

/-- SSEQ. -/
def execSseq (d a b : Reg) (s : State) : Host.Outcome State Fault Refusal :=
  run s fun x => scalarOp x (scalForm x 0x5D d a b true true) d (if x.scal a = x.scal b then 1 else 0)

/-- SSLT: signed. -/
def execSslt (d a b : Reg) (s : State) : Host.Outcome State Fault Refusal :=
  run s fun x => scalarOp x (scalForm x 0x5E d a b true true) d (if x.sval (x.scal a) < x.sval (x.scal b) then 1 else 0)

/-- SSLTN: unsigned. -/
def execSsltn (d a b : Reg) (s : State) : Host.Outcome State Fault Refusal :=
  run s fun x => scalarOp x (scalForm x 0x5F d a b true true) d (if x.scal a < x.scal b then 1 else 0)

end Sys2Proof.Machine
end

