-- ==== Sys2Proof/Machine/Traps.lean ====
section
/-! DEFINITION. Sys2Proof/Machine/Traps.lean: what follows a trap record: notifications, interrupts, dispositions (R309, R331, R332, R334), memory
errors (R335), and the timers of gangs (R17, R59, R135, R142). -/

namespace Sys2Proof.Machine

/-! ## Records and notifications (R331, R334) -/

/-- DEFERRED_TRAP_RECORD: the slot's record has been disposed of and the notification queue has room. -/
def execDeferredTrapRecord (k w : Nat) (s : State) : Event :=
  match warpAt s k w with
  | none => .next s
  | some wp => match wp.deferred with
    | [] => .next s
    | d :: rest =>
      if wp.recordLive.isSome || wp.halted || decide (64 ≤ (sliceAt s (coreSlice k)).notices.length) then .next s
      else .next (recordOut s k w wp d rest)

/-- NOTIFICATION_DRAIN: IPEND[1] of the slice's service core 0 is clear, and the oldest notification sets it. The record that it names, two
lines, reaches its watchers with it (R203). -/
def execNotificationDrain (n : Nat) (s : State) : Event :=
  match (sliceAt s n).notices with
  | [] => .next s
  | e :: rest =>
    if (coreAt s (512 + 4 * n)).svc.ipend.getLsbD 1 then .next s
    else
      let s := s.modSlice n fun sl => { sl with notices := rest }
      let s := s.modCore (512 + 4 * n) fun c => { c with svc := { c.svc with ipend := c.svc.ipend ||| 2, trapAddr := e.record } }
      let line := lineOf (physKey (corePart s e.core) e.record.toNat)
      .next (wakeWatchers (wakeWatchers s line) (line + 1))

/-- The lowest pending and enabled interrupt. -/
def pendingIrq (r : SvcRegs) : Option Nat := if r.ie then (List.range 3).find? fun i => (r.ipend &&& r.ienable).getLsbD i else none

/-- SERVICE_INTERRUPT (R334): between instructions, the lowest pending enabled interrupt is taken. R333 gives TVAL no value for a message. -/
def execServiceInterrupt (k : Nat) (s : State) : Event :=
  if isCompute k then .next s
  else match pendingIrq (coreAt s k).svc, gangAt s k 0 0 with
    | some i, some gn =>
      if !gn.atBoundary || (coreAt s k).svc.stopped || (coreAt s k).held then .next s
      else
        let r := (coreAt s k).svc
        let tval := if i = 0 then BitVec.ofNat 64 (Config.freeNat s.free) else if i = 1 then r.trapAddr else r.errAddr
        .next { enterTvec s k 0 0 (w32 (2 ^ 31 + i)) tval gn.pc with free := if i = 0 then s.free + 1 else s.free }
    | _, _ => .next s

/-! ## Dispositions (R309, R332) -/

/-- Whether a warp slot's disposition may act: its record stands, and its warp is not halted by DPRE. -/
def mayDispose (s : State) (e : Nat × Nat × Nat) : Bool :=
  match warpAt s e.1 e.2.1 with
  | some wp => wp.recordLive.isSome && !wp.preempt && !wp.halted
  | none => false

/-- The gang and record of a warp slot on whose disposition the core acts: the value that the store brought to its home, the first of those that may
act (R331). -/
def disposed (s : State) (k w disp : Nat) : Option (Warp × Nat × Nat) :=
  match warpAt s k w, recordKey s k w with
  | some wp, some key => match wp.recordLive with
    | some g => if s.disposals.find? (mayDispose s) = some (k, w, disp) then some (wp, g, key) else none
    | none => none
  | _, _ => none

/-- The record has been disposed of. -/
def closeRecord (s : State) (k w : Nat) : State :=
  dropDisposals (s.modWarp k w fun wp => { wp with recordLive := none, liveTrap := none }) k fun v => decide (v = w)

/-- DISPOSITION_RESUME: the gang goes on at the record's resume address. -/
def execDispositionResume (k w : Nat) (s : State) : Event :=
  match disposed s k w 1 with
  | none => .next s
  | some (_, g, key) =>
    let pc : DWord := BitVec.ofNat 64 (memNat s (key + 16) 8)
    .next (afterGangs ((closeRecord s k w).modGang k w g fun gn => { gn with pc := pc, trapped := false, inBundle := decide (slotNo pc ≠ 0) }) k w)

/-- The kernel kills a gang: its live lanes retire (R57), or the warp leaves a gate (R287). -/
def killGang (s : State) (k w g : Nat) : State :=
  match warpAt s k w with
  | none => s
  | some wp => match AMap.get? wp.gangs g with
    | none => s
    | some gn => match wp.frames with
      | fr :: rest => killGate s k w g wp gn fr rest
      | [] =>
        let s := s.modGang k w g fun gn => { gn with trapped := false, status := .ready }
        afterGangs (s.modWarp k w fun wp => wp.exitLanes g gn.mask) k w

/-- DISPOSITION_KILL. -/
def execDispositionKill (k w : Nat) (s : State) : Event :=
  match disposed s k w 2 with
  | none => .next s
  | some (_, g, _) => .next (killGang (closeRecord s k w) k w g)

/-- The registered handler of the domain in force (R332). -/
def handlerOf (s : State) (k : Nat) (did : BitVec 16) : DWord :=
  match slotOf (coreAt s k) did with
  | some (_, sl) => BitVec.ofNat 64 (memNat s (physKey (corePart s k) (sl.area + 16384 + 8)) 8)
  | none => 0

/-- The gang enters its handler: s60 to s63 and the mode, the lane mask as it was; what is left of a stall count applies there (R17, R22). -/
def enterHandler (s : State) (k w g key : Nat) (h : DWord) : State :=
  let word := fun i => memWord s (key + 4 * i)
  let s := (closeRecord s k w).modWarp k w fun wp => (((wp.setS 60 (word 0)).setS 61 (word 6)).setS 62 (word 8)).setS 63 (word 9)
  s.modGang k w g fun gn => Gang.goOn { gn with pc := slot0 h, mode := 0x27, trapped := false, inBundle := false }

/-- DISPOSITION_HANDLER (R332): no handler acts as a kill; a handler that fails its check traps the gang again. -/
def execDispositionHandler (k w : Nat) (s : State) : Event :=
  match disposed s k w 3 with
  | none => .next s
  | some (wp, g, key) =>
    let h := handlerOf s k wp.didNow
    match AMap.get? wp.gangs g with
    | none => .next (closeRecord s k w)
    | some gn =>
      if h = 0 then .next (killGang (closeRecord s k w) k w g)
      else
        let x : Ctx := { s := s, k := k, c := coreAt s k, w := w, wp := wp, g := g, gn := gn }
        match checkTargets x wp.didNow gn.mask (fun _ => h) false with
        | .ok () => .next (enterHandler s k w g key h)
        | .error (.trap t) =>
          let d : Deferred := (wp.liveTrap.getD { entry := g, trap := t, pc := gn.pc, resume := gn.pc, insn := 0, ctl := 0, gmask := gn.mask, mode := gn.mode, active := 0 })
          .next (dropAllRefusals (trapCompute (closeRecord s k w) k w { d with trap := t, gmask := gn.mask, mode := gn.mode }) k)
        | .error (.miss did vas) => .next (askPages s k did vas)
        | .error _ => .next s

/-! ## Memory errors (R335) -/

/-- The slice that is told of an error in a line, which a core or an engine of a slice asked for. -/
def errorSlice (s : State) (key asker : Nat) : Nat :=
  match paKind key with
  | 0 => homeSlice s key
  | 1 => regionSlice (cisternRegion key)
  | _ => asker

/-- MEMORY_ERROR, found by a request of a slice: the line, in the partition of the slice, is poisoned and a service core 0 is told. -/
def execMemoryError (slice pa : Nat) (s : State) : Event :=
  match (sliceAt s slice).part with
  | none => .next s
  | some p =>
    if 2 ^ 52 ≤ pa ∨ 4 ≤ paKind pa then .next s
    else
      let key := physKey p (pa / 128 * 128)
      .next (reportError (memMark s key 128) (errorSlice s key slice) (pa / 128 * 128))

/-! ## Timers of gangs -/

/-- A stalled gang whose stall count and yield have run out is ready (R17, R59). -/
def Gang.runOut (gn : Gang) : Gang := if gn.status = .stalled ∧ gn.stall = 0 then { gn with status := .ready, yielded := false } else gn

/-- A gang whose ageing counter has become 1,024 joins the threshold order at a cycle of its core, and keeps its place (R135). -/
def Gang.atThreshold (gn : Gang) (clk : Nat) : Gang := if 1024 ≤ gn.ageing ∧ gn.thresholdAt.isNone then { gn with thresholdAt := some clk } else gn

/-- STALL_RUNOUT (R17). -/
def execStallRunout (k w g : Nat) (s : State) : Event := .next (s.modGang k w g fun gn => if gn.yielded then gn else gn.runOut)

/-- YIELD_RUNOUT (R59). -/
def execYieldRunout (k w g : Nat) (s : State) : Event := .next (s.modGang k w g fun gn => if gn.yielded then gn.runOut else gn)

/-- AGEING_THRESHOLD (R135). -/
def execAgeingThreshold (k w g : Nat) (s : State) : Event := .next (s.modGang k w g fun gn => gn.atThreshold (coreAt s k).clk.toNat)

/-- MEET_PARK_EXPIRY (R142 step 8): the gang pops its entry and goes on; a halted gang does not (R168). -/
def execMeetParkExpiry (k w g : Nat) (s : State) : Event :=
  match gangAt s k w g with
  | none => .next s
  | some gn =>
    if gn.status ≠ .parked 0 ∨ gn.stopped then .next s
    else .next (afterGangs (s.modWarp k w fun wp => wp.leaveMeet [g]) k w)

end Sys2Proof.Machine
end

