-- ==== Sys2Proof/Machine/Dispatch.lean ====
section
/-! DEFINITION. Sys2Proof/Machine/Dispatch.lean: one arm per constructor of Instr, each a direct call of its meaning. -/

namespace Sys2Proof.Machine

/-- What an instruction or a step of the machine does. -/
def exec (i : Instr) (s : State) : Host.Outcome State Fault Refusal :=
  match i with
  | .ill => Sys2Proof.Machine.execIll s
  | .nop => Sys2Proof.Machine.execNop s
  | .bra off => Sys2Proof.Machine.execBra off s
  | .sbra c off => Sys2Proof.Machine.execSbra c off s
  | .brx a => Sys2Proof.Machine.execBrx a s
  | .call d off => Sys2Proof.Machine.execCall d off s
  | .callx d a => Sys2Proof.Machine.execCallx d a s
  | .ret a => Sys2Proof.Machine.execRet a s
  | .join off => Sys2Proof.Machine.execJoin off s
  | .meet => Sys2Proof.Machine.execMeet s
  | .switch d n => Sys2Proof.Machine.execSwitch d n s
  | .wsync n => Sys2Proof.Machine.execWsync n s
  | .exit => Sys2Proof.Machine.execExit s
  | .trap n => Sys2Proof.Machine.execTrap n s
  | .yield n => Sys2Proof.Machine.execYield n s
  | .exec a => Sys2Proof.Machine.execExec a s
  | .mov d a => Sys2Proof.Machine.execMov d a s
  | .movi d n => Sys2Proof.Machine.execMovi d n s
  | .movh d n => Sys2Proof.Machine.execMovh d n s
  | .add d a b => Sys2Proof.Machine.execAdd d a b s
  | .sub d a b => Sys2Proof.Machine.execSub d a b s
  | .mul d a b => Sys2Proof.Machine.execMul d a b s
  | .mulh d a b => Sys2Proof.Machine.execMulh d a b s
  | .mad d a b => Sys2Proof.Machine.execMad d a b s
  | .neg d a => Sys2Proof.Machine.execNeg d a s
  | .abs d a => Sys2Proof.Machine.execAbs d a s
  | .min d a b => Sys2Proof.Machine.execMin d a b s
  | .max d a b => Sys2Proof.Machine.execMax d a b s
  | .div d a b => Sys2Proof.Machine.execDiv d a b s
  | .rem d a b => Sys2Proof.Machine.execRem d a b s
  | .clamp d a b => Sys2Proof.Machine.execClamp d a b s
  | .sel d a b => Sys2Proof.Machine.execSel d a b s
  | .and d a b => Sys2Proof.Machine.execAnd d a b s
  | .or d a b => Sys2Proof.Machine.execOr d a b s
  | .xor d a b => Sys2Proof.Machine.execXor d a b s
  | .not d a => Sys2Proof.Machine.execNot d a s
  | .shl d a b => Sys2Proof.Machine.execShl d a b s
  | .shr d a b => Sys2Proof.Machine.execShr d a b s
  | .sar d a b => Sys2Proof.Machine.execSar d a b s
  | .rol d a b => Sys2Proof.Machine.execRol d a b s
  | .fsh d a b => Sys2Proof.Machine.execFsh d a b s
  | .clz d a => Sys2Proof.Machine.execClz d a s
  | .popc d a => Sys2Proof.Machine.execPopc d a s
  | .brev d a => Sys2Proof.Machine.execBrev d a s
  | .bfx d a b => Sys2Proof.Machine.execBfx d a b s
  | .bfi d a b => Sys2Proof.Machine.execBfi d a b s
  | .cmp c p a b => Sys2Proof.Machine.execCmp c p a b s
  | .plog t p a b => Sys2Proof.Machine.execPlog t p a b s
  | .cvt d a part t => Sys2Proof.Machine.execCvt d a part t s
  | .rnd d a => Sys2Proof.Machine.execRnd d a s
  | .rcp d a => Sys2Proof.Machine.execRcp d a s
  | .rsq d a => Sys2Proof.Machine.execRsq d a s
  | .sqrt d a => Sys2Proof.Machine.execSqrt d a s
  | .ex2 d a => Sys2Proof.Machine.execEx2 d a s
  | .lg2 d a => Sys2Proof.Machine.execLg2 d a s
  | .sin d a => Sys2Proof.Machine.execSin d a s
  | .cos d a => Sys2Proof.Machine.execCos d a s
  | .tanh d a => Sys2Proof.Machine.execTanh d a s
  | .fcls d a => Sys2Proof.Machine.execFcls d a s
  | .addc d a b => Sys2Proof.Machine.execAddc d a b s
  | .mode d a => Sys2Proof.Machine.execMode d a s
  | .modef f n => Sys2Proof.Machine.execModef f n s
  | .vote d a op => Sys2Proof.Machine.execVote d a op s
  | .pickIdx d a b => Sys2Proof.Machine.execPickIdx d a b s
  | .pickUp d a b => Sys2Proof.Machine.execPickUp d a b s
  | .pickDn d a b => Sys2Proof.Machine.execPickDn d a b s
  | .pickXor d a b => Sys2Proof.Machine.execPickXor d a b s
  | .scan d a op => Sys2Proof.Machine.execScan d a op s
  | .scanx d a op => Sys2Proof.Machine.execScanx d a op s
  | .redx d a op => Sys2Proof.Machine.execRedx d a op s
  | .matchEq d a => Sys2Proof.Machine.execMatchEq d a s
  | .v2s d a b => Sys2Proof.Machine.execV2s d a b s
  | .vmovx d a b => Sys2Proof.Machine.execVmovx d a b s
  | .vstx d a b => Sys2Proof.Machine.execVstx d a b s
  | .vgrow d n => Sys2Proof.Machine.execVgrow d n s
  | .vshrink d n => Sys2Proof.Machine.execVshrink d n s
  | .spawn d a b => Sys2Proof.Machine.execSpawn d a b s
  | .grid a => Sys2Proof.Machine.execGrid a s
  | .smov d a => Sys2Proof.Machine.execSmov d a s
  | .smovi d n => Sys2Proof.Machine.execSmovi d n s
  | .smovh d n => Sys2Proof.Machine.execSmovh d n s
  | .sadd d a b => Sys2Proof.Machine.execSadd d a b s
  | .ssub d a b => Sys2Proof.Machine.execSsub d a b s
  | .smul d a b => Sys2Proof.Machine.execSmul d a b s
  | .smulh d a b => Sys2Proof.Machine.execSmulh d a b s
  | .sand d a b => Sys2Proof.Machine.execSand d a b s
  | .sor d a b => Sys2Proof.Machine.execSor d a b s
  | .sxor d a b => Sys2Proof.Machine.execSxor d a b s
  | .sshl d a b => Sys2Proof.Machine.execSshl d a b s
  | .sshr d a b => Sys2Proof.Machine.execSshr d a b s
  | .ssar d a b => Sys2Proof.Machine.execSsar d a b s
  | .sseq d a b => Sys2Proof.Machine.execSseq d a b s
  | .sslt d a b => Sys2Proof.Machine.execSslt d a b s
  | .ssltn d a b => Sys2Proof.Machine.execSsltn d a b s
  | .ld8 d a off => Sys2Proof.Machine.execLd8 d a off s
  | .ld16 d a off => Sys2Proof.Machine.execLd16 d a off s
  | .ld32 d a off => Sys2Proof.Machine.execLd32 d a off s
  | .ld64 d a off => Sys2Proof.Machine.execLd64 d a off s
  | .ld128 d a off => Sys2Proof.Machine.execLd128 d a off s
  | .st8 d a off => Sys2Proof.Machine.execSt8 d a off s
  | .st16 d a off => Sys2Proof.Machine.execSt16 d a off s
  | .st32 d a off => Sys2Proof.Machine.execSt32 d a off s
  | .st64 d a off => Sys2Proof.Machine.execSt64 d a off s
  | .st128 d a off => Sys2Proof.Machine.execSt128 d a off s
  | .lds32 d a off => Sys2Proof.Machine.execLds32 d a off s
  | .lds64 d a off => Sys2Proof.Machine.execLds64 d a off s
  | .lds128 d a off => Sys2Proof.Machine.execLds128 d a off s
  | .sts32 d a off => Sys2Proof.Machine.execSts32 d a off s
  | .sts64 d a off => Sys2Proof.Machine.execSts64 d a off s
  | .sts128 d a off => Sys2Proof.Machine.execSts128 d a off s
  | .sld d a off => Sys2Proof.Machine.execSld d a off s
  | .sst d a off => Sys2Proof.Machine.execSst d a off s
  | .ldw d a off => Sys2Proof.Machine.execLdw d a off s
  | .pref h a off => Sys2Proof.Machine.execPref h a off s
  | .fetchAdd d a b => Sys2Proof.Machine.execFetchAdd d a b s
  | .fetchMin d a b => Sys2Proof.Machine.execFetchMin d a b s
  | .fetchMax d a b => Sys2Proof.Machine.execFetchMax d a b s
  | .fetchAnd d a b => Sys2Proof.Machine.execFetchAnd d a b s
  | .fetchOr d a b => Sys2Proof.Machine.execFetchOr d a b s
  | .fetchXor d a b => Sys2Proof.Machine.execFetchXor d a b s
  | .fetchXchg d a b => Sys2Proof.Machine.execFetchXchg d a b s
  | .cas d a b => Sys2Proof.Machine.execCas d a b s
  | .red op a b => Sys2Proof.Machine.execRed op a b s
  | .cpy q a => Sys2Proof.Machine.execCpy q a s
  | .cpyo q a => Sys2Proof.Machine.execCpyo q a s
  | .binit a b => Sys2Proof.Machine.execBinit a b s
  | .barv d a => Sys2Proof.Machine.execBarv d a s
  | .bexp a b => Sys2Proof.Machine.execBexp a b s
  | .bwait d a b => Sys2Proof.Machine.execBwait d a b s
  | .bwaity d a off => Sys2Proof.Machine.execBwaity d a off s
  | .bwaitt d a b => Sys2Proof.Machine.execBwaitt d a b s
  | .watch d a off => Sys2Proof.Machine.execWatch d a off s
  | .wsleep d a => Sys2Proof.Machine.execWsleep d a s
  | .fence n => Sys2Proof.Machine.execFence n s
  | .rel n => Sys2Proof.Machine.execRel n s
  | .acq n => Sys2Proof.Machine.execAcq n s
  | .waitc c n => Sys2Proof.Machine.execWaitc c n s
  | .qfence n => Sys2Proof.Machine.execQfence n s
  | .pack d a b => Sys2Proof.Machine.execPack d a b s
  | .unpack d a b => Sys2Proof.Machine.execUnpack d a b s
  | .mldb a => Sys2Proof.Machine.execMldb a s
  | .mmac set a => Sys2Proof.Machine.execMmac set a s
  | .mrd clr set a => Sys2Proof.Machine.execMrd clr set a s
  | .mzero n => Sys2Proof.Machine.execMzero n s
  | .manch set a => Sys2Proof.Machine.execManch set a s
  | .epi a => Sys2Proof.Machine.execEpi a s
  | .mfence a => Sys2Proof.Machine.execMfence a s
  | .mtest => Sys2Proof.Machine.execMtest s
  | .mstat d n => Sys2Proof.Machine.execMstat d n s
  | .gath d a => Sys2Proof.Machine.execGath d a s
  | .pool d a => Sys2Proof.Machine.execPool d a s
  | .mcred d a => Sys2Proof.Machine.execMcred d a s
  | .mcst d a => Sys2Proof.Machine.execMcst d a s
  | .agq d n => Sys2Proof.Machine.execAgq d n s
  | .wbcast d a => Sys2Proof.Machine.execWbcast d a s
  | .dgst d a => Sys2Proof.Machine.execDgst d a s
  | .topen d a => Sys2Proof.Machine.execTopen d a s
  | .tcommit d a => Sys2Proof.Machine.execTcommit d a s
  | .gate d n => Sys2Proof.Machine.execGate d n s
  | .gret => Sys2Proof.Machine.execGret s
  | .treeq d n => Sys2Proof.Machine.execTreeq d n s
  | .scrub m a b => Sys2Proof.Machine.execScrub m a b s
  | .csrr d a => Sys2Proof.Machine.execCsrr d a s
  | .csrw d a b => Sys2Proof.Machine.execCsrw d a b s
  | .csrs d a b => Sys2Proof.Machine.execCsrs d a b s
  | .csrc d a b => Sys2Proof.Machine.execCsrc d a b s
  | .tret => Sys2Proof.Machine.execTret s
  | .wfi => Sys2Proof.Machine.execWfi s
  | .sipi a b => Sys2Proof.Machine.execSipi a b s
  | .tlbiAll => Sys2Proof.Machine.execTlbiAll s
  | .tlbiDom a => Sys2Proof.Machine.execTlbiDom a s
  | .tlbiVa a b => Sys2Proof.Machine.execTlbiVa a b s
  | .tlbiVaall b => Sys2Proof.Machine.execTlbiVaall b s
  | .dslw a b => Sys2Proof.Machine.execDslw a b s
  | .dpre d a b => Sys2Proof.Machine.execDpre d a b s
  | .ctxs a b => Sys2Proof.Machine.execCtxs a b s
  | .ctxl a b => Sys2Proof.Machine.execCtxl a b s
  | .wswap d n => Sys2Proof.Machine.execWswap d n s
  | .hgmb d a => Sys2Proof.Machine.execHgmb d a s
  | .snap n => Sys2Proof.Machine.execSnap n s
  | .brk n => Sys2Proof.Machine.execBrk n s
  | .stallRunout core w g => Sys2Proof.Machine.execStallRunout core w g s
  | .yieldRunout core w g => Sys2Proof.Machine.execYieldRunout core w g s
  | .ageingThreshold core w g => Sys2Proof.Machine.execAgeingThreshold core w g s
  | .meetParkExpiry core w g => Sys2Proof.Machine.execMeetParkExpiry core w g s
  | .vgrowGrant core quad => Sys2Proof.Machine.execVgrowGrant core quad s
  | .binTimerExpiry core bin => Sys2Proof.Machine.execBinTimerExpiry core bin s
  | .looseWarpPlace core bin => Sys2Proof.Machine.execLooseWarpPlace core bin s
  | .launchRequest slice lane => Sys2Proof.Machine.execLaunchRequest slice lane s
  | .dispatchBlock part => Sys2Proof.Machine.execDispatchBlock part s
  | .warpRetire core w => Sys2Proof.Machine.execWarpRetire core w s
  | .loadSectorLand core id sector => Sys2Proof.Machine.execLoadSectorLand core id sector s
  | .scratchpadLoadReturn core id => Sys2Proof.Machine.execScratchpadLoadReturn core id s
  | .storeAck core id => Sys2Proof.Machine.execStoreAck core id s
  | .homeLoad core id line => Sys2Proof.Machine.execHomeLoad core id line s
  | .homeStore core id line => Sys2Proof.Machine.execHomeStore core id line s
  | .homeAtomic core id lane => Sys2Proof.Machine.execHomeAtomic core id lane s
  | .atomicReturn core id => Sys2Proof.Machine.execAtomicReturn core id s
  | .monitorDrop core w g => Sys2Proof.Machine.execMonitorDrop core w g s
  | .wsleepTimeout core w g => Sys2Proof.Machine.execWsleepTimeout core w g s
  | .bwaittTimeout core w g => Sys2Proof.Machine.execBwaittTimeout core w g s
  | .combiningEntryExpiry core id => Sys2Proof.Machine.execCombiningEntryExpiry core id s
  | .relDrainDone core w g => Sys2Proof.Machine.execRelDrainDone core w g s
  | .acqWaitDone core w g => Sys2Proof.Machine.execAcqWaitDone core w g s
  | .translationWalk slice => Sys2Proof.Machine.execTranslationWalk slice s
  | .translationAnswer slice idx => Sys2Proof.Machine.execTranslationAnswer slice idx s
  | .remoteAtomicTimeout core id => Sys2Proof.Machine.execRemoteAtomicTimeout core id s
  | .copyStart core q => Sys2Proof.Machine.execCopyStart core q s
  | .copyChunk core q => Sys2Proof.Machine.execCopyChunk core q s
  | .copyPieceLand core q piece => Sys2Proof.Machine.execCopyPieceLand core q piece s
  | .copyoPieceAck core q piece => Sys2Proof.Machine.execCopyoPieceAck core q piece s
  | .engineFaultDeliver core w => Sys2Proof.Machine.execEngineFaultDeliver core w s
  | .qfenceRelease core id => Sys2Proof.Machine.execQfenceRelease core id s
  | .mldbRun core => Sys2Proof.Machine.execMldbRun core s
  | .mmacRun core => Sys2Proof.Machine.execMmacRun core s
  | .mrdRun core => Sys2Proof.Machine.execMrdRun core s
  | .mzeroRun core => Sys2Proof.Machine.execMzeroRun core s
  | .manchRun core => Sys2Proof.Machine.execManchRun core s
  | .epiRun core => Sys2Proof.Machine.execEpiRun core s
  | .mtestRun core fails => Sys2Proof.Machine.execMtestRun core fails s
  | .mfenceRun core fail => Sys2Proof.Machine.execMfenceRun core fail s
  | .scrubMatrixRun core => Sys2Proof.Machine.execScrubMatrixRun core s
  | .selfTestIdle core fail => Sys2Proof.Machine.execSelfTestIdle core fail s
  | .batchReopen core => Sys2Proof.Machine.execBatchReopen core s
  | .gathRun slice => Sys2Proof.Machine.execGathRun slice s
  | .poolRun slice => Sys2Proof.Machine.execPoolRun slice s
  | .poolRowArrive slice row => Sys2Proof.Machine.execPoolRowArrive slice row s
  | .mcredRun slice => Sys2Proof.Machine.execMcredRun slice s
  | .mcstRun slice => Sys2Proof.Machine.execMcstRun slice s
  | .wbcastRun slice => Sys2Proof.Machine.execWbcastRun slice s
  | .dgstRun slice => Sys2Proof.Machine.execDgstRun slice s
  | .engineCommandComplete slice q => Sys2Proof.Machine.execEngineCommandComplete slice q s
  | .gateProceed core w => Sys2Proof.Machine.execGateProceed core w s
  | .dpreComplete core => Sys2Proof.Machine.execDpreComplete core s
  | .warpHalt core w => Sys2Proof.Machine.execWarpHalt core w s
  | .unitScrubDone core unit => Sys2Proof.Machine.execUnitScrubDone core unit s
  | .unitWake core unit => Sys2Proof.Machine.execUnitWake core unit s
  | .deferredTrapRecord core w => Sys2Proof.Machine.execDeferredTrapRecord core w s
  | .notificationDrain slice => Sys2Proof.Machine.execNotificationDrain slice s
  | .serviceInterrupt core => Sys2Proof.Machine.execServiceInterrupt core s
  | .wfiWake core => Sys2Proof.Machine.execWfiWake core s
  | .sipiDeliver core => Sys2Proof.Machine.execSipiDeliver core s
  | .dispositionResume core w => Sys2Proof.Machine.execDispositionResume core w s
  | .dispositionKill core w => Sys2Proof.Machine.execDispositionKill core w s
  | .dispositionHandler core w => Sys2Proof.Machine.execDispositionHandler core w s
  | .memoryError slice pa => Sys2Proof.Machine.execMemoryError slice pa s
  | .isctlWrite core => Sys2Proof.Machine.execIsctlWrite core s
  | .ipendWrite core => Sys2Proof.Machine.execIpendWrite core s
  | .watchRegWrite core => Sys2Proof.Machine.execWatchRegWrite core s
  | .csrWrite core => Sys2Proof.Machine.execCsrWrite core s
  | .debugHalt core => Sys2Proof.Machine.execDebugHalt core s
  | .debugResume core => Sys2Proof.Machine.execDebugResume core s
  | .debugStep core => Sys2Proof.Machine.execDebugStep core s
  | .debugDump core => Sys2Proof.Machine.execDebugDump core s
  | .debugArm core => Sys2Proof.Machine.execDebugArm core s
  | .debugRead core => Sys2Proof.Machine.execDebugRead core s
  | .debugBadCommand core => Sys2Proof.Machine.execDebugBadCommand core s
  | .packetFetch slice lane => Sys2Proof.Machine.execPacketFetch slice lane s
  | .packetNop slice lane => Sys2Proof.Machine.execPacketNop slice lane s
  | .packetSeed slice lane => Sys2Proof.Machine.execPacketSeed slice lane s
  | .packetSignal slice lane => Sys2Proof.Machine.execPacketSignal slice lane s
  | .packetWaitsig slice lane => Sys2Proof.Machine.execPacketWaitsig slice lane s
  | .packetCistern slice lane => Sys2Proof.Machine.execPacketCistern slice lane s
  | .packetQuery slice lane => Sys2Proof.Machine.execPacketQuery slice lane s
  | .cisternWriteStart idx => Sys2Proof.Machine.execCisternWriteStart idx s
  | .quantumEnd slice => Sys2Proof.Machine.execQuantumEnd slice s
  | .firmwareRestart part => Sys2Proof.Machine.execFirmwareRestart part s
  | .kernelSetup core => Sys2Proof.Machine.execKernelSetup core s
  | .resize core => Sys2Proof.Machine.execResize core s
  | .reinterleaveGroup part => Sys2Proof.Machine.execReinterleaveGroup part s
  | .setOwner core => Sys2Proof.Machine.execSetOwner core s
  | .sealFrames core => Sys2Proof.Machine.execSealFrames core s
  | .groupRegister core => Sys2Proof.Machine.execGroupRegister core s
  | .groupWithdraw core => Sys2Proof.Machine.execGroupWithdraw core s
  | .memberAbsent group member => Sys2Proof.Machine.execMemberAbsent group member s
  | .tensorDefine core => Sys2Proof.Machine.execTensorDefine core s
  | .manifestSubmit core => Sys2Proof.Machine.execManifestSubmit core s
  | .cisternPairing core => Sys2Proof.Machine.execCisternPairing core s
  | .cisternLoad core => Sys2Proof.Machine.execCisternLoad core s
  | .keyRotateRequest core => Sys2Proof.Machine.execKeyRotateRequest core s
  | .peerWindow core => Sys2Proof.Machine.execPeerWindow core s
  | .bindKeySlot core => Sys2Proof.Machine.execBindKeySlot core s
  | .registerOwnerKey core => Sys2Proof.Machine.execRegisterOwnerKey core s
  | .extendMeasurement core => Sys2Proof.Machine.execExtendMeasurement core s
  | .measurementReport core => Sys2Proof.Machine.execMeasurementReport core s
  | .migrationExport core => Sys2Proof.Machine.execMigrationExport core s
  | .migrationImport core => Sys2Proof.Machine.execMigrationImport core s
  | .migrationReceipt part did => Sys2Proof.Machine.execMigrationReceipt part did s
  | .debugUnlock core => Sys2Proof.Machine.execDebugUnlock core s
  | .debugChallenge core => Sys2Proof.Machine.execDebugChallenge core s
  | .returnModule core => Sys2Proof.Machine.execReturnModule core s
  | .spdmGetVersion req => Sys2Proof.Machine.execSpdmGetVersion req s
  | .spdmGetCapabilities req => Sys2Proof.Machine.execSpdmGetCapabilities req s
  | .spdmNegotiateAlgorithms req supported => Sys2Proof.Machine.execSpdmNegotiateAlgorithms req supported s
  | .spdmGetDigests req => Sys2Proof.Machine.execSpdmGetDigests req s
  | .spdmGetCertificate req slot => Sys2Proof.Machine.execSpdmGetCertificate req slot s
  | .spdmChallenge req nonce => Sys2Proof.Machine.execSpdmChallenge req nonce s
  | .spdmGetMeasurements req part did nonce => Sys2Proof.Machine.execSpdmGetMeasurements req part did nonce s
  | .spdmKeyExchange req session => Sys2Proof.Machine.execSpdmKeyExchange req session s
  | .spdmFinish req => Sys2Proof.Machine.execSpdmFinish req s
  | .spdmEndSession req => Sys2Proof.Machine.execSpdmEndSession req s
  | .spdmKeyDelivery session slot key => Sys2Proof.Machine.execSpdmKeyDelivery session slot key s
  | .frameReceive port frame => Sys2Proof.Machine.execFrameReceive port frame s
  | .portDown port => Sys2Proof.Machine.execPortDown port s
  | .portRetrain port => Sys2Proof.Machine.execPortRetrain port s
  | .keyRotation port => Sys2Proof.Machine.execKeyRotation port s
  | .fabricReadResponse port pkt => Sys2Proof.Machine.execFabricReadResponse port pkt s
  | .fabricWriteAck port pkt => Sys2Proof.Machine.execFabricWriteAck port pkt s
  | .fabricAtomicResponse port pkt => Sys2Proof.Machine.execFabricAtomicResponse port pkt s
  | .fabricMulticastLine port pkt => Sys2Proof.Machine.execFabricMulticastLine port pkt s
  | .fabricErrorResponse port pkt => Sys2Proof.Machine.execFabricErrorResponse port pkt s
  | .windowAccess port pkt => Sys2Proof.Machine.execWindowAccess port pkt s
  | .cxlHostRequest part region => Sys2Proof.Machine.execCxlHostRequest part region s
  | .cxlRegionReclaim part region => Sys2Proof.Machine.execCxlRegionReclaim part region s
  | .refreshWindow die => Sys2Proof.Machine.execRefreshWindow die s
  | .cisternScrub die sound => Sys2Proof.Machine.execCisternScrub die sound s
  | .sensorSample slice reading => Sys2Proof.Machine.execSensorSample slice reading s
  | .powerQuotaUpdate q => Sys2Proof.Machine.execPowerQuotaUpdate q s
  | .powerLimitSet watts => Sys2Proof.Machine.execPowerLimitSet watts s
  | .firmwareUpdate image => Sys2Proof.Machine.execFirmwareUpdate image s
  | .moduleReset => Sys2Proof.Machine.execModuleReset s
  | .partitionForm part rect boot => Sys2Proof.Machine.execPartitionForm part rect boot s
  | .bootRetry part boot => Sys2Proof.Machine.execBootRetry part boot s
  | .partitionReset part => Sys2Proof.Machine.execPartitionReset part s
  | .gretProceed core w => Sys2Proof.Machine.execGretProceed core w s
  | .memberReturn group member meas => Sys2Proof.Machine.execMemberReturn group member meas s
  | .unitPowerDown core unit => Sys2Proof.Machine.execUnitPowerDown core unit s
  | .frameReplay port => Sys2Proof.Machine.execFrameReplay port s

end Sys2Proof.Machine
end

