-- ==== Sys2Proof/Machine/Events.lean ====
section
/-! DEFINITION. Sys2Proof/Machine/Events.lean: the steps of the machine that a state may enable by itself, as candidates for the schedule. A step that
comes from outside (frames, sensors, resets, self-test findings that fail) comes by the agenda only. -/

namespace Sys2Proof.Machine

/-- The issue quota withholds a cycle of a core: in each span of 64 cycles its issue slots, its matrix arrays and the engines start work in as
many as the module's quota and its slice's allow (R397). -/
def withheld (s : State) (k : Nat) : Bool := decide (min s.quota (sliceAt s (coreSlice k)).quota ≤ (coreAt s k).clk.toNat % 64)

/-- The same of the engines of a slice, by the arithmetic cycles of its partition. -/
def withheldSlice (s : State) (n : Nat) : Bool :=
  decide (min s.quota (sliceAt s n).quota ≤ (match (sliceAt s n).part with | some p => (partAt s p).clk | none => 0) % 64)

/-- The keys that an engine command, or a copy's chunk, is about to read. -/
def commandKeys (s : State) (q : Command) : List Nat :=
  match q.op with
  | .gath | .pool => (List.range (poolOf q.group).entries).flatMap fun row => if q.rows.contains row || isPad q row then [] else (rowParts s q row).map Prod.fst
  | .mcst => (keysOf s q (q.span (4 * (q.word 2).toNat))).map Prod.fst
  | .wbcast => (keysOf s q (q.span (4096 * (q.word 2).toNat))).map Prod.fst
  | _ => q.pages.map Prod.snd

/-- The keys for which requests are held (R368): of gangs, of commands that have started, of firmware lanes, of window accesses. -/
def heldKeys (s : State) : List Nat :=
  let gang := fun (gn : Gang) => match gn.status with | .held (.host key) => some key | _ => none
  let lane := fun (n : Nat) (ln : Lane) => match (sliceAt s n).part with
    | none => []
    | some p => match queueDesc (s.seenBy p n) p ln.queue with
      | some d => (packetKey s p n d).toList ++ packetKeys s p n d (ln.packet.getD 0)
      | none => []
  (s.cores.flatMap fun (_, c) => (c.warps.flatMap fun (_, wp) => wp.gangs.filterMap fun (_, gn) => gang gn) ++ ((c.cq0 ++ c.cq1).filter fun q => q.started).flatMap (commandKeys s))
  ++ (s.slices.flatMap fun (n, sl) => (((sl.pq ++ sl.fq).filter fun q => q.started).flatMap (commandKeys s)) ++ sl.lanes.flatMap fun (_, ln) => lane n ln)
  ++ s.ports.flatMap fun (n, p) => (p.inbox.take 1).filterMap fun pkt => match windowHome s n pkt with | .ok key => some key | .error _ => none

/-- The regions that the host is asked to give back (R368). -/
def reclaimEvents (s : State) : List (State → Event) :=
  s.parts.flatMap fun (p, pt) => (pt.hostOwned.filter fun r => (heldKeys s).any (inRegion p r)).map (execCxlRegionReclaim p)

/-- The dies whose scrubber comes to an error that no quarantine answers yet (R375). -/
def scrubEvents (s : State) : List (State → Event) :=
  ((List.range 8).filter fun die => s.ranges.any fun r => decide (r.offset / 2 ^ 26 / 24 = die) && r.bad s && !AMap.getD s.quarantined (r.offset / 2 ^ 26) false).map fun die => execCisternScrub die false

/-- A step that a state may enable. -/
abbrev Act := State → Event

/-- Steps of an access. -/
def accessEvents (k : Nat) (ac : Access) : List Act :=
  (ac.parts.map fun p => execHomeLoad k ac.id p.line) ++ (ac.parts.map fun p => execHomeStore k ac.id p.line) ++ (ac.lanes.map fun la => execHomeAtomic k ac.id la.lane)
  ++ (ac.parts.flatMap fun p => p.sectors.map fun q => execLoadSectorLand k ac.id q)
  ++ [execScratchpadLoadReturn k ac.id, execStoreAck k ac.id, execAtomicReturn k ac.id, execRemoteAtomicTimeout k ac.id]

/-- Steps of a gang. -/
def gangEvents (k w g : Nat) : List Act :=
  [execRelDrainDone k w g, execAcqWaitDone k w g]

/-- Steps of a warp. -/
def warpEvents (k w : Nat) (wp : Warp) : List Act :=
  (wp.gangs.flatMap fun (g, _) => gangEvents k w g)
  ++ [execEngineFaultDeliver k w, execGateProceed k w, execGretProceed k w, execWarpHalt k w, execDeferredTrapRecord k w, execDispositionResume k w, execDispositionKill k w,
      execDispositionHandler k w, execWarpRetire k w]

/-- Steps of an engine command that stands in a queue of a core; in a cycle that the quota withholds, none that starts work. -/
def copyEvents (k q : Nat) (off : Bool) (cmd : Command) : List Act :=
  (if off then [] else [execCopyStart k q, execCopyChunk k q]) ++ (cmd.pages.map fun (i, _) => execCopyPieceLand k q i) ++ cmd.pages.map fun (i, _) => execCopyoPieceAck k q i

/-- Markers in some queues. -/
def markerEvents (cs : List Command) : List Act := cs.filterMap fun q => match q.op with | .marker id => some (execQfenceRelease q.core id) | _ => none

/-- The services of the headgate and the completions of a service core's other instructions. -/
def serviceEvents (k : Nat) : List Act :=
  [execDpreComplete k, execServiceInterrupt k, execWfiWake k, execSipiDeliver k, execIsctlWrite k, execIpendWrite k, execWatchRegWrite k, execCsrWrite k, execKernelSetup k, execResize k, execSetOwner k,
   execSealFrames k, execGroupRegister k, execGroupWithdraw k, execTensorDefine k, execManifestSubmit k, execCisternPairing k, execCisternLoad k, execKeyRotateRequest k, execPeerWindow k,
   execBindKeySlot k, execRegisterOwnerKey k, execExtendMeasurement k, execMeasurementReport k, execMigrationExport k, execMigrationImport k, execDebugUnlock k, execDebugChallenge k, execReturnModule k]

/-- Steps of a core. -/
def coreEvents (s : State) (k : Nat) : List Act :=
  let c := coreAt s k
  let off := withheld s k
  (c.inflight.flatMap (accessEvents k)) ++ (c.warps.flatMap fun (w, wp) => warpEvents k w wp)
  ++ (List.range c.combine.length).map (execCombiningEntryExpiry k)
  ++ (copyHead s k 0).toList.flatMap (copyEvents k 0 off) ++ (copyHead s k 1).toList.flatMap (copyEvents k 1 off) ++ markerEvents (c.cq0 ++ c.cq1 ++ c.mq)
  ++ (if off || c.mq.isEmpty then [] else [execMldbRun k, execMmacRun k, execMrdRun k, execMzeroRun k, execManchRun k, execEpiRun k, execMtestRun k 0, execMfenceRun k false, execScrubMatrixRun k]) ++ (if off then [] else [execSelfTestIdle k false])
  ++ (List.range 4).map (execVgrowGrant k) ++ (c.bins.map fun (i, _) => execLooseWarpPlace k i) ++ [execBatchReopen k]
  ++ c.scrubbing.map (execUnitScrubDone k) ++ c.asleep.map (execUnitWake k)
  ++ (if c.mailbox.isSome then [execDebugHalt k, execDebugResume k, execDebugStep k, execDebugDump k, execDebugArm k, execDebugRead k, execDebugBadCommand k] else [])
  ++ if isCompute k then [] else serviceEvents k

/-- The rows of a gather or pooling. -/
def rowCount (q : Command) : Nat := if q.op = .gath ∨ q.op = .pool then (poolOf q.group).entries else 0

/-- Steps of a slice; in a cycle that the quota withholds, none that starts an engine's work. -/
def sliceEvents (s : State) (n : Nat) (off : Bool) : List Act :=
  let sl := sliceAt s n
  [execTranslationWalk n] ++ (List.range sl.misses.length).map (execTranslationAnswer n) ++ [execNotificationDrain n]
  ++ (sl.lanes.flatMap fun (l, _) => [execPacketFetch n l, execPacketSeed n l, execPacketSignal n l, execPacketWaitsig n l, execPacketCistern n l, execPacketQuery n l, execPacketNop n l])
  ++ (sl.pq.flatMap fun q => (List.range (rowCount q)).map (execPoolRowArrive n)) ++ (if off || sl.pq.isEmpty then [] else [execGathRun n, execPoolRun n])
  ++ [execEngineCommandComplete n .pq]
  ++ (if off || sl.fq.isEmpty then [] else [execMcredRun n, execMcstRun n, execWbcastRun n, execDgstRun n]) ++ [execEngineCommandComplete n .fq] ++ markerEvents (sl.pq ++ sl.fq)

/-- Steps of a port. -/
def portEvents (n : Nat) (p : Port) : List Act :=
  (match p.inbox with
    | [] => []
    | q :: _ => [execFabricReadResponse n q, execFabricWriteAck n q, execFabricAtomicResponse n q, execFabricMulticastLine n q, execFabricErrorResponse n q, execWindowAccess n q])
  ++ [execPortDown n] ++ if p.dropped then [execFrameReplay n] else []

/-- Steps that may be enabled, those of one core first. -/
def candidates (s : State) (k : Nat) : List Act :=
  (if quantumOver s (coreSlice k) && decide (k = 640 + coreSlice k) then [execQuantumEnd (coreSlice k)] else [])
  ++ coreEvents s k ++ sliceEvents s (coreSlice k) (withheldSlice s (coreSlice k)) ++ (List.range s.cisternWrites.length).map execCisternWriteStart
  ++ (s.parts.flatMap fun (p, pt) => (pt.launches.map fun l => execLaunchRequest l.slice l.lane) ++ [execDispatchBlock p] ++ if pt.resize.isSome then [execReinterleaveGroup p] else [])
  ++ (s.ports.flatMap fun (n, p) => portEvents n p) ++ reclaimEvents s ++ scrubEvents s
  ++ match s.unlock with
    | some (j, _) => if j = 672 then [execDebugUnlock 672] else if j = 673 then [execReturnModule 672] else []
    | none => []

end Sys2Proof.Machine
end

