-- ==== Sys2Proof/Machine/Schedule.lean ====
section
/-! DEFINITION. Sys2Proof/Machine/Schedule.lean: fetching an instruction (R15, R55 to R59), and which gang or event comes next (R95 to R97,
R127 to R129, R134, R135). The order of events that the spec leaves open is the agenda's; without one, a fixed order is taken. -/

namespace Sys2Proof.Machine

/-! ## Fetch -/

/-- The control word and the instruction word at the gang's program counter (R15); zeros where nothing translates it (DESIGN CHOICE, log
entry 37: what a record of a failed fetch holds there, R330). -/
def fetchWords (x : Ctx) : Word × Word :=
  match tlbLook x.c x.did x.gn.pc with
  | .hit e => (ctlThrough x.s x.part e x.gn.pc, memWord x.s (physKey x.part (e.paOf x.gn.pc)))
  | _ => (0, 0)

/-- The words that a gang issues, or why its fetch fails. -/
def fetch (x : Ctx) : Except Stop (Word × Word) :=
  match tlbLook x.c x.did x.gn.pc with
  | .notCanonical => .error (.trap { cause := 0x08, detail := 9, addr := x.gn.pc })
  | .refused c d =>
    if (leafOf x.c x.did x.gn.pc).any fun e => !e.x then .error (.trap { cause := 0x08, detail := 1, addr := x.gn.pc })
    else .error (.trap { cause := c, detail := d, addr := x.gn.pc })
  | .miss => .error (.miss x.did [x.gn.pc])
  | .hit e =>
    if e.x then .ok (fetchWords x)
    else .error (.trap { cause := 0x08, detail := 1, addr := x.gn.pc })

/-- A word that decodes to no instruction (R36 to R38): the bundle, the profile, then the fault the decoder names. -/
def badWord (w : Word) (e : DecodeError) (x : Ctx) : Except Stop State := do
  need (decide (bitsW x.s.ctl 31 30 < 2)) { cause := 0x02 }
  match profileFault x.k (bitsW w 31 24) with
  | some c => trapOf c
  | none => match e with
    | .opcode => trapOf 0x01
    | .operand => trapOf 0x03

/-- A fetch that fails: at TVEC it stops a service core (R334); elsewhere it is the gang's fault. -/
def fetchFails (x : Ctx) (e : Stop) : Host.Outcome State Fault Refusal :=
  match e with
  | .trap t =>
    if !isCompute x.k && decide (x.gn.pc = slot0 x.c.svc.tvec) then
      .next ((x.s.modCore x.k fun c => { c with svc := { c.svc with stopped := true } }).logEvent 4 x.part (coreSlice x.k))
    else settle x (.error (.trap t))
  | e => settle x (.error e)

/-- Issue the instruction of a gang: fetch, decode, execute. -/
def issue (s : State) (cur : Cursor) : Host.Outcome State Fault Refusal :=
  match ctxOf { s with cur := cur } with
  | none => .next s
  | some x =>
    let s' := { s with cur := cur, insn := (fetchWords x).2, ctl := (fetchWords x).1 }
    match fetch x with
    | .error e => fetchFails { x with s := s' } e
    | .ok (_, w) =>
      match decode w with
      | .ok i => exec i s'
      | .error e => run s' (badWord w e)

/-! ## Eligibility (R95, R167) -/

/-- A warp is blocked: one of its gangs waits in VGROW (R109, R154). -/
def Warp.blocked (wp : Warp) : Bool := wp.gangs.any fun (_, gn) => match gn.status with | .waiting (.vgrow _ _) => true | _ => false

/-- Whether a gang may issue at all: not halted, its warp not blocked, not withdrawn by pre-emption or the debugger. -/
def gangFree (c : Core) (wp : Warp) (gn : Gang) : Bool :=
  !gn.trapped && !wp.blocked && (!gn.dbgHalt || gn.stepping) && !wp.preempt && !wp.halted && !c.held && !c.svc.stopped

/-- Held at issue: the gang has not issued the instruction at its program counter (R92, R167). -/
def GangStatus.unissued : GangStatus → Bool
  | .held _ | .waiting .counter => true
  | _ => false

/-- The standing of a gang in the present cycle (R95, R167). A gang that is ready or held tries its instruction: where the instruction would
be held, the gang is held and what it asks for (translations, table bundles, flushes) is asked; else it is ready. It takes no issue slot. A gang whose
instruction would fault at issue is ready (DESIGN CHOICE, log entry 90: R18 and R95 do not say whether a fault takes the issue slot). -/
def standGang (s : State) (k w g : Nat) : State :=
  match warpAt s k w, gangAt s k w g with
  | some wp, some gn =>
    if gangFree (coreAt s k) wp gn && (decide (gn.status = .ready) || gn.status.unissued) then
      let free := s.modGang k w g fun gn => { gn with status := .ready }
      match issue s { core := k, w := w, g := g } with
      | .next s' => match gangAt s' k w g with
        | some gn' => if gn'.status.unissued && decide (gn'.spawnLeft = gn.spawnLeft) then { s' with cur := s.cur, insn := s.insn, ctl := s.ctl } else free
        | none => free
      | _ => free
    else s
  | _, _ => s

/-- The gangs of a quadrant. -/
def gangsOf (c : Core) (q : Nat) : List (Nat × Nat) :=
  (c.warps.filter fun (w, _) => w / 16 = q).flatMap fun (w, wp) => wp.gangs.map fun (g, _) => (w, g)

/-- Every gang of a quadrant takes its standing. -/
def standQuad (s : State) (k q : Nat) : State := (gangsOf (coreAt s k) q).foldl (fun s (w, g) => standGang s k w g) s

/-- A ready gang is eligible (R167). -/
def eligible (c : Core) (wp : Warp) (gn : Gang) : Bool := gangFree c wp gn && decide (gn.status = .ready)

/-- The eligible gangs of a quadrant. -/
def eligibleOf (s : State) (k q : Nat) : List (Nat × Nat) :=
  let c := coreAt s k
  (c.warps.filter fun (w, _) => w / 16 = q).flatMap fun (w, wp) =>
    (wp.gangs.filter fun (_, gn) => eligible c wp gn).map fun (g, _) => (w, g)

/-! ## The choice of a cycle (R96, R97, R127, R128) -/

/-- The element of a list with the least key. -/
def least {α : Type} (key : α → Nat) : List α → Option α
  | [] => none
  | a :: l => match least key l with
    | some b => if key b < key a then some b else some a
    | none => some a

/-- Within a warp: the gang that issued most recently if it is eligible, else the lowest first lane; of two that issued in one cycle the
lower first lane (DESIGN CHOICE, log entry 38). -/
def pickGang (wp : Warp) (gs : List Nat) : Option Nat :=
  let last := (wp.gangs.map fun (_, gn) => gn.lastIssue).foldl max 0
  let lane := fun g => match AMap.get? wp.gangs g with | some gn => firstLane gn.mask | none => 33
  match least lane (gs.filter fun g => (AMap.get? wp.gangs g).any fun gn => decide (gn.lastIssue = last)) with
  | some g => some g
  | none => least lane gs

/-- Issue priority of the domain slot of a warp (R128, R315). -/
def warpPrio (c : Core) (wp : Warp) : Nat := match slotOf c wp.didNow with | some (_, sl) => bitsW sl.w0 19 17 | none => 0

/-- The warp that the policy chooses among eligible gangs. -/
def pickWarp (c : Core) (q : Nat) (es : List (Nat × Nat)) : Option Nat :=
  let ws := (es.map Prod.fst).eraseDups
  let age := fun w => match AMap.get? c.warps w with | some wp => wp.age | none => 0
  let gto := fun (ws : List Nat) => match (AMap.get? c.greedy q).filter fun w => ws.contains w with
    | some w => some w
    | none => least age ws
  match bitsW c.isctl 1 0 with
  | 1 =>
    let last := match AMap.get? c.lastWarp q with | some w => w % 16 + 1 | none => 0
    least (fun w => (w % 16 + 16 - last % 16) % 16) ws
  | 2 =>
    let prio := fun w => match AMap.get? c.warps w with | some wp => warpPrio c wp | none => 0
    let top := (ws.map prio).foldl max 0
    gto (ws.filter fun w => prio w = top)
  | _ => gto ws

/-- The order in which the slot tries eligible gangs: threshold gangs by the cycle in which they reached it, then lower warp slot, then lower
first lane (R135); then the policy's order. -/
def tryOrder (c : Core) (q : Nat) : Nat → List (Nat × Nat) → List (Nat × Nat)
  | 0, _ => []
  | n + 1, es =>
    let threshold := fun (e : Nat × Nat) => ((AMap.get? c.warps e.1).bind fun wp => AMap.get? wp.gangs e.2).bind fun gn =>
      gn.thresholdAt.map fun t => 1024 * t + 64 * (e.1 % 16) + firstLane gn.mask
    let pick := match least (fun e => (threshold e).getD 0) (es.filter fun e => (threshold e).isSome) with
      | some e => some e
      | none => (pickWarp c q es).bind fun w => (AMap.get? c.warps w).bind fun wp =>
          (pickGang wp ((es.filter fun e => e.1 = w).map Prod.snd)).map fun g => (w, g)
    match pick with
    | none => []
    | some e => e :: tryOrder c q n (es.filter fun d => decide (d ≠ e))

/-! ## Pairing (R129) -/

/-- The shared unit an opcode needs: 1 memory port, 2 cross-lane unit, 3 engine port. -/
def unitOf (op : Nat) : Nat :=
  if (0x60 ≤ op ∧ op ≤ 0x7E) ∨ (0x80 ≤ op ∧ op ≤ 0x8A) ∨ op = 0x8C then 1
  else if 0x40 ≤ op ∧ op ≤ 0x4B then 2
  else if (0x4C ≤ op ∧ op ≤ 0x4F) ∨ (0x90 ≤ op ∧ op ≤ 0x9A) ∨ (0xA0 ≤ op ∧ op ≤ 0xA8) ∨ (0xB0 ≤ op ∧ op ≤ 0xB3) then 3
  else 0

/-- Whether a word writes scalar registers: its opcode writes field d, which names one. -/
def writesScalar (w : Word) : Bool :=
  let op := bitsW w 31 24
  let d := bitsW w 23 16
  decide (0x80 ≤ d ∧ d < 0xC0) && (decide (0x50 ≤ op ∧ op ≤ 0x5F) ||
    [0x3C, 0x40, 0x47, 0x49, 0x4C, 0x4D, 0x70, 0x81, 0x83, 0x85, 0x86, 0x87, 0x9A, 0xA4, 0xA7, 0xA8, 0xB0, 0xB2, 0xC0, 0xC1, 0xC2, 0xC3, 0xC9,
      0xCC, 0xCD].contains op)

/-- The next instruction word of a gang, if it can be fetched. -/
def nextWord (s : State) (cur : Cursor) : Option Word :=
  match ctxOf { s with cur := cur } with
  | none => none
  | some x => match fetch x with | .ok (_, w) => some w | .error _ => none

/-- Whether two gangs of a quadrant may issue in one cycle (R129). -/
def canPair (s : State) (k : Nat) (a b : Nat × Nat) : Bool :=
  match warpAt s k a.1, warpAt s k b.1, gangAt s k a.1 a.2, gangAt s k b.1 b.2,
        nextWord s { core := k, w := a.1, g := a.2 }, nextWord s { core := k, w := b.1, g := b.2 } with
  | some wa, some wb, some ga, some gb, some ia, some ib =>
    decide (wa.didNow = wb.didNow) && decide (furrowsOf ga.mask &&& furrowsOf gb.mask = 0)
    && !(decide (a.1 = b.1) && writesScalar ia && writesScalar ib)
    && !(decide (unitOf (bitsW ia 31 24) ≠ 0) && decide (unitOf (bitsW ia 31 24) = unitOf (bitsW ib 31 24)))
  | _, _, _, _, _, _ => false

/-- The gangs that issue in a cycle of a quadrant, the chosen one first (R127, R129). -/
def chooseGangs (s : State) (k q : Nat) : List (Nat × Nat) :=
  let c := coreAt s k
  let es := eligibleOf s k q
  match tryOrder c q es.length es with
  | [] => []
  | a :: rest =>
    if c.isctl.getLsbD 3 || !isCompute k then [a]
    else match rest.find? fun b => canPair s k a b with
      | none => [a]
      | some b => [a, b]

/-- The order in which the model executes the gangs of a cycle: a scalar writer last, so that the other reads scalars as they stood before
the cycle (R28); else, in one warp, the lower first lane first (R161). -/
def issueOrder (s : State) (k : Nat) (picks : List (Nat × Nat)) : List Cursor :=
  let at_ := fun (e : Nat × Nat) => { core := k, w := e.1, g := e.2 : Cursor }
  let lane : Nat × Nat → Nat := fun e => match gangAt s k e.1 e.2 with | some gn => firstLane gn.mask | none => 33
  match picks with
  | [a, b] =>
    let last := (nextWord s (at_ a)).any writesScalar || (!(nextWord s (at_ b)).any writesScalar && decide (a.1 = b.1) && decide (lane b < lane a))
    if last then [at_ b, at_ a] else [at_ a, at_ b]
  | es => es.map at_

/-! ## Cycles -/

/-- One cycle of pending results. -/
def tickPend (ps : List Pend) : List Pend := (ps.map fun p => { p with left := p.left - 1 }).filter fun p => decide (0 < p.left)

/-- One cycle of the timers a gang carries. -/
def Gang.tick (gn : Gang) : Gang :=
  { gn with stall := gn.stall - 1, own := tickPend gn.own, status := match gn.status with
      | .parked n => .parked (n - 1)
      | .waiting (.barrier o p kd (some n)) => .waiting (.barrier o p kd (some (n - 1)))
      | .waiting (.sleep d (some n)) => .waiting (.sleep d (some (n - 1)))
      | st => st }

/-- One cycle of a warp's pending results. -/
def Warp.tick (wp : Warp) : Warp := { wp with pend := tickPend wp.pend }

/-- One cycle of a gang: what is left of stalls and limits, the ageing of an eligible gang, run-out and threshold (R17, R59, R134, R135). -/
def Gang.cycle (gn : Gang) (aged : Bool) (clk : Nat) : Gang :=
  let gn := (if aged then { gn.tick with ageing := min 1024 (gn.ageing + 1) } else gn.tick)
  gn.runOut.atThreshold clk

/-- One cycle of a quadrant: furrows, entries, pending results, stalls and limits run, eligible gangs age (R125, R130, R132, R134). -/
def tickQuad (s : State) (k q : Nat) (es : List (Nat × Nat)) : State :=
  s.modCore k fun c => { c with
    entering := (c.entering.map fun (i, n) => if i = q then (i, n - 1) else (i, n)).filter fun (_, n) => decide (0 < n),
    furrows := (c.furrows.map fun (i, n) => if i / 8 = q then (i, n - 1) else (i, n)).filter fun (_, n) => decide (0 < n),
    warps := c.warps.map fun (w, wp) =>
      if w / 16 ≠ q then (w, wp)
      else
        let wp := wp.tick
        (w, if wp.preempt then wp else { wp with gangs := wp.gangs.map fun (g, gn) => (g, gn.cycle (es.contains (w, g)) c.clk.toNat) }) }

/-- The limits of a quadrant that have run out end the waits they bound, after every completion of the cycle in which they ran out
(R142 step 8, R200, R203). -/
def expireQuad (s : State) (k q : Nat) : State :=
  let c := coreAt s k
  ((gangsOf c q).filter fun (w, _) => (AMap.get? c.warps w).any fun wp => !wp.preempt && !wp.halted).foldl (fun s (w, g) =>
    [execMeetParkExpiry, execBwaittTimeout, execWsleepTimeout].foldl (fun s f => match f k w g s with | .next s' => s' | _ => s) s) s

/-- The merges outside a MEET of a quadrant, before the cycle's choice (R175). -/
def mergeQuad (s : State) (k q : Nat) : State :=
  s.modCore k fun c => { c with warps := c.warps.map fun (w, wp) => if w / 16 = q then (w, wp.mergeAll 7) else (w, wp) }

/-- A restored bin that waits takes a number that is free. -/
def Core.rebin (c : Core) : Core :=
  match c.binsBack, (List.range 32).find? fun j => (AMap.get? c.bins j).isNone with
  | b :: rest, some j => { c with bins := AMap.put c.bins j b, binsBack := rest }
  | _, _ => c

/-- One cycle of a core's clock: the count, the timers of its spawn bins, those of a halted domain apart, fetches of tables, and the matrix engine's
idle count (R112, R161, R279, R336). -/
def tickCore (s : State) (k : Nat) : State :=
  s.modCore k fun c => let c := c.rebin.idleTick; { c with clk := c.clk + 1, tables := c.tables.map fun (b, n) => (b, n - 1), bins := c.bins.map fun (i, b) => (i, if domainHalted c b.did then b else { b with timer := b.timer - 1 }) }

/-- One cycle of every die's refresh sequencer (R225). -/
def tickRefresh (s : State) : State :=
  { s with refresh := (List.range 8).foldl (fun m d => AMap.put m d ((AMap.getD m d 0 + 1) % 24576)) s.refresh }

/-- The turn after a turn: the next quadrant, or the second of a service core's two cycles in one arithmetic cycle (R8); then the next core
that holds state. -/
def nextTurn (s : State) : Nat :=
  let t := s.turn / 2
  let k := t / 4
  if (isCompute k ∧ t % 4 < 3) ∨ (isService k ∧ t % 4 < 1) then 2 * (t + 1)
  else 8 * (match s.cores.find? fun (j, _) => k < j with
    | some (j, _) => j
    | none => ((s.cores.head?).map Prod.fst).getD 0)

/-- A cycle of the quadrant in turn begins: waits and bins whose limits have run out end, the core's count and merges, the gangs' standing, the
choice, the timers. A cycle with no issue, one that the quota withholds too, ends the greedy hold; else the chosen warp holds it (R96, R127) and is
the one that issued most recently (R97; of a pair the chosen one: DESIGN CHOICE, log entry 38). A chosen gang that faults instead of issuing has taken
the cycle, and its warp the hold (DESIGN CHOICE, log entry 90). -/
def beginCycle (s : State) : State × List Cursor :=
  let k := s.turn / 8
  let q := if isCompute k then s.turn / 2 % 4 else 0
  let s := expireQuad s k q
  let s := mergeQuad (if q = 0 then tickCore (expireBins s k) k else s) k q
  let off := withheld s k
  let s := if off then s else standQuad s k q
  let es := if off then [] else eligibleOf s k q
  let picks := if off then [] else chooseGangs s k q
  let order := issueOrder s k picks
  let s := tickQuad s k q es
  let s := match picks with
    | [] => s.modCore k fun c => { c with greedy := AMap.del c.greedy q }
    | (w, _) :: _ => s.modCore k fun c => { c with greedy := AMap.put c.greedy q w, lastWarp := AMap.put c.lastWarp q w }
  ({ s with turn := s.turn + 1 }, order)

/-- A list from its nth element on, then its first n. -/
def rotate {α : Type} (n : Nat) (l : List α) : List α := l.drop (n % l.length) ++ l.take (n % l.length)

/-- The first step that the state enables, in an order that turns by one place with each use, so that none waits for ever. -/
def nextEvent (s : State) : Option Act :=
  (rotate s.next (candidates s (s.turn / 8))).find? fun f => match f s with
    | .next s' => decide (s' ≠ s)
    | _ => false

end Sys2Proof.Machine
end

