-- ==== Sys2Proof/Machine/Step.lean ====
section
/-! DEFINITION. Sys2Proof/Machine/Step.lean: one step of the machine, and a state whose next step runs a given word. -/

namespace Sys2Proof.Machine

/-- The state in which the next turn begins; the refresh sequencers, dispatchers and firmware cores count, and the surroundings act on groups and pooled
memory, each time the turn comes round to the first core. -/
def turnOver (s : State) : State :=
  let t := nextTurn s
  let s := if t ≤ s.turn then stirPods (tickDispatch (tickRefresh s)) else s
  { s with turn := t }

/-- One step: what the surroundings have put next; else the gangs chosen for this cycle; else, in turn, a cycle of the next quadrant
or the next event. -/
def step (s : State) : Host.Outcome State Fault Refusal :=
  match s.agenda with
  | i :: rest => exec i { s with agenda := rest }
  | [] =>
    match s.pair with
    | cur :: rest => issue { s with pair := rest } cur
    | [] =>
      if s.turn % 2 = 0 then
        match beginCycle s with
        | (s', cur :: rest) => issue { s' with pair := rest } cur
        | (s', []) => .next s'
      else
        match nextEvent s with
        | some f => f { turnOver s with next := s.next + 1 }
        | none => .next (turnOver s)

/-- Virtual and physical address of the bundle that withFetchWord fills. -/
def fetchBase : Nat := 0x10000

/-- The domain slot of the domain in which a placed word runs on a compute core: every resource of the core. -/
def fetchSlot : Slot := { w0 := 0x80000001, w1 := 0x00048000, w2 := 0xFFFFFFFF, w3 := 0x0100001F, w7 := 0x1 }

/-- The state with a word as the next instruction to issue: a landing bundle in HBM, its page in the TLB, a resident warp of one gang at
its slot 0, on a compute core, or on a service core for the codes that are privileged. -/
def State.withFetchWord (s : State) (nbits w : Nat) : State :=
  let op := w % 2 ^ nbits / 2 ^ 24
  let svc := decide (0xC0 ≤ op ∧ op ≤ 0xCE)
  let k := if svc then 512 else 0
  let did : BitVec 16 := if svc then 0xFFFF else 1
  let gang : Gang := { pc := BitVec.ofNat 64 (fetchBase + 4), mask := if svc then 1 else 0xFFFFFFFF }
  let warp : Warp := { did := did, didNow := did, blocks := 16, wld := if svc then 1 else 0xFFFFFFFF, gangs := [(0, gang)] }
  let c := coreAt s k
  let s := s.modSlice 0 fun sl => { sl with part := some 0 }
  let s := s.modPart 0 fun p => { p with slices := [0] }
  let s := s.setCore k { c with held := false, warps := [(0, warp)], slots := if svc then c.slots else [(0, fetchSlot)],
                                tlb := [{ did := did, va := fetchBase, size := 65536, pa := fetchBase, w := true, x := true }] }
  let s := memPut s (physKey 0 fetchBase) (natLe 4 0x40000000 ++ natLe 4 (w % 2 ^ nbits))
  { s with agenda := [], pair := [{ core := k, w := 0, g := 0 }] }

end Sys2Proof.Machine
end

