-- ==== Sys2Proof/Laws/PerInstr.lean ====
section
/-! SUPPORT. Sys2Proof/Laws/PerInstr.lean: the round trip of each instruction word, one lemma per constructor. -/

namespace Sys2Proof.Laws

/-- A register field reads back. -/
theorem ofByte_toByte (r : Reg) : Reg.ofByte r.toByte = r := by
  cases r with
  | z => rfl
  | v n => exact (by decide : ∀ n : Fin 128, Reg.ofByte (Reg.toByte (.v n)) = .v n) n
  | s n => exact (by decide : ∀ n : Fin 64, Reg.ofByte (Reg.toByte (.s n)) = .s n) n
  | p n => exact (by decide : ∀ n, Reg.ofByte (Reg.toByte (.p n)) = .p n) n
  | x n => exact (by decide : ∀ n, Reg.ofByte (Reg.toByte (.x n)) = .x n) n
  | k n => exact (by decide : ∀ n, Reg.ofByte (Reg.toByte (.k n)) = .k n) n
  | rsv n => exact (by decide : ∀ n, Reg.ofByte (Reg.toByte (.rsv n)) = .rsv n) n

/-! ## The fields of a word put together from its fields -/

theorem extract_high {n m : Nat} (x : BitVec n) (y : BitVec m) (s l : Nat) (h : m ≤ s) : (x ++ y).extractLsb' s l = x.extractLsb' (s - m) l := by
  apply BitVec.eq_of_getLsbD_eq; intro i hi
  simp only [BitVec.getLsbD_extractLsb', BitVec.getLsbD_append, show ¬ s + i < m by omega, show s + i - m = s - m + i by omega]; simp
theorem extract_low {n m : Nat} (x : BitVec n) (y : BitVec m) (s l : Nat) (h : s + l ≤ m) : (x ++ y).extractLsb' s l = y.extractLsb' s l := by
  apply BitVec.eq_of_getLsbD_eq; intro i hi
  simp only [BitVec.getLsbD_extractLsb', BitVec.getLsbD_append, show s + i < m by omega]; simp
theorem extract_all {n : Nat} (x : BitVec n) : x.extractLsb' 0 n = x := by simp
theorem word_op (o d a b : BitVec 8) : (o ++ d ++ a ++ b : BitVec 32).extractLsb' 24 8 = o := by
  rw [extract_high _ _ _ _ (by decide), extract_high _ _ _ _ (by decide), extract_high _ _ _ _ (by decide)]; exact extract_all o
theorem word_d (o d a b : BitVec 8) : (o ++ d ++ a ++ b : BitVec 32).extractLsb' 16 8 = d := by
  rw [extract_high _ _ _ _ (by decide), extract_high _ _ _ _ (by decide), extract_low _ _ _ _ (by decide)]; exact extract_all d
theorem word_a (o d a b : BitVec 8) : (o ++ d ++ a ++ b : BitVec 32).extractLsb' 8 8 = a := by
  rw [extract_high _ _ _ _ (by decide), extract_low _ _ _ _ (by decide)]; exact extract_all a
theorem word_b (o d a b : BitVec 8) : (o ++ d ++ a ++ b : BitVec 32).extractLsb' 0 8 = b := by
  rw [extract_low _ _ _ _ (by decide)]; exact extract_all b
theorem half_op (o d : BitVec 8) (n : BitVec 16) : (o ++ d ++ n : BitVec 32).extractLsb' 24 8 = o := by
  rw [extract_high _ _ _ _ (by decide), extract_high _ _ _ _ (by decide)]; exact extract_all o
theorem half_d (o d : BitVec 8) (n : BitVec 16) : (o ++ d ++ n : BitVec 32).extractLsb' 16 8 = d := by
  rw [extract_high _ _ _ _ (by decide), extract_low _ _ _ _ (by decide)]; exact extract_all d
theorem half_n (o d : BitVec 8) (n : BitVec 16) : (o ++ d ++ n : BitVec 32).extractLsb' 0 16 = n := by
  rw [extract_low _ _ _ _ (by decide)]; exact extract_all n
theorem bit_high {n m : Nat} (x : BitVec n) (y : BitVec m) (i : Nat) (h : m ≤ i) : (x ++ y).getLsbD i = x.getLsbD (i - m) := by
  rw [BitVec.getLsbD_append]; simp only [show ¬ i < m by omega, if_false]
theorem bit_low {n m : Nat} (x : BitVec n) (y : BitVec m) (i : Nat) (h : i < m) : (x ++ y).getLsbD i = y.getLsbD i := by
  rw [BitVec.getLsbD_append]; simp only [h, if_true]
theorem far_op (o : BitVec 8) (n : BitVec 24) : (o ++ n : BitVec 32).extractLsb' 24 8 = o := by
  rw [extract_high _ _ _ _ (by decide)]; exact extract_all o
theorem far_n (o : BitVec 8) (n : BitVec 24) : (o ++ n : BitVec 32).extractLsb' 0 24 = n := by
  rw [extract_low _ _ _ _ (by decide)]; exact extract_all n
theorem cond_c (o a b : BitVec 8) (c : BitVec 5) (p : BitVec 3) : (o ++ (c ++ p) ++ a ++ b : BitVec 32).extractLsb' 19 5 = c := by
  rw [extract_high _ _ _ _ (by decide), extract_high _ _ _ _ (by decide), extract_low _ _ _ _ (by decide), extract_high _ _ _ _ (by decide)]; exact extract_all c
theorem cond_p (o a b : BitVec 8) (c : BitVec 5) (p : BitVec 3) : (o ++ (c ++ p) ++ a ++ b : BitVec 32).extractLsb' 16 3 = p := by
  rw [extract_high _ _ _ _ (by decide), extract_high _ _ _ _ (by decide), extract_low _ _ _ _ (by decide), extract_low _ _ _ _ (by decide)]; exact extract_all p
theorem table_t (o a b : BitVec 8) (t : BitVec 4) (p : BitVec 3) : (o ++ (0#1 ++ t ++ p) ++ a ++ b : BitVec 32).extractLsb' 19 4 = t := by
  rw [extract_high _ _ _ _ (by decide), extract_high _ _ _ _ (by decide), extract_low _ _ _ _ (by decide), extract_high _ _ _ _ (by decide), extract_low _ _ _ _ (by decide)]; exact extract_all t
theorem table_p (o a b : BitVec 8) (t : BitVec 4) (p : BitVec 3) : (o ++ (0#1 ++ t ++ p) ++ a ++ b : BitVec 32).extractLsb' 16 3 = p := by
  rw [extract_high _ _ _ _ (by decide), extract_high _ _ _ _ (by decide), extract_low _ _ _ _ (by decide), extract_low _ _ _ _ (by decide)]; exact extract_all p
theorem cond_a (o a b : BitVec 8) (c : BitVec 5) (p : BitVec 3) : (o ++ (c ++ p) ++ a ++ b : BitVec 32).extractLsb' 8 8 = a := word_a o (c ++ p) a b
theorem cond_b (o a b : BitVec 8) (c : BitVec 5) (p : BitVec 3) : (o ++ (c ++ p) ++ a ++ b : BitVec 32).extractLsb' 0 8 = b := word_b o (c ++ p) a b
theorem table_a (o a b : BitVec 8) (t : BitVec 4) (p : BitVec 3) : (o ++ (0#1 ++ t ++ p) ++ a ++ b : BitVec 32).extractLsb' 8 8 = a := word_a o (0#1 ++ t ++ p) a b
theorem table_b (o a b : BitVec 8) (t : BitVec 4) (p : BitVec 3) : (o ++ (0#1 ++ t ++ p) ++ a ++ b : BitVec 32).extractLsb' 0 8 = b := word_b o (0#1 ++ t ++ p) a b
theorem table_bit (o a b : BitVec 8) (t : BitVec 4) (p : BitVec 3) : (o ++ (0#1 ++ t ++ p) ++ a ++ b : BitVec 32).getLsbD 23 = false := by
  rw [bit_high _ _ _ (by decide), bit_high _ _ _ (by decide), bit_low _ _ _ (by decide), bit_high _ _ _ (by decide), bit_high _ _ _ (by decide)]; rfl
theorem decodeOp_tlbi (w : Word) : decodeOp 0xC7 w = decodeTlbi (w.extractLsb' 16 8).toNat w := rfl
theorem part_p (o d a : BitVec 8) (p : BitVec 3) (t : BitVec 5) : (o ++ d ++ a ++ (p ++ t) : BitVec 32).extractLsb' 5 3 = p := by
  rw [extract_low _ _ _ _ (by decide), extract_high _ _ _ _ (by decide)]; exact extract_all p
theorem part_d (o d a : BitVec 8) (p : BitVec 3) (t : BitVec 5) : (o ++ d ++ a ++ (p ++ t) : BitVec 32).extractLsb' 16 8 = d := word_d o d a (p ++ t)
theorem part_a (o d a : BitVec 8) (p : BitVec 3) (t : BitVec 5) : (o ++ d ++ a ++ (p ++ t) : BitVec 32).extractLsb' 8 8 = a := word_a o d a (p ++ t)
theorem flags_rsv (o a b : BitVec 8) (p q : Bool) : (o ++ (0#6 ++ BitVec.ofBool p ++ BitVec.ofBool q) ++ a ++ b : BitVec 32).extractLsb' 18 6 = 0 := by
  rw [extract_high _ _ _ _ (by decide), extract_high _ _ _ _ (by decide), extract_low _ _ _ _ (by decide), extract_high _ _ _ _ (by decide), extract_high _ _ _ _ (by decide)]; exact extract_all _
theorem flags_p (o a b : BitVec 8) (p q : Bool) : (o ++ (0#6 ++ BitVec.ofBool p ++ BitVec.ofBool q) ++ a ++ b : BitVec 32).getLsbD 17 = p := by
  rw [bit_high _ _ _ (by decide), bit_high _ _ _ (by decide), bit_low _ _ _ (by decide), bit_high _ _ _ (by decide), bit_low _ _ _ (by decide)]; cases p <;> rfl
theorem flags_q (o a b : BitVec 8) (p q : Bool) : (o ++ (0#6 ++ BitVec.ofBool p ++ BitVec.ofBool q) ++ a ++ b : BitVec 32).getLsbD 16 = q := by
  rw [bit_high _ _ _ (by decide), bit_high _ _ _ (by decide), bit_low _ _ _ (by decide), bit_low _ _ _ (by decide)]; cases q <;> rfl
theorem flags_a (o a b : BitVec 8) (p q : Bool) : (o ++ (0#6 ++ BitVec.ofBool p ++ BitVec.ofBool q) ++ a ++ b : BitVec 32).extractLsb' 8 8 = a :=
  word_a o (0#6 ++ BitVec.ofBool p ++ BitVec.ofBool q) a b
theorem part_t (o d a : BitVec 8) (p : BitVec 3) (t : BitVec 5) : (o ++ d ++ a ++ (p ++ t) : BitVec 32).extractLsb' 0 5 = t := by
  rw [extract_low _ _ _ _ (by decide), extract_low _ _ _ _ (by decide)]; exact extract_all t

/-! ## The round trip -/

/-- Decoding the encoded instruction gives it back. -/
def RoundTrip.Statement (i : Instr) : Prop := ∀ w, encode i = some w → decode w = .ok i

theorem RoundTrip.ill : RoundTrip.Statement .ill := fun _ h => by
  cases h; rw [decode, word_op]; show Except.ok Instr.ill = _
  rfl
theorem RoundTrip.nop : RoundTrip.Statement .nop := fun _ h => by
  cases h; rw [decode, word_op]; show Except.ok Instr.nop = _
  rfl
theorem RoundTrip.bra (off : BitVec 24) : RoundTrip.Statement (.bra off) := fun _ h => by
  cases h; rw [decode, far_op]; show Except.ok (Instr.bra (BitVec.extractLsb' 0 24 _)) = _
  simp only [far_n]
theorem RoundTrip.sbra (c : Reg) (off : BitVec 16) : RoundTrip.Statement (.sbra c off) := fun _ h => by
  cases h; rw [decode, half_op]; show Except.ok (Instr.sbra (fD _) (BitVec.extractLsb' 0 16 _)) = _
  simp only [fD, half_d, ofByte_toByte, half_n]
theorem RoundTrip.brx (a : Reg) : RoundTrip.Statement (.brx a) := fun _ h => by
  cases h; rw [decode, word_op]; show Except.ok (Instr.brx (fA _)) = _
  simp only [fA, word_a, ofByte_toByte]
theorem RoundTrip.call (d : Reg) (off : BitVec 16) : RoundTrip.Statement (.call d off) := fun _ h => by
  cases h; rw [decode, half_op]; show Except.ok (Instr.call (fD _) (BitVec.extractLsb' 0 16 _)) = _
  simp only [fD, half_d, ofByte_toByte, half_n]
theorem RoundTrip.callx (d : Reg) (a : Reg) : RoundTrip.Statement (.callx d a) := fun _ h => by
  cases h; rw [decode, word_op]; show Except.ok (Instr.callx (fD _) (fA _)) = _
  simp only [fD, word_d, fA, word_a, ofByte_toByte]
theorem RoundTrip.ret (a : Reg) : RoundTrip.Statement (.ret a) := fun _ h => by
  cases h; rw [decode, word_op]; show Except.ok (Instr.ret (fA _)) = _
  simp only [fA, word_a, ofByte_toByte]
theorem RoundTrip.join (off : BitVec 16) : RoundTrip.Statement (.join off) := fun _ h => by
  cases h; rw [decode, half_op]; show Except.ok (Instr.join (BitVec.extractLsb' 0 16 _)) = _
  simp only [half_n]
theorem RoundTrip.meet : RoundTrip.Statement .meet := fun _ h => by
  cases h; rw [decode, word_op]; show Except.ok Instr.meet = _
  rfl
theorem RoundTrip.switch (d : Reg) (n : BitVec 16) : RoundTrip.Statement (.switch d n) := fun _ h => by
  cases h; rw [decode, half_op]; show Except.ok (Instr.switch (fD _) (BitVec.extractLsb' 0 16 _)) = _
  simp only [fD, half_d, ofByte_toByte, half_n]
theorem RoundTrip.wsync (n : BitVec 16) : RoundTrip.Statement (.wsync n) := fun _ h => by
  cases h; rw [decode, half_op]; show Except.ok (Instr.wsync (BitVec.extractLsb' 0 16 _)) = _
  simp only [half_n]
theorem RoundTrip.exit : RoundTrip.Statement .exit := fun _ h => by
  cases h; rw [decode, word_op]; show Except.ok Instr.exit = _
  rfl
theorem RoundTrip.trap (n : BitVec 16) : RoundTrip.Statement (.trap n) := fun _ h => by
  cases h; rw [decode, half_op]; show Except.ok (Instr.trap (BitVec.extractLsb' 0 16 _)) = _
  simp only [half_n]
theorem RoundTrip.yield (n : BitVec 16) : RoundTrip.Statement (.yield n) := fun _ h => by
  cases h; rw [decode, half_op]; show Except.ok (Instr.yield (BitVec.extractLsb' 0 16 _)) = _
  simp only [half_n]
theorem RoundTrip.exec (a : Reg) : RoundTrip.Statement (.exec a) := fun _ h => by
  cases h; rw [decode, word_op]; show Except.ok (Instr.exec (fA _)) = _
  simp only [fA, word_a, ofByte_toByte]
theorem RoundTrip.mov (d : Reg) (a : Reg) : RoundTrip.Statement (.mov d a) := fun _ h => by
  cases h; rw [decode, word_op]; show Except.ok (Instr.mov (fD _) (fA _)) = _
  simp only [fD, word_d, fA, word_a, ofByte_toByte]
theorem RoundTrip.movi (d : Reg) (n : BitVec 16) : RoundTrip.Statement (.movi d n) := fun _ h => by
  cases h; rw [decode, half_op]; show Except.ok (Instr.movi (fD _) (BitVec.extractLsb' 0 16 _)) = _
  simp only [fD, half_d, ofByte_toByte, half_n]
theorem RoundTrip.movh (d : Reg) (n : BitVec 16) : RoundTrip.Statement (.movh d n) := fun _ h => by
  cases h; rw [decode, half_op]; show Except.ok (Instr.movh (fD _) (BitVec.extractLsb' 0 16 _)) = _
  simp only [fD, half_d, ofByte_toByte, half_n]
theorem RoundTrip.add (d : Reg) (a : Reg) (b : Reg) : RoundTrip.Statement (.add d a b) := fun _ h => by
  cases h; rw [decode, word_op]; show Except.ok (Instr.add (fD _) (fA _) (fB _)) = _
  simp only [fD, word_d, fA, word_a, fB, word_b, ofByte_toByte]
theorem RoundTrip.sub (d : Reg) (a : Reg) (b : Reg) : RoundTrip.Statement (.sub d a b) := fun _ h => by
  cases h; rw [decode, word_op]; show Except.ok (Instr.sub (fD _) (fA _) (fB _)) = _
  simp only [fD, word_d, fA, word_a, fB, word_b, ofByte_toByte]
theorem RoundTrip.mul (d : Reg) (a : Reg) (b : Reg) : RoundTrip.Statement (.mul d a b) := fun _ h => by
  cases h; rw [decode, word_op]; show Except.ok (Instr.mul (fD _) (fA _) (fB _)) = _
  simp only [fD, word_d, fA, word_a, fB, word_b, ofByte_toByte]
theorem RoundTrip.mulh (d : Reg) (a : Reg) (b : Reg) : RoundTrip.Statement (.mulh d a b) := fun _ h => by
  cases h; rw [decode, word_op]; show Except.ok (Instr.mulh (fD _) (fA _) (fB _)) = _
  simp only [fD, word_d, fA, word_a, fB, word_b, ofByte_toByte]
theorem RoundTrip.mad (d : Reg) (a : Reg) (b : Reg) : RoundTrip.Statement (.mad d a b) := fun _ h => by
  cases h; rw [decode, word_op]; show Except.ok (Instr.mad (fD _) (fA _) (fB _)) = _
  simp only [fD, word_d, fA, word_a, fB, word_b, ofByte_toByte]
theorem RoundTrip.neg (d : Reg) (a : Reg) : RoundTrip.Statement (.neg d a) := fun _ h => by
  cases h; rw [decode, word_op]; show Except.ok (Instr.neg (fD _) (fA _)) = _
  simp only [fD, word_d, fA, word_a, ofByte_toByte]
theorem RoundTrip.abs (d : Reg) (a : Reg) : RoundTrip.Statement (.abs d a) := fun _ h => by
  cases h; rw [decode, word_op]; show Except.ok (Instr.abs (fD _) (fA _)) = _
  simp only [fD, word_d, fA, word_a, ofByte_toByte]
theorem RoundTrip.min (d : Reg) (a : Reg) (b : Reg) : RoundTrip.Statement (.min d a b) := fun _ h => by
  cases h; rw [decode, word_op]; show Except.ok (Instr.min (fD _) (fA _) (fB _)) = _
  simp only [fD, word_d, fA, word_a, fB, word_b, ofByte_toByte]
theorem RoundTrip.max (d : Reg) (a : Reg) (b : Reg) : RoundTrip.Statement (.max d a b) := fun _ h => by
  cases h; rw [decode, word_op]; show Except.ok (Instr.max (fD _) (fA _) (fB _)) = _
  simp only [fD, word_d, fA, word_a, fB, word_b, ofByte_toByte]
theorem RoundTrip.div (d : Reg) (a : Reg) (b : Reg) : RoundTrip.Statement (.div d a b) := fun _ h => by
  cases h; rw [decode, word_op]; show Except.ok (Instr.div (fD _) (fA _) (fB _)) = _
  simp only [fD, word_d, fA, word_a, fB, word_b, ofByte_toByte]
theorem RoundTrip.rem (d : Reg) (a : Reg) (b : Reg) : RoundTrip.Statement (.rem d a b) := fun _ h => by
  cases h; rw [decode, word_op]; show Except.ok (Instr.rem (fD _) (fA _) (fB _)) = _
  simp only [fD, word_d, fA, word_a, fB, word_b, ofByte_toByte]
theorem RoundTrip.clamp (d : Reg) (a : Reg) (b : Reg) : RoundTrip.Statement (.clamp d a b) := fun _ h => by
  cases h; rw [decode, word_op]; show Except.ok (Instr.clamp (fD _) (fA _) (fB _)) = _
  simp only [fD, word_d, fA, word_a, fB, word_b, ofByte_toByte]
theorem RoundTrip.sel (d : Reg) (a : Reg) (b : Reg) : RoundTrip.Statement (.sel d a b) := fun _ h => by
  cases h; rw [decode, word_op]; show Except.ok (Instr.sel (fD _) (fA _) (fB _)) = _
  simp only [fD, word_d, fA, word_a, fB, word_b, ofByte_toByte]
theorem RoundTrip.and (d : Reg) (a : Reg) (b : Reg) : RoundTrip.Statement (.and d a b) := fun _ h => by
  cases h; rw [decode, word_op]; show Except.ok (Instr.and (fD _) (fA _) (fB _)) = _
  simp only [fD, word_d, fA, word_a, fB, word_b, ofByte_toByte]
theorem RoundTrip.or (d : Reg) (a : Reg) (b : Reg) : RoundTrip.Statement (.or d a b) := fun _ h => by
  cases h; rw [decode, word_op]; show Except.ok (Instr.or (fD _) (fA _) (fB _)) = _
  simp only [fD, word_d, fA, word_a, fB, word_b, ofByte_toByte]
theorem RoundTrip.xor (d : Reg) (a : Reg) (b : Reg) : RoundTrip.Statement (.xor d a b) := fun _ h => by
  cases h; rw [decode, word_op]; show Except.ok (Instr.xor (fD _) (fA _) (fB _)) = _
  simp only [fD, word_d, fA, word_a, fB, word_b, ofByte_toByte]
theorem RoundTrip.not (d : Reg) (a : Reg) : RoundTrip.Statement (.not d a) := fun _ h => by
  cases h; rw [decode, word_op]; show Except.ok (Instr.not (fD _) (fA _)) = _
  simp only [fD, word_d, fA, word_a, ofByte_toByte]
theorem RoundTrip.shl (d : Reg) (a : Reg) (b : Reg) : RoundTrip.Statement (.shl d a b) := fun _ h => by
  cases h; rw [decode, word_op]; show Except.ok (Instr.shl (fD _) (fA _) (fB _)) = _
  simp only [fD, word_d, fA, word_a, fB, word_b, ofByte_toByte]
theorem RoundTrip.shr (d : Reg) (a : Reg) (b : Reg) : RoundTrip.Statement (.shr d a b) := fun _ h => by
  cases h; rw [decode, word_op]; show Except.ok (Instr.shr (fD _) (fA _) (fB _)) = _
  simp only [fD, word_d, fA, word_a, fB, word_b, ofByte_toByte]
theorem RoundTrip.sar (d : Reg) (a : Reg) (b : Reg) : RoundTrip.Statement (.sar d a b) := fun _ h => by
  cases h; rw [decode, word_op]; show Except.ok (Instr.sar (fD _) (fA _) (fB _)) = _
  simp only [fD, word_d, fA, word_a, fB, word_b, ofByte_toByte]
theorem RoundTrip.rol (d : Reg) (a : Reg) (b : Reg) : RoundTrip.Statement (.rol d a b) := fun _ h => by
  cases h; rw [decode, word_op]; show Except.ok (Instr.rol (fD _) (fA _) (fB _)) = _
  simp only [fD, word_d, fA, word_a, fB, word_b, ofByte_toByte]
theorem RoundTrip.fsh (d : Reg) (a : Reg) (b : Reg) : RoundTrip.Statement (.fsh d a b) := fun _ h => by
  cases h; rw [decode, word_op]; show Except.ok (Instr.fsh (fD _) (fA _) (fB _)) = _
  simp only [fD, word_d, fA, word_a, fB, word_b, ofByte_toByte]
theorem RoundTrip.clz (d : Reg) (a : Reg) : RoundTrip.Statement (.clz d a) := fun _ h => by
  cases h; rw [decode, word_op]; show Except.ok (Instr.clz (fD _) (fA _)) = _
  simp only [fD, word_d, fA, word_a, ofByte_toByte]
theorem RoundTrip.popc (d : Reg) (a : Reg) : RoundTrip.Statement (.popc d a) := fun _ h => by
  cases h; rw [decode, word_op]; show Except.ok (Instr.popc (fD _) (fA _)) = _
  simp only [fD, word_d, fA, word_a, ofByte_toByte]
theorem RoundTrip.brev (d : Reg) (a : Reg) : RoundTrip.Statement (.brev d a) := fun _ h => by
  cases h; rw [decode, word_op]; show Except.ok (Instr.brev (fD _) (fA _)) = _
  simp only [fD, word_d, fA, word_a, ofByte_toByte]
theorem RoundTrip.bfx (d : Reg) (a : Reg) (b : Reg) : RoundTrip.Statement (.bfx d a b) := fun _ h => by
  cases h; rw [decode, word_op]; show Except.ok (Instr.bfx (fD _) (fA _) (fB _)) = _
  simp only [fD, word_d, fA, word_a, fB, word_b, ofByte_toByte]
theorem RoundTrip.bfi (d : Reg) (a : Reg) (b : Reg) : RoundTrip.Statement (.bfi d a b) := fun _ h => by
  cases h; rw [decode, word_op]; show Except.ok (Instr.bfi (fD _) (fA _) (fB _)) = _
  simp only [fD, word_d, fA, word_a, fB, word_b, ofByte_toByte]
theorem RoundTrip.cmp (c : BitVec 5) (p : BitVec 3) (a : Reg) (b : Reg) : RoundTrip.Statement (.cmp c p a b) := fun _ h => by
  cases h; rw [decode, word_op]; show Except.ok (Instr.cmp (BitVec.extractLsb' 19 5 _) (BitVec.extractLsb' 16 3 _) (fA _) (fB _)) = _
  simp only [fA, cond_a, fB, cond_b, ofByte_toByte, cond_c, cond_p]
theorem RoundTrip.plog (t : BitVec 4) (p : BitVec 3) (a : Reg) (b : Reg) : RoundTrip.Statement (.plog t p a b) := fun _ h => by
  cases h; rw [decode, word_op]; show (if _ then _ else Except.ok (Instr.plog _ _ (fA _) (fB _))) = _
  rw [if_neg (by rw [table_bit]; decide)]
  simp only [fA, fB, table_t, table_p, table_a, table_b, ofByte_toByte]
theorem RoundTrip.cvt (d : Reg) (a : Reg) (part : BitVec 3) (t : BitVec 5) : RoundTrip.Statement (.cvt d a part t) := fun _ h => by
  cases h; rw [decode, word_op]; show Except.ok (Instr.cvt (fD _) (fA _) (BitVec.extractLsb' 5 3 _) (BitVec.extractLsb' 0 5 _)) = _
  simp only [fD, part_d, fA, part_a, ofByte_toByte, part_p, part_t]
theorem RoundTrip.rnd (d : Reg) (a : Reg) : RoundTrip.Statement (.rnd d a) := fun _ h => by
  cases h; rw [decode, word_op]; show Except.ok (Instr.rnd (fD _) (fA _)) = _
  simp only [fD, word_d, fA, word_a, ofByte_toByte]
theorem RoundTrip.rcp (d : Reg) (a : Reg) : RoundTrip.Statement (.rcp d a) := fun _ h => by
  cases h; rw [decode, word_op]; show Except.ok (Instr.rcp (fD _) (fA _)) = _
  simp only [fD, word_d, fA, word_a, ofByte_toByte]
theorem RoundTrip.rsq (d : Reg) (a : Reg) : RoundTrip.Statement (.rsq d a) := fun _ h => by
  cases h; rw [decode, word_op]; show Except.ok (Instr.rsq (fD _) (fA _)) = _
  simp only [fD, word_d, fA, word_a, ofByte_toByte]
theorem RoundTrip.sqrt (d : Reg) (a : Reg) : RoundTrip.Statement (.sqrt d a) := fun _ h => by
  cases h; rw [decode, word_op]; show Except.ok (Instr.sqrt (fD _) (fA _)) = _
  simp only [fD, word_d, fA, word_a, ofByte_toByte]
theorem RoundTrip.ex2 (d : Reg) (a : Reg) : RoundTrip.Statement (.ex2 d a) := fun _ h => by
  cases h; rw [decode, word_op]; show Except.ok (Instr.ex2 (fD _) (fA _)) = _
  simp only [fD, word_d, fA, word_a, ofByte_toByte]
theorem RoundTrip.lg2 (d : Reg) (a : Reg) : RoundTrip.Statement (.lg2 d a) := fun _ h => by
  cases h; rw [decode, word_op]; show Except.ok (Instr.lg2 (fD _) (fA _)) = _
  simp only [fD, word_d, fA, word_a, ofByte_toByte]
theorem RoundTrip.sin (d : Reg) (a : Reg) : RoundTrip.Statement (.sin d a) := fun _ h => by
  cases h; rw [decode, word_op]; show Except.ok (Instr.sin (fD _) (fA _)) = _
  simp only [fD, word_d, fA, word_a, ofByte_toByte]
theorem RoundTrip.cos (d : Reg) (a : Reg) : RoundTrip.Statement (.cos d a) := fun _ h => by
  cases h; rw [decode, word_op]; show Except.ok (Instr.cos (fD _) (fA _)) = _
  simp only [fD, word_d, fA, word_a, ofByte_toByte]
theorem RoundTrip.tanh (d : Reg) (a : Reg) : RoundTrip.Statement (.tanh d a) := fun _ h => by
  cases h; rw [decode, word_op]; show Except.ok (Instr.tanh (fD _) (fA _)) = _
  simp only [fD, word_d, fA, word_a, ofByte_toByte]
theorem RoundTrip.fcls (d : Reg) (a : Reg) : RoundTrip.Statement (.fcls d a) := fun _ h => by
  cases h; rw [decode, word_op]; show Except.ok (Instr.fcls (fD _) (fA _)) = _
  simp only [fD, word_d, fA, word_a, ofByte_toByte]
theorem RoundTrip.addc (d : Reg) (a : Reg) (b : Reg) : RoundTrip.Statement (.addc d a b) := fun _ h => by
  cases h; rw [decode, word_op]; show Except.ok (Instr.addc (fD _) (fA _) (fB _)) = _
  simp only [fD, word_d, fA, word_a, fB, word_b, ofByte_toByte]
theorem RoundTrip.mode (d : Reg) (a : Reg) : RoundTrip.Statement (.mode d a) := fun _ h => by
  cases h; rw [decode, word_op]; show Except.ok (Instr.mode (fD _) (fA _)) = _
  simp only [fD, word_d, fA, word_a, ofByte_toByte]
theorem RoundTrip.modef (f : BitVec 8) (n : BitVec 16) : RoundTrip.Statement (.modef f n) := fun _ h => by
  cases h; rw [decode, half_op]; show Except.ok (Instr.modef (BitVec.extractLsb' 16 8 _) (BitVec.extractLsb' 0 16 _)) = _
  simp only [half_n, half_d]
theorem RoundTrip.vote (d : Reg) (a : Reg) (op : BitVec 8) : RoundTrip.Statement (.vote d a op) := fun _ h => by
  cases h; rw [decode, word_op]; show Except.ok (Instr.vote (fD _) (fA _) (BitVec.extractLsb' 0 8 _)) = _
  simp only [fD, word_d, fA, word_a, ofByte_toByte, word_b]
theorem RoundTrip.pickIdx (d : Reg) (a : Reg) (b : Reg) : RoundTrip.Statement (.pickIdx d a b) := fun _ h => by
  cases h; rw [decode, word_op]; show Except.ok (Instr.pickIdx (fD _) (fA _) (fB _)) = _
  simp only [fD, word_d, fA, word_a, fB, word_b, ofByte_toByte]
theorem RoundTrip.pickUp (d : Reg) (a : Reg) (b : Reg) : RoundTrip.Statement (.pickUp d a b) := fun _ h => by
  cases h; rw [decode, word_op]; show Except.ok (Instr.pickUp (fD _) (fA _) (fB _)) = _
  simp only [fD, word_d, fA, word_a, fB, word_b, ofByte_toByte]
theorem RoundTrip.pickDn (d : Reg) (a : Reg) (b : Reg) : RoundTrip.Statement (.pickDn d a b) := fun _ h => by
  cases h; rw [decode, word_op]; show Except.ok (Instr.pickDn (fD _) (fA _) (fB _)) = _
  simp only [fD, word_d, fA, word_a, fB, word_b, ofByte_toByte]
theorem RoundTrip.pickXor (d : Reg) (a : Reg) (b : Reg) : RoundTrip.Statement (.pickXor d a b) := fun _ h => by
  cases h; rw [decode, word_op]; show Except.ok (Instr.pickXor (fD _) (fA _) (fB _)) = _
  simp only [fD, word_d, fA, word_a, fB, word_b, ofByte_toByte]
theorem RoundTrip.scan (d : Reg) (a : Reg) (op : BitVec 8) : RoundTrip.Statement (.scan d a op) := fun _ h => by
  cases h; rw [decode, word_op]; show Except.ok (Instr.scan (fD _) (fA _) (BitVec.extractLsb' 0 8 _)) = _
  simp only [fD, word_d, fA, word_a, ofByte_toByte, word_b]
theorem RoundTrip.scanx (d : Reg) (a : Reg) (op : BitVec 8) : RoundTrip.Statement (.scanx d a op) := fun _ h => by
  cases h; rw [decode, word_op]; show Except.ok (Instr.scanx (fD _) (fA _) (BitVec.extractLsb' 0 8 _)) = _
  simp only [fD, word_d, fA, word_a, ofByte_toByte, word_b]
theorem RoundTrip.redx (d : Reg) (a : Reg) (op : BitVec 8) : RoundTrip.Statement (.redx d a op) := fun _ h => by
  cases h; rw [decode, word_op]; show Except.ok (Instr.redx (fD _) (fA _) (BitVec.extractLsb' 0 8 _)) = _
  simp only [fD, word_d, fA, word_a, ofByte_toByte, word_b]
theorem RoundTrip.matchEq (d : Reg) (a : Reg) : RoundTrip.Statement (.matchEq d a) := fun _ h => by
  cases h; rw [decode, word_op]; show Except.ok (Instr.matchEq (fD _) (fA _)) = _
  simp only [fD, word_d, fA, word_a, ofByte_toByte]
theorem RoundTrip.v2s (d : Reg) (a : Reg) (b : Reg) : RoundTrip.Statement (.v2s d a b) := fun _ h => by
  cases h; rw [decode, word_op]; show Except.ok (Instr.v2s (fD _) (fA _) (fB _)) = _
  simp only [fD, word_d, fA, word_a, fB, word_b, ofByte_toByte]
theorem RoundTrip.vmovx (d : Reg) (a : Reg) (b : Reg) : RoundTrip.Statement (.vmovx d a b) := fun _ h => by
  cases h; rw [decode, word_op]; show Except.ok (Instr.vmovx (fD _) (fA _) (fB _)) = _
  simp only [fD, word_d, fA, word_a, fB, word_b, ofByte_toByte]
theorem RoundTrip.vstx (d : Reg) (a : Reg) (b : Reg) : RoundTrip.Statement (.vstx d a b) := fun _ h => by
  cases h; rw [decode, word_op]; show Except.ok (Instr.vstx (fD _) (fA _) (fB _)) = _
  simp only [fD, word_d, fA, word_a, fB, word_b, ofByte_toByte]
theorem RoundTrip.vgrow (d : Reg) (n : BitVec 16) : RoundTrip.Statement (.vgrow d n) := fun _ h => by
  cases h; rw [decode, half_op]; show Except.ok (Instr.vgrow (fD _) (BitVec.extractLsb' 0 16 _)) = _
  simp only [fD, half_d, ofByte_toByte, half_n]
theorem RoundTrip.vshrink (d : Reg) (n : BitVec 16) : RoundTrip.Statement (.vshrink d n) := fun _ h => by
  cases h; rw [decode, half_op]; show Except.ok (Instr.vshrink (fD _) (BitVec.extractLsb' 0 16 _)) = _
  simp only [fD, half_d, ofByte_toByte, half_n]
theorem RoundTrip.spawn (d : Reg) (a : Reg) (b : Reg) : RoundTrip.Statement (.spawn d a b) := fun _ h => by
  cases h; rw [decode, word_op]; show Except.ok (Instr.spawn (fD _) (fA _) (fB _)) = _
  simp only [fD, word_d, fA, word_a, fB, word_b, ofByte_toByte]
theorem RoundTrip.grid (a : Reg) : RoundTrip.Statement (.grid a) := fun _ h => by
  cases h; rw [decode, word_op]; show Except.ok (Instr.grid (fA _)) = _
  simp only [fA, word_a, ofByte_toByte]
theorem RoundTrip.smov (d : Reg) (a : Reg) : RoundTrip.Statement (.smov d a) := fun _ h => by
  cases h; rw [decode, word_op]; show Except.ok (Instr.smov (fD _) (fA _)) = _
  simp only [fD, word_d, fA, word_a, ofByte_toByte]
theorem RoundTrip.smovi (d : Reg) (n : BitVec 16) : RoundTrip.Statement (.smovi d n) := fun _ h => by
  cases h; rw [decode, half_op]; show Except.ok (Instr.smovi (fD _) (BitVec.extractLsb' 0 16 _)) = _
  simp only [fD, half_d, ofByte_toByte, half_n]
theorem RoundTrip.smovh (d : Reg) (n : BitVec 16) : RoundTrip.Statement (.smovh d n) := fun _ h => by
  cases h; rw [decode, half_op]; show Except.ok (Instr.smovh (fD _) (BitVec.extractLsb' 0 16 _)) = _
  simp only [fD, half_d, ofByte_toByte, half_n]
theorem RoundTrip.sadd (d : Reg) (a : Reg) (b : Reg) : RoundTrip.Statement (.sadd d a b) := fun _ h => by
  cases h; rw [decode, word_op]; show Except.ok (Instr.sadd (fD _) (fA _) (fB _)) = _
  simp only [fD, word_d, fA, word_a, fB, word_b, ofByte_toByte]
theorem RoundTrip.ssub (d : Reg) (a : Reg) (b : Reg) : RoundTrip.Statement (.ssub d a b) := fun _ h => by
  cases h; rw [decode, word_op]; show Except.ok (Instr.ssub (fD _) (fA _) (fB _)) = _
  simp only [fD, word_d, fA, word_a, fB, word_b, ofByte_toByte]
theorem RoundTrip.smul (d : Reg) (a : Reg) (b : Reg) : RoundTrip.Statement (.smul d a b) := fun _ h => by
  cases h; rw [decode, word_op]; show Except.ok (Instr.smul (fD _) (fA _) (fB _)) = _
  simp only [fD, word_d, fA, word_a, fB, word_b, ofByte_toByte]
theorem RoundTrip.smulh (d : Reg) (a : Reg) (b : Reg) : RoundTrip.Statement (.smulh d a b) := fun _ h => by
  cases h; rw [decode, word_op]; show Except.ok (Instr.smulh (fD _) (fA _) (fB _)) = _
  simp only [fD, word_d, fA, word_a, fB, word_b, ofByte_toByte]
theorem RoundTrip.sand (d : Reg) (a : Reg) (b : Reg) : RoundTrip.Statement (.sand d a b) := fun _ h => by
  cases h; rw [decode, word_op]; show Except.ok (Instr.sand (fD _) (fA _) (fB _)) = _
  simp only [fD, word_d, fA, word_a, fB, word_b, ofByte_toByte]
theorem RoundTrip.sor (d : Reg) (a : Reg) (b : Reg) : RoundTrip.Statement (.sor d a b) := fun _ h => by
  cases h; rw [decode, word_op]; show Except.ok (Instr.sor (fD _) (fA _) (fB _)) = _
  simp only [fD, word_d, fA, word_a, fB, word_b, ofByte_toByte]
theorem RoundTrip.sxor (d : Reg) (a : Reg) (b : Reg) : RoundTrip.Statement (.sxor d a b) := fun _ h => by
  cases h; rw [decode, word_op]; show Except.ok (Instr.sxor (fD _) (fA _) (fB _)) = _
  simp only [fD, word_d, fA, word_a, fB, word_b, ofByte_toByte]
theorem RoundTrip.sshl (d : Reg) (a : Reg) (b : Reg) : RoundTrip.Statement (.sshl d a b) := fun _ h => by
  cases h; rw [decode, word_op]; show Except.ok (Instr.sshl (fD _) (fA _) (fB _)) = _
  simp only [fD, word_d, fA, word_a, fB, word_b, ofByte_toByte]
theorem RoundTrip.sshr (d : Reg) (a : Reg) (b : Reg) : RoundTrip.Statement (.sshr d a b) := fun _ h => by
  cases h; rw [decode, word_op]; show Except.ok (Instr.sshr (fD _) (fA _) (fB _)) = _
  simp only [fD, word_d, fA, word_a, fB, word_b, ofByte_toByte]
theorem RoundTrip.ssar (d : Reg) (a : Reg) (b : Reg) : RoundTrip.Statement (.ssar d a b) := fun _ h => by
  cases h; rw [decode, word_op]; show Except.ok (Instr.ssar (fD _) (fA _) (fB _)) = _
  simp only [fD, word_d, fA, word_a, fB, word_b, ofByte_toByte]
theorem RoundTrip.sseq (d : Reg) (a : Reg) (b : Reg) : RoundTrip.Statement (.sseq d a b) := fun _ h => by
  cases h; rw [decode, word_op]; show Except.ok (Instr.sseq (fD _) (fA _) (fB _)) = _
  simp only [fD, word_d, fA, word_a, fB, word_b, ofByte_toByte]
theorem RoundTrip.sslt (d : Reg) (a : Reg) (b : Reg) : RoundTrip.Statement (.sslt d a b) := fun _ h => by
  cases h; rw [decode, word_op]; show Except.ok (Instr.sslt (fD _) (fA _) (fB _)) = _
  simp only [fD, word_d, fA, word_a, fB, word_b, ofByte_toByte]
theorem RoundTrip.ssltn (d : Reg) (a : Reg) (b : Reg) : RoundTrip.Statement (.ssltn d a b) := fun _ h => by
  cases h; rw [decode, word_op]; show Except.ok (Instr.ssltn (fD _) (fA _) (fB _)) = _
  simp only [fD, word_d, fA, word_a, fB, word_b, ofByte_toByte]
theorem RoundTrip.ld8 (d : Reg) (a : Reg) (off : BitVec 8) : RoundTrip.Statement (.ld8 d a off) := fun _ h => by
  cases h; rw [decode, word_op]; show Except.ok (Instr.ld8 (fD _) (fA _) (BitVec.extractLsb' 0 8 _)) = _
  simp only [fD, word_d, fA, word_a, ofByte_toByte, word_b]
theorem RoundTrip.ld16 (d : Reg) (a : Reg) (off : BitVec 8) : RoundTrip.Statement (.ld16 d a off) := fun _ h => by
  cases h; rw [decode, word_op]; show Except.ok (Instr.ld16 (fD _) (fA _) (BitVec.extractLsb' 0 8 _)) = _
  simp only [fD, word_d, fA, word_a, ofByte_toByte, word_b]
theorem RoundTrip.ld32 (d : Reg) (a : Reg) (off : BitVec 8) : RoundTrip.Statement (.ld32 d a off) := fun _ h => by
  cases h; rw [decode, word_op]; show Except.ok (Instr.ld32 (fD _) (fA _) (BitVec.extractLsb' 0 8 _)) = _
  simp only [fD, word_d, fA, word_a, ofByte_toByte, word_b]
theorem RoundTrip.ld64 (d : Reg) (a : Reg) (off : BitVec 8) : RoundTrip.Statement (.ld64 d a off) := fun _ h => by
  cases h; rw [decode, word_op]; show Except.ok (Instr.ld64 (fD _) (fA _) (BitVec.extractLsb' 0 8 _)) = _
  simp only [fD, word_d, fA, word_a, ofByte_toByte, word_b]
theorem RoundTrip.ld128 (d : Reg) (a : Reg) (off : BitVec 8) : RoundTrip.Statement (.ld128 d a off) := fun _ h => by
  cases h; rw [decode, word_op]; show Except.ok (Instr.ld128 (fD _) (fA _) (BitVec.extractLsb' 0 8 _)) = _
  simp only [fD, word_d, fA, word_a, ofByte_toByte, word_b]
theorem RoundTrip.st8 (d : Reg) (a : Reg) (off : BitVec 8) : RoundTrip.Statement (.st8 d a off) := fun _ h => by
  cases h; rw [decode, word_op]; show Except.ok (Instr.st8 (fD _) (fA _) (BitVec.extractLsb' 0 8 _)) = _
  simp only [fD, word_d, fA, word_a, ofByte_toByte, word_b]
theorem RoundTrip.st16 (d : Reg) (a : Reg) (off : BitVec 8) : RoundTrip.Statement (.st16 d a off) := fun _ h => by
  cases h; rw [decode, word_op]; show Except.ok (Instr.st16 (fD _) (fA _) (BitVec.extractLsb' 0 8 _)) = _
  simp only [fD, word_d, fA, word_a, ofByte_toByte, word_b]
theorem RoundTrip.st32 (d : Reg) (a : Reg) (off : BitVec 8) : RoundTrip.Statement (.st32 d a off) := fun _ h => by
  cases h; rw [decode, word_op]; show Except.ok (Instr.st32 (fD _) (fA _) (BitVec.extractLsb' 0 8 _)) = _
  simp only [fD, word_d, fA, word_a, ofByte_toByte, word_b]
theorem RoundTrip.st64 (d : Reg) (a : Reg) (off : BitVec 8) : RoundTrip.Statement (.st64 d a off) := fun _ h => by
  cases h; rw [decode, word_op]; show Except.ok (Instr.st64 (fD _) (fA _) (BitVec.extractLsb' 0 8 _)) = _
  simp only [fD, word_d, fA, word_a, ofByte_toByte, word_b]
theorem RoundTrip.st128 (d : Reg) (a : Reg) (off : BitVec 8) : RoundTrip.Statement (.st128 d a off) := fun _ h => by
  cases h; rw [decode, word_op]; show Except.ok (Instr.st128 (fD _) (fA _) (BitVec.extractLsb' 0 8 _)) = _
  simp only [fD, word_d, fA, word_a, ofByte_toByte, word_b]
theorem RoundTrip.lds32 (d : Reg) (a : Reg) (off : BitVec 8) : RoundTrip.Statement (.lds32 d a off) := fun _ h => by
  cases h; rw [decode, word_op]; show Except.ok (Instr.lds32 (fD _) (fA _) (BitVec.extractLsb' 0 8 _)) = _
  simp only [fD, word_d, fA, word_a, ofByte_toByte, word_b]
theorem RoundTrip.lds64 (d : Reg) (a : Reg) (off : BitVec 8) : RoundTrip.Statement (.lds64 d a off) := fun _ h => by
  cases h; rw [decode, word_op]; show Except.ok (Instr.lds64 (fD _) (fA _) (BitVec.extractLsb' 0 8 _)) = _
  simp only [fD, word_d, fA, word_a, ofByte_toByte, word_b]
theorem RoundTrip.lds128 (d : Reg) (a : Reg) (off : BitVec 8) : RoundTrip.Statement (.lds128 d a off) := fun _ h => by
  cases h; rw [decode, word_op]; show Except.ok (Instr.lds128 (fD _) (fA _) (BitVec.extractLsb' 0 8 _)) = _
  simp only [fD, word_d, fA, word_a, ofByte_toByte, word_b]
theorem RoundTrip.sts32 (d : Reg) (a : Reg) (off : BitVec 8) : RoundTrip.Statement (.sts32 d a off) := fun _ h => by
  cases h; rw [decode, word_op]; show Except.ok (Instr.sts32 (fD _) (fA _) (BitVec.extractLsb' 0 8 _)) = _
  simp only [fD, word_d, fA, word_a, ofByte_toByte, word_b]
theorem RoundTrip.sts64 (d : Reg) (a : Reg) (off : BitVec 8) : RoundTrip.Statement (.sts64 d a off) := fun _ h => by
  cases h; rw [decode, word_op]; show Except.ok (Instr.sts64 (fD _) (fA _) (BitVec.extractLsb' 0 8 _)) = _
  simp only [fD, word_d, fA, word_a, ofByte_toByte, word_b]
theorem RoundTrip.sts128 (d : Reg) (a : Reg) (off : BitVec 8) : RoundTrip.Statement (.sts128 d a off) := fun _ h => by
  cases h; rw [decode, word_op]; show Except.ok (Instr.sts128 (fD _) (fA _) (BitVec.extractLsb' 0 8 _)) = _
  simp only [fD, word_d, fA, word_a, ofByte_toByte, word_b]
theorem RoundTrip.sld (d : Reg) (a : Reg) (off : BitVec 8) : RoundTrip.Statement (.sld d a off) := fun _ h => by
  cases h; rw [decode, word_op]; show Except.ok (Instr.sld (fD _) (fA _) (BitVec.extractLsb' 0 8 _)) = _
  simp only [fD, word_d, fA, word_a, ofByte_toByte, word_b]
theorem RoundTrip.sst (d : Reg) (a : Reg) (off : BitVec 8) : RoundTrip.Statement (.sst d a off) := fun _ h => by
  cases h; rw [decode, word_op]; show Except.ok (Instr.sst (fD _) (fA _) (BitVec.extractLsb' 0 8 _)) = _
  simp only [fD, word_d, fA, word_a, ofByte_toByte, word_b]
theorem RoundTrip.ldw (d : Reg) (a : Reg) (off : BitVec 8) : RoundTrip.Statement (.ldw d a off) := fun _ h => by
  cases h; rw [decode, word_op]; show Except.ok (Instr.ldw (fD _) (fA _) (BitVec.extractLsb' 0 8 _)) = _
  simp only [fD, word_d, fA, word_a, ofByte_toByte, word_b]
theorem RoundTrip.pref (h : BitVec 8) (a : Reg) (off : BitVec 8) : RoundTrip.Statement (.pref h a off) := fun _ h => by
  cases h; rw [decode, word_op]; show Except.ok (Instr.pref (BitVec.extractLsb' 16 8 _) (fA _) (BitVec.extractLsb' 0 8 _)) = _
  simp only [fA, word_a, ofByte_toByte, word_d, word_b]
theorem RoundTrip.fetchAdd (d : Reg) (a : Reg) (b : Reg) : RoundTrip.Statement (.fetchAdd d a b) := fun _ h => by
  cases h; rw [decode, word_op]; show Except.ok (Instr.fetchAdd (fD _) (fA _) (fB _)) = _
  simp only [fD, word_d, fA, word_a, fB, word_b, ofByte_toByte]
theorem RoundTrip.fetchMin (d : Reg) (a : Reg) (b : Reg) : RoundTrip.Statement (.fetchMin d a b) := fun _ h => by
  cases h; rw [decode, word_op]; show Except.ok (Instr.fetchMin (fD _) (fA _) (fB _)) = _
  simp only [fD, word_d, fA, word_a, fB, word_b, ofByte_toByte]
theorem RoundTrip.fetchMax (d : Reg) (a : Reg) (b : Reg) : RoundTrip.Statement (.fetchMax d a b) := fun _ h => by
  cases h; rw [decode, word_op]; show Except.ok (Instr.fetchMax (fD _) (fA _) (fB _)) = _
  simp only [fD, word_d, fA, word_a, fB, word_b, ofByte_toByte]
theorem RoundTrip.fetchAnd (d : Reg) (a : Reg) (b : Reg) : RoundTrip.Statement (.fetchAnd d a b) := fun _ h => by
  cases h; rw [decode, word_op]; show Except.ok (Instr.fetchAnd (fD _) (fA _) (fB _)) = _
  simp only [fD, word_d, fA, word_a, fB, word_b, ofByte_toByte]
theorem RoundTrip.fetchOr (d : Reg) (a : Reg) (b : Reg) : RoundTrip.Statement (.fetchOr d a b) := fun _ h => by
  cases h; rw [decode, word_op]; show Except.ok (Instr.fetchOr (fD _) (fA _) (fB _)) = _
  simp only [fD, word_d, fA, word_a, fB, word_b, ofByte_toByte]
theorem RoundTrip.fetchXor (d : Reg) (a : Reg) (b : Reg) : RoundTrip.Statement (.fetchXor d a b) := fun _ h => by
  cases h; rw [decode, word_op]; show Except.ok (Instr.fetchXor (fD _) (fA _) (fB _)) = _
  simp only [fD, word_d, fA, word_a, fB, word_b, ofByte_toByte]
theorem RoundTrip.fetchXchg (d : Reg) (a : Reg) (b : Reg) : RoundTrip.Statement (.fetchXchg d a b) := fun _ h => by
  cases h; rw [decode, word_op]; show Except.ok (Instr.fetchXchg (fD _) (fA _) (fB _)) = _
  simp only [fD, word_d, fA, word_a, fB, word_b, ofByte_toByte]
theorem RoundTrip.cas (d : Reg) (a : Reg) (b : Reg) : RoundTrip.Statement (.cas d a b) := fun _ h => by
  cases h; rw [decode, word_op]; show Except.ok (Instr.cas (fD _) (fA _) (fB _)) = _
  simp only [fD, word_d, fA, word_a, fB, word_b, ofByte_toByte]
theorem RoundTrip.red (op : BitVec 8) (a : Reg) (b : Reg) : RoundTrip.Statement (.red op a b) := fun _ h => by
  cases h; rw [decode, word_op]; show Except.ok (Instr.red (BitVec.extractLsb' 16 8 _) (fA _) (fB _)) = _
  simp only [fA, word_a, fB, word_b, ofByte_toByte, word_d]
theorem RoundTrip.cpy (q : BitVec 8) (a : Reg) : RoundTrip.Statement (.cpy q a) := fun _ h => by
  cases h; rw [decode, word_op]; show Except.ok (Instr.cpy (BitVec.extractLsb' 16 8 _) (fA _)) = _
  simp only [fA, word_a, ofByte_toByte, word_d]
theorem RoundTrip.cpyo (q : BitVec 8) (a : Reg) : RoundTrip.Statement (.cpyo q a) := fun _ h => by
  cases h; rw [decode, word_op]; show Except.ok (Instr.cpyo (BitVec.extractLsb' 16 8 _) (fA _)) = _
  simp only [fA, word_a, ofByte_toByte, word_d]
theorem RoundTrip.binit (a : Reg) (b : Reg) : RoundTrip.Statement (.binit a b) := fun _ h => by
  cases h; rw [decode, word_op]; show Except.ok (Instr.binit (fA _) (fB _)) = _
  simp only [fA, word_a, fB, word_b, ofByte_toByte]
theorem RoundTrip.barv (d : Reg) (a : Reg) : RoundTrip.Statement (.barv d a) := fun _ h => by
  cases h; rw [decode, word_op]; show Except.ok (Instr.barv (fD _) (fA _)) = _
  simp only [fD, word_d, fA, word_a, ofByte_toByte]
theorem RoundTrip.bexp (a : Reg) (b : Reg) : RoundTrip.Statement (.bexp a b) := fun _ h => by
  cases h; rw [decode, word_op]; show Except.ok (Instr.bexp (fA _) (fB _)) = _
  simp only [fA, word_a, fB, word_b, ofByte_toByte]
theorem RoundTrip.bwait (d : Reg) (a : Reg) (b : Reg) : RoundTrip.Statement (.bwait d a b) := fun _ h => by
  cases h; rw [decode, word_op]; show Except.ok (Instr.bwait (fD _) (fA _) (fB _)) = _
  simp only [fD, word_d, fA, word_a, fB, word_b, ofByte_toByte]
theorem RoundTrip.bwaity (d : Reg) (a : Reg) (off : BitVec 8) : RoundTrip.Statement (.bwaity d a off) := fun _ h => by
  cases h; rw [decode, word_op]; show Except.ok (Instr.bwaity (fD _) (fA _) (BitVec.extractLsb' 0 8 _)) = _
  simp only [fD, word_d, fA, word_a, ofByte_toByte, word_b]
theorem RoundTrip.bwaitt (d : Reg) (a : Reg) (b : Reg) : RoundTrip.Statement (.bwaitt d a b) := fun _ h => by
  cases h; rw [decode, word_op]; show Except.ok (Instr.bwaitt (fD _) (fA _) (fB _)) = _
  simp only [fD, word_d, fA, word_a, fB, word_b, ofByte_toByte]
theorem RoundTrip.watch (d : Reg) (a : Reg) (off : BitVec 8) : RoundTrip.Statement (.watch d a off) := fun _ h => by
  cases h; rw [decode, word_op]; show Except.ok (Instr.watch (fD _) (fA _) (BitVec.extractLsb' 0 8 _)) = _
  simp only [fD, word_d, fA, word_a, ofByte_toByte, word_b]
theorem RoundTrip.wsleep (d : Reg) (a : Reg) : RoundTrip.Statement (.wsleep d a) := fun _ h => by
  cases h; rw [decode, word_op]; show Except.ok (Instr.wsleep (fD _) (fA _)) = _
  simp only [fD, word_d, fA, word_a, ofByte_toByte]
theorem RoundTrip.fence (n : BitVec 16) : RoundTrip.Statement (.fence n) := fun _ h => by
  cases h; rw [decode, half_op]; show Except.ok (Instr.fence (BitVec.extractLsb' 0 16 _)) = _
  simp only [half_n]
theorem RoundTrip.rel (n : BitVec 16) : RoundTrip.Statement (.rel n) := fun _ h => by
  cases h; rw [decode, half_op]; show Except.ok (Instr.rel (BitVec.extractLsb' 0 16 _)) = _
  simp only [half_n]
theorem RoundTrip.acq (n : BitVec 16) : RoundTrip.Statement (.acq n) := fun _ h => by
  cases h; rw [decode, half_op]; show Except.ok (Instr.acq (BitVec.extractLsb' 0 16 _)) = _
  simp only [half_n]
theorem RoundTrip.waitc (c : Reg) (n : BitVec 16) : RoundTrip.Statement (.waitc c n) := fun _ h => by
  cases h; rw [decode, half_op]; show Except.ok (Instr.waitc (fD _) (BitVec.extractLsb' 0 16 _)) = _
  simp only [fD, half_d, ofByte_toByte, half_n]
theorem RoundTrip.qfence (n : BitVec 16) : RoundTrip.Statement (.qfence n) := fun _ h => by
  cases h; rw [decode, half_op]; show Except.ok (Instr.qfence (BitVec.extractLsb' 0 16 _)) = _
  simp only [half_n]
theorem RoundTrip.pack (d : Reg) (a : Reg) (b : Reg) : RoundTrip.Statement (.pack d a b) := fun _ h => by
  cases h; rw [decode, word_op]; show Except.ok (Instr.pack (fD _) (fA _) (fB _)) = _
  simp only [fD, word_d, fA, word_a, fB, word_b, ofByte_toByte]
theorem RoundTrip.unpack (d : Reg) (a : Reg) (b : Reg) : RoundTrip.Statement (.unpack d a b) := fun _ h => by
  cases h; rw [decode, word_op]; show Except.ok (Instr.unpack (fD _) (fA _) (fB _)) = _
  simp only [fD, word_d, fA, word_a, fB, word_b, ofByte_toByte]
theorem RoundTrip.mldb (a : Reg) : RoundTrip.Statement (.mldb a) := fun _ h => by
  cases h; rw [decode, word_op]; show Except.ok (Instr.mldb (fA _)) = _
  simp only [fA, word_a, ofByte_toByte]
theorem RoundTrip.mmac (set : BitVec 8) (a : Reg) : RoundTrip.Statement (.mmac set a) := fun _ h => by
  cases h; rw [decode, word_op]; show Except.ok (Instr.mmac (BitVec.extractLsb' 16 8 _) (fA _)) = _
  simp only [fA, word_a, ofByte_toByte, word_d]
theorem RoundTrip.mrd (clr : Bool) (set : Bool) (a : Reg) : RoundTrip.Statement (.mrd clr set a) := fun _ h => by
  cases h; rw [decode, word_op]; show (if _ then Except.ok (Instr.mrd _ _ (fA _)) else _) = _
  rw [if_pos (flags_rsv ..), fA, flags_a, ofByte_toByte, flags_p, flags_q]
theorem RoundTrip.mzero (n : BitVec 16) : RoundTrip.Statement (.mzero n) := fun _ h => by
  cases h; rw [decode, half_op]; show Except.ok (Instr.mzero (BitVec.extractLsb' 0 16 _)) = _
  simp only [half_n]
theorem RoundTrip.manch (set : BitVec 8) (a : Reg) : RoundTrip.Statement (.manch set a) := fun _ h => by
  cases h; rw [decode, word_op]; show Except.ok (Instr.manch (BitVec.extractLsb' 16 8 _) (fA _)) = _
  simp only [fA, word_a, ofByte_toByte, word_d]
theorem RoundTrip.epi (a : Reg) : RoundTrip.Statement (.epi a) := fun _ h => by
  cases h; rw [decode, word_op]; show Except.ok (Instr.epi (fA _)) = _
  simp only [fA, word_a, ofByte_toByte]
theorem RoundTrip.mfence (a : Reg) : RoundTrip.Statement (.mfence a) := fun _ h => by
  cases h; rw [decode, word_op]; show Except.ok (Instr.mfence (fA _)) = _
  simp only [fA, word_a, ofByte_toByte]
theorem RoundTrip.mtest : RoundTrip.Statement .mtest := fun _ h => by
  cases h; rw [decode, word_op]; show Except.ok Instr.mtest = _
  rfl
theorem RoundTrip.mstat (d : Reg) (n : BitVec 16) : RoundTrip.Statement (.mstat d n) := fun _ h => by
  cases h; rw [decode, half_op]; show Except.ok (Instr.mstat (fD _) (BitVec.extractLsb' 0 16 _)) = _
  simp only [fD, half_d, ofByte_toByte, half_n]
theorem RoundTrip.gath (d : Reg) (a : Reg) : RoundTrip.Statement (.gath d a) := fun _ h => by
  cases h; rw [decode, word_op]; show Except.ok (Instr.gath (fD _) (fA _)) = _
  simp only [fD, word_d, fA, word_a, ofByte_toByte]
theorem RoundTrip.pool (d : Reg) (a : Reg) : RoundTrip.Statement (.pool d a) := fun _ h => by
  cases h; rw [decode, word_op]; show Except.ok (Instr.pool (fD _) (fA _)) = _
  simp only [fD, word_d, fA, word_a, ofByte_toByte]
theorem RoundTrip.mcred (d : Reg) (a : Reg) : RoundTrip.Statement (.mcred d a) := fun _ h => by
  cases h; rw [decode, word_op]; show Except.ok (Instr.mcred (fD _) (fA _)) = _
  simp only [fD, word_d, fA, word_a, ofByte_toByte]
theorem RoundTrip.mcst (d : Reg) (a : Reg) : RoundTrip.Statement (.mcst d a) := fun _ h => by
  cases h; rw [decode, word_op]; show Except.ok (Instr.mcst (fD _) (fA _)) = _
  simp only [fD, word_d, fA, word_a, ofByte_toByte]
theorem RoundTrip.agq (d : Reg) (n : BitVec 16) : RoundTrip.Statement (.agq d n) := fun _ h => by
  cases h; rw [decode, half_op]; show Except.ok (Instr.agq (fD _) (BitVec.extractLsb' 0 16 _)) = _
  simp only [fD, half_d, ofByte_toByte, half_n]
theorem RoundTrip.wbcast (d : Reg) (a : Reg) : RoundTrip.Statement (.wbcast d a) := fun _ h => by
  cases h; rw [decode, word_op]; show Except.ok (Instr.wbcast (fD _) (fA _)) = _
  simp only [fD, word_d, fA, word_a, ofByte_toByte]
theorem RoundTrip.dgst (d : Reg) (a : Reg) : RoundTrip.Statement (.dgst d a) := fun _ h => by
  cases h; rw [decode, word_op]; show Except.ok (Instr.dgst (fD _) (fA _)) = _
  simp only [fD, word_d, fA, word_a, ofByte_toByte]
theorem RoundTrip.topen (d : Reg) (a : Reg) : RoundTrip.Statement (.topen d a) := fun _ h => by
  cases h; rw [decode, word_op]; show Except.ok (Instr.topen (fD _) (fA _)) = _
  simp only [fD, word_d, fA, word_a, ofByte_toByte]
theorem RoundTrip.tcommit (d : Reg) (a : Reg) : RoundTrip.Statement (.tcommit d a) := fun _ h => by
  cases h; rw [decode, word_op]; show Except.ok (Instr.tcommit (fD _) (fA _)) = _
  simp only [fD, word_d, fA, word_a, ofByte_toByte]
theorem RoundTrip.gate (d : Reg) (n : BitVec 16) : RoundTrip.Statement (.gate d n) := fun _ h => by
  cases h; rw [decode, half_op]; show Except.ok (Instr.gate (fD _) (BitVec.extractLsb' 0 16 _)) = _
  simp only [fD, half_d, ofByte_toByte, half_n]
theorem RoundTrip.gret : RoundTrip.Statement .gret := fun _ h => by
  cases h; rw [decode, word_op]; show Except.ok Instr.gret = _
  rfl
theorem RoundTrip.treeq (d : Reg) (n : BitVec 16) : RoundTrip.Statement (.treeq d n) := fun _ h => by
  cases h; rw [decode, half_op]; show Except.ok (Instr.treeq (fD _) (BitVec.extractLsb' 0 16 _)) = _
  simp only [fD, half_d, ofByte_toByte, half_n]
theorem RoundTrip.scrub (m : BitVec 8) (a : Reg) (b : Reg) : RoundTrip.Statement (.scrub m a b) := fun _ h => by
  cases h; rw [decode, word_op]; show Except.ok (Instr.scrub (BitVec.extractLsb' 16 8 _) (fA _) (fB _)) = _
  simp only [fA, word_a, fB, word_b, ofByte_toByte, word_d]
theorem RoundTrip.csrr (d : Reg) (a : Reg) : RoundTrip.Statement (.csrr d a) := fun _ h => by
  cases h; rw [decode, word_op]; show Except.ok (Instr.csrr (fD _) (fA _)) = _
  simp only [fD, word_d, fA, word_a, ofByte_toByte]
theorem RoundTrip.csrw (d : Reg) (a : Reg) (b : Reg) : RoundTrip.Statement (.csrw d a b) := fun _ h => by
  cases h; rw [decode, word_op]; show Except.ok (Instr.csrw (fD _) (fA _) (fB _)) = _
  simp only [fD, word_d, fA, word_a, fB, word_b, ofByte_toByte]
theorem RoundTrip.csrs (d : Reg) (a : Reg) (b : Reg) : RoundTrip.Statement (.csrs d a b) := fun _ h => by
  cases h; rw [decode, word_op]; show Except.ok (Instr.csrs (fD _) (fA _) (fB _)) = _
  simp only [fD, word_d, fA, word_a, fB, word_b, ofByte_toByte]
theorem RoundTrip.csrc (d : Reg) (a : Reg) (b : Reg) : RoundTrip.Statement (.csrc d a b) := fun _ h => by
  cases h; rw [decode, word_op]; show Except.ok (Instr.csrc (fD _) (fA _) (fB _)) = _
  simp only [fD, word_d, fA, word_a, fB, word_b, ofByte_toByte]
theorem RoundTrip.tret : RoundTrip.Statement .tret := fun _ h => by
  cases h; rw [decode, word_op]; show Except.ok Instr.tret = _
  rfl
theorem RoundTrip.wfi : RoundTrip.Statement .wfi := fun _ h => by
  cases h; rw [decode, word_op]; show Except.ok Instr.wfi = _
  rfl
theorem RoundTrip.sipi (a : Reg) (b : Reg) : RoundTrip.Statement (.sipi a b) := fun _ h => by
  cases h; rw [decode, word_op]; show Except.ok (Instr.sipi (fA _) (fB _)) = _
  simp only [fA, word_a, fB, word_b, ofByte_toByte]
theorem RoundTrip.tlbiAll : RoundTrip.Statement .tlbiAll := fun _ h => by
  cases h; rw [decode, word_op]
  show decodeOp 0xC7 _ = _
  rw [decodeOp_tlbi]; rw [word_d]; rfl
theorem RoundTrip.tlbiDom (a : Reg) : RoundTrip.Statement (.tlbiDom a) := fun _ h => by
  cases h; rw [decode, word_op]
  show decodeOp 0xC7 _ = _
  rw [decodeOp_tlbi]; rw [word_d]; show Except.ok (Instr.tlbiDom (fA _)) = _; simp only [fA, word_a, ofByte_toByte]
theorem RoundTrip.tlbiVa (a : Reg) (b : Reg) : RoundTrip.Statement (.tlbiVa a b) := fun _ h => by
  cases h; rw [decode, word_op]
  show decodeOp 0xC7 _ = _
  rw [decodeOp_tlbi]; rw [word_d]; show Except.ok (Instr.tlbiVa (fA _) (fB _)) = _; simp only [fA, word_a, fB, word_b, ofByte_toByte]
theorem RoundTrip.tlbiVaall (b : Reg) : RoundTrip.Statement (.tlbiVaall b) := fun _ h => by
  cases h; rw [decode, word_op]
  show decodeOp 0xC7 _ = _
  rw [decodeOp_tlbi]; rw [word_d]; show Except.ok (Instr.tlbiVaall (fB _)) = _; simp only [fB, word_b, ofByte_toByte]
theorem RoundTrip.dslw (a : Reg) (b : Reg) : RoundTrip.Statement (.dslw a b) := fun _ h => by
  cases h; rw [decode, word_op]; show Except.ok (Instr.dslw (fA _) (fB _)) = _
  simp only [fA, word_a, fB, word_b, ofByte_toByte]
theorem RoundTrip.dpre (d : Reg) (a : Reg) (b : Reg) : RoundTrip.Statement (.dpre d a b) := fun _ h => by
  cases h; rw [decode, word_op]; show Except.ok (Instr.dpre (fD _) (fA _) (fB _)) = _
  simp only [fD, word_d, fA, word_a, fB, word_b, ofByte_toByte]
theorem RoundTrip.ctxs (a : Reg) (b : Reg) : RoundTrip.Statement (.ctxs a b) := fun _ h => by
  cases h; rw [decode, word_op]; show Except.ok (Instr.ctxs (fA _) (fB _)) = _
  simp only [fA, word_a, fB, word_b, ofByte_toByte]
theorem RoundTrip.ctxl (a : Reg) (b : Reg) : RoundTrip.Statement (.ctxl a b) := fun _ h => by
  cases h; rw [decode, word_op]; show Except.ok (Instr.ctxl (fA _) (fB _)) = _
  simp only [fA, word_a, fB, word_b, ofByte_toByte]
theorem RoundTrip.wswap (d : Reg) (n : BitVec 16) : RoundTrip.Statement (.wswap d n) := fun _ h => by
  cases h; rw [decode, half_op]; show Except.ok (Instr.wswap (fD _) (BitVec.extractLsb' 0 16 _)) = _
  simp only [fD, half_d, ofByte_toByte, half_n]
theorem RoundTrip.hgmb (d : Reg) (a : Reg) : RoundTrip.Statement (.hgmb d a) := fun _ h => by
  cases h; rw [decode, word_op]; show Except.ok (Instr.hgmb (fD _) (fA _)) = _
  simp only [fD, word_d, fA, word_a, ofByte_toByte]
theorem RoundTrip.snap (n : BitVec 16) : RoundTrip.Statement (.snap n) := fun _ h => by
  cases h; rw [decode, half_op]; show Except.ok (Instr.snap (BitVec.extractLsb' 0 16 _)) = _
  simp only [half_n]
theorem RoundTrip.brk (n : BitVec 16) : RoundTrip.Statement (.brk n) := fun _ h => by
  cases h; rw [decode, half_op]; show Except.ok (Instr.brk (BitVec.extractLsb' 0 16 _)) = _
  simp only [half_n]
theorem RoundTrip.stallRunout (core : Nat) (w : Nat) (g : Nat) : RoundTrip.Statement (.stallRunout core w g) := fun _ h => nomatch h
theorem RoundTrip.yieldRunout (core : Nat) (w : Nat) (g : Nat) : RoundTrip.Statement (.yieldRunout core w g) := fun _ h => nomatch h
theorem RoundTrip.ageingThreshold (core : Nat) (w : Nat) (g : Nat) : RoundTrip.Statement (.ageingThreshold core w g) := fun _ h => nomatch h
theorem RoundTrip.meetParkExpiry (core : Nat) (w : Nat) (g : Nat) : RoundTrip.Statement (.meetParkExpiry core w g) := fun _ h => nomatch h
theorem RoundTrip.vgrowGrant (core : Nat) (quad : Nat) : RoundTrip.Statement (.vgrowGrant core quad) := fun _ h => nomatch h
theorem RoundTrip.binTimerExpiry (core : Nat) (bin : Nat) : RoundTrip.Statement (.binTimerExpiry core bin) := fun _ h => nomatch h
theorem RoundTrip.looseWarpPlace (core : Nat) (bin : Nat) : RoundTrip.Statement (.looseWarpPlace core bin) := fun _ h => nomatch h
theorem RoundTrip.launchRequest (slice : Nat) (lane : Nat) : RoundTrip.Statement (.launchRequest slice lane) := fun _ h => nomatch h
theorem RoundTrip.dispatchBlock (part : Nat) : RoundTrip.Statement (.dispatchBlock part) := fun _ h => nomatch h
theorem RoundTrip.warpRetire (core : Nat) (w : Nat) : RoundTrip.Statement (.warpRetire core w) := fun _ h => nomatch h
theorem RoundTrip.loadSectorLand (core : Nat) (id : Nat) (sector : Nat) : RoundTrip.Statement (.loadSectorLand core id sector) := fun _ h => nomatch h
theorem RoundTrip.scratchpadLoadReturn (core : Nat) (id : Nat) : RoundTrip.Statement (.scratchpadLoadReturn core id) := fun _ h => nomatch h
theorem RoundTrip.storeAck (core : Nat) (id : Nat) : RoundTrip.Statement (.storeAck core id) := fun _ h => nomatch h
theorem RoundTrip.homeLoad (core : Nat) (id : Nat) (line : Nat) : RoundTrip.Statement (.homeLoad core id line) := fun _ h => nomatch h
theorem RoundTrip.homeStore (core : Nat) (id : Nat) (line : Nat) : RoundTrip.Statement (.homeStore core id line) := fun _ h => nomatch h
theorem RoundTrip.homeAtomic (core : Nat) (id : Nat) (lane : Nat) : RoundTrip.Statement (.homeAtomic core id lane) := fun _ h => nomatch h
theorem RoundTrip.atomicReturn (core : Nat) (id : Nat) : RoundTrip.Statement (.atomicReturn core id) := fun _ h => nomatch h
theorem RoundTrip.monitorDrop (core : Nat) (w : Nat) (g : Nat) : RoundTrip.Statement (.monitorDrop core w g) := fun _ h => nomatch h
theorem RoundTrip.wsleepTimeout (core : Nat) (w : Nat) (g : Nat) : RoundTrip.Statement (.wsleepTimeout core w g) := fun _ h => nomatch h
theorem RoundTrip.bwaittTimeout (core : Nat) (w : Nat) (g : Nat) : RoundTrip.Statement (.bwaittTimeout core w g) := fun _ h => nomatch h
theorem RoundTrip.combiningEntryExpiry (core : Nat) (id : Nat) : RoundTrip.Statement (.combiningEntryExpiry core id) := fun _ h => nomatch h
theorem RoundTrip.relDrainDone (core : Nat) (w : Nat) (g : Nat) : RoundTrip.Statement (.relDrainDone core w g) := fun _ h => nomatch h
theorem RoundTrip.acqWaitDone (core : Nat) (w : Nat) (g : Nat) : RoundTrip.Statement (.acqWaitDone core w g) := fun _ h => nomatch h
theorem RoundTrip.translationWalk (slice : Nat) : RoundTrip.Statement (.translationWalk slice) := fun _ h => nomatch h
theorem RoundTrip.translationAnswer (slice : Nat) (idx : Nat) : RoundTrip.Statement (.translationAnswer slice idx) := fun _ h => nomatch h
theorem RoundTrip.remoteAtomicTimeout (core : Nat) (id : Nat) : RoundTrip.Statement (.remoteAtomicTimeout core id) := fun _ h => nomatch h
theorem RoundTrip.copyStart (core : Nat) (q : Nat) : RoundTrip.Statement (.copyStart core q) := fun _ h => nomatch h
theorem RoundTrip.copyChunk (core : Nat) (q : Nat) : RoundTrip.Statement (.copyChunk core q) := fun _ h => nomatch h
theorem RoundTrip.copyPieceLand (core : Nat) (q : Nat) (piece : Nat) : RoundTrip.Statement (.copyPieceLand core q piece) := fun _ h => nomatch h
theorem RoundTrip.copyoPieceAck (core : Nat) (q : Nat) (piece : Nat) : RoundTrip.Statement (.copyoPieceAck core q piece) := fun _ h => nomatch h
theorem RoundTrip.engineFaultDeliver (core : Nat) (w : Nat) : RoundTrip.Statement (.engineFaultDeliver core w) := fun _ h => nomatch h
theorem RoundTrip.qfenceRelease (core : Nat) (id : Nat) : RoundTrip.Statement (.qfenceRelease core id) := fun _ h => nomatch h
theorem RoundTrip.mldbRun (core : Nat) : RoundTrip.Statement (.mldbRun core) := fun _ h => nomatch h
theorem RoundTrip.mmacRun (core : Nat) : RoundTrip.Statement (.mmacRun core) := fun _ h => nomatch h
theorem RoundTrip.mrdRun (core : Nat) : RoundTrip.Statement (.mrdRun core) := fun _ h => nomatch h
theorem RoundTrip.mzeroRun (core : Nat) : RoundTrip.Statement (.mzeroRun core) := fun _ h => nomatch h
theorem RoundTrip.manchRun (core : Nat) : RoundTrip.Statement (.manchRun core) := fun _ h => nomatch h
theorem RoundTrip.epiRun (core : Nat) : RoundTrip.Statement (.epiRun core) := fun _ h => nomatch h
theorem RoundTrip.mtestRun (core : Nat) (fails : BitVec 8) : RoundTrip.Statement (.mtestRun core fails) := fun _ h => nomatch h
theorem RoundTrip.mfenceRun (core : Nat) (fail : Bool) : RoundTrip.Statement (.mfenceRun core fail) := fun _ h => nomatch h
theorem RoundTrip.scrubMatrixRun (core : Nat) : RoundTrip.Statement (.scrubMatrixRun core) := fun _ h => nomatch h
theorem RoundTrip.selfTestIdle (core : Nat) (fail : Bool) : RoundTrip.Statement (.selfTestIdle core fail) := fun _ h => nomatch h
theorem RoundTrip.batchReopen (core : Nat) : RoundTrip.Statement (.batchReopen core) := fun _ h => nomatch h
theorem RoundTrip.gathRun (slice : Nat) : RoundTrip.Statement (.gathRun slice) := fun _ h => nomatch h
theorem RoundTrip.poolRun (slice : Nat) : RoundTrip.Statement (.poolRun slice) := fun _ h => nomatch h
theorem RoundTrip.poolRowArrive (slice : Nat) (row : Nat) : RoundTrip.Statement (.poolRowArrive slice row) := fun _ h => nomatch h
theorem RoundTrip.mcredRun (slice : Nat) : RoundTrip.Statement (.mcredRun slice) := fun _ h => nomatch h
theorem RoundTrip.mcstRun (slice : Nat) : RoundTrip.Statement (.mcstRun slice) := fun _ h => nomatch h
theorem RoundTrip.wbcastRun (slice : Nat) : RoundTrip.Statement (.wbcastRun slice) := fun _ h => nomatch h
theorem RoundTrip.dgstRun (slice : Nat) : RoundTrip.Statement (.dgstRun slice) := fun _ h => nomatch h
theorem RoundTrip.engineCommandComplete (slice : Nat) (q : EngineQueue) : RoundTrip.Statement (.engineCommandComplete slice q) := fun _ h => nomatch h
theorem RoundTrip.gateProceed (core : Nat) (w : Nat) : RoundTrip.Statement (.gateProceed core w) := fun _ h => nomatch h
theorem RoundTrip.dpreComplete (core : Nat) : RoundTrip.Statement (.dpreComplete core) := fun _ h => nomatch h
theorem RoundTrip.warpHalt (core : Nat) (w : Nat) : RoundTrip.Statement (.warpHalt core w) := fun _ h => nomatch h
theorem RoundTrip.unitScrubDone (core : Nat) (unit : PowerUnit) : RoundTrip.Statement (.unitScrubDone core unit) := fun _ h => nomatch h
theorem RoundTrip.unitWake (core : Nat) (unit : PowerUnit) : RoundTrip.Statement (.unitWake core unit) := fun _ h => nomatch h
theorem RoundTrip.deferredTrapRecord (core : Nat) (w : Nat) : RoundTrip.Statement (.deferredTrapRecord core w) := fun _ h => nomatch h
theorem RoundTrip.notificationDrain (slice : Nat) : RoundTrip.Statement (.notificationDrain slice) := fun _ h => nomatch h
theorem RoundTrip.serviceInterrupt (core : Nat) : RoundTrip.Statement (.serviceInterrupt core) := fun _ h => nomatch h
theorem RoundTrip.wfiWake (core : Nat) : RoundTrip.Statement (.wfiWake core) := fun _ h => nomatch h
theorem RoundTrip.sipiDeliver (core : Nat) : RoundTrip.Statement (.sipiDeliver core) := fun _ h => nomatch h
theorem RoundTrip.dispositionResume (core : Nat) (w : Nat) : RoundTrip.Statement (.dispositionResume core w) := fun _ h => nomatch h
theorem RoundTrip.dispositionKill (core : Nat) (w : Nat) : RoundTrip.Statement (.dispositionKill core w) := fun _ h => nomatch h
theorem RoundTrip.dispositionHandler (core : Nat) (w : Nat) : RoundTrip.Statement (.dispositionHandler core w) := fun _ h => nomatch h
theorem RoundTrip.memoryError (slice : Nat) (pa : Nat) : RoundTrip.Statement (.memoryError slice pa) := fun _ h => nomatch h
theorem RoundTrip.isctlWrite (core : Nat) : RoundTrip.Statement (.isctlWrite core) := fun _ h => nomatch h
theorem RoundTrip.ipendWrite (core : Nat) : RoundTrip.Statement (.ipendWrite core) := fun _ h => nomatch h
theorem RoundTrip.watchRegWrite (core : Nat) : RoundTrip.Statement (.watchRegWrite core) := fun _ h => nomatch h
theorem RoundTrip.csrWrite (core : Nat) : RoundTrip.Statement (.csrWrite core) := fun _ h => nomatch h
theorem RoundTrip.debugHalt (core : Nat) : RoundTrip.Statement (.debugHalt core) := fun _ h => nomatch h
theorem RoundTrip.debugResume (core : Nat) : RoundTrip.Statement (.debugResume core) := fun _ h => nomatch h
theorem RoundTrip.debugStep (core : Nat) : RoundTrip.Statement (.debugStep core) := fun _ h => nomatch h
theorem RoundTrip.debugDump (core : Nat) : RoundTrip.Statement (.debugDump core) := fun _ h => nomatch h
theorem RoundTrip.debugArm (core : Nat) : RoundTrip.Statement (.debugArm core) := fun _ h => nomatch h
theorem RoundTrip.debugRead (core : Nat) : RoundTrip.Statement (.debugRead core) := fun _ h => nomatch h
theorem RoundTrip.debugBadCommand (core : Nat) : RoundTrip.Statement (.debugBadCommand core) := fun _ h => nomatch h
theorem RoundTrip.packetFetch (slice : Nat) (lane : Nat) : RoundTrip.Statement (.packetFetch slice lane) := fun _ h => nomatch h
theorem RoundTrip.packetNop (slice : Nat) (lane : Nat) : RoundTrip.Statement (.packetNop slice lane) := fun _ h => nomatch h
theorem RoundTrip.packetSeed (slice : Nat) (lane : Nat) : RoundTrip.Statement (.packetSeed slice lane) := fun _ h => nomatch h
theorem RoundTrip.packetSignal (slice : Nat) (lane : Nat) : RoundTrip.Statement (.packetSignal slice lane) := fun _ h => nomatch h
theorem RoundTrip.packetWaitsig (slice : Nat) (lane : Nat) : RoundTrip.Statement (.packetWaitsig slice lane) := fun _ h => nomatch h
theorem RoundTrip.packetCistern (slice : Nat) (lane : Nat) : RoundTrip.Statement (.packetCistern slice lane) := fun _ h => nomatch h
theorem RoundTrip.packetQuery (slice : Nat) (lane : Nat) : RoundTrip.Statement (.packetQuery slice lane) := fun _ h => nomatch h
theorem RoundTrip.cisternWriteStart (idx : Nat) : RoundTrip.Statement (.cisternWriteStart idx) := fun _ h => nomatch h
theorem RoundTrip.quantumEnd (slice : Nat) : RoundTrip.Statement (.quantumEnd slice) := fun _ h => nomatch h
theorem RoundTrip.firmwareRestart (part : Nat) : RoundTrip.Statement (.firmwareRestart part) := fun _ h => nomatch h
theorem RoundTrip.kernelSetup (core : Nat) : RoundTrip.Statement (.kernelSetup core) := fun _ h => nomatch h
theorem RoundTrip.resize (core : Nat) : RoundTrip.Statement (.resize core) := fun _ h => nomatch h
theorem RoundTrip.reinterleaveGroup (part : Nat) : RoundTrip.Statement (.reinterleaveGroup part) := fun _ h => nomatch h
theorem RoundTrip.setOwner (core : Nat) : RoundTrip.Statement (.setOwner core) := fun _ h => nomatch h
theorem RoundTrip.sealFrames (core : Nat) : RoundTrip.Statement (.sealFrames core) := fun _ h => nomatch h
theorem RoundTrip.groupRegister (core : Nat) : RoundTrip.Statement (.groupRegister core) := fun _ h => nomatch h
theorem RoundTrip.groupWithdraw (core : Nat) : RoundTrip.Statement (.groupWithdraw core) := fun _ h => nomatch h
theorem RoundTrip.memberAbsent (group : Nat) (member : Nat) : RoundTrip.Statement (.memberAbsent group member) := fun _ h => nomatch h
theorem RoundTrip.tensorDefine (core : Nat) : RoundTrip.Statement (.tensorDefine core) := fun _ h => nomatch h
theorem RoundTrip.manifestSubmit (core : Nat) : RoundTrip.Statement (.manifestSubmit core) := fun _ h => nomatch h
theorem RoundTrip.cisternPairing (core : Nat) : RoundTrip.Statement (.cisternPairing core) := fun _ h => nomatch h
theorem RoundTrip.cisternLoad (core : Nat) : RoundTrip.Statement (.cisternLoad core) := fun _ h => nomatch h
theorem RoundTrip.keyRotateRequest (core : Nat) : RoundTrip.Statement (.keyRotateRequest core) := fun _ h => nomatch h
theorem RoundTrip.peerWindow (core : Nat) : RoundTrip.Statement (.peerWindow core) := fun _ h => nomatch h
theorem RoundTrip.bindKeySlot (core : Nat) : RoundTrip.Statement (.bindKeySlot core) := fun _ h => nomatch h
theorem RoundTrip.registerOwnerKey (core : Nat) : RoundTrip.Statement (.registerOwnerKey core) := fun _ h => nomatch h
theorem RoundTrip.extendMeasurement (core : Nat) : RoundTrip.Statement (.extendMeasurement core) := fun _ h => nomatch h
theorem RoundTrip.measurementReport (core : Nat) : RoundTrip.Statement (.measurementReport core) := fun _ h => nomatch h
theorem RoundTrip.migrationExport (core : Nat) : RoundTrip.Statement (.migrationExport core) := fun _ h => nomatch h
theorem RoundTrip.migrationImport (core : Nat) : RoundTrip.Statement (.migrationImport core) := fun _ h => nomatch h
theorem RoundTrip.migrationReceipt (part : Nat) (did : BitVec 16) : RoundTrip.Statement (.migrationReceipt part did) := fun _ h => nomatch h
theorem RoundTrip.debugUnlock (core : Nat) : RoundTrip.Statement (.debugUnlock core) := fun _ h => nomatch h
theorem RoundTrip.debugChallenge (core : Nat) : RoundTrip.Statement (.debugChallenge core) := fun _ h => nomatch h
theorem RoundTrip.returnModule (core : Nat) : RoundTrip.Statement (.returnModule core) := fun _ h => nomatch h
theorem RoundTrip.spdmGetVersion (req : Nat) : RoundTrip.Statement (.spdmGetVersion req) := fun _ h => nomatch h
theorem RoundTrip.spdmGetCapabilities (req : Nat) : RoundTrip.Statement (.spdmGetCapabilities req) := fun _ h => nomatch h
theorem RoundTrip.spdmNegotiateAlgorithms (req : Nat) (supported : Bool) : RoundTrip.Statement (.spdmNegotiateAlgorithms req supported) := fun _ h => nomatch h
theorem RoundTrip.spdmGetDigests (req : Nat) : RoundTrip.Statement (.spdmGetDigests req) := fun _ h => nomatch h
theorem RoundTrip.spdmGetCertificate (req : Nat) (slot : Nat) : RoundTrip.Statement (.spdmGetCertificate req slot) := fun _ h => nomatch h
theorem RoundTrip.spdmChallenge (req : Nat) (nonce : BitVec 384) : RoundTrip.Statement (.spdmChallenge req nonce) := fun _ h => nomatch h
theorem RoundTrip.spdmGetMeasurements (req : Nat) (part : Nat) (did : BitVec 16) (nonce : BitVec 384) : RoundTrip.Statement (.spdmGetMeasurements req part did nonce) := fun _ h => nomatch h
theorem RoundTrip.spdmKeyExchange (req : Nat) (session : Nat) : RoundTrip.Statement (.spdmKeyExchange req session) := fun _ h => nomatch h
theorem RoundTrip.spdmFinish (req : Nat) : RoundTrip.Statement (.spdmFinish req) := fun _ h => nomatch h
theorem RoundTrip.spdmEndSession (req : Nat) : RoundTrip.Statement (.spdmEndSession req) := fun _ h => nomatch h
theorem RoundTrip.spdmKeyDelivery (session : Nat) (slot : BitVec 8) (key : BitVec 256) : RoundTrip.Statement (.spdmKeyDelivery session slot key) := fun _ h => nomatch h
theorem RoundTrip.frameReceive (port : Nat) (frame : Frame) : RoundTrip.Statement (.frameReceive port frame) := fun _ h => nomatch h
theorem RoundTrip.portDown (port : Nat) : RoundTrip.Statement (.portDown port) := fun _ h => nomatch h
theorem RoundTrip.portRetrain (port : Nat) : RoundTrip.Statement (.portRetrain port) := fun _ h => nomatch h
theorem RoundTrip.keyRotation (port : Nat) : RoundTrip.Statement (.keyRotation port) := fun _ h => nomatch h
theorem RoundTrip.fabricReadResponse (port : Nat) (pkt : Packet) : RoundTrip.Statement (.fabricReadResponse port pkt) := fun _ h => nomatch h
theorem RoundTrip.fabricWriteAck (port : Nat) (pkt : Packet) : RoundTrip.Statement (.fabricWriteAck port pkt) := fun _ h => nomatch h
theorem RoundTrip.fabricAtomicResponse (port : Nat) (pkt : Packet) : RoundTrip.Statement (.fabricAtomicResponse port pkt) := fun _ h => nomatch h
theorem RoundTrip.fabricMulticastLine (port : Nat) (pkt : Packet) : RoundTrip.Statement (.fabricMulticastLine port pkt) := fun _ h => nomatch h
theorem RoundTrip.fabricErrorResponse (port : Nat) (pkt : Packet) : RoundTrip.Statement (.fabricErrorResponse port pkt) := fun _ h => nomatch h
theorem RoundTrip.windowAccess (port : Nat) (pkt : Packet) : RoundTrip.Statement (.windowAccess port pkt) := fun _ h => nomatch h
theorem RoundTrip.cxlHostRequest (part : Nat) (region : Nat) : RoundTrip.Statement (.cxlHostRequest part region) := fun _ h => nomatch h
theorem RoundTrip.cxlRegionReclaim (part : Nat) (region : Nat) : RoundTrip.Statement (.cxlRegionReclaim part region) := fun _ h => nomatch h
theorem RoundTrip.refreshWindow (die : Nat) : RoundTrip.Statement (.refreshWindow die) := fun _ h => nomatch h
theorem RoundTrip.cisternScrub (die : Nat) (sound : Bool) : RoundTrip.Statement (.cisternScrub die sound) := fun _ h => nomatch h
theorem RoundTrip.sensorSample (slice : Nat) (reading : Sensor) : RoundTrip.Statement (.sensorSample slice reading) := fun _ h => nomatch h
theorem RoundTrip.powerQuotaUpdate (q : Nat) : RoundTrip.Statement (.powerQuotaUpdate q) := fun _ h => nomatch h
theorem RoundTrip.powerLimitSet (watts : Nat) : RoundTrip.Statement (.powerLimitSet watts) := fun _ h => nomatch h
theorem RoundTrip.firmwareUpdate (image : FirmwareImage) : RoundTrip.Statement (.firmwareUpdate image) := fun _ h => nomatch h
theorem RoundTrip.moduleReset : RoundTrip.Statement .moduleReset := fun _ h => nomatch h
theorem RoundTrip.partitionForm (part : Nat) (rect : Rect) (boot : BootResult) : RoundTrip.Statement (.partitionForm part rect boot) := fun _ h => nomatch h
theorem RoundTrip.bootRetry (part : Nat) (boot : BootResult) : RoundTrip.Statement (.bootRetry part boot) := fun _ h => nomatch h
theorem RoundTrip.partitionReset (part : Nat) : RoundTrip.Statement (.partitionReset part) := fun _ h => nomatch h
theorem RoundTrip.gretProceed (core : Nat) (w : Nat) : RoundTrip.Statement (.gretProceed core w) := fun _ h => nomatch h
theorem RoundTrip.memberReturn (group : Nat) (member : Nat) (meas : BitVec 384) : RoundTrip.Statement (.memberReturn group member meas) := fun _ h => nomatch h
theorem RoundTrip.unitPowerDown (core : Nat) (unit : PowerUnit) : RoundTrip.Statement (.unitPowerDown core unit) := fun _ h => nomatch h
theorem RoundTrip.frameReplay (port : Nat) : RoundTrip.Statement (.frameReplay port) := fun _ h => nomatch h

end Sys2Proof.Laws
end

