-- ==== Sys2Proof/Safety.lean ====
section
/-! DEFINITION. Sys2Proof/Safety.lean: the terms in which the statements speak: the canonical form of memory, when an instruction issues
normally, and what it leaves as it was. -/

namespace Sys2Proof.Safety

open Sys2Proof.Machine

/-- Memory is in its canonical form: addresses strictly rising, no listed byte zero. -/
def MemoryCanonical (s : State) : Prop := Memory.wf s.mem = true

/-- The conditions under which an instruction of a form issues and has its own effect (R38): the bundle's frame is code, the profile
runs the code, every field is one the instruction accepts, every latch read finds an entry, every register and index lies in the allocation, the
element type or the value is accepted, no neighbour select leaves the gang under the fault policy, no stall count is short, no
register it reads early or names is pending, no source is poisoned, and no single step is in progress. -/
structure Issues (x : Ctx) (f : Form) : Prop where
  frame : bitsW x.s.ctl 31 30 < 2
  profile : profileFault x.k f.op = none
  early : earlyHit x f = false
  operands : operandOk x f = true
  latch : latchMissing x f = 0
  bound : boundOk x f = true
  index : indexOut x f = 0
  typed : f.typed = true
  edge : edgeMissing x f = 0
  stall : stallShort x f = false
  ready : pendingHit x f = false
  clean : poisonOf x f = none
  running : x.gn.stepping = false

/-- A gang without what every issue updates: its program counter, its ageing, stall and yield state, the last high word of clk it read,
its recent producers, its scoreboard, the words it issued and when. -/
def lasting (gn : Gang) : Gang :=
  { gn with pc := 0, ageing := 0, thresholdAt := none, stall := 0, yielded := false, status := .ready, clkHigh := none, recent := [],
            own := [], board := [], lastIssue := 0, inBundle := false, insn := 0, ctl := 0 }

/-- A warp without its gangs, its operand latches and its pending results. -/
def shell (wp : Warp) : Warp := { wp with gangs := [], latch := [], pend := [] }

/-- A core without its warps, its furrows and the greedy hold. -/
def bare (c : Core) : Core := { c with warps := [], furrows := [], greedy := [] }

/-- The state t is the state s once the gang of x has issued and stands at a program counter: nothing else of the module differs, no
other core, nothing of the gang's own core but its furrows and greedy hold, no other warp, nothing of its own warp but latches and pending
results, no other gang, and nothing of the gang but what every issue updates. -/
structure Advanced (x : Ctx) (s t : State) (pc : DWord) : Prop where
  rest : { t with cores := s.cores } = s
  cores : ∀ k, k ≠ x.k → coreAt t k = coreAt s k
  core : bare (coreAt t x.k) = bare (coreAt s x.k)
  warps : ∀ w, w ≠ x.w → warpAt t x.k w = warpAt s x.k w
  warp : (warpAt t x.k x.w).map shell = (warpAt s x.k x.w).map shell
  gangs : ∀ g, g ≠ x.g → gangAt t x.k x.w g = gangAt s x.k x.w g
  gang : (gangAt t x.k x.w x.g).map lasting = (gangAt s x.k x.w x.g).map lasting
  pc : ∀ gn, gangAt t x.k x.w x.g = some gn → gn.pc = pc

/-- An instruction answers a next state that is s', with the gang's program counter moved. -/
def Answers (o : Host.Outcome State Fault Refusal) (x : Ctx) (s' : State) (pc : DWord) : Prop := ∃ t, o = .next t ∧ Advanced x s' t pc

/-- An instruction answers a next state that is s', in which the gang waits at the instruction for a cause. -/
def Waits (o : Host.Outcome State Fault Refusal) (x : Ctx) (s' : State) (c : WaitCause) : Prop :=
  ∃ t, o = .next t ∧ Advanced x s' t x.gn.pc ∧ ∀ gn, gangAt t x.k x.w x.g = some gn → gn.status = .waiting c

/-! ## The rows of the lane instructions -/

/-- The element-wise instructions of a typed destination d and sources a and b (R60 to R79): the instruction, its form, and what it makes
of an element of a, of b and of the old d. -/
def elementRows (x : Ctx) (d a b : Reg) : List (Instr × Form × (Nat → Nat → Nat → Nat)) :=
  let two := fun op typed lat => aluForm x op d a b true true false typed lat
  let three := fun op typed lat => aluForm x op d a b true true true typed lat
  let one := fun op typed lat => aluForm x op d a .z true false false typed lat
  [(.add d a b, two 0x13 (arithType x.t) (latAdd x.t), fun p q _ => addElem x.t x.fm p q),
   (.sub d a b, two 0x14 (arithType x.t) (latAdd x.t), fun p q _ => subElem x.t x.fm p q),
   (.mul d a b, two 0x15 (arithType x.t) (latMul x.t), fun p q _ => mulElem x.t x.fm p q),
   (.mulh d a b, two 0x16 x.t.isInt (latMul x.t), fun p q _ => mulhElem x.t p q),
   (.mad d a b, three 0x17 (arithType x.t) (latMul x.t), fun p q c => madElem x.t x.fm p q c),
   (.neg d a, one 0x18 true 4, fun p _ _ => negElem x.t x.fm p),
   (.abs d a, one 0x19 true 4, fun p _ _ => absElem x.t x.fm p),
   (.min d a b, two 0x1A true 4, fun p q _ => minMax false x.t x.fm p q),
   (.max d a b, two 0x1B true 4, fun p q _ => minMax true x.t x.fm p q),
   (.div d a b, two 0x1C (arithType x.t) (latDiv x.t), fun p q _ => divElem x.t x.fm p q),
   (.rem d a b, two 0x1D (arithType x.t) (latDiv x.t), fun p q _ => remElem x.t x.fm p q),
   (.clamp d a b, three 0x1E true 4, fun p q c => clampElem x.t x.fm p q c),
   (.shl d a b, two 0x24 x.t.isInt 4, fun p q _ => shlElem x.t.width p q),
   (.shr d a b, two 0x25 x.t.isInt 4, fun p q _ => shrElem x.t.width p q),
   (.sar d a b, two 0x26 x.t.isInt 4, fun p q _ => sarElem x.t.width p q),
   (.rol d a b, two 0x27 x.t.isInt 4, fun p q _ => rolElem x.t.width p q),
   (.fsh d a b, three 0x28 x.t.isInt 4, fun p q c => fshElem x.t.width p q c),
   (.clz d a, one 0x29 x.t.isInt 4, fun p _ _ => clzN x.t.width p),
   (.popc d a, one 0x2A x.t.isInt 4, fun p _ _ => popN x.t.width p),
   (.brev d a, one 0x2B x.t.isInt 4, fun p _ _ => revN x.t.width p),
   (.bfx d a b, two 0x2C (wideInt x.t) 4, fun p q _ => bfxElem x.t p q),
   (.bfi d a b, three 0x2D (wideInt x.t) 4, fun p q c => bfiElem x.t p q c),
   (.rnd d a, one 0x31 x.t.isFloat (if x.is64 then 10 else 5),
     fun p _ _ => floatOp x.t x.fm (fun vs => match vs with | [v] => rndVal x.fm.rm v | _ => .invalid) [p]),
   (.rcp d a, one 0x32 (sfuType x.t) 14, fun p _ _ => sfuElem .rcp x.t x.fm p),
   (.rsq d a, one 0x33 (sfuType x.t) 14, fun p _ _ => sfuElem .rsq x.t x.fm p),
   (.sqrt d a, one 0x34 x.t.isFloat (if x.is64 then 28 else 14),
     fun p _ _ => floatOp x.t x.fm (fun vs => match vs with | [v] => sqrtVal v | _ => .invalid) [p]),
   (.ex2 d a, one 0x35 (sfuType x.t) 14, fun p _ _ => sfuElem .ex2 x.t x.fm p),
   (.lg2 d a, one 0x36 (sfuType x.t) 14, fun p _ _ => sfuElem .lg2 x.t x.fm p),
   (.sin d a, one 0x37 (sfuType x.t) 14, fun p _ _ => sfuElem .sin x.t x.fm p),
   (.cos d a, one 0x38 (sfuType x.t) 14, fun p _ _ => sfuElem .cos x.t x.fm p),
   (.tanh d a, one 0x39 (sfuType x.t) 14, fun p _ _ => sfuElem .tanh x.t x.fm p),
   (.fcls d a, one 0x3A (!x.t.isInt) 4, fun p _ _ => fclass x.t p)]

/-- The instructions that write one value of the whole operand in each acting lane (R61, R65, R66, R149, R150): the instruction, its form,
how many registers d names, and the value in a lane. -/
def operandRows (x : Ctx) (d a b : Reg) (n : BitVec 16) (op : BitVec 8) : List (Instr × Form × Nat × (Nat → Nat)) :=
  let logic := fun code => aluForm x code d a b true true false true 4
  [(.movi d n, aluForm x 0x11 d .z .z false false false true 4, x.width, fun _ => wrapN n.toInt x.bits),
   (.movh d n, { op := 0x12, classes := Reg.vz d, res := true, more := [(d, 1)], writes := [(d, 1)], lat := 4 }, 1,
     fun l => n.toNat * 65536 + (x.rd l d).toNat % 65536),
   (.mov d a, { aluForm x 0x10 d a .z true false false true 4 with classes := Reg.vz d || Reg.isP d, res := Reg.vz d && decide (x.width = 1) }, x.width, fun l => opA x a l),
   (.sel d a b, { logic 0x1F with acts := some x.gn.mask }, x.width, fun l => if x.active.getLsbD l then opA x a l else opB x b l),
   (.and d a b, logic 0x20, x.width, fun l => opA x a l &&& opB x b l),
   (.or d a b, logic 0x21, x.width, fun l => opA x a l ||| opB x b l),
   (.xor d a b, logic 0x22, x.width, fun l => opA x a l ^^^ opB x b l),
   (.not d a, aluForm x 0x23 d a .z true false false true 4, x.width, fun l => 2 ^ x.bits - 1 - opA x a l),
   (.scan d a op, scanForm x 0x45 d a op (Reg.vz d), x.width,
     fun l => combineAll op.toNat x.t x.fm x.bits (laneValues x a x.active fun m => decide (m ≤ l))),
   (.scanx d a op, scanForm x 0x46 d a op (Reg.vz d), x.width,
     fun l => combineAll op.toNat x.t x.fm x.bits (laneValues x a x.active fun m => decide (m < l))),
   (.matchEq d a, laneForm x 0x48 (Reg.vz d) a x.width d x.width, x.width,
     fun l => (laneWhere x.active fun m => decide (opA x a m = opA x a l)).toNat)]

/-- The scalar ALU (R84): the instruction, its form, and the value mod 2^w. -/
def scalarRows (x : Ctx) (d a b : Reg) (n : BitVec 16) : List (Instr × Form × Nat) :=
  let two := fun op => scalForm x op d a b true true
  let u := x.scal a
  let v := x.scal b
  [(.smov d a, scalForm x 0x50 d a .z true false, u), (.smovi d n, scalForm x 0x51 d .z .z false false, wrapN n.toInt x.bits),
   (.sadd d a b, two 0x53, u + v), (.ssub d a b, two 0x54, wrapN ((u : Int) - v) x.bits), (.smul d a b, two 0x55, u * v),
   (.smulh d a b, two 0x56, if x.t.isUnsigned then u * v / 2 ^ x.bits else wrapN (x.sval u * x.sval v / ((2 ^ x.bits : Nat) : Int)) x.bits),
   (.sand d a b, two 0x57, u &&& v), (.sor d a b, two 0x58, u ||| v), (.sxor d a b, two 0x59, u ^^^ v),
   (.sshl d a b, two 0x5A, if x.bits ≤ v then 0 else u * 2 ^ v), (.sshr d a b, two 0x5B, if x.bits ≤ v then 0 else u / 2 ^ v),
   (.ssar d a b, two 0x5C, wrapN (x.sval u / ((2 ^ min v x.bits : Nat) : Int)) x.bits), (.sseq d a b, two 0x5D, if u = v then 1 else 0),
   (.sslt d a b, two 0x5E, if x.sval u < x.sval v then 1 else 0), (.ssltn d a b, two 0x5F, if u < v then 1 else 0)]
/-- The per-lane loads: the instruction, its opcode, bytes and registers a lane takes, how it is performed, the pages it accepts (R86, R183). -/
def loadRows (d a : Reg) (off : BitVec 8) : List (Instr × Nat × Nat × Nat × AccKind × (Nat → Option Nat)) :=
  [(.ld8 d a off, 0x60, 1, 1, .load, fun _ => none), (.ld16 d a off, 0x61, 2, 1, .load, fun _ => none), (.ld32 d a off, 0x62, 4, 1, .load, fun _ => none),
   (.ld64 d a off, 0x63, 8, 2, .load, fun _ => none), (.ld128 d a off, 0x64, 16, 4, .load, fun _ => none),
   (.ldw d a off, 0x72, 16, 4, .ldw, fun k => if k = 1 then none else some 2)]

/-- The per-lane stores (R86): the instruction, its opcode, bytes and registers of a lane, the destinations it accepts. -/
def storeRows (d a : Reg) (off : BitVec 8) : List (Instr × Nat × Nat × Nat × Bool) :=
  [(.st8 d a off, 0x65, 1, 1, Reg.any d), (.st16 d a off, 0x66, 2, 1, Reg.any d), (.st32 d a off, 0x67, 4, 1, Reg.any d),
   (.st64 d a off, 0x68, 8, 2, Reg.vz d || Reg.isS d), (.st128 d a off, 0x69, 16, 4, Reg.vz d)]

/-- An access goes on once its checks have passed: the counter it counts in is below 63, no line of it is held for the processor or a resize, and
the combining buffer holds none of its bytes (R88, R190, R368, R383). -/
structure Goes (x : Ctx) (c : Counter) (lanes : List LaneAcc) (same : CombineEntry → Bool) : Prop where
  counter : x.wp.count c < 63
  home : hostHeld x (lanes.map fun la => la.pa) = false
  buffer : flushFor x (rangesOf lanes) same = none

/-- An instruction whose access went to the path: it goes on, or waits for an access that a watch register matched (R414). -/
def Sent (o : Host.Outcome State Fault Refusal) (x : Ctx) (s' : State) (hit : Option Nat) : Prop :=
  (hit = none → Answers o x s' (nextSlot x.gn.pc)) ∧ ∀ n, hit = some n → Waits o x s' (.watchpoint n)
/-- The barrier object that a register names, where the checks of R197 pass: its core address. -/
structure ObjectAt (x : Ctx) (r : Reg) (valid : Bool) (o : Nat) : Prop where
  place : o = x.wp.view.at (x.rd 0 r).toNat
  range : (x.rd 0 r).toNat < 2 ^ 20
  aligned : (x.rd 0 r).toNat % 16 = 0
  view : viewOk x.k x.c x.wp.view (x.rd 0 r).toNat 16 = true
  ready : viewScrubbing x.c x.wp.view (x.rd 0 r).toNat 16 = false
  sound : valid = true → (barAt x.c o).valid = true
/-- A command has entered an engine queue (R190, R193, R290): what the warp contributed to the combining buffer is on its way, the command stands at the
queue's end under the core's next number, and ec is one more. -/
def queued (x : Ctx) (eq : EngineQueue) (op : EngineOp) (g : List Word) (barrier : Option Nat) : State :=
  let s := flushEntries x.s x.k fun e => contributed x.c x.w x.wp.age e
  let id := (coreAt s x.k).nextId
  let cmd : Command := { id := id, op := op, core := x.k, w := x.w, warpAge := x.wp.age, did := x.did, group := g, view := x.wp.view, barrier := barrier, pc := x.gn.pc, insn := x.s.insn, ctl := x.s.ctl }
  ((s.modQueue x.k eq fun cs => cs ++ [cmd]).modCore x.k fun c => { c with nextId := id + 1 }).modWarp x.k x.w fun wp => wp.countUp .ec

/-- A queue takes a command of the gang (R193, R290): it is in the domain's mask, ec is below 63 and fewer than 64 commands stand in it. -/
structure Takes (x : Ctx) (eq : EngineQueue) : Prop where
  mask : (queueMask x.c x.did).testBit (queueNum eq) = true
  count : x.wp.ec < 63
  room : (queueOf x.s x.k eq).length < 64

/-- The conditions of a copy's seven scalars (R192, R193): memory, scratchpad, length and strides on 16 bytes, reserved bits zero, rows apart, every
row in the view, and the barrier object valid and outside the rows. -/
structure CopyFits (x : Ctx) (g : List Word) (o : Option Nat) : Prop where
  mem : (copyOf g).mem.toNat % 16 = 0
  sp : (copyOf g).sp % 16 = 0
  len : (copyOf g).len % 16 = 0
  mstride : (copyOf g).mstride % 16 = 0
  sstride : (copyOf g).sstride % 16 = 0
  apart : (copyOf g).rows ≤ 1 ∨ (copyOf g).len ≤ (copyOf g).sstride
  zeros : bitsW (g.getD 2 0) 31 20 = 0 ∧ bitsW (g.getD 5 0) 31 16 = 0 ∧ bitsW (g.getD 6 0) 30 20 = 0
  rows : checkRanges x ((List.range (copyOf g).rows).map fun i => ((copyOf g).sp + i * (copyOf g).sstride, (copyOf g).len)) = .ok ()
  barrier : match o with
    | none => (g.getD 6 0).getLsbD 31 = false
    | some obj => (g.getD 6 0).getLsbD 31 = true ∧ checkObject x (w32 (bitsW (g.getD 6 0) 19 0)) true = .ok obj ∧
        ∀ i < (copyOf g).rows, ¬ ((copyOf g).sp + i * (copyOf g).sstride < bitsW (g.getD 6 0) 19 0 + 16 ∧
          bitsW (g.getD 6 0) 19 0 < (copyOf g).sp + i * (copyOf g).sstride + (copyOf g).len)

/-- An operation has entered mq (R251, R252): it stands at the queue's end with the number of the gang's open batch, which was opened if none was; an
MFENCE closes the batch, or is one of its own where none was open. Restored state of the domain has been taken up (R311). -/
def queuedMq (x : Ctx) (op : EngineOp) (g : List Word) (barrier : Option Nat) (after : Matrix → Matrix) : State :=
  let now := if op = .mfence then closeBatch x else openBatch x
  let cmd : Command := { id := x.c.nextId, op := op, core := x.k, w := x.w, warpAge := x.wp.age, did := x.did, batch := now.2, seg := now.1.issueSeg, group := g,
                         view := x.wp.view, barrier := barrier }
  ((takeUp x op).modCore x.k fun c => { c with mq := c.mq ++ [cmd], nextId := c.nextId + 1, matrix := after now.1 }).modWarp x.k x.w fun wp => wp.countUp .ec
/-- An operation of the matrix engine that has run: its result in the matrix state (what no operation will find is let go), the operation gone from mq,
ec one less for its warp, and memory and the scratchpad as they were (R251). -/
def MqDone (o : Host.Outcome State Fault Refusal) (s : State) (k : Nat) (q : Command) (m : Matrix) : Prop :=
  ∃ t, o = .next t ∧ t.mem = s.mem ∧ (coreAt t k).matrix = m.prune (coreAt t k).mq ∧ (coreAt t k).mq = ((coreAt s k).mq.filter fun d => decide (d.id ≠ q.id) || d.marks) ∧
    (coreAt t k).scratch = (coreAt s k).scratch ∧
    ∀ wp, warpAt s k q.w = some wp → wp.age = q.warpAge → (warpAt t k q.w).map (fun wp => (wp.ec, wp.lc, wp.sc, wp.vregs, wp.sregs)) = some (wp.ec - 1, wp.lc, wp.sc, wp.vregs, wp.sregs)

/-- The instructions that reach memory, scratchpads, homes, queues, engines, gates and the supervisor's state, each with the form that R38's checks take
(R86, R91, R179, R183 to R185, R193, R197, R202, R205, R208, R248, R252, R290, R300, R302). -/
def systemRows (x : Ctx) (d a b : Reg) (off c : BitVec 8) (n : BitVec 16) (clr set : Bool) : List (Instr × Form) :=
  let once := fun op classes more writes => ({ op := op, classes := classes, guard := false, once := true, more := more, writes := writes } : Form)
  let lane := fun op classes more writes => ({ op := op, classes := classes, more := more, writes := writes } : Form)
  let fetch := fun op => { atomForm x op (Reg.vz d) a b with writes := [(d, x.width)] }
  let place := fun op => { op := op, classes := Reg.isV d && groupReg a 60 && Reg.unif b, typed := packType x.t : Form }
  (loadRows d a off).map (fun r => (r.1, lane r.2.1 (Reg.addrPair a && Reg.vz d) [(a, 2)] [(d, r.2.2.2.1)])) ++
  (storeRows d a off).map (fun r => (r.1, lane r.2.1 (Reg.addrPair a && r.2.2.2.2) [(a, 2), (d, r.2.2.2.1)] [])) ++
  [(.lds32 d a off, lane 0x6A (Reg.vz d) [(a, 1)] [(d, 1)]), (.lds64 d a off, lane 0x6B (Reg.vz d) [(a, 1)] [(d, 2)]), (.lds128 d a off, lane 0x6C (Reg.vz d) [(a, 1)] [(d, 4)]),
   (.sts32 d a off, lane 0x6D (Reg.any d) [(a, 1), (d, 1)] []), (.sts64 d a off, lane 0x6E (Reg.vz d || Reg.isS d) [(a, 1), (d, 2)] []),
   (.sts128 d a off, lane 0x6F (Reg.vz d) [(a, 1), (d, 4)] []),
   (.sld d a off, once 0x70 (Reg.spair a && Reg.sz d) [(a, 2)] [(d, x.width)]), (.sst d a off, once 0x71 (Reg.spair a && Reg.sz d) [(a, 2), (d, x.width)] []),
   (.pref c a off, lane 0x73 (Reg.addrPair a && decide (c.toNat < 2)) [(a, 2)] []),
   (.fetchAdd d a b, fetch 0x74), (.fetchMin d a b, fetch 0x75), (.fetchMax d a b, fetch 0x76), (.fetchAnd d a b, fetch 0x77), (.fetchOr d a b, fetch 0x78),
   (.fetchXor d a b, fetch 0x79), (.fetchXchg d a b, fetch 0x7A),
   (.cas d a b, { atomForm x 0x7B (Reg.isV d) a b with writes := [(d, x.width)], more := [(a, 2), (d, x.width)] }), (.red c a b, atomForm x 0x7C (decide (c.toNat < 6)) a b),
   (.cpy c a, once 0x7D (decide (c.toNat < 2) && groupReg a 56) (groupReads a 7) []), (.cpyo c a, once 0x7E (decide (c.toNat < 2) && groupReg a 56) (groupReads a 7) []),
   (.binit a b, barForm 0x80 (Reg.unif a && Reg.unif b) [(a, 1), (b, 1)] []), (.barv d a, { barForm 0x81 (Reg.sz d && Reg.unif a) [(a, 1)] [(d, 1)] with guard := true }),
   (.bexp a b, barForm 0x82 (Reg.unif a && Reg.unif b) [(a, 1), (b, 1)] []), (.bwait d a b, barForm 0x83 (Reg.sz d && Reg.unif a && Reg.unif b) [(a, 1), (b, 1)] [(d, 1)]),
   (.bwaity d a off, barForm 0x84 (Reg.unif d && Reg.unif a) [(d, 1), (a, 1)] []), (.bwaitt d a b, barForm 0x85 (Reg.sz d && Reg.unif a && Reg.spair b) [(a, 1), (b, 2)] [(d, 1)]),
   (.watch d a off, once 0x86 (Reg.spair a && Reg.sz d) [(a, 2)] [(d, x.width)]), (.wsleep d a, once 0x87 (Reg.sz d && Reg.unif a) [(a, 1)] [(d, 1)]),
   (.fence n, once 0x88 (decide (n.toNat < 6)) [] []), (.rel n, once 0x89 (decide (n.toNat < 6)) [] []), (.acq n, once 0x8A (decide (n.toNat < 6)) [] []),
   (.waitc a n, once 0x8B ((waitCounter a).isSome && decide (n.toNat < 64)) [] []), (.qfence n, once 0x8C (decide (n.toNat < 32)) [] []),
   (.pack d a b, { place 0x90 with more := [(d, 1), (b, 1)] ++ groupReads a 3 }), (.unpack d a b, { place 0x91 with more := [(b, 1)] ++ groupReads a 3, writes := [(d, 1)] }),
   (.mldb a, mqForm 0x92 (groupReg a 60) (groupReads a 3)), (.mmac c a, mqForm 0x93 (groupReg a 60 && decide (c.toNat < 2)) (groupReads a 3)),
   (.mrd clr set a, mqForm 0x94 (groupReg a 62) (groupReads a 2)), (.mzero n, mqForm 0x95 (decide (1 ≤ n.toNat) && decide (n.toNat ≤ 3)) []),
   (.manch c a, mqForm 0x96 (decide (1 ≤ c.toNat) && decide (c.toNat ≤ 3) && Reg.unif a) [(a, 1)]), (.epi a, mqForm 0x97 (groupReg a 58) (groupReads a 5)),
   (.mfence a, mqForm 0x98 (Reg.unif a) [(a, 1)]), (.mtest, mqForm 0x99 true []), (.mstat d n, { mqForm 0x9A (Reg.sz d && decide (n.toNat < 3)) [] with writes := [(d, 1)], lat := 4 }),
   (.gath d a, engineForm 0xA0 d a 56 8), (.pool d a, engineForm 0xA1 d a 56 8), (.mcred d a, engineForm 0xA2 d a 58 5), (.mcst d a, engineForm 0xA3 d a 58 5),
   (.agq d n, once 0xA4 (Reg.sz d && decide (n.toNat ≤ 255)) [] [(d, 1)]), (.wbcast d a, engineForm 0xA5 d a 58 5), (.dgst d a, engineForm 0xA6 d a 60 3),
   (.topen d a, tensorForm 0xA7 d a), (.tcommit d a, tensorForm 0xA8 d a),
   (.gate d n, once 0xB0 (Reg.sz d && decide (n.toNat ≤ 63)) [] [(d, 1)]), (.gret, once 0xB1 true [] []),
   (.treeq d n, once 0xB2 ((Reg.spair d || Reg.isZ d) && decide (n.toNat < 3)) [] [(d, 2)]), (.scrub c a b, scrubForm x c a b (scrubFirst x c a)),
   (.csrr d a, csrForm 0xC0 d a none), (.csrw d a b, csrForm 0xC1 d a (some b)), (.csrs d a b, csrForm 0xC2 d a (some b)), (.csrc d a b, csrForm 0xC3 d a (some b)),
   (.tret, once 0xC4 true [] []), (.wfi, once 0xC5 true [] []), (.sipi a b, once 0xC6 (Reg.unif a && Reg.unif b) [(a, 1), (b, 1)] []),
   (.tlbiAll, once 0xC7 true [] []), (.tlbiDom a, once 0xC7 (Reg.unif a) [(a, 1)] []), (.tlbiVa a b, once 0xC7 (Reg.unif a && Reg.spair b) [(a, 1), (b, 2)] []),
   (.tlbiVaall b, once 0xC7 (Reg.spair b) [(b, 2)] []), (.dslw a b, once 0xC8 (Reg.unif a && groupReg b 56) ((a, 1) :: groupReads b 8) []),
   (.dpre d a b, once 0xC9 (Reg.sz d && Reg.unif a && Reg.unif b) [(a, 1), (b, 1)] [(d, 1)]), (.ctxs a b, once 0xCA (Reg.unif a && Reg.spair b) [(a, 1), (b, 2)] []),
   (.ctxl a b, once 0xCB (Reg.unif a && Reg.spair b) [(a, 1), (b, 2)] []),
   (.wswap d n, once 0xCC (Reg.sz d && (decide (n.toNat ≤ 95) && x.s.paired.contains n.toNat && regionOf x.s x.part (2 * n.toNat))) [] [(d, 1)]),
   (.hgmb d a, once 0xCD (Reg.sz d && Reg.spair a) [(a, 2)] [(d, 1)]), (.snap n, once 0xCE true [] []), (.brk n, once 0xCF true [] [])]

end Sys2Proof.Safety
end

