-- ==== Sys2Proof/WellFormed.lean ====
section
/-! DEFINITION. Sys2Proof/WellFormed.lean: the terms of Instr that stand for something: a word's fields as the decoder can give them
(R17, R73, R302), a step's place as the machine has it (R2, R3, R5, R160). -/

namespace Sys2Proof

/-- A core of any profile: 512 compute, 128 service, 32 firmware (R3). -/
def coreOk (k : Nat) : Bool := decide (k < 672)
/-- A compute core. -/
def computeOk (k : Nat) : Bool := decide (k < 512)
/-- A warp slot and a gang table entry. -/
def placeOk (k w g : Nat) : Bool := coreOk k && decide (w < 64) && decide (g < 8)
def sliceOk (n : Nat) : Bool := decide (n < 32)
/-- A firmware lane (R121). -/
def laneOk (n l : Nat) : Bool := sliceOk n && decide (l < 32)
/-- A copy queue (R191). -/
def copyOk (k q : Nat) : Bool := computeOk k && decide (q < 2)
/-- A fabric port (R3). -/
def portOk (p : Nat) : Bool := decide (p < 64)
/-- A partition, named by a number below the number of slices. -/
def partOk (p : Nat) : Bool := decide (p < 32)
/-- A rectangle inside the grid of slices (R2, R4). -/
def gridRectOk (r : Rect) : Bool := decide (r.row0 ≤ r.row1) && decide (r.row1 < 4) && decide (r.col0 ≤ r.col1) && decide (r.col1 < 8)

/-- A unit that the core has (R5, R219, R325). -/
def unitOk : PowerUnit → Bool
  | .regFile q => decide (q < 4)
  | .granule q g => decide (q < 4) && decide (g < 64)
  | .scratchGroup g => decide (g < 16)
  | .matrix => true
  | .l1 => true

/-- A packet as R353 allows one: reserved bits zero, at most a line of payload. -/
def wirePacketOk (p : Packet) : Bool := decide (p.spare = 0) && decide (p.payload.length ≤ 128)

/-- The check. A word's constructor is well-formed unless it holds a field value that no word of it decodes to. -/
def Instr.wf : Instr → Bool
  | .stallRunout k w g => placeOk k w g
  | .yieldRunout k w g => placeOk k w g
  | .ageingThreshold k w g => placeOk k w g
  | .meetParkExpiry k w g => placeOk k w g
  | .vgrowGrant k q => computeOk k && decide (q < 4)
  | .binTimerExpiry k b => computeOk k && decide (b < 32)
  | .looseWarpPlace k b => computeOk k && decide (b < 32)
  | .launchRequest n l => laneOk n l
  | .dispatchBlock p => partOk p
  | .warpRetire k w => placeOk k w 0
  | .loadSectorLand k _ _ => coreOk k
  | .scratchpadLoadReturn k _ => coreOk k
  | .storeAck k _ => coreOk k
  | .homeLoad k _ _ => coreOk k
  | .homeStore k _ _ => coreOk k
  | .homeAtomic k _ l => coreOk k && decide (l < 33)
  | .atomicReturn k _ => coreOk k
  | .monitorDrop k w g => placeOk k w g
  | .wsleepTimeout k w g => placeOk k w g
  | .bwaittTimeout k w g => placeOk k w g
  | .combiningEntryExpiry k i => coreOk k && decide (i < 64)
  | .relDrainDone k w g => placeOk k w g
  | .acqWaitDone k w g => placeOk k w g
  | .translationWalk n => sliceOk n
  | .translationAnswer n _ => sliceOk n
  | .remoteAtomicTimeout k _ => coreOk k
  | .copyStart k q => copyOk k q
  | .copyChunk k q => copyOk k q
  | .copyPieceLand k q _ => copyOk k q
  | .copyoPieceAck k q _ => copyOk k q
  | .engineFaultDeliver k w => placeOk k w 0
  | .qfenceRelease k _ => coreOk k
  | .mldbRun k => computeOk k
  | .mmacRun k => computeOk k
  | .mrdRun k => computeOk k
  | .mzeroRun k => computeOk k
  | .manchRun k => computeOk k
  | .epiRun k => computeOk k
  | .mtestRun k _ => computeOk k
  | .mfenceRun k _ => computeOk k
  | .scrubMatrixRun k => computeOk k
  | .selfTestIdle k _ => computeOk k
  | .batchReopen k => computeOk k
  | .gathRun n => sliceOk n
  | .poolRun n => sliceOk n
  | .poolRowArrive n _ => sliceOk n
  | .mcredRun n => sliceOk n
  | .mcstRun n => sliceOk n
  | .wbcastRun n => sliceOk n
  | .dgstRun n => sliceOk n
  | .engineCommandComplete n q => sliceOk n && decide (q = .pq ∨ q = .fq)
  | .gateProceed k w => computeOk k && decide (w < 64)
  | .gretProceed k w => computeOk k && decide (w < 64)
  | .dpreComplete k => coreOk k
  | .warpHalt k w => computeOk k && decide (w < 64)
  | .unitScrubDone k u => computeOk k && unitOk u
  | .unitWake k u => computeOk k && unitOk u
  | .unitPowerDown k u => computeOk k && unitOk u
  | .deferredTrapRecord k w => computeOk k && decide (w < 64)
  | .notificationDrain n => sliceOk n
  | .serviceInterrupt k => coreOk k
  | .wfiWake k => coreOk k
  | .sipiDeliver k => coreOk k
  | .dispositionResume k w => computeOk k && decide (w < 64)
  | .dispositionKill k w => computeOk k && decide (w < 64)
  | .dispositionHandler k w => computeOk k && decide (w < 64)
  | .memoryError n _ => sliceOk n
  | .isctlWrite k => coreOk k
  | .ipendWrite k => coreOk k
  | .watchRegWrite k => coreOk k
  | .csrWrite k => coreOk k
  | .debugHalt k => computeOk k
  | .debugResume k => computeOk k
  | .debugStep k => computeOk k
  | .debugDump k => computeOk k
  | .debugArm k => computeOk k
  | .debugRead k => computeOk k
  | .debugBadCommand k => computeOk k
  | .packetFetch n l => laneOk n l
  | .packetNop n l => laneOk n l
  | .packetSeed n l => laneOk n l
  | .packetSignal n l => laneOk n l
  | .packetWaitsig n l => laneOk n l
  | .packetCistern n l => laneOk n l
  | .packetQuery n l => laneOk n l
  | .quantumEnd n => sliceOk n
  | .firmwareRestart p => partOk p
  | .reinterleaveGroup p => partOk p
  | .migrationReceipt p _ => partOk p
  | .frameReceive p f => portOk p && f.packets.all wirePacketOk
  | .portDown p => portOk p
  | .portRetrain p => portOk p
  | .keyRotation p => portOk p
  | .fabricReadResponse p k => portOk p && wirePacketOk k
  | .fabricWriteAck p k => portOk p && wirePacketOk k
  | .fabricAtomicResponse p k => portOk p && wirePacketOk k
  | .fabricMulticastLine p k => portOk p && wirePacketOk k
  | .fabricErrorResponse p k => portOk p && wirePacketOk k
  | .windowAccess p k => portOk p && wirePacketOk k
  | .frameReplay p => portOk p
  | .cxlHostRequest p _ => partOk p
  | .cxlRegionReclaim p _ => partOk p
  | .refreshWindow d => decide (d < 8)
  | .cisternScrub d _ => decide (d < 8)
  | .sensorSample n r => sliceOk n && decide (r.volts.length = 4) && decide (r.amps.length = 4)
  | .powerQuotaUpdate q => decide (q ≤ 64)
  | .partitionForm p r _ => partOk p && gridRectOk r
  | .bootRetry p _ => partOk p
  | .partitionReset p => partOk p
  | _ => true

end Sys2Proof
end

