-- ==== Sys2Proof/Certificates/Slice0/Obligations.lean ====
section
/-! DEFINITION. Sys2Proof/Certificates/Slice0/Obligations.lean: the statements for the provers. -/

open Sys2Proof Sys2Proof.Machine Sys2Proof.Safety

/-- A step runs the instruction that stands at the program counter (R15, R36, R127): where the gang chosen for the cycle lives and its bundle's page is in
the TLB, executable, the step is exec of the instruction that the word there decodes to; a word that decodes to none meets the checks of R38 up to its
fault; what the surroundings put next is executed first; with no gang chosen, a cycle of the quadrant in turn begins, or the next event happens; on a
compute core a bundle that no TLB entry covers holds the gang until its translation, and one of a page without x, or of an address that is not
canonical, is the page fault of R139 at the program counter (the two words of its record: the model's choice, log entry 37, where nothing translates). -/
def Obligations.StepRunsDecoded : Prop :=
  (∀ (s : State) (cur : Cursor) (rest : List Cursor) (x : Ctx) (e : TlbEntry), s.agenda = [] → s.pair = cur :: rest → ctxOf { s with pair := rest, cur := cur } = some x →
    tlbLook x.c x.did x.gn.pc = .hit e → e.x = true →
    let w := memWord s (physKey x.part (e.paOf x.gn.pc))
    let u := { s with pair := rest, cur := cur, insn := w, ctl := ctlThrough x.s x.part e x.gn.pc }
    (∀ i, decode w = .ok i → step s = exec i u) ∧ ∀ err, decode w = .error err → step s = run u (badWord w err)) ∧
  (∀ (s : State) (i : Instr) (rest : List Instr), s.agenda = i :: rest → step s = exec i { s with agenda := rest }) ∧
  (∀ (s : State), s.agenda = [] → s.pair = [] → s.turn % 2 = 0 →
    (∀ t cur rest, beginCycle s = (t, cur :: rest) → step s = issue { t with pair := rest } cur) ∧ ∀ t, beginCycle s = (t, []) → step s = .next t) ∧
  (∀ (s : State), s.agenda = [] → s.pair = [] → s.turn % 2 = 1 →
    (∀ f, nextEvent s = some f → step s = f { turnOver s with next := s.next + 1 }) ∧ (nextEvent s = none → step s = .next (turnOver s))) ∧
  ∀ (s : State) (cur : Cursor) (rest : List Cursor) (x : Ctx), s.agenda = [] → s.pair = cur :: rest → ctxOf { s with pair := rest, cur := cur } = some x → isCompute x.k = true →
    let u := { s with pair := rest, cur := cur, insn := 0, ctl := 0 }
    let y := { x with s := u }
    (tlbLook x.c x.did x.gn.pc = .miss → step s = .next (queueMiss (y.setStatus (.held .tlbMiss)) x.k x.did x.gn.pc)) ∧
    (tlbLook x.c x.did x.gn.pc = .notCanonical → step s = .next (dropAllRefusals (takeTrap y { cause := 0x08, detail := 9, addr := x.gn.pc }) x.k)) ∧
    ∀ e, tlbLook x.c x.did x.gn.pc = .hit e → e.x = false →
      let v := { s with pair := rest, cur := cur, insn := memWord s (physKey x.part (e.paOf x.gn.pc)), ctl := ctlThrough x.s x.part e x.gn.pc }
      step s = .next (dropAllRefusals (takeTrap { x with s := v } { cause := 0x08, detail := 1, addr := x.gn.pc }) x.k)

/-- Words written from the encoding tables (R23 to R25, R36, R54, R60, R71, R73, R74, R84, R86, R250, R302): one or two of each family, and words that are
no instruction: the decoder's answer to each. The codes of the instruction table, and no other, are instructions. -/
def Obligations.DecodeWords : Prop :=
  decode 0x01000000 = .ok .nop ∧ decode 0x02FFFFFE = .ok (.bra 0xFFFFFE) ∧ decode 0x03E10004 = .ok (.sbra (.k 1) 4) ∧ decode 0x13030102 = .ok (.add (.v 3) (.v 1) (.v 2)) ∧
  decode 0x2E130180 = .ok (.cmp 2 3 (.v 1) (.s 0)) ∧ decode 0x2F41C0C1 = .ok (.plog 8 1 (.p 0) (.p 1)) ∧ decode 0x30050A2E = .ok (.cvt (.v 5) (.v 10) 1 14) ∧
  decode 0x3D080100 = .ok (.modef 8 0x100) ∧ decode 0x41040506 = .ok (.pickIdx (.v 4) (.v 5) (.v 6)) ∧ decode 0x5180FFFF = .ok (.smovi (.s 0) 0xFFFF) ∧
  decode 0x62101204 = .ok (.ld32 (.v 16) (.v 18) 4) ∧ decode 0x7B060810 = .ok (.cas (.v 6) (.v 8) (.v 16)) ∧ decode 0x88000003 = .ok (.fence 3) ∧
  decode 0x94038000 = .ok (.mrd true true (.s 0)) ∧ decode 0xA1FF8800 = .ok (.pool .z (.s 8)) ∧ decode 0xB0820001 = .ok (.gate (.s 2) 1) ∧ decode 0xC18084FF = .ok (.csrw (.s 0) (.s 4) .z) ∧
  decode 0xC7028082 = .ok (.tlbiVa (.s 0) (.s 2)) ∧
  decode 0x2F81C0C1 = .error .operand ∧ decode 0x94040000 = .error .operand ∧ decode 0xC7040000 = .error .operand ∧ decode 0x3E000000 = .error .opcode ∧ decode 0x7F000000 = .error .opcode ∧
  decode 0xFF000000 = .error .opcode ∧
∀ w : Word, decode w = .error .opcode ↔
    let op := (w.extractLsb' 24 8).toNat
    ¬ (op ≤ 0x0F ∨ (0x10 ≤ op ∧ op ≤ 0x3D) ∨ (0x40 ≤ op ∧ op ≤ 0x4F) ∨ (0x50 ≤ op ∧ op ≤ 0x5F) ∨ (0x60 ≤ op ∧ op ≤ 0x7E) ∨ (0x80 ≤ op ∧ op ≤ 0x8C) ∨ (0x90 ≤ op ∧ op ≤ 0x9A) ∨
      (0xA0 ≤ op ∧ op ≤ 0xA8) ∨ (0xB0 ≤ op ∧ op ≤ 0xB3) ∨ (0xC0 ≤ op ∧ op ≤ 0xCF))

/-- The module right after reset (R9, R30, R126, R376, R397): no partition is formed and no slice belongs to one; every core is held with no warp, no
valid domain slot, an empty TLB and an empty L1, its clock at 0, ISCTL at its reset value, its interrupts disabled and none pending; every register of
a gang that starts reads 0 and its mode is the launch mode; every frame belongs to the kernel; the issue quota withholds nothing; memory is canonical
and reads zero, which is the model's choice for memory of no partition. That memory of no partition reads zero is the model's choice (log entry 2),
and the lifecycle at reset is too (log entry 3); the values that the statement names for registers are those of the rules. -/
def Obligations.ResetState : Prop :=
  let s := State.reset
  MemoryCanonical s ∧ (∀ a, cellRead s.mem a = 0) ∧ (∀ p, (partAt s p).slices = []) ∧ (∀ n, (sliceAt s n).part = none ∧ (sliceAt s n).quota = 64) ∧
  (∀ k, let c := coreAt s k
    c.held = true ∧ c.warps = [] ∧ c.slots = [] ∧ c.tlb = [] ∧ c.l1 = [] ∧ c.inflight = [] ∧ c.clk = 0 ∧ c.isctl = 0x08000000 ∧
    c.svc.ie = false ∧ c.svc.ipend = 0 ∧ c.svc.ienable = 0 ∧ (∀ w, warpAt s k w = none)) ∧
  (∀ pa, (potAt s pa).owner = 0xFFFF ∧ (potAt s pa).world = false) ∧ s.quota = 64 ∧
  ∀ r l, ({} : Warp).vreg r l = 0 ∧ ({} : Gang).mode = 0x27

/-- Decode and encode agree: the word of every instruction decodes to it, whatever its fields, and every instruction that a word decodes to has a word of
the same opcode; a step of the machine has none. -/
def Obligations.RoundTrip : Prop :=
  (∀ i, Laws.RoundTrip.Statement i) ∧ ∀ (w : Word) (i : Instr), decode w = .ok i → ∃ v, encode i = some v ∧ decode v = .ok i ∧ v.extractLsb' 24 8 = w.extractLsb' 24 8

/-- Memory keeps its canonical form: addresses rising, no listed byte zero. The form is the model's own (log entry 2). -/
def Obligations.MemoryStaysCanonical : Prop :=
  ∀ (s t : State), MemoryCanonical s → step s = .next t → MemoryCanonical t

/-- Every instruction meaning and every event answers a next state wherever the cursor names a live gang, and otherwise either a next state or the one
named fault: nothing that the spec gives an effect is refused. -/
def Obligations.ExecAnswers : Prop :=
  ∀ (i : Instr) (s : State), (∃ t, exec i s = .next t) ∨ (exec i s = .fault .noGang ∧ ctxOf s = none)

/-- The order of the common faults (R38): for every lane and scalar ALU instruction, every memory, scratchpad, atomic, copy, barrier, fence, plane,
matrix, engine, gate and supervision instruction, the bundle, then the profile (the privilege of a supervision instruction is one), a register read
early that is pending, the operands, a latch that must hold a value, the register bound, the element type, the edge policy and the stall check are
checked in this order, and the first that fails is the fault (or the hold); it changes no register of the warp and leaves the program counter where it
was. Where none fails and a register of the instruction is pending, the gang is held (R18, R132). -/
def Obligations.FaultOrder : Prop :=
  ∀ (s : State) (x : Ctx) (d a b : Reg) (off c : BitVec 8) (n : BitVec 16) (clr set : Bool), ctxOf s = some x →
    (∀ r ∈ (elementRows x d a b).map (fun r => (r.1, r.2.1)) ++ (operandRows x d a b n c).map (fun r => (r.1, r.2.1)) ++ (scalarRows x d a b n).map (fun r => (r.1, r.2.1)) ++
      systemRows x d a b off c n clr set,
      let f := r.2
      let traps := fun (t : Trap) => exec r.1 s = .next (dropAllRefusals (takeTrap x t) x.k)
      let held := exec r.1 s = .next (x.setStatus (.held .register))
      (2 ≤ bitsW x.s.ctl 31 30 → traps { cause := 0x02 }) ∧
      (bitsW x.s.ctl 31 30 < 2 →
        (∀ c, profileFault x.k f.op = some c → traps { cause := c }) ∧
        (profileFault x.k f.op = none → (earlyHit x f = true → held) ∧ (earlyHit x f = false →
          (operandOk x f = false → traps { cause := 0x03 }) ∧
          (operandOk x f = true →
            (latchMissing x f ≠ 0 → traps { cause := 0x03, lanes := some (latchMissing x f) }) ∧
            (latchMissing x f = 0 →
              (boundOk x f = false → traps { cause := 0x06 }) ∧
              (boundOk x f = true →
                (f.typed = false → traps { cause := 0x05 }) ∧
                (f.typed = true →
                  (edgeMissing x f ≠ 0 → traps { cause := 0x05, lanes := some (edgeMissing x f) }) ∧
                  (edgeMissing x f = 0 →
                    (stallShort x f = true → traps { cause := 0x0B }) ∧
                    (stallShort x f = false → pendingHit x f = true → held)))))))))) ∧
    ∀ (t : Trap), isCompute x.k = true →
      let u := dropAllRefusals (takeTrap x t) x.k
      (gangAt u x.k x.w x.g).map (fun gn => (gn.trapped, gn.pc, gn.mask, gn.mode)) = some (true, x.gn.pc, x.gn.mask, x.gn.mode) ∧
      (warpAt u x.k x.w).map (fun wp => (wp.vregs, wp.sregs, wp.preds, wp.lc, wp.sc, wp.ec)) = some (x.wp.vregs, x.wp.sregs, x.wp.preds, x.wp.lc, x.wp.sc, x.wp.ec) ∧
      (∀ k, k ≠ x.k → (coreAt u k).warps = (coreAt x.s k).warps ∧ (coreAt u k).scratch = (coreAt x.s k).scratch ∧ (coreAt u k).svc = (coreAt x.s k).svc)

/-- Shifts, element by element (R67): each, where it issues normally, gives every element of d the matching element of a shifted or rotated by the
unsigned value of the matching element of b (FSH: of the element of old d mod w); counts of w or more give zeros, copies of the top bit, or are
reduced mod w. -/
def Obligations.ShiftMeaning : Prop :=
  ∀ (s : State) (x : Ctx) (d a b : Reg), ctxOf s = some x → x.t.isInt = true →
    ∀ r ∈ ([(.shl d a b, 0x24, fun p q _ => (BitVec.ofNat x.t.width p <<< q).toNat), (.shr d a b, 0x25, fun p q _ => (BitVec.ofNat x.t.width p >>> q).toNat),
        (.sar d a b, 0x26, fun p q _ => (BitVec.sshiftRight (BitVec.ofNat x.t.width p) q).toNat), (.rol d a b, 0x27, fun p q _ => (BitVec.rotateLeft (BitVec.ofNat x.t.width p) q).toNat),
        (.fsh d a b, 0x28, fun p q c => (BitVec.setWidth x.t.width ((BitVec.ofNat x.t.width p ++ BitVec.ofNat x.t.width q) >>> (c % x.t.width))).toNat)] :
        List (Instr × Nat × (Nat → Nat → Nat → Nat))),
      Issues x (aluForm x r.2.1 d a b true true (decide (r.2.1 = 0x28)) true 4) → Answers (exec r.1 s) x
        (x.setWarp (x.wp.dst x.active d x.width fun l => perElem x.t r.2.2 (opA x a l) (opB x b l) (opD x d l))) (nextSlot x.gn.pc)

/-- Logic and bit counts (R66, R68): AND, OR, XOR and NOT act on all the bits of the operand, whatever its elements and whatever sat; CLZ gives each
element's number of leading zeros, and w for zero, POPC its number of ones, BREV its bits reversed. -/
def Obligations.BitMeaning : Prop :=
  ∀ (s : State) (x : Ctx) (d a b : Reg), ctxOf s = some x →
    (∀ r ∈ ([(.and d a b, 0x20, b, fun l => BitVec.ofNat x.bits (opA x a l) &&& BitVec.ofNat x.bits (opB x b l)), (.or d a b, 0x21, b, fun l => BitVec.ofNat x.bits (opA x a l) ||| BitVec.ofNat x.bits (opB x b l)),
        (.xor d a b, 0x22, b, fun l => BitVec.ofNat x.bits (opA x a l) ^^^ BitVec.ofNat x.bits (opB x b l)), (.not d a, 0x23, .z, fun l => ~~~(BitVec.ofNat x.bits (opA x a l)))] :
        List (Instr × Nat × Reg × (Nat → BitVec x.bits))),
      Issues x (aluForm x r.2.1 d a r.2.2.1 true (decide (r.2.1 ≠ 0x23)) false true 4) →
        Answers (exec r.1 s) x (x.setWarp (x.wp.dst x.active d x.width fun l => (r.2.2.2 l).toNat)) (nextSlot x.gn.pc)) ∧
    (x.t.isInt = true → ∀ r ∈ ([(.clz d a, 0x29, fun p => ((List.range x.t.width).find? fun i => p.testBit (x.t.width - 1 - i)).getD x.t.width),
        (.popc d a, 0x2A, fun p => ((List.range x.t.width).filter p.testBit).length), (.brev d a, 0x2B, fun p => (BitVec.reverse (BitVec.ofNat x.t.width p)).toNat)] : List (Instr × Nat × (Nat → Nat))),
      Issues x (aluForm x r.2.1 d a .z true false false true 4) → Answers (exec r.1 s) x
        (x.setWarp (x.wp.dst x.active d x.width fun l => perElem x.t (fun p _ _ => r.2.2 p) (opA x a l) 0 (opD x d l))) (nextSlot x.gn.pc))

/-- Integer elements (R51, R62, R63, R64): the sums, differences and products are those of w-bit words, whatever the sign; with sat they are the nearest
value of the type; MULH is the product's high half; the quotient is rounded toward zero and the remainder makes up the rest; a zero divisor gives all
ones and the dividend, the minimum divided by −1 the minimum, or with sat the maximum; MIN and MAX compare by value. -/
def Obligations.IntegerMeaning : Prop :=
  ∀ (t : EType) (m : FMode) (x y c : Nat), t.isInt = true → x < 2 ^ t.width → y < 2 ^ t.width → c < 2 ^ t.width →
    let w := t.width
    let v := intValue t
    let near := fun (i : Int) => max (intMin t) (min i (intMax t))
    (m.sat = false → addElem t m x y = (x + y) % 2 ^ w ∧ subElem t m x y = (x + 2 ^ w - y) % 2 ^ w ∧ mulElem t m x y = x * y % 2 ^ w ∧
      madElem t m x y c = (x * y + c) % 2 ^ w ∧ negElem t m x = (2 ^ w - x) % 2 ^ w) ∧
    (m.sat = true → v (addElem t m x y) = near (v x + v y) ∧ v (subElem t m x y) = near (v x - v y) ∧ v (mulElem t m x y) = near (v x * v y) ∧
      v (madElem t m x y c) = near (v x * v y + v c) ∧ v (negElem t m x) = near (-(v x)) ∧ v (absElem t m x) = near (v x).natAbs) ∧
    v x * v y = v (mulhElem t x y) * 2 ^ w + (x * y % 2 ^ w : Nat) ∧
    (y = 0 → divElem t m x y = 2 ^ w - 1 ∧ remElem t m x y = x) ∧
    (y ≠ 0 → ¬ (v x = intMin t ∧ v y = -1) → v x = v y * v (divElem t m x y) + v (remElem t m x y) ∧ (v (remElem t m x y)).natAbs < (v y).natAbs ∧
      (v (remElem t m x y) ≠ 0 → (v (remElem t m x y) < 0 ↔ v x < 0))) ∧
    (v x = intMin t → v y = -1 → remElem t m x y = 0 ∧ v (divElem t m x y) = if m.sat then intMax t else intMin t) ∧
    v (minMax false t m x y) = min (v x) (v y) ∧ v (minMax true t m x y) = max (v x) (v y)

/-- ADDC (R70): in every lane of the gang, whatever the guard, d holds the low 32 bits of a + b + carry-in, where the carry-in is predicate gp of the
lane, inverted under ginv; predicate gp of the lane then holds the carry out, inverted under ginv; p7 is never written. -/
def Obligations.CarryAdd : Prop :=
  ∀ (s : State) (x : Ctx) (d a b : Reg), ctxOf s = some x →
    Issues x { aluForm x 0x3B d a b true true false (decide (x.t = .i32 ∨ x.t = .n32)) 4 with
               acts := some x.gn.mask, writes := [(d, 1), (predReg (modeGp x.mode), 1)] } →
    let sum := addcSum x a b
    let t := (x.wp.dst x.gn.mask d 1 sum).predIn x.gn.mask (modeGp x.mode) fun l => decide (2 ^ 32 ≤ sum l) != modeGinv x.mode
    Answers (exec (.addc d a b) s) x (x.setWarp t) (nextSlot x.gn.pc) ∧
    (∀ l, l < 32 → sum l = (srcA x a l).toNat + (srcB x b l).toNat +
      if ((predMask x.wp (modeGp x.mode)).getLsbD l != modeGinv x.mode) = true then 1 else 0) ∧
    (modeGp x.mode = 7 → (∀ l, l < 32 → sum l = (srcA x a l).toNat + (srcB x b l).toNat + if modeGinv x.mode then 0 else 1) ∧
      ∀ l, l < 32 → (predMask t 7).getLsbD l = true)

/-- Every element-wise lane instruction (R40, R47, R48, R51, R52, R62 to R69, R77 to R80): where it issues normally, exec answers a next state in which
each active lane's d holds its result element by element, the gang stands at the next slot, and nothing else differs. -/
def Obligations.ElementResults : Prop :=
  ∀ (s : State) (x : Ctx) (d a b : Reg), ctxOf s = some x → ∀ r ∈ elementRows x d a b, Issues x r.2.1 →
    Answers (exec r.1 s) x
      (x.setWarp (x.wp.dst x.active d x.width fun l => perElem x.t r.2.2 (opA x r.2.1.a l) (opB x r.2.1.b l) (opD x d l))) (nextSlot x.gn.pc)

/-- The lane instructions that write one value per lane (R61, R65, R66, R149, R150): where each issues normally, exec answers a next state in which d of
each lane it acts in holds that value, and nothing else differs. -/
def Obligations.OperandResults : Prop :=
  ∀ (s : State) (x : Ctx) (d a b : Reg) (n : BitVec 16) (op : BitVec 8), ctxOf s = some x → ∀ r ∈ operandRows x d a b n op, Issues x r.2.1 →
    Answers (exec r.1 s) x (x.setWarp (x.wp.dst (r.2.1.lanes x) d r.2.2.1 r.2.2.2)) (nextSlot x.gn.pc)

/-- MODE and MODEF (R82, R83): MODE gives the old mode to d and loads the mode from a (z leaves it); MODEF replaces one field. CVT (R74 to R76): the
converted part in each active lane, and nothing else differs. -/
def Obligations.ModeAndConversion : Prop :=
  ((∀ (s : State) (x : Ctx) (d a : Reg), ctxOf s = some x →
    Issues x { op := 0x3C, classes := Reg.sz d && Reg.unif a, guard := false, once := true, more := [(a, 1)], writes := [(d, 1)], lat := 2,
               typed := Reg.isZ a || modeOk (x.rd 0 a), early := regCodes a 1 } →
    Answers (exec (.mode d a) s) x
      (x.withMode (x.wp.dstS d 1 (x.mode.toNat % 2 ^ 18)) (if Reg.isZ a then x.gn.mode else x.rd 0 a)) (nextSlot x.gn.pc)) ∧
  ∀ (s : State) (x : Ctx) (f : BitVec 8) (n : BitVec 16) (m : Word), ctxOf s = some x → modefValue x.gn.mode f.toNat n.toNat = some m →
    Issues x { op := 0x3D, guard := false, once := true } →
    Answers (exec (.modef f n) s) x (x.withMode x.wp m) (nextSlot x.gn.pc)) ∧
  (∀ (s : State) (x : Ctx) (d a : Reg) (part : BitVec 3) (t : BitVec 5) (ts : EType), ctxOf s = some x → etypeOf t.toNat = some ts →
    Issues x { op := 0x30, classes := Reg.vz d && decide (part.toNat < cvtParts ts x.t), a := a, aw := ts.regs, aLane := !ts.is64, res := !x.t.is64,
               more := if ts.elems < x.t.elems then [(d, x.t.regs)] else [], writes := [(d, x.t.regs)], lat := if ts.is64 || x.t.is64 then 10 else 5 } →
    Answers (exec (.cvt d a part t) s) x
      (x.setWarp (x.wp.dst x.active d x.t.regs fun l =>
        cvtOp ts x.t x.fm part.toNat (if ts.is64 then (x.rd64 l a).toNat else (srcA x a l).toNat) (opD x d l))) (nextSlot x.gn.pc))

/-- CMP and PLOG (R71 to R73): each active lane's bit of predicate p takes the condition or the truth-table bit; p7 is not written. VOTE (R147, R152): all
and any set a predicate in the active lanes; ballot and cnt write the mask or its count in the active lanes, or once to a scalar whatever the lane
mask. -/
def Obligations.PredicateResults : Prop :=
  (∀ (s : State) (x : Ctx) (p : BitVec 3) (a b : Reg), ctxOf s = some x →
    (∀ c : BitVec 5,
      Issues x { op := 0x2E, classes := decide (c.toNat < 24), a := a, b := b, aw := x.width, bw := x.width, aLane := !x.is64, bLane := !x.is64,
                 writes := [(predReg p.toNat, 1)], lat := 4 } →
      Answers (exec (.cmp c p a b) s) x
        (x.setWarp (x.wp.predIn x.active p.toNat fun l => condHolds c.toNat x.t x.fm.ftz (opA x a l) (opB x b l))) (nextSlot x.gn.pc)) ∧
    ∀ t : BitVec 4,
      Issues x { op := 0x2F, classes := Reg.isP a && Reg.isP b, more := [(a, 1), (b, 1)], writes := [(predReg p.toNat, 1)], lat := 2 } →
      Answers (exec (.plog t p a b) s) x
        (x.setWarp (x.wp.predIn x.active p.toNat fun l => truthBit t.toNat (decide (x.rd l a ≠ 0)) (decide (x.rd l b ≠ 0)))) (nextSlot x.gn.pc)) ∧
  (∀ (s : State) (x : Ctx) (d a : Reg) (op : BitVec 8), ctxOf s = some x →
    Issues x { op := 0x40, classes := decide (op.toNat < 4) && (if op.toNat < 2 then Reg.isP d || Reg.isZ d else Reg.vz d || Reg.isS d) && Reg.isP a,
               more := [(a, 1)], writes := [(d, 1)], lat := 6, res := decide (2 ≤ op.toNat) && Reg.vz d } →
    let ballot := predLanes x x.active a
    let r : Nat := match op.toNat with
      | 0 => if ballot = x.active then 1 else 0
      | 1 => if ballot = 0 then 0 else 1
      | 2 => ballot.toNat
      | _ => popCount ballot
    Answers (exec (.vote d a op) s) x (x.setWarp (if Reg.isS d then x.wp.dstS d 1 r else x.wp.dst x.active d 1 fun _ => r)) (nextSlot x.gn.pc))

/-- The scalar ALU (R84): where it issues normally, exec answers a next state in which d holds the result mod 2^w, whatever the lane mask and the guard,
and nothing else differs. -/
def Obligations.ScalarResults : Prop :=
  (∀ (s : State) (x : Ctx) (d a b : Reg) (n : BitVec 16), ctxOf s = some x → ∀ r ∈ scalarRows x d a b n, Issues x r.2.1 →
    Answers (exec r.1 s) x (x.setWarp (x.wp.dstS d x.width r.2.2)) (nextSlot x.gn.pc)) ∧
  ∀ (s : State) (x : Ctx) (d : Reg) (n : BitVec 16), ctxOf s = some x →
    Issues x { op := 0x52, classes := Reg.sz d, guard := false, once := true, more := [(d, 1)], writes := [(d, 1)], lat := 2 } →
    Answers (exec (.smovh d n) s) x (x.setWarp (x.wp.dstS d 1 (n.toNat * 65536 + (x.rd 0 d).toNat % 65536))) (nextSlot x.gn.pc)

/-- The shuffles (R148): d of each active lane takes the a value of its source lane, or its own where the source is not in the gang; predicate gp of the
lane then tells whether the source was valid, inverted under ginv. A neighbour select that leaves the gang at the source lane gives a value that the
model leaves free (log entry 35). REDX and V2S (R149, R151, R152): REDX combines the a values of the active lanes into d, once where d is a scalar;
V2S copies the value of one active lane to a scalar, or zero. -/
def Obligations.LaneExchange : Prop :=
  (∀ (s : State) (x : Ctx) (d a b : Reg), ctxOf s = some x →
    ∀ r ∈ [(Instr.pickIdx d a b, 0x41, 0), (.pickUp d a b, 0x42, 1), (.pickDn d a b, 0x43, 2), (.pickXor d a b, 0x44, 3)],
      let src := fun l => pickSource x r.2.2 (srcB x b l).toNat l
      Issues x { laneForm x r.2.1 (Reg.vz d) a x.width d x.width with
                 b := b, bw := 1, bLane := true, ownPoison := true, writes := [(d, x.width), (predReg (modeGp x.mode), 1)],
                 from_ := some ((List.range 32).map fun l => (src l).getD l), noEdge := true,
                 early := if x.asel = 3 ∧ !x.blatch then regCodes b 1 else [] } →
      takenPoison x x.active (fun l => (src l).getD l) a x.width = none →
      Answers (exec r.1 s) x
        { (x.setWarp ((x.wp.dst x.active d x.width fun l => pickValue x a l ((src l).getD l)).predIn x.active (modeGp x.mode)
          fun l => (src l).isSome != modeGinv x.mode)) with free := x.s.free + 32 } (nextSlot x.gn.pc) ∧
      ∀ l, x.asel = 0 ∨ x.asel = 3 ∨ neighbourOut x (x.asel == 1) ((src l).getD l) = false →
        pickValue x a l ((src l).getD l) = opA x a ((src l).getD l)) ∧
  (∀ (s : State) (x : Ctx) (d a b : Reg), ctxOf s = some x →
    (∀ op : BitVec 8,
      let r := combineAll op.toNat x.t x.fm x.bits (laneValues x a x.active fun _ => true)
      Issues x (scanForm x 0x47 d a op (Reg.vz d || Reg.isS d)) →
      Answers (exec (.redx d a op) s) x (x.setWarp (if Reg.isS d then x.wp.dstS d x.width r else x.wp.dst x.active d x.width fun _ => r)) (nextSlot x.gn.pc)) ∧
    (let c := (x.rd 0 b).toNat
     let src := if c ≤ 31 then c else firstLane x.active
     let live := decide (src < 32) && x.active.getLsbD src
     let f := { laneForm x 0x49 (Reg.sz d && Reg.unif b) a x.width d x.width with aOk := Reg.isV a, more := [(b, 1)], ownPoison := true, res := false }
     Issues x f → holdPoison x f = none → (live = true → takenPoison x (bitMask src) (fun l => l) a x.width true = none) →
     Answers (exec (.v2s d a b) s) x (x.setWarp (x.wp.dstS d x.width (if live then opA x a src else 0))) (nextSlot x.gn.pc)))

/-- VMOVX and VSTX (R153): where every computed number is in the allocation, VMOVX gives d the register numbered a + b of each active lane, and VSTX
writes a to the register numbered d + b of each. -/
def Obligations.IndexedRegisters : Prop :=
  ∀ (s : State) (x : Ctx) (d a b : Reg), ctxOf s = some x →
    (let num := fun l => vNum a + (srcB x b l).toNat
     let f : Form := { op := 0x4A, classes := Reg.vz d, a := a, b := b, aw := 1, bw := 1, aOk := Reg.isV a, bOk := Reg.isV b || Reg.unif b, aLane := true,
                       bLane := true, res := true, ownPoison := true, writes := [(d, 1)], lat := 6, waits := allVectors x.wp,
                       indexed := if x.asel = 3 then none else some (vNum a), early := if x.blatch then [] else regCodes b 1 }
     Issues x f → holdPoison x f = none → indexedPoison x num = none →
     Answers (exec (.vmovx d a b) s) x (x.setWarp (x.wp.dst x.active d 1 fun l => (srcSel x (fun m => x.wp.vreg (num l) m) l).toNat)) (nextSlot x.gn.pc)) ∧
    (let num := fun l => vNum d + (srcB x b l).toNat
     Issues x { op := 0x4B, classes := Reg.isV d, a := a, b := b, aw := 1, bw := 1, bOk := Reg.isV b || Reg.unif b, aLane := true, bLane := true,
                indexed := some (vNum d), early := if x.blatch then [] else regCodes b 1,
                waits := ((lanesOf x.active).map num).filter fun n => decide (n < 8 * x.wp.blocks) } →
     Answers (exec (.vstx d a b) s) x (x.setWarp ((lanesOf x.active).foldl (fun wp l => wp.setV (num l) l (srcA x a l)) x.wp)) (nextSlot x.gn.pc))

/-- NOP, SBRA and YIELD (R54, R56, R59): NOP goes to the next slot with no effect; SBRA moves the whole gang to its target when the value of its field is
not zero; YIELD makes the gang ineligible for max(1, n) cycles at least, and the warp holds no greedy hold after it. JOIN and EXEC (R141, R143): JOIN
pushes an entry of the rejoin address, the lane mask and a new tag; EXEC takes the lanes outside its mask from the gang and holds them in the top
entry. -/
def Obligations.SimpleControl : Prop :=
  (∀ (s : State) (x : Ctx), ctxOf s = some x →
    (Issues x (ctlForm 0x01) → Answers (exec .nop s) x x.s (nextSlot x.gn.pc)) ∧
    (∀ (c : Reg) (off : BitVec 16), Issues x { ctlForm 0x03 (Reg.unif c || decide (c = .p 7)) with more := [(c, 1)] } →
      Answers (exec (.sbra c off) s) x x.s (if x.rd 0 c = 0 then nextSlot x.gn.pc else relTarget x.gn.pc off.toInt)) ∧
    ∀ n : BitVec 16, Issues x (ctlForm 0x0E) →
      ∃ t, exec (.yield n) s = .next t ∧ Advanced x x.s t (nextSlot x.gn.pc) ∧
        (∀ gn, gangAt t x.k x.w x.g = some gn → gn.status = .stalled ∧ gn.yielded = true ∧ max 1 n.toNat ≤ gn.stall) ∧
        AMap.get? (coreAt t x.k).greedy (x.w / 16) ≠ some x.w) ∧
  (∀ (s : State) (x : Ctx), ctxOf s = some x →
    (∀ off : BitVec 16, Issues x (ctlForm 0x08) → x.gn.stack.length < 16 →
      Answers (exec (.join off) s) x
        (x.setWarp { x.wp with tag := x.wp.tag + 1, gangs := AMap.put x.wp.gangs x.g { x.gn with
          stack := { rejoin := relTarget x.gn.pc off.toInt, mask := x.gn.mask, tag := x.wp.tag } :: x.gn.stack } }) (nextSlot x.gn.pc)) ∧
    ∀ a : Reg, Issues x { ctlForm 0x0F (Reg.unif a || Reg.isP a) with more := [(a, 1)] } →
      let m : Mask := match a with | .p n => predMask x.wp n | _ => x.rd 0 a
      let gone := x.gn.mask &&& ~~~m
      (gone = 0 → Answers (exec (.exec a) s) x x.s (nextSlot x.gn.pc)) ∧
      ∀ e rest, x.gn.stack = e :: rest → gone ≠ 0 →
        Answers (exec (.exec a) s) x (x.setWarp { x.wp with gangs := AMap.put x.wp.gangs x.g { x.gn with
          mask := x.gn.mask &&& m, stack := { e with held := e.held ||| gone } :: rest } }) (nextSlot x.gn.pc))

/-- The per-lane transfers (R55, R138 to R140): where its checks pass, each sends every active lane to its target and the others to the next slot; CALL
and CALLX first write the link pair of the lanes that call. -/
def Obligations.LaneTransfers : Prop :=
  ∀ (s : State) (x : Ctx) (d a : Reg), ctxOf s = some x →
    (∀ off : BitVec 24, Issues x { op := 0x02 } →
      exec (.bra off) s = .next (laneTransfer x { op := 0x02 } x.s fun _ => relTarget x.gn.pc off.toInt)) ∧
    (∀ off : BitVec 16,
      let f : Form := { op := 0x05, classes := Reg.vz d, writes := [(d, 2)], lat := 4 }
      Issues x f → exec (.call d off) s = .next (laneTransfer x f (linkWarp x d) fun _ => relTarget x.gn.pc off.toInt)) ∧
    (let f : Form := { op := 0x04, classes := Reg.addrPair a, more := [(a, 2)] }
     Issues x f → checkTargets x x.did x.active (fun l => x.rd64 l a) false = .ok () →
      exec (.brx a) s = .next (laneTransfer x f x.s fun l => slot0 (x.rd64 l a))) ∧
    (let f : Form := { op := 0x06, classes := Reg.vz d && Reg.addrPair a, more := [(a, 2)], writes := [(d, 2)], lat := 4 }
     Issues x f → checkTargets x x.did x.active (fun l => x.rd64 l a) false = .ok () →
      exec (.callx d a) s = .next (laneTransfer x f (linkWarp x d) fun l => slot0 (x.rd64 l a))) ∧
    (let f : Form := { op := 0x07, classes := Reg.addrPair a, more := [(a, 2)] }
     Issues x f → checkTargets x x.did x.active (fun l => x.rd64 l a) true = .ok () →
      exec (.ret a) s = .next (laneTransfer x f x.s fun l => x.rd64 l a))

/-- What a per-lane transfer does (R138): with every lane of the gang active and one target, the gang moves there whole; with no lane active it takes the
fall-through; with some active and one target elsewhere, the part with the lower address keeps the gang's entry, and under lstep 0 the other takes the
lowest free entry with its own lanes. -/
def Obligations.TransferMoves : Prop :=
  ∀ (s : State) (x : Ctx) (f : Form) (dest : DWord), ctxOf s = some x → x.gn.stepping = false → x.gn.mask ≠ 0 →
    (x.active = x.gn.mask → Advanced x x.s (laneTransfer x f x.s fun _ => dest) dest) ∧
    (x.active = 0 → Advanced x x.s (laneTransfer x f x.s fun _ => dest) (nextSlot x.gn.pc)) ∧
    (x.active ≠ 0 → x.active ≠ x.gn.mask → dest ≠ nextSlot x.gn.pc → modeLstep x.mode = false → ∀ e, (freeEntries x.wp).head? = some e →
      let t := laneTransfer x f x.s fun _ => dest
      let gone := if dest.toNat < (nextSlot x.gn.pc).toNat then (dest, x.active) else (nextSlot x.gn.pc, x.gn.mask &&& ~~~x.active)
      let left := if dest.toNat < (nextSlot x.gn.pc).toNat then (nextSlot x.gn.pc, x.gn.mask &&& ~~~x.active) else (dest, x.active)
      (gangAt t x.k x.w x.g).map (fun gn => (gn.pc, gn.mask)) = some gone ∧
      (gangAt t x.k x.w e).map (fun gn => (gn.pc, gn.mask, gn.mode)) = some (left.1, left.2, x.gn.mode))

/-- MEET (R142): away from its rejoin address, or with an empty stack, it goes to the next slot; at it, it serves a pending destination of this depth;
else it leaves when no sibling is out; else it parks, and in each case what that sets free goes on. WSYNC and EXIT (R57, R144): with no destination
pending and no lane held in the warp, the gang waits at its WSYNC, and a rendezvous that is complete releases every gang; EXIT takes the active lanes
out of the warp after the gang has gone on. -/
def Obligations.WarpRejoins : Prop :=
  (∀ (s : State) (x : Ctx), ctxOf s = some x → Issues x (ctlForm 0x09) →
    ((∀ e rest, x.gn.stack = e :: rest → e.rejoin ≠ x.gn.pc) → Answers (exec .meet s) x x.s (nextSlot x.gn.pc)) ∧
    ∀ e rest, x.gn.stack = e :: rest → e.rejoin = x.gn.pc →
      let here := (retireTo x (ctlForm 0x09) x.s x.gn.pc).modWarp x.k x.w fun wp => wp.clearLatch x.gn.mask
      (∀ r rs, x.gn.pending = r :: rs → r.depth = x.gn.stack.length →
        exec .meet s = .next (afterGangs (here.modGang x.k x.w x.g Gang.serve) x.k x.w)) ∧
      (x.gn.pending = [] → siblingOut x.wp x.g x.gn.pc e.tag = false ∨ x.wp.meetLimit = 0 →
        let together := if x.wp.meetLimit = 0 then [x.g] else x.g :: parkedThere x.wp x.gn.pc e.tag
        exec .meet s = .next (afterGangs (((here.modGang x.k x.w x.g fun gn => { gn with status := .parked 0 }).modWarp x.k x.w fun wp =>
            if x.wp.meetLimit = 0 then wp else wp.mergeParked x.gn.pc e.tag).modWarp x.k x.w fun wp =>
              wp.leaveMeet (together.filter fun i => (AMap.get? wp.gangs i).isSome)) x.k x.w)) ∧
      (x.gn.pending = [] → siblingOut x.wp x.g x.gn.pc e.tag = true → x.wp.meetLimit ≠ 0 →
        exec .meet s = .next (afterGangs ((here.modGang x.k x.w x.g fun gn => { gn with status := .parked x.wp.meetLimit }).modWarp x.k x.w
          fun wp => wp.mergeParked x.gn.pc e.tag) x.k x.w))) ∧
  (∀ (s : State) (x : Ctx), ctxOf s = some x →
    (∀ n : BitVec 16, Issues x (ctlForm 0x0B) → (∀ p ∈ x.wp.gangs, p.2.pending = [] ∧ ∀ e ∈ p.2.stack, e.held = 0) →
      exec (.wsync n) s = .next (settleSync (beginWait x (ctlForm 0x0B) x.s (.wsync n)) x.k x.w)) ∧
    (Issues x { op := 0x0C } →
      exec .exit s = .next (afterGangs ((retire x { op := 0x0C } x.s).modWarp x.k x.w fun wp => wp.exitLanes x.g x.active) x.k x.w)))

/-- SWITCH (R145): where the table's bundles and the targets are translated and executable for every lane of the gang, each active lane whose value is
below n goes to its entry's target, every other lane to entry n's, in case order, lanes of one target together; a gang of no lanes goes to entry n's.
Until the table's bundles have been fetched the gang is held at the instruction. -/
def Obligations.SwitchTransfers : Prop :=
  ∀ (s : State) (x : Ctx) (d : Reg) (n : BitVec 16), ctxOf s = some x →
    let f : Form := { op := 0x0A, classes := Reg.any d && !Reg.isP d && decide (1 ≤ n.toNat) && decide (n.toNat ≤ 1024), more := [(d, 1)] }
    let lanes := if x.gn.mask = 0 then 1 else x.gn.mask
    let addr := fun l => switchEntryAddr x.gn.pc (switchIndex x d n.toNat l)
    let target := fun l => switchTarget x (addr l)
    Issues x f →
    (∀ l ∈ lanesOf lanes, ∃ e, tlbLook x.c x.did (addr l) = .hit e ∧ e.x = true) →
    ((∃ l ∈ lanesOf lanes, AMap.get? x.c.tables (tableKey x.did (bundleOf (addr l)).toNat) ≠ some 0) →
      ∃ t, exec (.switch d n) s = .next t ∧ t.mem = s.mem ∧
        (gangAt t x.k x.w x.g).map (fun gn => (gn.status, gn.pc, gn.mask)) = some (.held .tableFetch, x.gn.pc, x.gn.mask)) ∧
    ((∀ l ∈ lanesOf lanes, AMap.get? x.c.tables (tableKey x.did (bundleOf (addr l)).toNat) = some 0 ∧ bitsW (switchWord x (addr l) (bundleOf (addr l))) 31 30 = 2 ∧
      ∃ e, tlbLook x.c x.did (target l) = .hit e ∧ e.x = true) →
    (x.gn.mask = 0 → Answers (exec (.switch d n) s) x x.s (slot0 (target 0))) ∧
    (x.gn.mask ≠ 0 → exec (.switch d n) s = .next (transferTo x f x.s (switchDsts x.gn.mask n.toNat (switchIndex x d n.toNat) target)) ∧
      ((∀ l ∈ lanesOf x.gn.mask, target l = target (firstLane x.gn.mask)) → switchDsts x.gn.mask n.toNat (switchIndex x d n.toNat) target =
        [(slot0 (target (firstLane x.gn.mask)), x.gn.mask)])))

/-- ILL, TRAP and BRK (R54, R58, R308, R329, R415): ILL takes the illegal-instruction trap at itself; TRAP, when a lane is active, completes and then
takes its trap, which names n; BRK takes its trap at its own slot, or, where it is routed to the debug port, stops its gang at its own slot and is
notified to the port. -/
def Obligations.TrapInstructions : Prop :=
  ∀ (s : State) (x : Ctx), ctxOf s = some x →
    (bitsW x.s.ctl 31 30 < 2 → exec .ill s = .next (dropAllRefusals (takeTrap x { cause := 0x01 }) x.k)) ∧
    (∀ n : BitVec 16, Issues x { op := 0x0D } → x.active ≠ 0 →
      exec (.trap n) s = .next (trapAfter x (retire x.noStep { op := 0x0D } x.s) { cause := 0x12, n := n, lanes := some x.active })) ∧
    (∀ n : BitVec 16, Issues x { op := 0x0D } → x.active = 0 → Answers (exec (.trap n) s) x x.s (nextSlot x.gn.pc)) ∧
    ∀ n : BitVec 16, Issues x { op := 0xCF, guard := false, once := true } →
      exec (.brk n) s = .next (if brkRouted x.s x.k then
          (retireTo x { op := 0xCF, guard := false, once := true } { x.s with debugNotices := x.s.debugNotices ++ [(x.k, x.w, x.g)] } x.gn.pc).modGang x.k x.w x.g
            fun gn => { gn with dbgHalt := true }
        else dropAllRefusals (takeTrap x { cause := 0x13, n := n }) x.k)

/-- VGROW and VSHRINK (R106 to R109, R154, R155): outside gates, growth that the slot's granules allow is granted at once, with the new block count in d,
or waits while the free granules or an older request stand against it; VSHRINK gives up its top blocks, with the block count in d. -/
def Obligations.RegisterBlocks : Prop :=
  ∀ (s : State) (x : Ctx) (d : Reg) (n : BitVec 16), ctxOf s = some x → x.wp.frames = [] →
    (∀ i sl, slotOf x.c x.wp.did = some (i, sl) →
      let f : Form := { op := 0x4C, classes := Reg.sz d && decide (n.toNat ≤ 15), guard := false, once := true, writes := [(d, 1)] }
      let g := granulesFor (x.wp.blocks + n.toNat) - granulesFor x.wp.blocks
      let older := (quadWarps x.c (x.w / 16) x.wp.did).any fun p => decide (p.2.age < x.wp.age) && p.2.growing.isSome
      Issues x f → x.wp.blocks + n.toNat ≤ 16 → g ≤ sl.granules - sl.reserve - granulesFor x.wp.blocks →
      (g = 0 ∨ g ≤ openGranules x.c sl (x.w / 16) ∧ older = false →
        Answers (exec (.vgrow d n) s) x (x.setWarp { x.wp.dstS d 1 (x.wp.blocks + n.toNat) with blocks := x.wp.blocks + n.toNat }) (nextSlot x.gn.pc)) ∧
      (g ≠ 0 → openGranules x.c sl (x.w / 16) < g ∨ older = true → Waits (exec (.vgrow d n) s) x x.s (.vgrow n.toNat d))) ∧
    (let f : Form := { op := 0x4D, classes := Reg.sz d && decide (n.toNat ≤ 15) && decide (n.toNat < x.wp.blocks), guard := false, once := true, writes := [(d, 1)], waits := (List.range (8 * n.toNat)).map (8 * (x.wp.blocks - n.toNat) + ·) }
     let left := x.wp.blocks - n.toNat
     Issues x f → landsAbove x.c x.w x.wp.age (8 * left) = false →
      exec (.vshrink d n) s = .next ((retire x f (x.setWarp ((x.wp.cut left).dstS d 1 left))).modCore x.k fun c =>
        freeGranule c x.wp.did (x.w / 16) (granulesFor x.wp.blocks - granulesFor left) false))

/-- SPAWN and GRID (R156 to R158): with the targets valid and nothing left to release, SPAWN publishes at scope 2, adds its active lanes to the tree and
puts each lane's thread into a bin in ascending order, holding the gang while no bin takes the next; GRID publishes at scope 3, adds its blocks to the
tree and hands one grid to the dispatcher, in its place by priority among those that came in the same cycle. -/
def Obligations.WorkSpawning : Prop :=
  ∀ (s : State) (x : Ctx) (d a b : Reg), ctxOf s = some x →
    (let f : Form := { op := 0x4E, classes := Reg.addrPair d, a := a, b := b, aw := 1, bw := 1, aLane := true, bLane := true, more := [(d, 2)] }
     Issues x f →
      (x.active = 0 → Answers (exec (.spawn d a b) s) x x.s (nextSlot x.gn.pc)) ∧
      (x.active ≠ 0 → x.gn.spawnLeft = none → checkTargets x x.did x.active (fun l => x.rd64 l d) false = .ok () → launchDrain x 2 = none → treeHeld x.s x.wp.tree = false →
        let s' := addTree (publishWrites x.s x.k x.did 2) x.wp.tree (popCount x.active)
        let r := enterLanes s' x.k x.did x.wp.tree (fun l => x.rd64 l d) (fun l => (srcA x a l, srcB x b l)) (lanesOf x.active)
        let kept := r.1.modCore x.k fun c => { c with bins := c.bins.filter fun q => !q.2.threads.isEmpty }
        (r.2 = [] → Answers (exec (.spawn d a b) s) x (kept.modGang x.k x.w x.g fun gn => { gn with spawnLeft := none }) (nextSlot x.gn.pc)) ∧
        (r.2 ≠ [] → exec (.spawn d a b) s = .next (kept.modGang x.k x.w x.g fun gn =>
          { gn with status := .held .spawnBin, spawnLeft := some (maskOf fun l => r.2.contains l) })))) ∧
    (let w := groupWord x a
     let gx := bitsW (w 2) 15 0
     let gy := bitsW (w 2) 31 16
     let gz := bitsW (w 3) 15 0
     Issues x { op := 0x4F, classes := groupReg a 58, guard := false, once := true, more := groupReads a 6 } → gx ≠ 0 → gy ≠ 0 → gz ≠ 0 →
      bitsW (w 3) 31 16 = 0 → ∀ dsc, gridDesc x (pairW (w 0) (w 1)) = .ok dsc → launchRefused x.s x.part x.did dsc = none → launchDrain x 3 = none → treeHeld x.s x.wp.tree = false →
      let s' := addTree (publishWrites x.s x.k x.did 3) x.wp.tree ((gx * gy * gz : Nat) : Int)
      let prio := match x.wp.tree.bind fun t => AMap.get? s'.trees t with | some tr => tr.prio | none => 0
      let grid : Grid := { id := (partAt s' x.part).nextGrid, tree := x.wp.tree, did := x.did, desc := dsc, gx := gx, gy := gy, gz := gz, arga := w 4, argb := w 5, prio := prio, slice := coreSlice x.k, came := partClk s' x.k }
      Answers (exec (.grid a) s) x (s'.modPart x.part fun pt => { pt with grids := insertGrid grid pt.grids, nextGrid := pt.nextGrid + 1 }) (nextSlot x.gn.pc))

/-- The per-lane loads (R86 to R88, R183, R217): with no lane active they only go on; once the checks of R87 pass, the access of the active lanes, each at
its own address, stands on the core's path. What an access that goes to the path does (R88, R217, R229): the load and the store each count their
counter up by one, add one access at the end of the core's path with the next number, the lanes that were given and a part per line, and change no
byte of memory. -/
def Obligations.LoadsIssue : Prop :=
  (∀ (s : State) (x : Ctx) (d a : Reg) (off : BitVec 8), ctxOf s = some x → ∀ r ∈ loadRows d a off,
    let size := r.2.2.1
    let va := effAddr x a off size
    let lanes := (lanesOf x.active).map fun l => { lane := l, pa := keyFor x (va l), va := va l, size := size : LaneAcc }
    let l1 := decide (r.2.2.2.2.1 = .load)
    let hit := watchHit x false 0 ((lanesOf x.active).map fun l => ((va l).toNat, size))
    Issues x { op := r.2.1, classes := Reg.addrPair a && Reg.vz d, more := [(a, 2)], writes := [(d, r.2.2.2.1)] } →
    (x.active = 0 → Answers (exec r.1 s) x x.s (nextSlot x.gn.pc)) ∧
    (x.active ≠ 0 →
      checkAccess x { size := size, write := false, kindDetail := r.2.2.2.2.2 } false x.active va (fun _ => false) (fun k => l1 && hitsL1 x k) = .ok () →
      Goes x .lc lanes (fun _ => false) →
      Sent (exec r.1 s) x (startLoad x r.2.2.2.2.1 (destFor d r.2.2.2.1 x.t.isSigned) lanes l1 hit) hit)) ∧
  (∀ (s : State) (x : Ctx) (dest : Dest) (lanes : List LaneAcc) (l1 : Bool) (hit : Option Nat), ctxOf s = some x →
    (let t := startLoad x .load dest lanes l1 hit
     t.mem = s.mem ∧ (warpAt t x.k x.w).map (fun wp => (wp.lc, wp.sc, wp.ec, wp.vregs, wp.sregs)) = some (x.wp.lc + 1, x.wp.sc, x.wp.ec, x.wp.vregs, x.wp.sregs) ∧
     ∃ ac, (coreAt t x.k).inflight = x.c.inflight ++ [ac] ∧ ac.id = x.c.nextId ∧ (coreAt t x.k).nextId = x.c.nextId + 1 ∧
       ac.kind = .load ∧ ac.dest = dest ∧ ac.did = x.did ∧ ac.parts.map LinePart.line = risingNat (lanes.map fun la => la.pa / 128)) ∧
    (let t := startStore x lanes hit
     t.mem = s.mem ∧ (warpAt t x.k x.w).map (fun wp => (wp.lc, wp.sc, wp.ec, wp.vregs, wp.sregs)) = some (x.wp.lc, x.wp.sc + 1, x.wp.ec, x.wp.vregs, x.wp.sregs) ∧
     (coreAt t x.k).inflight.length = x.c.inflight.length + 1 ∧
     ∃ ac, (coreAt t x.k).inflight.getLast? = some ac ∧ ac.id = x.c.nextId ∧ ac.kind = .store ∧ ac.did = x.did ∧
       ac.parts.map LinePart.line = risingNat (lanes.map fun la => la.pa / 128)))

/-- The per-lane stores (R86 to R88, R216): as the loads, with the low bytes of d of each active lane. -/
def Obligations.StoresIssue : Prop :=
  ∀ (s : State) (x : Ctx) (d a : Reg) (off : BitVec 8), ctxOf s = some x → ∀ r ∈ storeRows d a off,
    let size := r.2.2.1
    let va := effAddr x a off size
    let lanes := (lanesOf x.active).map fun l => { lane := l, pa := keyFor x (va l), size := size, val := BitVec.ofNat 128 (storeData x d size l) : LaneAcc }
    let hit := watchHit x false 1 ((lanesOf x.active).map fun l => ((va l).toNat, size))
    Issues x { op := r.2.1, classes := Reg.addrPair a && r.2.2.2.2, more := [(a, 2), (d, r.2.2.2.1)] } →
    (x.active = 0 → Answers (exec r.1 s) x x.s (nextSlot x.gn.pc)) ∧
    (x.active ≠ 0 → checkAccess x { size := size, write := true } false x.active va (coversLine lanes) (fun _ => false) = .ok () →
      Goes x .sc lanes (fun _ => false) → Sent (exec r.1 s) x (startStore x lanes hit) hit)

/-- SLD, SST and PREF (R91, R184): SLD and SST act once for the whole warp, whatever the lanes and the guard, at the pair's address plus the scaled
offset; PREF with h = 0 sends the lines that pass and are not in the L1, and changes nothing else. -/
def Obligations.ScalarAccessIssue : Prop :=
  ∀ (s : State) (x : Ctx) (d a : Reg) (off : BitVec 8), ctxOf s = some x →
    (let va := x.rd64 0 a + BitVec.ofInt 64 (off.toInt * ((4 * x.width : Nat) : Int))
     (let lanes : List LaneAcc := [{ lane := 0, pa := keyFor x va, va := va, size := 4 * x.width }]
      Issues x { op := 0x70, classes := Reg.spair a && Reg.sz d, more := [(a, 2)], writes := [(d, x.width)], guard := false, once := true } →
      checkAccess x { size := 4 * x.width, write := false } true 1 (fun _ => va) (fun _ => false) (hitsL1 x) = .ok () → Goes x .lc lanes (fun _ => false) →
      let hit := watchHit x false 0 [(va.toNat, 4 * x.width)]
      Sent (exec (.sld d a off) s) x (startLoad x .load (destFor d x.width false) lanes true hit) hit) ∧
     (let lanes : List LaneAcc := [{ lane := 0, pa := keyFor x va, size := 4 * x.width, val := BitVec.ofNat 128 (x.scal d) }]
      Issues x { op := 0x71, classes := Reg.spair a && Reg.sz d, more := [(a, 2), (d, x.width)], guard := false, once := true } →
      checkAccess x { size := 4 * x.width, write := true } true 1 (fun _ => va) (coversLine lanes) (fun _ => false) = .ok () → Goes x .sc lanes (fun _ => false) →
      let hit := watchHit x false 1 [(va.toNat, 4 * x.width)]
      Sent (exec (.sst d a off) s) x (startStore x lanes hit) hit)) ∧
    ∀ h : BitVec 8,
      Issues x { op := 0x73, classes := Reg.addrPair a && decide (h.toNat < 2), more := [(a, 2)] } →
      (∀ l ∈ lanesOf x.active, prefOk x (prefAddr x a off l) = true) → laneWhere x.active (fun l => decide (tlbLook x.c x.did (prefAddr x a off l) = .miss)) = 0 →
      let lines := risingNat ((lanesOf x.active).map fun l => keyFor x (prefAddr x a off l) / 128)
      let lanes := lines.flatMap fun ln => (List.range 4).map fun q => { lane := 0, pa := 128 * ln + 32 * q, size := 32 : LaneAcc }
      let misses := lanes.filter fun la => !hitsL1 x la.pa
      (h ≠ 0 ∨ misses = [] → Answers (exec (.pref h a off) s) x x.s (nextSlot x.gn.pc)) ∧
      (h = 0 → misses ≠ [] → wayMask x.k x.c x.did ≠ 0 →
        Answers (exec (.pref h a off) s) x (startLoad x .pref .none misses true none) (nextSlot x.gn.pc))

/-- The scratchpad loads and stores (R179 to R182): with the lanes' addresses aligned, in the warp's view and in groups that are not being scrubbed, a
load reads its words at once, to land later, and a store's bytes stand in the scratchpad, the highest lane supplying a byte that several write. -/
def Obligations.ScratchpadAccesses : Prop :=
  ∀ (s : State) (x : Ctx) (d a : Reg) (off : BitVec 8), ctxOf s = some x → ∀ size n : Nat,
    let ea := scratchEa x a off size
    let at_ := fun l => x.wp.view.at (ea l)
    (∀ l ∈ lanesOf x.active, ea l % size = 0 ∧ viewOk x.k x.c x.wp.view (ea l) size = true ∧ viewScrubbing x.c x.wp.view (ea l) size = false) →
    (∀ r ∈ [(Instr.lds32 d a off, 0x6A, 4, 1), (.lds64 d a off, 0x6B, 8, 2), (.lds128 d a off, 0x6C, 16, 4)], r.2.2 = (size, n) →
      Issues x { op := r.2.1, classes := Reg.vz d, more := [(a, 1)], writes := [(d, n)] } →
      watchHit x true 0 ((lanesOf x.active).map fun l => (ea l, size)) = none →
      let read := (lanesOf x.active).map fun l => { lane := l, pa := at_ l, size := size, val := BitVec.ofNat 128 (scratchNat x.c (at_ l) size), done := true, poison := scratchBad x.c (at_ l) size : LaneAcc }
      let ac : Access := { id := 0, w := x.w, g := x.g, warpAge := x.wp.age, did := x.did, kind := .lds, dest := destFor d n false, mode := x.mode, lanes := read }
      Answers (exec r.1 s) x (if x.active = 0 then x.s else pushAccess x.s x.k ac) (nextSlot x.gn.pc)) ∧
    (∀ r ∈ [(Instr.sts32 d a off, 0x6D, 4, 1, Reg.any d), (.sts64 d a off, 0x6E, 8, 2, Reg.vz d || Reg.isS d), (.sts128 d a off, 0x6F, 16, 4, Reg.vz d)],
      r.2.2.1 = size → r.2.2.2.1 = n → Issues x { op := r.2.1, classes := r.2.2.2.2, more := [(a, 1), (d, n)] } →
      watchHit x true 1 ((lanesOf x.active).map fun l => (ea l, size)) = none →
      Answers (exec r.1 s) x (if x.active = 0 then x.s else x.s.modCore x.k fun c =>
        (lanesOf x.active).foldl (fun c l => scratchPutNat c (at_ l) size (storeData x d size l)) c) (nextSlot x.gn.pc))

/-- The returning atomics and RED (R185 to R190): once the checks of R187 pass, the requests of the active lanes stand on the core's path with the
operands read at issue; RED under saturation goes there too, else it enters the combining buffer, and it counts in sc. -/
def Obligations.AtomicsIssue : Prop :=
  ∀ (s : State) (x : Ctx) (d a b : Reg), ctxOf s = some x → x.active ≠ 0 → checkAtomic x a = .ok () →
    (∀ r ∈ [(Instr.fetchAdd d a b, 0x74, AtomOp.add), (.fetchMin d a b, 0x75, .min), (.fetchMax d a b, 0x76, .max), (.fetchAnd d a b, 0x77, .and),
        (.fetchOr d a b, 0x78, .or), (.fetchXor d a b, 0x79, .xor), (.fetchXchg d a b, 0x7A, .xchg), (.cas d a b, 0x7B, .cas)],
      let cas := decide (r.2.2 = .cas)
      let f0 := atomForm x r.2.1 (if cas then Reg.isV d else Reg.vz d) a b
      let lanes := atomLanes x a b fun l => if cas then opD x d l else 0
      let hit := atomHit x a
      Issues x { f0 with writes := [(d, x.width)], more := if cas then f0.more ++ [(d, x.width)] else f0.more } → Goes x .lc lanes (fun _ => false) →
      let taken := (x.s.modCore x.k fun c => overtake (l1Drop c (some x.did) (lanes.map fun la => la.pa / 32).contains) x.w x.wp.age lanes).modWarp x.k x.w fun wp => wp.countUp .lc
      let ac : Access := { id := 0, w := x.w, g := x.g, warpAge := x.wp.age, did := x.did, kind := .atomic r.2.2, dest := destFor d x.width false, mode := x.mode, lanes := lanes, watch := hit }
      Sent (exec r.1 s) x (pushAccess taken x.k ac) hit) ∧
    ∀ op : BitVec 8,
      let lanes := atomLanes x a b fun _ => 0
      let aop := redOp op.toNat
      let hit := atomHit x a
      let ac := fun kind => { id := 0, w := x.w, g := x.g, warpAge := x.wp.age, did := x.did, kind := kind, mode := x.mode, lanes := lanes, watch := hit : Access }
      let sent := fun kind => pushAccess ((x.s.modCore x.k fun c => overtake c x.w x.wp.age lanes).modWarp x.k x.w fun wp => wp.countUp .sc) x.k (ac kind)
      Issues x (atomForm x 0x7C (decide (op.toNat < 6)) a b) → Goes x .sc lanes (fun e => !modeSat x.mode && e.sameKey x aop) →
      (modeSat x.mode = true → Sent (exec (.red op a b) s) x (sent (.red aop)) hit) ∧
      (modeSat x.mode = false → bufferUse x.c + newEntries x aop lanes ≤ 64 →
        Sent (exec (.red op a b) s) x ((sent .gathered).modCore x.k fun c => lanes.foldl (enterBuffer x aop x.c.nextId) c) hit)

/-- The checks of R87 in their order, over any lanes, or for the whole warp as one (whose record names the active lanes). A misaligned lane takes the
alignment fault, whatever else is wrong; where every lane is aligned and some translation is not there, the gang is held for those; where all are
there, an address that is not canonical, a page without a valid translation and a store to a page that is not writable and of no cistern kind take the
translation fault; then a page whose owner the domain may not use takes the domain fault; then a store to a cistern page takes the cistern-write
fault; and where nothing refuses, the access may go. The record has the mask of the lanes that fail this check and the address of the lowest one;
where these fail with different details, the lowest lane's detail, which is the model's choice (log entry 46). -/
def Obligations.AccessChecks : Prop :=
  ∀ (x : Ctx) (ask : Ask) (whole : Bool) (lanes : Mask) (va : Nat → DWord) (line l1 : Nat → Bool),
    let go := checkAccess x ask whole lanes va line l1
    let stop := fun (bad : Mask) (cause detail : Nat) => go = .error (.trap { cause := cause, detail := detail, lanes := if whole then none else some bad, addr := va (firstLane bad) })
    let third := fun l => step3 x.s x.c x.part x.did x.wp.tree ask line l1 (va l)
    let askew := laneWhere lanes fun l => decide ((va l).toNat % ask.size ≠ 0)
    let missing := laneWhere lanes fun l => decide (tlbLook x.c x.did (va l) = .miss)
    let bad := laneWhere lanes fun l => (third l).isSome
    let foreign := laneWhere lanes fun l => match tlbLook x.c x.did (va l) with | .refused c _ => decide (c = 0x09) | _ => false
    let cistern := laneWhere lanes fun l => match tlbLook x.c x.did (va l) with | .hit e => ask.write && decide (paKind (e.paOf (va l)) = 1) | _ => false
    (askew ≠ 0 → stop askew 0x0A 0) ∧
    (askew = 0 → (missing ≠ 0 → go = .error (.miss x.did ((lanesOf missing).map va))) ∧
      (missing = 0 → (∀ d, bad ≠ 0 → third (firstLane bad) = some d → stop bad 0x08 d) ∧
        (bad = 0 → (foreign ≠ 0 → stop foreign 0x09 2) ∧ (foreign = 0 → (cistern ≠ 0 → stop cistern 0x10 0) ∧ (cistern = 0 → go = .ok ()))))) ∧
    (∀ l, (canonical (va l) = false → third l = some 9) ∧ (∀ d, tlbLook x.c x.did (va l) = .refused 0x08 d → third l = some d) ∧
      ∀ e, tlbLook x.c x.did (va l) = .hit e → ask.kindDetail (paKind (boundKey x.s x.part x.wp.tree (e.paOf (va l)))) = none → worldOf x.c x.did = false →
        third l = if ask.write ∧ e.w = false ∧ paKind (boundKey x.s x.part x.wp.tree (e.paOf (va l))) ≠ 1 then some 1 else none)

/-- The barrier instructions that arrive and set up (R196 to R199): BINIT stores an object that expects n arrivals in phase 0; BARV gives d the phase
before its arrivals and adds one per active lane; BEXP adds to the bytes that the phase expects. -/
def Obligations.BarrierArrivals : Prop :=
  ∀ (s : State) (x : Ctx) (d a b : Reg) (o : Nat), ctxOf s = some x →
    (Issues x (barForm 0x80 (Reg.unif a && Reg.unif b) [(a, 1), (b, 1)] []) → ObjectAt x a false o →
      1 ≤ (x.rd 0 b).toNat → (x.rd 0 b).toNat ≤ 65535 → barWaiters x.c o = [] →
      Answers (exec (.binit a b) s) x (x.s.modCore x.k fun c => scratchPutNat c o 16 ((x.rd 0 b).toNat * 65536)) (nextSlot x.gn.pc)) ∧
    (let f := { barForm 0x81 (Reg.sz d && Reg.unif a) [(a, 1)] [(d, 1)] with guard := true }
     let ob := barAt x.c o
     Issues x f → ObjectAt x a true o → ob.arrivals + popCount x.active ≤ ob.expected →
      exec (.barv d a) s = .next (tryComplete (retire x f (x.setWarp (x.wp.dstS d 1 ob.phase))) x.k o { ob with arrivals := ob.arrivals + popCount x.active })) ∧
    (let ob := barAt x.c o
     Issues x (barForm 0x82 (Reg.unif a && Reg.unif b) [(a, 1), (b, 1)] []) → ObjectAt x a true o → ob.bexp + (x.rd 0 b).toNat < 2 ^ 32 →
      Answers (exec (.bexp a b) s) x (x.s.modCore x.k fun c => putBar c o { ob with bexp := ob.bexp + (x.rd 0 b).toNat }) (nextSlot x.gn.pc))

/-- The barrier waits (R200): in another phase than the one named each goes on at once, BWAIT and BWAITT with the flags in d, BWAITY at its continuation;
in that phase each waits, but BWAITT with limit 0 goes on with bit 16 set, as it does when a limit that it waits with has run out. The phase of a
barrier object (R198): an object stored at its place reads back as it was; a phase completes when its arrivals and its bytes are there, and then the
phase number is one more, the arrivals and both byte counts are 0, and the gangs that wait on the object wake; else only the object is stored. -/
def Obligations.BarrierWaits : Prop :=
  ((∀ (s : State) (k w g o : Nat) (p : BitVec 16) (d : Reg) (gn : Gang), gangAt s k w g = some gn → gn.stepping = false →
    gn.status = .waiting (.barrier o p (.bwaitt d) (some 0)) →
    ∃ t, exec (.bwaittTimeout k w g) s = .next t ∧ t = wake (s.modWarp k w fun wp => wp.dstS d 1 ((barAt (coreAt s k) o).flags + 65536)) k w g ∧
      (gangAt t k w g).map (fun gn => (gn.pc, gn.status)) = some (nextSlot gn.pc, gn.goOn.status)) ∧
  ∀ (s : State) (x : Ctx) (d a b : Reg) (off : BitVec 8) (o : Nat), ctxOf s = some x →
    (let p := bitsW (x.rd 0 b) 15 0
     Issues x (barForm 0x83 (Reg.sz d && Reg.unif a && Reg.unif b) [(a, 1), (b, 1)] [(d, 1)]) → ObjectAt x a true o →
      ((barAt x.c o).phase ≠ p → Answers (exec (.bwait d a b) s) x (x.setWarp (x.wp.dstS d 1 (barAt x.c o).flags)) (nextSlot x.gn.pc)) ∧
      ((barAt x.c o).phase = p → Waits (exec (.bwait d a b) s) x x.s (.barrier o (BitVec.ofNat 16 p) (.bwait d) none))) ∧
    (let p := bitsW (x.rd 0 a) 15 0
     let t := relTarget x.gn.pc off.toInt
     Issues x (barForm 0x84 (Reg.unif d && Reg.unif a) [(d, 1), (a, 1)] []) → ObjectAt x d true o →
      ((barAt x.c o).phase ≠ p → Answers (exec (.bwaity d a off) s) x x.s t) ∧
      ((barAt x.c o).phase = p → Waits (exec (.bwaity d a off) s) x x.s (.barrier o (BitVec.ofNat 16 p) (.bwaity t) none))) ∧
    (let p := bitsW (loW (x.rd64 0 b)) 15 0
     let limit := (hiW (x.rd64 0 b)).toNat
     Issues x (barForm 0x85 (Reg.sz d && Reg.unif a && Reg.spair b) [(a, 1), (b, 2)] [(d, 1)]) → ObjectAt x a true o →
      ((barAt x.c o).phase ≠ p → Answers (exec (.bwaitt d a b) s) x (x.setWarp (x.wp.dstS d 1 (barAt x.c o).flags)) (nextSlot x.gn.pc)) ∧
      ((barAt x.c o).phase = p → limit = 0 →
        Answers (exec (.bwaitt d a b) s) x (x.setWarp (x.wp.dstS d 1 ((barAt x.c o).flags + 65536))) (nextSlot x.gn.pc)) ∧
      ((barAt x.c o).phase = p → limit ≠ 0 → Waits (exec (.bwaitt d a b) s) x x.s (.barrier o (BitVec.ofNat 16 p) (.bwaitt d) (some limit))))) ∧
  (∀ (s : State) (k o : Nat) (b : BarObj), b.phase < 2 ^ 16 → b.expected < 2 ^ 16 → b.arrivals < 2 ^ 16 → b.zero < 2 ^ 14 → b.bexp < 2 ^ 32 →
    b.landed < 2 ^ 32 →
    (b.completes = false → tryComplete s k o b = s.modCore k (fun c => putBar c o b) ∧ barAt (coreAt (tryComplete s k o b) k) o = b) ∧
    (b.completes = true →
      let ob := barAt (putBar (coreAt s k) o b.next) o
      ob.phase = (b.phase + 1) % 65536 ∧ ob.expected = b.expected ∧ ob.arrivals = 0 ∧ ob.bexp = 0 ∧ ob.landed = 0 ∧ ob.error = b.error ∧
      ob.excess = (b.excess || decide (b.bexp < b.landed)) ∧
      tryComplete s k o b = wakeBarrier (s.modCore k fun c => putBar c o b.next) k o))

/-- WATCH and WSLEEP (R202, R203): WATCH sends its read past the L1 and disarms the gang's earlier monitor; WSLEEP is held while the read is out, gives d
3 with no monitor armed, 4 where it was dropped, 1 where the line was written since, and else sleeps for its limit. A sleeper whose monitor a home
drops wakes with 4, one whose limit runs out with 2. -/
def Obligations.WatchAndSleep : Prop :=
  (∀ (s : State) (k w g : Nat) (gn : Gang), gangAt s k w g = some gn →
    (∀ m d n, gn.monitor = some m → gn.status = .waiting (.sleep d n) → exec (.monitorDrop k w g) s = .next (endSleep s { core := k, w := w, g := g } 4)) ∧
    (∀ m, gn.monitor = some m → (∀ d n, gn.status ≠ .waiting (.sleep d n)) → ∃ t, exec (.monitorDrop k w g) s = .next t ∧
      (gangAt t k w g).map Gang.monitor = some (some { m with lost := true }) ∧ t.mem = s.mem) ∧
    (∀ d, gn.status = .waiting (.sleep d (some 0)) → exec (.wsleepTimeout k w g) s = .next (endSleep s { core := k, w := w, g := g } 2)) ∧
    ∀ d n status, gn.stepping = false → gn.status = .waiting (.sleep d n) →
      let t := endSleep s { core := k, w := w, g := g } status
      (gangAt t k w g).map (fun gn => (gn.pc, gn.status, gn.monitor)) = some (nextSlot gn.pc, gn.goOn.status, none) ∧
      ∀ r, d = .s r → (warpAt t k w).map (fun wp => wp.sreg r) = some (w32 status)) ∧
  ∀ (s : State) (x : Ctx) (d a : Reg) (off : BitVec 8), ctxOf s = some x →
    (let va := scalarAddr x a off
     let lanes : List LaneAcc := [{ lane := 0, pa := keyFor x va, va := va, size := 4 * x.width }]
     let hit := watchHit x false 0 [(va.toNat, 4 * x.width)]
     Issues x { op := 0x86, classes := Reg.spair a && Reg.sz d, more := [(a, 2)], writes := [(d, x.width)], guard := false, once := true } →
     checkAccess x { size := 4 * x.width, write := false, kindDetail := fun k => if k = 1 ∨ k = 3 then some 4 else none } true 1 (fun _ => va)
       (fun _ => false) (fun _ => false) = .ok () → Goes x .lc lanes (fun _ => false) →
     Sent (exec (.watch d a off) s) x ((startLoad x .watch (destFor d x.width false) lanes false hit).modGang x.k x.w x.g
       fun gn => { gn with monitor := none, watching := some x.c.nextId }) hit) ∧
    (Issues x { op := 0x87, classes := Reg.sz d && Reg.unif a, more := [(a, 1)], writes := [(d, 1)], guard := false, once := true } →
     let done := fun (n : Nat) => (x.setWarp (x.wp.dstS d 1 n)).modGang x.k x.w x.g fun gn => { gn with monitor := none }
     (x.gn.watching.isSome = true → exec (.wsleep d a) s = .next (x.setStatus (.held .register))) ∧
     (x.gn.watching = none → x.gn.monitor = none → Answers (exec (.wsleep d a) s) x (done 3) (nextSlot x.gn.pc)) ∧
     ∀ m, x.gn.watching = none → x.gn.monitor = some m →
      (m.lost = true → Answers (exec (.wsleep d a) s) x (done 4) (nextSlot x.gn.pc)) ∧
      (m.lost = false → m.hit = true → Answers (exec (.wsleep d a) s) x (done 1) (nextSlot x.gn.pc)) ∧
      (m.lost = false → m.hit = false → Waits (exec (.wsleep d a) s) x x.s
        (.sleep d (if (x.rd 0 a).toNat = 0 then none else some (x.rd 0 a).toNat))))

/-- WAITC, REL, ACQ, FENCE and QFENCE (R92, R205 to R208): WAITC goes on when its counter is at or below n; a release that waits for nothing publishes the
domain's writes, an acquire with no load outstanding drops what the publications match, FENCE does both in that order, and each does so as soon as
what it waits for is done; QFENCE puts one marker at the end of each queue it names, and the markers leave once all before them are done. -/
def Obligations.Fences : Prop :=
  (∀ (s : State) (k w g scope mark : Nat) (wp : Warp) (gn : Gang), warpAt s k w = some wp → gangAt s k w g = some gn →
    (∀ acq, gn.status = .waiting (.fence true acq scope mark) → relReady s k wp.didNow w wp.age scope mark = true →
      let published := publishWrites s k wp.didNow scope
      (acq = false → exec (.relDrainDone k w g) s = .next (wake published k w g)) ∧
      (acq = true → wp.lc = 0 → exec (.relDrainDone k w g) s = .next (wake (acquire published k wp.didNow scope) k w g)) ∧
      (acq = true → wp.lc ≠ 0 → exec (.relDrainDone k w g) s =
        .next (published.modGang k w g fun gn => { gn with status := .waiting (.fence false true scope mark) }))) ∧
    (gn.status = .waiting (.fence false true scope mark) → wp.lc = 0 →
      exec (.acqWaitDone k w g) s = .next (wake (acquire s k wp.didNow scope) k w g))) ∧
  (∀ (s : State) (k id : Nat), (∀ q ∈ allQueues, beforeMark (queueView s k q) k id = false) →
    ∃ t, exec (.qfenceRelease k id) s = .next t ∧ t.mem = s.mem ∧
      t.reopen = s.reopen.map (fun r => { r with mq := r.mq.filter fun c => !c.isMark k id }) ∧ ∀ q ∈ allQueues, queueOf t k q = (queueOf s k q).filter fun c => !c.isMark k id) ∧
  ∀ (s : State) (x : Ctx) (n : BitVec 16), ctxOf s = some x →
    (∀ (c : Reg) (ctr : Counter), waitCounter c = some ctr → Issues x { op := 0x8B, classes := decide (n.toNat < 64), guard := false, once := true } →
      let s' := if ctr = .sc then flushEntries x.s x.k (fun e => contributed x.c x.w x.wp.age e) else x.s
      (x.wp.count ctr ≤ n.toNat → Answers (exec (.waitc c n) s) x s' (nextSlot x.gn.pc)) ∧
      (n.toNat < x.wp.count ctr → exec (.waitc c n) s =
        .next (s'.modGang x.k x.w x.g fun gn => { gn with status := .waiting .counter, insn := x.s.insn, ctl := x.s.ctl }))) ∧
    (let flushed := flushEntries x.s x.k fun _ => true
     let mark := (coreAt flushed x.k).nextId
     let published := publishWrites flushed x.k x.did n.toNat
     let form := fun op => { op := op, classes := decide (n.toNat < 6), guard := false, once := true : Form }
     (relReady flushed x.k x.did x.w x.wp.age n.toNat mark = true →
       (Issues x (form 0x89) → Answers (exec (.rel n) s) x published (nextSlot x.gn.pc)) ∧
       (Issues x (form 0x88) → x.wp.lc = 0 → Answers (exec (.fence n) s) x (acquire published x.k x.did n.toNat) (nextSlot x.gn.pc))) ∧
     (relReady flushed x.k x.did x.w x.wp.age n.toNat mark = false → Issues x (form 0x89) →
       ∃ t, exec (.rel n) s = .next t ∧ ∀ gn, gangAt t x.k x.w x.g = some gn → gn.status = .waiting (.fence true false n.toNat mark)) ∧
     (Issues x (form 0x8A) →
       (x.wp.lc = 0 → Answers (exec (.acq n) s) x (acquire x.s x.k x.did n.toNat) (nextSlot x.gn.pc)) ∧
       (x.wp.lc ≠ 0 → Waits (exec (.acq n) s) x x.s (.fence false true n.toNat x.c.nextId)))) ∧
    (Issues x { op := 0x8C, classes := decide (n.toNat < 32), guard := false, once := true } → n.toNat &&& queueMask x.c x.did = n.toNat →
      let mark : Command := { id := x.c.nextId, op := .marker x.c.nextId, core := x.k, w := x.w, warpAge := x.wp.age, did := x.did }
      let s' := (allQueues.filter fun q => n.getLsbD (queueNum q)).foldl (fun s q => s.modQueue x.k q fun cs => cs ++ [mark]) x.s
      Answers (exec (.qfence n) s) x (if n = 0 then s' else s'.modCore x.k fun c => { c with nextId := c.nextId + 1 }) (nextSlot x.gn.pc))

/-- CPY and CPYO (R191 to R193): with scalars that fit, a copy of no bytes only sends the warp's buffered reductions on their way, and any other enters
queue cq0 or cq1 with its seven scalars when the first chunk's memory passes R87; the gang goes on at once. -/
def Obligations.CopiesIssue : Prop :=
  ∀ (s : State) (x : Ctx) (q : BitVec 8) (a : Reg) (o : Option Nat), ctxOf s = some x → ∀ r ∈ [(Instr.cpy q a, 0x7D, EngineOp.cpy), (.cpyo q a, 0x7E, .cpyo)],
    let g := (List.range 7).map (groupWord x a)
    let eq : EngineQueue := if q = 0 then .cq0 else .cq1
    Issues x { op := r.2.1, classes := decide (q.toNat < 2) && groupReg a 56, guard := false, once := true, more := groupReads a 7 } → CopyFits x g o →
    Takes x eq →
    ((copyOf g).total = 0 → Answers (exec r.1 s) x (flushEntries x.s x.k fun e => contributed x.c x.w x.wp.age e) (nextSlot x.gn.pc)) ∧
    ((copyOf g).total ≠ 0 →
      (let ps := (copyOf g).pieces 0
       rangeCheck x.s x.k x.did x.wp.tree (copyAsk (decide (r.2.2 = .cpyo))) (coversWhole ps x.s x.k x.did x.wp.tree) (ps.map fun p => p.va) = .ok) →
      Answers (exec r.1 s) x (queued x eq r.2.2 g o) (nextSlot x.gn.pc))

/-- PACK and UNPACK (R244 to R248): with a position and a layout that pass, PACK stores each element's exponent and its plane words into the tile, of
values scaled by their blocks' E8M0 scales in the microscaling form, and adds the status bits of its blocks to the warp's; UNPACK reads its blocks at
once and its values land as a scratchpad load's do. -/
def Obligations.PlaneInstructions : Prop :=
  ∀ (s : State) (x : Ctx) (d a b : Reg) (l : Layout), ctxOf s = some x → x.active ≠ 0 →
    let t := x.t
    let j0 := bitsW (x.rd 0 b) 31 16
    let r := bitsW (x.rd 0 b) 4 0
    let v := x.wp.view
    let hit := fun kind => watchHit x true kind ((List.range t.elems).flatMap fun i =>
      (l.strip r (j0 + i), 1) :: (List.range l.width).map fun p => (l.word p r (j0 + i), 4))
    j0 + t.elems ≤ bitsW (groupWord x a 2) 31 16 → checkLayout x (groupWord x a 0) (groupWord x a 1) (groupWord x a 2) [r] = .ok l →
    (let f : Form := { op := 0x90, classes := Reg.isV d && groupReg a 60 && Reg.unif b, more := [(d, 1), (b, 1)] ++ groupReads a 3, typed := packType t }
     let mx := (x.rd 0 b).getLsbD 15
     Issues x f →
      (mx = true → Issues x { f with more := f.more ++ groupReads a (if 4 < t.elems then 5 else 4), classes := groupReg a 58, typed := mxType t }) →
      bitsW (x.rd 0 b) 14 5 = 0 → hit 1 = none →
      let k : Nat → Int := fun i => if mx then (mxScale x a i : Int) - 127 - (if t = .i8 then 6 else 0) else 0
      let block := fun i => choosePlane l.width (modeRnd x.mode) (mx && decide (mxScale x a i = 255)) ((List.range 32).map fun n =>
        if x.active.getLsbD n then scaleVal (k i) (elemValue t (modeFtz x.mode) (x.rd n d).toNat i) else .num false 0 0)
      let store := fun (c : Core) i => (List.range l.width).foldl (fun c p => scratchPutNat c (l.wordAt v p r (j0 + i)) 4 (planeWord (block i).2.1 p))
        (scratchPutNat c (l.stripAt v r (j0 + i)) 1 (block i).1)
      let status := (List.range t.elems).foldl (fun acc i => acc ||| (block i).2.2) 0
      Answers (exec (.pack d a b) s) x ((x.setWarp { x.wp with mstat := x.wp.mstat ||| BitVec.ofNat 6 status }).modCore x.k fun c => (List.range t.elems).foldl store c)
        (nextSlot x.gn.pc)) ∧
    (Issues x { op := 0x91, classes := Reg.isV d && groupReg a 60 && Reg.unif b, more := [(b, 1)] ++ groupReads a 3, writes := [(d, 1)], typed := packType t } →
      bitsW (x.rd 0 b) 15 5 = 0 → hit 0 = none →
      let blocks := (List.range t.elems).map fun i => tileBlock x.c v l r (j0 + i)
      let bad := (List.range t.elems).any fun i => blockBad x.c v l r (j0 + i)
      let value := fun n => buildElems t (fun i => unpackElem t x.fm (blocks.getD i (0, [])).1 ((blocks.getD i (0, [])).2.getD n 0)) t.elems
      let lanes := (lanesOf x.active).map fun n => { lane := n, pa := 0, size := 4, val := BitVec.ofNat 128 (value n), done := true, poison := if bad then 1 else 0 : LaneAcc }
      let ac : Access := { id := 0, w := x.w, g := x.g, warpAge := x.wp.age, did := x.did, kind := .lds, dest := destFor d 1 false, mode := x.mode, lanes := lanes }
      Answers (exec (.unpack d a b) s) x (pushAccess x.s x.k ac) (nextSlot x.gn.pc))

/-- The matrix instructions at issue (R250 to R261): with mq in the domain's mask and no other warp's batch open, each enters mq under the gang's batch;
MLDB remembers its nkb, EPI its control word, and MFENCE closes the batch. -/
def Obligations.MatrixCommands : Prop :=
  ∀ (s : State) (x : Ctx) (a : Reg), ctxOf s = some x → batchHeld x = false → Takes x .mq →
    (let g := (List.range 3).map (groupWord x a)
     (∀ l, Issues x (mqForm 0x92 (groupReg a 60) (groupReads a 3)) → checkLayout x (g.getD 0 0) (g.getD 1 0) (g.getD 2 0) (List.range 16) = .ok l →
       Answers (exec (.mldb a) s) x (queuedMq x .mldb g none fun m => { m with issuedNkb := some l.nkb }) (nextSlot x.gn.pc)) ∧
     ∀ (set : BitVec 8) (l : Layout), Issues x (mqForm 0x93 (groupReg a 60 && decide (set.toNat < 2)) (groupReads a 3)) →
       checkLayout x (g.getD 0 0) (g.getD 1 0) (g.getD 2 0) (List.range 32) = .ok l → (openBatch x).1.issuedNkb = some l.nkb →
       Answers (exec (.mmac set a) s) x (queuedMq x (.mmac set.toNat) g none id) (nextSlot x.gn.pc)) ∧
    (∀ clr set : Bool,
      let w0 := groupWord x a 0
      let w1 := groupWord x a 1
      let t := (outType (bitsW (openBatch x).1.issuedEpi 12 8)).getD .f32
      Issues x (mqForm 0x94 (groupReg a 62) (groupReads a 2)) → bitsW w0 31 20 = 0 → bitsW w1 31 16 = 0 → bitsW w0 19 0 % 4 = 0 → bitsW w1 15 0 % 4 = 0 →
      outBytes t 16 ≤ bitsW w1 15 0 → checkRanges x (mrdRanges t (bitsW w0 19 0) (bitsW w1 15 0)) = .ok () →
      Answers (exec (.mrd clr set a) s) x (queuedMq x (.mrd (if set then 1 else 0) clr) [w0, w1] none id) (nextSlot x.gn.pc)) ∧
    (∀ n : BitVec 16, Issues x (mqForm 0x95 (decide (1 ≤ n.toNat) && decide (n.toNat ≤ 3)) []) →
      Answers (exec (.mzero n) s) x (queuedMq x (.mzero n.toNat) [] none id) (nextSlot x.gn.pc)) ∧
    (∀ set : BitVec 8, Issues x (mqForm 0x96 (decide (1 ≤ set.toNat) && decide (set.toNat ≤ 3) && Reg.unif a) [(a, 1)]) →
      -512 ≤ (x.rd 0 a).toInt → (x.rd 0 a).toInt ≤ 511 →
      Answers (exec (.manch set a) s) x (queuedMq x (.manch set.toNat (x.rd 0 a).toInt) [] none id) (nextSlot x.gn.pc)) ∧
    (let w := groupWord x a 0
     Issues x (mqForm 0x97 (groupReg a 58) (groupReads a 5)) → bitsW w 31 17 = 0 → bitsW w 15 13 < 5 → (outType (bitsW w 12 8)).isSome = true → bitsW w 2 1 < 3 →
      (w.getLsbD 0 = true → bitsW w 2 1 ≠ 0 → epiSource x (decide (bitsW w 2 1 = 2)) (groupWord x a 1) = .ok ()) →
      (w.getLsbD 3 = true → epiSource x (w.getLsbD 4) (groupWord x a 2) = .ok ()) →
      Answers (exec (.epi a) s) x (queuedMq x .epi ((List.range 5).map (groupWord x a)) none fun m => { m with issuedEpi := w }) (nextSlot x.gn.pc)) ∧
    (∀ o, Issues x (mqForm 0x98 (Reg.unif a) [(a, 1)]) → barrierWord x (x.rd 0 a) = .ok o →
      Answers (exec (.mfence a) s) x (queuedMq x .mfence [x.rd 0 a] o id) (nextSlot x.gn.pc)) ∧
    (Issues x (mqForm 0x99 true []) → Answers (exec .mtest s) x (queuedMq x .mtest [] none id) (nextSlot x.gn.pc))

/-- The commands of the pool and collective engines (R290, R291, R295, R299): with scalars that fit, a barrier word that is disabled or names a valid
object, and memory that passes R87, each enters its slice's queue with the scalars read at issue. -/
def Obligations.EngineCommands : Prop :=
  ∀ (s : State) (x : Ctx) (d a : Reg) (o : Option Nat), ctxOf s = some x → barrierWord x (x.rd 0 d) = .ok o →
    (∀ r ∈ [(Instr.gath d a, 0xA0, true, EngineOp.gath), (.pool d a, 0xA1, false, .pool)],
      let g := (List.range 8).map (groupWord x a)
      let c := poolOf g
      Issues x (engineForm r.2.1 d a 56 8) → Takes x .pq →
      c.base.toNat % 16 = 0 → c.list % c.entry = 0 → bitsW (g.getD 2 0) 31 20 = 0 → c.k ≠ 0 → c.b ≠ 0 → 1 ≤ c.e ∧ c.e ≤ 4096 →
      poolFormat (etypeOf (bitsW (g.getD 4 0) 17 13)) = true → c.pool < (if r.2.2.1 then 1 else 4) → bitsW (g.getD 4 0) 23 22 = 0 → c.rm < 5 →
      bitsW (g.getD 4 0) 31 27 = 0 → c.stride % 16 = 0 → c.rowBytes ≤ c.stride → c.out.toNat % (if c.okind ∨ r.2.2.1 then 16 else 4) = 0 →
      (c.okind = false → c.out.toNat < 2 ^ 20) →
      checkRanges x ([(c.list, c.entry * c.entries)] ++ if c.okind then [] else [(c.out.toNat, c.outBytes r.2.2.1)]) = .ok () →
      (c.okind = true → issueCheck x { size := 16, write := true } (firstLines c.out (c.outBytes r.2.2.1)) = .ok ()) →
      Answers (exec r.1 s) x (queued x .pq r.2.2.2 g o) (nextSlot x.gn.pc)) ∧
    (∀ r ∈ [(Instr.mcred d a, 0xA2, EngineOp.mcred), (.mcst d a, 0xA3, .mcst)],
      let g := (List.range 5).map (groupWord x a)
      let n := (g.getD 2 0).toNat
      let addr := pairW (g.getD 3 0) (g.getD 4 0)
      Issues x (engineForm r.2.1 d a 58 5) → Takes x .fq → statusField (g.getD 0 0) % 4 = 0 → bitsW (g.getD 0 0) 31 28 = 0 →
      (g.getD 1 0).toNat % 128 = 0 → 1 ≤ n ∧ n ≤ 2 ^ 24 → n * 4 % 128 = 0 → addr.toNat % 128 = 0 →
      checkRanges x [(statusField (g.getD 0 0), 4)] = .ok () →
      issueCheck x { size := 128, write := decide (r.2.2 = .mcred) } (firstLines addr (4 * n)) = .ok () →
      Answers (exec r.1 s) x (queued x .fq r.2.2 g o) (nextSlot x.gn.pc)) ∧
    (let g := (List.range 5).map (groupWord x a)
     let src := pairW (g.getD 3 0) (g.getD 4 0)
     Issues x (engineForm 0xA5 d a 58 5) → Takes x .fq → statusField (g.getD 0 0) % 4 = 0 → bitsW (g.getD 0 0) 31 28 = 0 →
      checkCistern x (g.getD 1 0) (g.getD 2 0) = .ok () → src.toNat % 4096 = 0 → checkRanges x [(statusField (g.getD 0 0), 4)] = .ok () →
      cisternOwned x.s x.did x.world (g.getD 1 0).toNat (g.getD 2 0).toNat = true → issueCheck x { size := 128, write := false } (firstLines src 4096) = .ok () →
      Answers (exec (.wbcast d a) s) x (queued x .fq .wbcast g o) (nextSlot x.gn.pc)) ∧
    (let g := (List.range 3).map (groupWord x a)
     let p := bitsW (g.getD 0 0) 19 0
     Issues x (engineForm 0xA6 d a 60 3) → Takes x .fq → p % 16 = 0 → bitsW (g.getD 0 0) 31 20 = 0 → checkCistern x (g.getD 1 0) (g.getD 2 0) = .ok () →
      checkRanges x [(p, 52)] = .ok () → cisternOwned x.s x.did x.world (g.getD 1 0).toNat (g.getD 2 0).toNat = true →
      Answers (exec (.dgst d a) s) x (queued x .fq .dgst g o) (nextSlot x.gn.pc))

/-- The instructions that answer at once (R261, R288, R298, R300, R371): MSTAT gives the warp's status bits or the engine's word, and n = 1 clears them;
AGQ gives a group's members, presence and generation, or 0; TREEQ the tree's counter, lane and address; TOPEN the version it opens, all lines
unwritten; TCOMMIT the version it closes. -/
def Obligations.StatusQueries : Prop :=
  ∀ (s : State) (x : Ctx) (d a : Reg) (n : BitVec 16), ctxOf s = some x →
    (Issues x { mqForm 0x9A (Reg.sz d && decide (n.toNat < 3)) [] with writes := [(d, 1)], lat := 4 } →
      (n = 0 → Answers (exec (.mstat d n) s) x (x.setWarp (x.wp.dstS d 1 x.wp.mstat.toNat)) (nextSlot x.gn.pc)) ∧
      (n = 1 → Answers (exec (.mstat d n) s) x (x.setWarp { x.wp.dstS d 1 x.wp.mstat.toNat with mstat := 0 }) (nextSlot x.gn.pc)) ∧
      (n = 2 →
        let own := x.c.matrix.batch.any fun b => decide (b.w = x.w) && decide (b.warpAge = x.wp.age)
        let word := x.c.matrix.fenced.toNat + (if x.c.matrix.batch.isSome then 256 else 0) + (if own then 512 else 0) + min 127 x.c.mq.length * 65536
        Answers (exec (.mstat d n) s) x (x.setWarp (x.wp.dstS d 1 word)) (nextSlot x.gn.pc))) ∧
    (Issues x { op := 0xA4, classes := Reg.sz d && decide (n.toNat ≤ 255), guard := false, once := true, writes := [(d, 1)] } → x.wp.lc < 63 →
      let g := groupAt x.s x.part n.toNat
      let present := (g.members.filter fun m => m.present).length
      (g.formed = false → Answers (exec (.agq d n) s) x (x.setWarp (x.wp.dstS d 1 0)) (nextSlot x.gn.pc)) ∧
      (g.formed = true → Answers (exec (.agq d n) s) x (x.setWarp (x.wp.dstS d 1
        (g.members.length + 256 * present + 65536 + (if g.changed then 131072 else 0) + g.generation % 16384 * 262144))) (nextSlot x.gn.pc))) ∧
    (Issues x { op := 0xB2, classes := (Reg.spair d || Reg.isZ d) && decide (n.toNat < 3), guard := false, once := true, writes := [(d, 2)] } → x.wp.lc < 63 →
      (treeAnswer x.s x.wp.tree n.toNat).2 = false →
      Answers (exec (.treeq d n) s) x (x.setWarp (x.wp.dstS d 2 (treeAnswer x.s x.wp.tree n.toNat).1)) (nextSlot x.gn.pc)) ∧
    ∀ t : Tensor, (x.rd 0 a).toNat ≤ 16383 → AMap.get? x.s.tensors (x.rd 0 a).toNat = some t → t.owner = x.did → t.base / 2 ^ 52 = x.part → x.wp.lc < 63 →
      (Issues x (tensorForm 0xA7 d a) →
        (t.open_ = true → Answers (exec (.topen d a) s) x (x.setWarp (x.wp.dstS d 1 t.version)) (nextSlot x.gn.pc)) ∧
        (t.open_ = false → t.version < 2 ^ 32 - 1 → bitmapBits x.s + t.length / 128 ≤ 2 ^ 27 →
          let t' := { t with version := t.version + 1, open_ := true, lines := [], done := [] }
          let s' := x.setWarp (x.wp.dstS d 1 (t.version + 1))
          Answers (exec (.topen d a) s) x { s' with tensors := AMap.put s'.tensors (x.rd 0 a).toNat t' } (nextSlot x.gn.pc))) ∧
      (Issues x (tensorForm 0xA8 d a) →
        let s' := x.setWarp (x.wp.dstS d 1 t.version)
        (t.open_ = false → Answers (exec (.tcommit d a) s) x s' (nextSlot x.gn.pc)) ∧
        (t.open_ = true → cxlStorePending x = false →
          let t' := { t with open_ := false, lines := [], done := [] }
          Answers (exec (.tcommit d a) s) x { s' with tensors := AMap.put s'.tensors (x.rd 0 a).toNat t' } (nextSlot x.gn.pc)) ∧
        (t.open_ = true → cxlStorePending x = true → exec (.tcommit d a) s = .next (x.setStatus (.held .drain))))

/-- GATE, GRET, GATE_PROCEED and GRET_PROCEED (R284, R286): once the checks pass, no register that the gate changes is pending and the warp is drained,
the gate is passed and the gang stands at the entry, or the top frame is restored and it stands after the GATE; an undrained warp waits. What a gate
saves and restores (R284 steps 7 to 9, R286): inside, the arguments v0 to v(nargs - 1) and s0 to s15 stand, every other register is 0, the predicates
are 0, the stack is empty, the mode is 0x27 and the target's domain is in force; whatever the callee did, the return gives back every saved register,
the predicates, mode, stack, view and domain, keeps the callee's arguments and writes 0 to d. -/
def Obligations.GatePassage : Prop :=
  ((∀ (s : State) (x : Ctx) (d : Reg) (n : BitVec 16), ctxOf s = some x →
    let flushed := flushEntries x.s x.k fun _ => true
    let mark := (coreAt flushed x.k).nextId
    (∀ e, Issues x { op := 0xB0, classes := Reg.sz d && decide (n.toNat ≤ 63), guard := false, once := true, writes := [(d, 1)] } → gateChecks x n.toNat = .ok e → pendingOn x (gateCodes x.wp e.nargs) = false →
      (gateDrained flushed x.k x.w x.wp mark = true →
        Answers (exec (.gate d n) s) x (passGate flushed x.k x.w x.g d e) (slot0 e.entry)) ∧
      (gateDrained flushed x.k x.w x.wp mark = false →
        ∃ t, exec (.gate d n) s = .next t ∧ ∀ gn, gangAt t x.k x.w x.g = some gn → gn.status = .waiting (.gate d e mark))) ∧
    (∀ fr rest, Issues x { op := 0xB1, guard := false, once := true } → x.wp.frames = fr :: rest → x.wp.converged = true → ownsBatch x = false →
      pendingOn x (gateCodes x.wp fr.nargs) = false →
      (gateDrained flushed x.k x.w x.wp mark = true →
        Answers (exec .gret s) x (passReturn flushed x.k x.w x.g) x.wp.gateReturn) ∧
      (gateDrained flushed x.k x.w x.wp mark = false →
        ∃ t, exec .gret s = .next t ∧ ∀ gn, gangAt t x.k x.w x.g = some gn → gn.status = .waiting (.gret mark)))) ∧
  ∀ (s : State) (k w g : Nat) (wp : Warp) (gn : Gang), warpAt s k w = some wp → wp.gangs = [(g, gn)] →
    (∀ d e mark, gn.status = .waiting (.gate d e mark) → gateDrained s k w wp mark = true → wp.preempt = false → wp.halted = false →
      ((slotOf (coreAt s k) e.target).any fun p => !p.2.halted) = true → exec (.gateProceed k w) s = .next (wakeTo (passGate s k w g d e) k w g (slot0 e.entry))) ∧
    (∀ mark, gn.status = .waiting (.gret mark) → gateDrained s k w wp mark = true → wp.preempt = false → wp.halted = false →
      exec (.gretProceed k w) s = .next (wakeTo (passReturn s k w g) k w g wp.gateReturn))) ∧
  (∀ (wp callee : Warp) (g : Nat) (gn gn' : Gang) (d : Reg) (e : GateEntry), Reg.sz d = true →
    let inside := wp.enterGate g gn d e
    (∀ n l, l < 32 → inside.vreg n l = if n < e.nargs then wp.vreg n l else 0) ∧
    (∀ n, inside.sreg n = if n < 16 then wp.sreg n else 0) ∧ (∀ n, n < 7 → predMask inside n = 0) ∧ inside.didNow = e.target ∧
    (AMap.get? inside.gangs g).map (fun h => (h.stack, h.mode, h.mask)) = some ([], 0x27, gn.mask) ∧
    (callee.frames = inside.frames →
      let back := callee.leaveGate g gn'
      (∀ n l, l < 32 → back.vreg n l = if n < e.nargs then callee.vreg n l else wp.vreg n l) ∧
      (∀ n, d ≠ .s n → back.sreg n = if n.val < 16 then callee.sreg n else wp.sreg n) ∧ (∀ n, d = .s n → back.sreg n = 0) ∧
      (∀ n, predMask back n = predMask wp n) ∧ back.didNow = wp.didNow ∧ back.view = wp.view ∧ back.frames = wp.frames ∧
      callee.gateReturn = nextSlot gn.pc ∧ (AMap.get? back.gangs g).map (fun h => (h.stack, h.mode)) = some (gn.stack, gn.mode)))

/-- SCRUB (R289): bit 0 zeroes the gang's lanes of the vector registers from 8a on, bit 1 its predicates, poison tags and latch, bit 2 the scratchpad
bytes that b names, and bit 3 sends a scrub of the matrix engine; the gang goes on. -/
def Obligations.ScrubInstruction : Prop :=
  ∀ (s : State) (x : Ctx) (m : BitVec 8) (a b : Reg), ctxOf s = some x →
    let first := scrubFirst x m a
    let lo := (loW (x.rd64 0 b)).toNat
    let n := (hiW (x.rd64 0 b)).toNat
    Issues x (scrubForm x m a b first) → (m.getLsbD 2 = true → scrubRange x lo n = .ok ()) →
    (m.getLsbD 3 = false → Answers (exec (.scrub m a b) s) x (scrubEffect x m first lo n) (nextSlot x.gn.pc)) ∧
    (m.getLsbD 3 = true → batchHeld x = false → Takes x .mq →
      let y := { x with s := scrubEffect x m first lo n }
      Answers (exec (.scrub m a b) s) x (queuedMq y .scrubMatrix [] none fun mx => { mx with issuedNkb := none, issuedEpi := 0x0A00 }) (nextSlot x.gn.pc)) ∧
    (∀ r l, l < 32 → m.getLsbD 0 = true → x.gn.mask.getLsbD l = true → 8 * first ≤ r → (x.wp.scrubRegs x.gn.mask (8 * first)).vreg r l = 0) ∧
    (∀ r l, l < 32 → x.gn.mask.getLsbD l = false ∨ r < 8 * first → (x.wp.scrubRegs x.gn.mask (8 * first)).vreg r l = x.wp.vreg r l)

/-- The CSR instructions and their completions (R126, R302, R304, R333, R412): CSRR gives d the named CSR at once; a write whose value the CSR accepts
waits, and its step gives d the old value, lets the gang go on, and writes the CSR: ISCTL ends every greedy hold, IPEND keeps the bits written as one,
a watch register latches its address and domain from the mailbox. -/
def Obligations.ControlRegisters : Prop :=
  (∀ (s : State) (x : Ctx) (d a b : Reg) (t n : Nat), ctxOf s = some x → csrTarget x (x.rd 0 a) = .ok (t, n) →
    (Issues x (csrForm 0xC0 d a none) →
      Answers (exec (.csrr d a) s) x (x.setWarp (x.wp.dstS d 1 (csrRead (coreAt x.s t) n).toNat)) (nextSlot x.gn.pc)) ∧
    ∀ r ∈ [(Instr.csrw d a b, 0xC1, 0, x.rd 0 b), (.csrs d a b, 0xC2, 1, csrRead (coreAt x.s t) n ||| x.rd 0 b),
        (.csrc d a b, 0xC3, 2, csrRead (coreAt x.s t) n &&& ~~~(x.rd 0 b))],
      Issues x (csrForm r.2.1 d a (some b)) → csrAccepts n r.2.2.2 = true →
      Waits (exec r.1 s) x (x.s.modCore x.k fun c => { c with svc := { c.svc with op := some (.csr t n r.2.2.1 (x.rd 0 b) d) } }) .supervisor) ∧
  ∀ (s : State) (k t n kind : Nat) (b : Word) (d : Reg), (coreAt s k).svc.op = some (.csr t n kind b d) →
    let old := csrRead (coreAt s t) n
    let v := csrNew kind old b
    csrAccepts n v = true →
    (n = 0 → exec (.isctlWrite k) s = .next (superDone (s.modCore t fun c => { c with isctl := v, greedy := [] }) k d old.toNat)) ∧
    (n = 0x18 → exec (.ipendWrite k) s =
      .next (superDone (s.modCore t fun c => { c with svc := { c.svc with ipend := c.svc.ipend &&& v.setWidth 3 } }) k d old.toNat)) ∧
    (0x40 ≤ n → n ≤ 0x43 → exec (.watchRegWrite k) s =
      .next (superDone (s.modCore t fun c => { c with watch := AMap.put c.watch (n - 0x40) (latchWatch s t (n - 0x40) v) }) k d old.toNat)) ∧
    ((0x10 ≤ n ∧ n ≤ 0x1A ∧ n ≠ 0x18) ∨ n = 0x50 → exec (.csrWrite k) s = .next (superDone (s.modCore t fun c => csrWrite c n v) k d old.toNat))

/-- TRET, WFI, SIPI, SNAP, TLBI and WSWAP, WFI_WAKE and SIPI_DELIVER (R222, R305, R306, R308, R333): TRET goes to TEPC with IE from PIE; WFI goes on while
an interrupt is pending and else waits for one; SIPI gives its target the message and bit 0 of IPEND, or waits while the bit stands; each TLBI takes
the entries it names out of every buffer of the partition; SNAP fires the trigger net; WSWAP turns a pair's generation, new in d. -/
def Obligations.SupervisorInstructions : Prop :=
  (∀ (s : State) (x : Ctx), ctxOf s = some x →
    let f := fun op => { op := op, guard := false, once := true : Form }
    (Issues x (f 0xC4) → Answers (exec .tret s) x (x.s.modCore x.k fun c => { c with svc := { c.svc with ie := c.svc.pie } }) x.c.svc.tepc) ∧
    (Issues x (f 0xC5) →
      (x.c.svc.ipend ≠ 0 → Answers (exec .wfi s) x x.s (nextSlot x.gn.pc)) ∧
      (x.c.svc.ipend = 0 → Waits (exec .wfi s) x (x.s.modCore x.k fun c => { c with svc := { c.svc with op := some .wfi } }) .supervisor)) ∧
    (∀ n : BitVec 16, Issues x (f 0xCE) → Answers (exec (.snap n) s) x (fireTrigger x.s x.part (n.setWidth 32)) (nextSlot x.gn.pc)) ∧
    (∀ a b : Reg, Issues x { op := 0xC6, classes := Reg.unif a && Reg.unif b, guard := false, once := true, more := [(a, 1), (b, 1)] } →
      bitsW (x.rd 0 a) 31 8 = 0 → (partAt x.s x.part).slices.contains (bitsW (x.rd 0 a) 4 0) = true →
      let t := sipiTarget (x.rd 0 a)
      let sent := x.s.modCore t fun c => { c with svc := { c.svc with imsg := x.rd 0 b, ipend := c.svc.ipend ||| 1 } }
      let waits := x.s.modCore x.k fun c => { c with svc := { c.svc with op := some (.sipi t (x.rd 0 b)) } }
      ((coreAt x.s t).svc.ipend.getLsbD 0 = false → Answers (exec (.sipi a b) s) x sent (nextSlot x.gn.pc)) ∧
      ((coreAt x.s t).svc.ipend.getLsbD 0 = true → Waits (exec (.sipi a b) s) x waits .supervisor)) ∧
    (∀ a b : Reg,
      let did := fun (d : BitVec 16) => decide (d.toNat = (x.rd 0 a).toNat)
      let page := fun (p : Nat) => decide (p = pageOf (x.rd64 0 b))
      let spans := fun (e : TlbEntry) => e.ofPage e.did (vaNat (x.rd64 0 b))
      let form := fun classes more => { op := 0xC7, classes := classes, guard := false, once := true, more := more : Form }
      (Issues x (form true []) → Answers (exec .tlbiAll s) x (removeEntries x.s x.part (fun _ => true) fun _ _ => true) (nextSlot x.gn.pc)) ∧
      (Issues x (form (Reg.unif a) [(a, 1)]) →
        Answers (exec (.tlbiDom a) s) x (removeEntries x.s x.part (fun e => did e.did) fun d _ => did d) (nextSlot x.gn.pc)) ∧
      (Issues x (form (Reg.unif a && Reg.spair b) [(a, 1), (b, 2)]) →
        Answers (exec (.tlbiVa a b) s) x (removeEntries x.s x.part (fun e => did e.did && spans e) fun d p => did d && page p) (nextSlot x.gn.pc)) ∧
      (Issues x (form (Reg.spair b) [(b, 2)]) →
        Answers (exec (.tlbiVaall b) s) x (removeEntries x.s x.part spans fun _ p => page p) (nextSlot x.gn.pc))) ∧
    (∀ (d : Reg) (n : BitVec 16),
      let p := n.toNat
      let new := if (partAt x.s x.part).current.contains p then 0 else 1
      p ≤ 95 → x.s.paired.contains p = true → regionOf x.s x.part (2 * p) = true →
      Issues x { op := 0xCC, classes := Reg.sz d, guard := false, once := true, writes := [(d, 1)] } → writePending x.s x.part (2 * p + new) = false →
      Answers (exec (.wswap d n) s) x ((x.setWarp (x.wp.dstS d 1 new)).modPart x.part fun pt =>
        { pt with current := if new = 1 then p :: pt.current else pt.current.filter fun q => decide (q ≠ p) }) (nextSlot x.gn.pc))) ∧
  ∀ (s : State) (k : Nat),
    ((coreAt s k).svc.op = some .wfi → (coreAt s k).svc.ipend ≠ 0 → exec (.wfiWake k) s = .next (superDone s k .z 0)) ∧
    ∀ t m, (coreAt s k).svc.op = some (.sipi t m) → (coreAt s t).svc.ipend.getLsbD 0 = false →
      exec (.sipiDeliver k) s = .next (superDone (deliverMsg s t m) k .z 0)

/-- DSLW, DPRE, CTXS, CTXL and HGMB, WARP_HALT and DPRE_COMPLETE (R306 to R308, R316, R328, R336 to R339): DSLW writes an image that its checks accept;
DPRE asks its cores and waits, each warp halts once nothing keeps it running, and DPRE completes with their number when all have stopped; CTXS saves a
stopped domain and CTXL restores a saved one into its slot; HGMB hands a kernel request to its service, and answers an unknown one with status 2. -/
def Obligations.DomainInstructions : Prop :=
  (∀ (s : State) (x : Ctx) (d a b : Reg), ctxOf s = some x →
    (∀ k n, slotSelector x (x.rd 0 a) = .ok (k, n) →
      let old := AMap.getD (coreAt x.s k).slots n {}
      let pa := (x.rd64 0 b).toNat
      let save := fun op => { op := op, classes := Reg.unif a && Reg.spair b, guard := false, once := true, more := [(a, 1), (b, 2)] : Form }
      (let new := slotImage ((List.range 8).map (groupWord x b))
       Issues x { op := 0xC8, classes := Reg.unif a && groupReg b 56, guard := false, once := true, more := (a, 1) :: groupReads b 8 } →
        dslwChecks x.s x.part k n new = .ok () → (isReset old new && domainRuns x.s k old.did) = false →
        Answers (exec (.dslw a b) s) x (writeSlot x.s x.part k n new) (nextSlot x.gn.pc)) ∧
      (Issues x (save 0xCA) → old.valid = true → old.halted = true → domainStopped x.s old.did k = true → saveAreaOk x.s x.part old pa = true →
        x.s.liveSerials.length < 65536 → writesOut (coreAt x.s k) old.did = false →
        Answers (exec (.ctxs a b) s) x (saveDomain x.s x.part k n old pa) (nextSlot x.gn.pc)) ∧
      (∀ sv ws, Issues x (save 0xCB) → old.valid = true → saveAreaOk x.s x.part old pa = true → headerAgrees x.s x.part pa old = true →
        savedAt x.s x.part pa = some sv → sv.did = old.did → sv.world = old.world → sv.groups = (groupList old.groups).length →
        warpsOf (coreAt x.s k) old.did = [] → slotsFor (coreAt x.s k) old (sv.warps.map Prod.fst) = some ws →
        unitsClosed (coreAt x.s k) old sv = false →
        let m : Move := { old := sv.groupList, new := groupList old.groups, core := k, ids := (coreAt x.s k).nextId, ages := (coreAt x.s k).residents, slots := ws, blocks := (coreAt x.s k).blockSerial, clk := (coreAt x.s k).clk.toNat }
        Answers (exec (.ctxl a b) s) x (restoreDomain x.s x.part k n sv m) (nextSlot x.gn.pc))) ∧
    (∀ k, Issues x { op := 0xC9, classes := Reg.sz d && Reg.unif a && Reg.unif b, guard := false, once := true, more := [(a, 1), (b, 1)], writes := [(d, 1)] } →
      bitsW (x.rd 0 a) 31 16 = 0 → selectorOf x (x.rd 0 b) true = .ok k →
      let ks := match k.2 with | some k => [k] | none => (coresOfPart x.s x.part).filter isCompute
      let did : BitVec 16 := (x.rd 0 a).setWidth 16
      ∃ t, exec (.dpre d a b) s = .next t ∧
        t = beginWait { x with s := ks.foldl (fun s k => preemptCore s did k) x.s }
          { op := 0xC9, classes := Reg.sz d && Reg.unif a && Reg.unif b, guard := false, once := true, more := [(a, 1), (b, 1)], writes := [(d, 1)] }
          ((ks.foldl (fun s k => preemptCore s did k) x.s).modCore x.k fun c => { c with svc := { c.svc with op := some (.dpre ks did (dpreCount x.s did ks) d) } })
          .supervisor ∧ ∀ gn, gangAt t x.k x.w x.g = some gn → gn.status = .waiting .supervisor) ∧
    (let va := x.rd64 0 a
     let split := min 256 (4096 - va.toNat % 4096)
     let lo := keyAt x.s x.k x.did none va
     let hi := if split = 256 then lo else keyAt x.s x.k x.did none (va + BitVec.ofNat 64 split)
     Issues x { op := 0xCD, classes := Reg.sz d && Reg.spair a, guard := false, once := true, more := [(a, 2)], writes := [(d, 1)] } → va.toNat % 64 = 0 →
      issueCheck x { size := 64, write := true } [va, va + 252] = .ok () →
      let wait := x.s.modCore x.k fun c => { c with svc := { c.svc with op := some (.hgmb (memNat x.s lo 4) lo hi split d) } }
      let kernels := (potAt x.s lo).owner = 0xFFFF ∧ (potAt x.s hi).owner = 0xFFFF
      (¬ kernels → Answers (exec (.hgmb d a) s) x (x.setWarp (x.wp.dstS d 1 1)) (nextSlot x.gn.pc)) ∧
      (kernels → services.contains (memNat x.s lo 4) = true → Waits (exec (.hgmb d a) s) x wait .supervisor) ∧
      (kernels → services.contains (memNat x.s lo 4) = false →
        Answers (exec (.hgmb d a) s) x (homeWriteNat (x.setWarp (x.wp.dstS d 1 2)) lo 4 2) (nextSlot x.gn.pc)))) ∧
  ∀ (s : State) (k w : Nat),
    (∀ wp, warpAt s k w = some wp → wp.preempt = true → wp.halted = false →
      (∀ ac ∈ (coreAt s k).inflight, ac.w = w → ac.warpAge = wp.age → keepsRunning ac = false) →
      exec (.warpHalt k w) s = .next (s.modWarp k w fun wp => { wp with halted := true })) ∧
    ∀ ks did n d, (coreAt s k).svc.op = some (.dpre ks did n d) → (∀ j ∈ ks, domainStopped s did j = true) →
      exec (.dpreComplete k) s = .next (superDone s k d n)

/-- The steps of an access on its path (R86, R88, R90, R181, R188, R190, R215, R216, R228, R229, R361). A load's line is performed once nothing before it
on the path asks for that line and no resize holds it, from the memory that stands then: outside pooled memory that is the memory before the step, and
no byte of it changes. A store to memory that no window, tensor or other home stands in front of writes each lane's bytes in the order of the lanes.
An atomic gives its lane the value that stood at its address, and the address what its operation makes of it. An access that no watch register matched
and whose data is all there lands it, leaves the path, and counts its counter down by one. What a load makes of a lane's bytes (R86, R88): with n
registers from r on, register r + j takes word j; a byte or a halfword is extended with zeros or with its sign; every other register and lane keeps
its value. An entry of the combining buffer that is 2048 cycles old is sent (R190): it leaves the buffer as one operation at the path's end, of its
bytes, its value and its contributors. -/
def Obligations.HomeSteps : Prop :=
  (∀ (s : State) (k id : Nat) (ac : Access), accessAt s k id = some ac → ac.watch = none →
    (∀ line p h, (ac.parts.find? fun p => decide (p.line = line)) = some p → ac.kind ≠ .store → ac.abandoned = false → p.performed = false →
      firstOnPath (coreAt s k) id line = true → homeHeld s line = false →
      let s' := podStir (partOut s k ac p (readRequest s (coreSlice k) p)) line
      homeRead s' k line = some h →
      ∃ t, exec (.homeLoad k id line) s = .next t ∧ t.mem = s'.mem ∧ (lineKindPod line = false → s' = s) ∧
        ∃ bc, accessAt t k id = some bc ∧ bc.lanes = ac.lanes ∧ bc.dest = ac.dest ∧ ∀ q ∈ bc.parts, q.line = line → q.performed = true) ∧
    (∀ line h, paKind (128 * line) = 0 → homeRead s k line = some h → h.report = false ∧ ∀ a, a / 128 = line → cellRead h.cells a = cellRead s.mem a) ∧
    (∀ line, ac.kind = .store → (∃ p ∈ ac.parts, p.line = line ∧ p.performed = false) → firstOnPath (coreAt s k) id line = true → homeHeld s line = false → paKind (128 * line) = 0 →
      ∃ t, exec (.homeStore k id line) s = .next t ∧
        t.mem = ((ac.lanes.filter fun la => decide (la.pa / 128 = line)).foldl (fun s la => homeWrite s la.pa la.bytes) s).mem) ∧
    (∀ la op, ac.kind = .atomic op → (ac.lanes.find? fun lb => decide (lb.lane = la.lane)) = some la → la.done = false →
      firstOnPath (coreAt s k) id (la.pa / 128) = true → homeHeld s (la.pa / 128) = false → (∀ lb ∈ ac.lanes, lb.lane < la.lane → lb.pa = la.pa → lb.done = true) → paKind la.pa = 0 →
      let old := memNat s la.pa la.size
      ∃ t, exec (.homeAtomic k id la.lane) s = .next t ∧
        (atomFun ac la old = none → t.mem = s.mem) ∧
        (∀ v, atomFun ac la old = some v → t.mem = (homeWriteNat s la.pa la.size v).mem) ∧
        ∃ bc, accessAt t k id = some bc ∧ ∀ lb ∈ bc.lanes, lb.lane = la.lane → lb.done = true ∧ lb.val = BitVec.ofNat 128 old) ∧
    (ac.isAtomic = true → (∀ la ∈ ac.lanes, la.done = true) → exec (.atomicReturn k id) s = .next (returnAtomic s k ac)) ∧
    (ac.kind = .lds → ∃ t, exec (.scratchpadLoadReturn k id) s = .next t ∧ t.mem = s.mem ∧ accessAt t k id = none ∧
      ∀ wp, warpAt s k ac.w = some wp → wp.age = ac.warpAge →
        warpAt t k ac.w = some (ac.lanes.foldl (fun wp la => wp.land ac.dest la.lane la.size la.val.toNat la.poison) wp)) ∧
    (ac.kind = .store → (∀ p ∈ ac.parts, p.performed = true) → ∃ t, exec (.storeAck k id) s = .next t ∧ t.mem = s.mem ∧ accessAt t k id = none ∧
      ∀ wp, warpAt s k ac.w = some wp → wp.age = ac.warpAge → (warpAt t k ac.w).map Warp.sc = some (wp.sc - 1)) ∧
    (∀ sector p, (ac.parts.find? fun p => decide (p.line = sector / 4)) = some p → ac.kind = .load → ac.abandoned = false → p.sectors.contains sector = true →
      p.landed.contains sector = false → p.performed = true ∨ p.hits.contains sector = true →
      ∃ t, exec (.loadSectorLand k id sector) s = .next t ∧ t.mem = s.mem ∧
        ∀ wp, warpAt s k ac.w = some wp → wp.age = ac.warpAge →
          let landed := (ac.lanes.filter fun la => decide (la.pa / 32 = sector)).foldl (fun wp la =>
            wp.land ac.dest la.lane la.size (cellsNat p.snap la.pa la.size) (badBits p.snapPoison la.pa la.size)) wp
          (warpAt t k ac.w).map (fun wp => (wp.vregs, wp.sregs)) = some (landed.vregs, landed.sregs)) ∧
    (ac.isAtomic = true → (∃ la ∈ ac.lanes, paKind la.pa = 2) → ac.born.toNat + (if isService k then 17600 else 8800) ≤ (coreAt s k).clk.toNat →
      (∀ la ∈ ac.lanes, paKind la.pa = 2 ∨ la.done = true) → (ac.lanes.map LaneAcc.lane).Nodup → ∃ t, exec (.remoteAtomicTimeout k id) s = .next t ∧ accessAt t k id = none)) ∧
  (∀ (wp : Warp) (r n l size v bad : Nat) (signed : Bool), l < 32 →
    let t := wp.land (.vec r n signed) l size v bad
    (∀ j, j < n →
      (size = 1 ∨ size = 2 → t.vreg (r + j) l =
        (if signed then BitVec.signExtend 32 (BitVec.ofNat (8 * size) v) else BitVec.setWidth 32 (BitVec.ofNat (8 * size) v)) >>> (32 * j)) ∧
      (4 ≤ size → t.vreg (r + j) l = BitVec.ofNat 32 (v / 2 ^ (32 * j)))) ∧
    (∀ i m, m < 32 → m ≠ l ∨ i < r ∨ r + n ≤ i → t.vreg i m = wp.vreg i m) ∧ t.sregs = wp.sregs ∧ t.gangs = wp.gangs) ∧
  (∀ (s : State) (k i : Nat) (e : CombineEntry), (coreAt s k).combine[i]? = some e → e.born.toNat + 2048 ≤ (coreAt s k).clk.toNat →
    (∀ d ∈ (coreAt s k).combine, d.pa = e.pa → d = e) → (coreAt s k).combine.Nodup →
    ∃ t ac, exec (.combiningEntryExpiry k i) s = .next t ∧ t.mem = s.mem ∧ (coreAt t k).combine = ((coreAt s k).combine.filter fun d => decide (d.pa ≠ e.pa)) ∧
      (coreAt t k).inflight = (coreAt s k).inflight ++ [ac] ∧ ac.kind = .merged e.op ∧ ac.combined = e.val ∧ ac.contributors = e.contributors ∧ ac.did = e.did ∧
      ac.lanes.map (fun la => (la.pa, la.size)) = [(e.pa, e.width / 8)])

/-- The steps of a copy in its queue (R193, R194, R195): it starts once the issuing warp's earlier stores are done; each chunk is translated and checked
when the one before has landed, a missing translation is asked for, and a failed check ends the copy and leaves its fault to the warp; a piece of a
CPY puts the bytes read at its home into the scratchpad and changes no other byte of it, a piece of a CPYO is performed at its home, each after the
accesses of its core to the same line that were issued before its chunk. A fault left to a warp is taken at the lowest gang's next instruction
boundary, or at once where no gang lives. -/
def Obligations.CopySteps : Prop :=
  (∀ (s : State) (k q : Nat) (cmd : Command), copyHead s k q = some cmd →
    let c := copyOf cmd.group
    let ps := c.pieces cmd.chunked
    let tree := cmd.tree s
    let check := rangeCheck s k cmd.did tree (copyAsk (decide (cmd.op = .cpyo))) (coversWhole ps s k cmd.did tree) (ps.map fun p => p.va)
    let may := cmd.started = true ∧ cmd.chunked < c.chunks ∧ chunkDone cmd = true ∧ domainHalted (coreAt s k) cmd.did = false
    let rest := c.total - 4096 * cmd.chunked
    (cmd.started = false → drained s cmd = true → exec (.copyStart k q) s = .next (modCommand s k (copyQueue q) cmd fun d => { d with started := true })) ∧
    (may → check = .ok → ∃ t, exec (.copyChunk k q) s = .next t ∧ t.mem = s.mem ∧
      queueOf t k (copyQueue q) = (queueOf s k (copyQueue q)).map fun d => if d.id = cmd.id ∧ d.core = cmd.core ∧ !d.marks then
        { d with chunked := d.chunked + 1, busy := true, pages := ps.foldl (fun m p => AMap.put m p.off (keyAt s k cmd.did tree p.va)) [], landed := [], mark := (coreAt s k).nextId } else d) ∧
    (∀ vas, may → check = .miss vas → exec (.copyChunk k q) s = .next (askPages s k cmd.did vas)) ∧
    (∀ cause d addr, may → check = .fault cause d addr → exec (.copyChunk k q) s =
      .next (dropAllRefusals (dropCommand (sendFault (copyLand s cmd rest true) (copyQueue q) cmd cause d addr) k (copyQueue q) cmd) k)) ∧
    (∀ off p bs bad u, cmd.op = .cpy → pieceOf cmd off = some p → clearBefore (coreAt s k) cmd.mark (AMap.getD cmd.pages off 0 / 128) = true →
      engineRead s k (AMap.getD cmd.pages off 0) p.len = some (bs, bad, u) →
      ∃ v, exec (.copyPieceLand k q off) s = .next (landPiece v k q cmd p) ∧ v.mem = u.mem ∧ bs.length = p.len ∧
        (coreAt v k).scratch = (viewPut (coreAt u k) cmd.view p.sp bs).scratch ∧
        (lineKindPod (AMap.getD cmd.pages off 0 / 128) = false → u.mem = s.mem ∧ (coreAt u k).scratch = (coreAt s k).scratch)) ∧
    (∀ off p u, cmd.op = .cpyo → pieceOf cmd off = some p →
      let key := AMap.getD cmd.pages off 0
      let bs := viewBytes (coreAt s k) cmd.view p.sp p.len
      keyHeld s key = false → clearBefore (coreAt s k) cmd.mark (key / 128) = true →
      performStore s k (key / 128) cmd.did ((ownUnits cmd p).map fun j => { lane := 0, pa := key + 16 * j, size := 16, val := BitVec.ofNat 128 (leNat ((bs.drop (16 * j)).take 16)) }) = some u →
      ∃ v, exec (.copyoPieceAck k q off) s = .next (landPiece v k q cmd p) ∧ v.mem = u.mem)) ∧
  (∀ (c : Core) (v : View) (a : Nat) (bs : List Byte), bs.length ≤ 4096 →
    viewBytes (viewPut c v a bs) v a bs.length = bs ∧
    ∀ x, (∀ i < bs.length, x ≠ v.at (a + i)) → cellRead (viewPut c v a bs).scratch x = cellRead c.scratch x) ∧
  ∀ (s : State) (k w : Nat) (wp : Warp) (d : Deferred) (rest : List Deferred), warpAt s k w = some wp → wp.engineFaults = d :: rest →
    let s' := s.modWarp k w fun wp => { wp with engineFaults := rest }
    (lowestFirst wp.gangs = none → exec (.engineFaultDeliver k w) s = .next (trapCompute s' k w d)) ∧
    ∀ g gn, lowestFirst wp.gangs = some g → AMap.get? wp.gangs g = some gn → gn.atBoundary = true → wp.preempt = false → wp.halted = false →
      exec (.engineFaultDeliver k w) s =
        .next (trapCompute s' k w { d with entry := g, resume := gn.pc, gmask := gn.mask, mode := gn.mode, active := gn.mask &&& guardMask wp gn.mode })

/-- The steps of the pool and collective engines (R290, R292 to R297, R299, R372, R373): a command starts once the issuing warp's earlier stores are done;
a gather's rows arrive, and with all of them in its output is written; a collective first answers for its group, then does its work; a digest that is
accepted verifies its pages and any other quarantines the region. What has run writes its status word, makes its arrival and leaves its queue. -/
def Obligations.EngineSteps : Prop :=
  ∀ (s : State) (n : Nat) (q : Command),
    (sliceHead s n .pq = some q → q.ran = false →
      (∀ r ∈ [(Instr.gathRun n, EngineOp.gath, true), (.poolRun n, .pool, false)], q.op = r.2.1 →
        (q.started = false → drained s q = true → exec r.1 s = .next (startPool s n q)) ∧
        (q.started = true → (∀ i, i < (poolOf q.group).entries → q.rows.contains i = true ∨ isPad q i = true) → exec r.1 s = .next (finishPool s n q r.2.2))) ∧
      (∀ row bs bad u, q.started = true → row < (poolOf q.group).entries → q.rows.contains row = false → isPad q row = false → rowStarts q row = true →
        rangeCheck s q.core q.did (q.tree s) { size := 16, write := false } (fun _ => false) (rangeLines (rowAddr q row) (poolOf q.group).rowBytes) = .ok →
        readParts s q.core (rowParts s q row) = some (bs, bad, u) →
        exec (.poolRowArrive n row) s = .next (modHead (markRead u (q.tree s) ((rowParts s q row).map Prod.fst)) n .pq q fun d =>
          { d with rows := row :: d.rows, data := AMap.put d.data row bs, rowPoison := if bad.isEmpty then d.rowPoison else row :: d.rowPoison }))) ∧
    (sliceHead s n .fq = some q → q.ran = false →
      let g := startedGroup s q
      let off := (q.word 1).toNat
      let begun := modHead s n .fq q fun d => { d with started := true, snap := some (groupAt s (corePart s q.core) (groupField (q.word 0))) }
      let reads := fun (m : Nat) (bs : List Byte) (bad : List Nat) (u : State) =>
        rangeCheck s q.core q.did (q.tree s) { size := 128, write := false } (fun _ => false) ((q.span m).map fun p => p.2.2) = .ok ∧
        readParts s q.core (keysOf s q (q.span m)) = some (bs, bad, u)
      let seen := fun (u : State) (m : Nat) => markRead u (q.tree u) ((keysOf u q (q.span m)).map Prod.fst)
      (q.op = .mcred → let bytes := (q.word 2).toNat * (g.etype.width / 8)
        (q.started = false → drained s q = true → exec (.mcredRun n) s = .next begun) ∧
        (∀ st, q.started = true → groupStop g off bytes (decide (bytes % 128 = 0)) = some st → exec (.mcredRun n) s = .next (endCommand s n q st)) ∧
        (q.started = true → groupStop g off bytes (decide (bytes % 128 = 0)) = none → exec (.mcredRun n) s = .next (performMcred s n q g))) ∧
      (q.op = .mcst → let m := 4 * (q.word 2).toNat
        (q.started = false → drained s q = true → exec (.mcstRun n) s = .next begun) ∧
        (∀ st, q.started = true → groupStop g off m true = some st → exec (.mcstRun n) s = .next (endCommand s n q st)) ∧
        (∀ bs bad u, q.started = true → groupStop g off m true = none → reads m bs bad u → exec (.mcstRun n) s = .next (performMcst (seen u m) n q g bs bad))) ∧
      (q.op = .wbcast → cisternWaits s n q = false → let m := 4096 * (q.word 2).toNat
        (q.started = false → drained s q = true → exec (.wbcastRun n) s = .next begun) ∧
        (∀ st, q.started = true → groupStop { g with members := [] } 0 0 true = some st → exec (.wbcastRun n) s = .next (endCommand s n q st)) ∧
        (∀ bs bad u, q.started = true → groupStop { g with members := [] } 0 0 true = none → reads m bs bad u →
          exec (.wbcastRun n) s = .next (performWbcast (seen u m) n q g bs bad))) ∧
      (q.op = .dgst → let lo := 4096 * off
        let pages := (q.word 2).toNat
        let here := s.ranges.filter fun r => decide (r.offset / 2 ^ 26 = lo / 2 ^ 26)
        let expected : Digest := BitVec.ofNat 384 (leNat (viewBytes (coreAt s q.core) q.view (bitsW (q.word 0) 19 0) 48))
        let range : CisternRange := { offset := lo, pages := pages, digest := expected }
        (q.started = false → drained s q = true → exec (.dgstRun n) s = .next (modHead s n .fq q fun d => { d with started := true })) ∧
        (q.started = true → (∀ w ∈ s.cisternWrites, ¬ (w.offset < lo + 4096 * pages ∧ lo < w.offset + w.length)) →
          (regionOf s (corePart s q.core) (lo / 2 ^ 26) = false → exec (.dgstRun n) s = .next (endCommand s n q 5)) ∧
          (regionOf s (corePart s q.core) (lo / 2 ^ 26) = true → (∀ i, i < pages → refreshing s (cisternKey (lo + 4096 * i)) = false) →
            (here.length < 64 ∨ ∃ r ∈ here, r.offset = lo ∧ r.pages = pages) →
            (Config.sha384 (range.bytes s) ≠ expected ∨ range.bad s = true ∨ (partAt s (corePart s q.core)).manifests.contains expected = false → exec (.dgstRun n) s = .next (endCommand (quarantine s (lo / 2 ^ 26)) n q 7)) ∧
            (Config.sha384 (range.bytes s) = expected → range.bad s = false → (partAt s (corePart s q.core)).manifests.contains expected = true →
              ∃ t, exec (.dgstRun n) s = .next t ∧ t.mem = s.mem ∧ (∀ i, off ≤ i → i < off + pages → AMap.get? t.unverified i = none) ∧
                (∀ i, i < off ∨ off + pages ≤ i → AMap.get? t.unverified i = AMap.get? s.unverified i) ∧ t.ranges = (s.ranges.filter fun r => !(decide (r.offset = lo) && decide (r.pages = pages))) ++ [range]))))) ∧
    ∀ eq, sliceHead s n eq = some q → q.ran = true →
      let s1 := match q.statusPlace, q.status with
        | some o, some st => s.modCore q.core fun c => scratchPutNat c (q.view.at o) 4 st
        | _, _ => s
      (q.barrier = none → exec (.engineCommandComplete n eq) s = .next (dropCommand s1 (512 + 4 * n) eq q)) ∧
      ∀ o, q.barrier = some o → exec (.engineCommandComplete n eq) s = .next (dropCommand (engineArrive s1 q.core o q.error) (512 + 4 * n) eq q)

/-- The operations of the matrix engine, each as it takes effect at the head of mq (R251 to R260, R279 to R281, R289): MLDB loads the stationary columns,
MMAC adds the blocks' products to each cell of a set unless every sub-array is fenced, MZERO and MANCH reset sets, EPI takes the epilogue's words, MRD
gives the outputs, MTEST fences what fails, MFENCE tests one sub-array and arrives with the error of its batch. An engine idle for 256 cycles tests
one too. -/
def Obligations.MatrixSteps : Prop :=
  (∀ (s : State) (k : Nat) (q : Command), mqHead (coreAt s k) = some q →
    let c := coreAt s k
    let m := enterRun c.matrix q
    (q.op = .mldb → MqDone (exec (.mldbRun k) s) s k q { m with b := some (loadB c q) }) ∧
    (∀ set, q.op = .mmac set →
      (m.fenced = 0xFF → MqDone (exec (.mmacRun k) s) s k q (m.modRun q fun b => { b with flag := true })) ∧
      (m.fenced ≠ 0xFF → ∀ b, m.b = some b →
        MqDone (exec (.mmacRun k) s) s k q ((m.modRun q fun b => { b with used := b.used ||| ~~~m.fenced }).modSet set (mmacSet c q b)))) ∧
    (∀ mask, q.op = .mzero mask → MqDone (exec (.mzeroRun k) s) s k q (zeroSets m mask none)) ∧
    (∀ mask a, q.op = .manch mask a → MqDone (exec (.manchRun k) s) s k q (zeroSets m mask (some a))) ∧
    (q.op = .epi → MqDone (exec (.epiRun k) s) s k q { m with epi := q.group, epiView := q.view }) ∧
    (∀ fails, q.op = .mtest → let new := fails &&& ~~~m.fenced
      let t := { m with fenced := m.fenced ||| new }
      MqDone (exec (.mtestRun k fails) s) s k q
        (if new &&& ((m.runOf q.batch).map Batch.used).getD 0 = 0 then t else t.modRun q fun b => { b with flag := true })) ∧
    (q.op = .scrubMatrix → MqDone (exec (.scrubMatrixRun k) s) s k q { m with toContents := { did := q.did } }) ∧
    (∀ fail, q.op = .mfence → q.barrier = none → MqDone (exec (.mfenceRun k fail) s) s k q (selfTest c.matrix fail)) ∧
    (∀ fail o, q.op = .mfence → q.barrier = some o →
      ∃ u, exec (.mfenceRun k fail) s = .next (engineArrive u k o ((c.matrix.runOf q.batch).any fun b =>
          b.flag || ((nextUnfenced c.matrix.fenced c.matrix.pointer).isSome && fail && decide (b.used ≠ 0)))) ∧
        MqDone (.next u) s k q (selfTest c.matrix fail)) ∧
    (∀ set clr, q.op = .mrd set clr →
      let acc := if set = 0 then m.acc0 else m.acc1
      let t := (outType (bitsW (m.epi.getD 0 0) 12 8)).getD .f32
      let at_ := fun r => bitsW (q.group.getD 0 0) 19 0 + r * bitsW (q.group.getD 1 0) 15 0
      let n := outBytes t 16
      let cell := fun r col => (mrdCell c m r col (AMap.getD acc (16 * r + col) {})).1
      ∃ u, exec (.mrdRun k) s = .next u ∧ u.mem = s.mem ∧
        (coreAt u k).matrix = (if clr then m.modSet set fun _ => [] else m).prune (coreAt u k).mq ∧
        (∀ r, r < 32 → (∀ j, j < 32 → r < j → ∀ i i', i < n → i' < n → q.view.at (at_ r + i) ≠ q.view.at (at_ j + i')) →
          viewBytes (coreAt u k) q.view (at_ r) n = rowBytes t ((List.range 16).map (cell r))) ∧
        ∀ a, (∀ r i, r < 32 → i < n → a ≠ q.view.at (at_ r + i)) → cellRead (coreAt u k).scratch a = cellRead c.scratch a)) ∧
  (∀ (c : Core) (q : Command) (b : Stationary) (acc : AMap Acc) (r col : Nat), r < 32 → col < 16 →
    AMap.getD (mmacSet c q b acc) (16 * r + col) {} = mmacCell ((List.range q.layout.nkb).map fun j => tileBlock c q.view q.layout r j) (b.exps.getD col [])
      (b.mants.getD col []) (AMap.getD acc (16 * r + col) {})) ∧
  (∀ (acc : AMap Acc) (i : Nat), AMap.getD (zeroSet none acc) i {} = {} ∧ ∀ a, i < 512 → AMap.getD (zeroSet (some a) acc) i {} = { anchor := some a }) ∧
  ∀ (s : State) (k : Nat) (fail : Bool), (coreAt s k).matrix.batch = none → (coreAt s k).mq = [] → 256 ≤ (coreAt s k).matrix.idle →
    exec (.selfTestIdle k fail) s = .next (s.modCore k fun c => { c with matrix := { selfTest c.matrix fail with idle := 0 } })

/-- The units of a core (R311, R325, R327): a unit whose scrubbing is done leaves the list and the taint, a unit that wakes tainted is scrubbed first, an
idle unit that powers down keeps only its taint, and a saved batch is reopened, once the engine is free, with its commands in their order before those
of its domain that were issued since. -/
def Obligations.UnitSteps : Prop :=
  ∀ (s : State) (k : Nat) (u : PowerUnit),
    ((coreAt s k).scrubbing.contains u = true → ∃ t, exec (.unitScrubDone k u) s = .next t ∧ (coreAt t k).scrubbing.contains u = false ∧
      (coreAt t k).tainted.contains u = false ∧ t.mem = s.mem ∧ (coreAt t k).warps = (coreAt s k).warps ∧
      (∀ g, u = .scratchGroup g → ∀ a, 49152 * g ≤ a → a < 49152 * g + 49152 → cellRead (coreAt t k).scratch a = 0)) ∧
    ((coreAt s k).asleep.contains u = true → (coreAt s k).held = false → ∃ t, exec (.unitWake k u) s = .next t ∧ (coreAt t k).asleep.contains u = false ∧
      ((coreAt s k).tainted.contains u = true → (coreAt t k).scrubbing.contains u = true) ∧ t.mem = s.mem ∧ (coreAt t k).warps = (coreAt s k).warps) ∧
    (isCompute k = true → (coreAt s k).asleep.contains u = false → (coreAt s k).scrubbing.contains u = false → unitIdle s k u = true →
      ∃ t, exec (.unitPowerDown k u) s = .next t ∧ (coreAt t k).asleep.contains u = true ∧ (coreAt t k).tainted = (coreAt s k).tainted ∧
        (coreAt t k).warps = (coreAt s k).warps ∧ (u = .l1 → (coreAt t k).l1 = [])) ∧
    ∀ r, s.reopen.find? (mayReopen (coreAt s k) k) = some r → (coreAt s k).matrix.batch = none →
      (coreAt s k).asleep.contains .matrix = false → (coreAt s k).scrubbing.contains .matrix = false →
      ∃ t, exec (.batchReopen k) s = .next t ∧ t.reopen = s.reopen.erase r ∧ (coreAt t k).matrix.acc0 = r.matrix.acc0 ∧ (coreAt t k).matrix.acc1 = r.matrix.acc1 ∧
        (coreAt t k).matrix.b = r.matrix.b ∧ (coreAt t k).matrix.epi = r.matrix.epi ∧ (coreAt t k).matrix.did = r.matrix.did ∧
        let ahead := ((coreAt s k).mq.takeWhile fun q => decide (q.did ≠ r.matrix.did)).length
        (coreAt t k).mq.map Command.op = ((coreAt s k).mq.take ahead).map Command.op ++ r.mq.map Command.op ++ ((coreAt s k).mq.drop ahead).map Command.op

/-- The steps that make gangs eligible and bring warps to the cores (R17, R59, R109, R112, R114, R117, R118, R121 to R125, R135, R142): a stall or a yield
that has run out makes its gang ready; a gang that ages to the threshold keeps the cycle in which it did; a park that expires leaves its MEET; a VGROW
that now fits is granted, from the reserve when every warp waits; a bin whose timer runs out launches or waits its turn; a due request takes its place
in its dispatcher's order; a block is placed after every request that is due, and its slice takes the next one 8 cycles later; a warp enters with one
gang of all its lanes at its entry, in the next cycle in which none enters its quadrant, and retires once no lane and no count is left. The steps of a
slice's translation service (R343): the walk of the oldest miss whose key is not walked starts while a walker is free, and every miss of its key joins
it; an answer leaves the queue with every miss that it covers, and gives each of their cores an entry that holds its page, or the refusal that the
miss takes at its next try; the checks of a fill are made for each. -/
def Obligations.SchedulingSteps : Prop :=
  ((∀ (s : State) (k w g : Nat) (gn : Gang), gangAt s k w g = some gn →
    let becomes := fun (o : Host.Outcome State Fault Refusal) (gn' : Gang) => ∃ t, o = .next t ∧ t.mem = s.mem ∧ gangAt t k w g = some gn' ∧
      ∀ j v h, (j ≠ k ∨ v ≠ w ∨ h ≠ g) → gangAt t j v h = gangAt s j v h
    (gn.status = .stalled → gn.stall = 0 → gn.yielded = false → becomes (exec (.stallRunout k w g) s) { gn with status := .ready }) ∧
    (gn.status = .stalled → gn.stall = 0 → gn.yielded = true → becomes (exec (.yieldRunout k w g) s) { gn with status := .ready, yielded := false }) ∧
    (1024 ≤ gn.ageing → gn.thresholdAt = none → becomes (exec (.ageingThreshold k w g) s) { gn with thresholdAt := some (coreAt s k).clk.toNat }) ∧
    (gn.status = .parked 0 → gn.stopped = false →
      exec (.meetParkExpiry k w g) s = .next (afterGangs (s.modWarp k w fun wp => wp.leaveMeet [g]) k w))) ∧
  (∀ (s : State) (k q w g n : Nat) (d : Reg) (sl : Slot) (wp : Warp) (rest : List (Nat × Warp)),
    growers (coreAt s k) q sl.did = (w, wp) :: rest → wp.growing = some (g, n, d) →
    let grant := wake (s.modWarp k w fun wp => { wp.dstS d 1 (wp.blocks + n) with blocks := wp.blocks + n }) k w g
    (growNeed wp n ≤ openGranules (coreAt s k) sl q → serveGrow s k q sl = some grant) ∧
    (openGranules (coreAt s k) sl q < growNeed wp n → allGrowing (coreAt s k) q sl.did = false → serveGrow s k q sl = none) ∧
    (openGranules (coreAt s k) sl q < growNeed wp n → allGrowing (coreAt s k) q sl.did = true →
      serveGrow s k q sl = some (if growNeed wp n ≤ min (sl.kept q) (freeGranules (coreAt s k) sl q) then grant.modCore k (fun c => lend c sl.did q (growNeed wp n))
        else faultWaiting s k w g (requestFault 1))) ∧
    ∀ (before after : List (Nat × Slot)) (i : Nat) (u : State), (coreAt s k).slots = before ++ (i, sl) :: after → sl.valid = true →
      (∀ e ∈ (coreAt s k).warps, e.1 / 16 = q → e.2.mayRetire = false) → (∀ e ∈ before, e.2.valid = true → serveGrow s k q e.2 = none) → serveGrow s k q sl = some u → exec (.vgrowGrant k q) s = .next u) ∧
  (∀ (s : State) (k i : Nat) (b : Bin), AMap.get? (coreAt s k).bins i = some b →
    (∀ e, b.closed = false → b.threads ≠ [] → b.timer = 0 → slotOf (coreAt s k) b.did = some e → e.2.halted = false → exec (.binTimerExpiry k i) s = .next (launchBin s k i)) ∧
    (∀ u, b.closed = true → olderUnit s k i b.since b.did = false → placeLoose s k i = some u → exec (.looseWarpPlace k i) s = .next u) ∧
    (∀ u, olderUnit s k i (partClk s k) b.did = false → placeLoose s k i = some u → launchBin s k i = u) ∧
    (olderUnit s k i (partClk s k) b.did = true ∨ placeLoose s k i = none →
      (AMap.get? (coreAt (launchBin s k i) k).bins i) = some { b with closed := true, since := partClk s k })) ∧
  (∀ (s : State) (n lane p : Nat) (l : Launch), (sliceAt s n).part = some p →
    ((partAt s p).launches.find? fun l => decide (l.slice = n) && decide (l.lane = lane)) = some l → l.due ≤ (partAt s p).clk →
    ∃ t, exec (.launchRequest n lane) s = .next t ∧ t.mem = s.mem ∧ (partAt t p).launches = (partAt s p).launches.erase l ∧
      (partAt t p).grids = insertGrid { l.grid with id := (partAt s p).nextGrid, came := l.due, rank := l.rank } (partAt s p).grids ∧ (partAt t p).nextGrid = (partAt s p).nextGrid + 1) ∧
  (∀ (s : State) (p k : Nat) (g : Grid), (∀ l ∈ (partAt s p).launches, (partAt s p).clk < l.due) → nextGridOf s p = some g → coreForBlock s p g = some k →
    let u := (placeBlock (if g.seed then bindTree s p g else s) k g).modSlice (coreSlice k) fun sl => { sl with cool := 8 }
    let left := fun (gs : List Grid) => if g.gx * g.gy * g.gz ≤ g.next + 1 then gs.filter (fun h => decide (h.id ≠ g.id)) else gs.map (fun h => if h.id = g.id then { h with next := h.next + 1 } else h)
    exec (.dispatchBlock p) s = .next (u.modPart p fun pt => { pt with grids := left pt.grids })) ∧
  (∀ (s : State) (k w scope : Nat) (wp : Warp) (entry : DWord),
    let t := enterWarp s k w wp entry scope
    let after := AMap.getD (coreAt s k).entering (w / 16) 0
    t.mem = s.mem ∧ warpAt t k w = some { wp with age := (coreAt s k).residents, gangs := [(0, { pc := slot0 entry, mask := wp.wld, stall := after, status := if after = 0 then .ready else .stalled })] } ∧
    (∀ v, v ≠ w → warpAt t k v = warpAt s k v) ∧ (coreAt t k).residents = (coreAt s k).residents + 1 ∧
    (coreAt t k).entering = AMap.put (coreAt s k).entering (w / 16) (after + 1)) ∧
  ∀ (s : State) (k w : Nat) (wp : Warp), warpAt s k w = some wp → isCompute k = true → wp.wld = 0 → wp.lc = 0 → wp.sc = 0 → wp.ec = 0 → wp.preempt = false →
    wp.halted = false → treeHeld s wp.tree = false → exec (.warpRetire k w) s = .next (retireWarp s k w wp) ∧
    ∀ i b, wp.loose = none → wp.blk = some i → AMap.get? (coreAt s k).blocks i = some b → 1 < b.live →
      let t := retireWarp s k w wp
      t.mem = s.mem ∧ warpAt t k w = none ∧ AMap.get? (coreAt t k).blocks i = some { b with live := b.live - 1 }) ∧
  ((∀ (s : State) (n : Nat) (m : Miss),
    (((sliceAt s n).misses.find? fun m => !m.walking) = some m → (walksOf (sliceAt s n).misses).length < 64 →
      ∃ t, exec (.translationWalk n) s = .next t ∧ t.mem = s.mem ∧
        (sliceAt t n).misses = (sliceAt s n).misses.map fun o => if o.did = m.did ∧ o.page = m.page then { o with walking := true } else o) ∧
    ∀ i, (sliceAt s n).misses[i]? = some m →
      let held := (sliceAt s n).service.find? fun e => e.covers m.did (4096 * m.page)
      let answers := fun (keep : List Miss) (svc : List TlbEntry) (took : List Miss) (r : Except WalkFault TlbEntry) =>
        ∃ u, exec (.translationAnswer n i) s = .next (took.foldl (fun s o => answerMiss s o r) u) ∧ u.mem = s.mem ∧ u.cores = s.cores ∧
          (sliceAt u n).misses = keep ∧ (sliceAt u n).service = svc
      (∀ e, held = some e → answers ((sliceAt s n).misses.filter fun o => !e.covers o.did (4096 * o.page)) (sliceAt s n).service
        ((sliceAt s n).misses.filter fun o => e.covers o.did (4096 * o.page)) (.ok e)) ∧
      (∀ e, held = none → m.walking = true → walkMiss s m = .ok e → answers ((sliceAt s n).misses.filter fun o => !e.covers o.did (4096 * o.page))
        (e :: (sliceAt s n).service.take 32767) ((sliceAt s n).misses.filter fun o => e.covers o.did (4096 * o.page)) (.ok e)) ∧
      ∀ f, held = none → m.walking = true → walkMiss s m = .error f → answers ((sliceAt s n).misses.filter fun o => !m.same o) (sliceAt s n).service
        ((sliceAt s n).misses.filter fun o => m.same o) (.error f)) ∧
  ∀ (s : State) (m : Miss),
    (∀ e, let world := worldOf (coreAt s m.core) m.did
      let t := answerMiss s m (.ok e)
      t.mem = s.mem ∧
      (fillFault s (corePart s m.core) m.did world e (4096 * m.page) = none →
        ∃ old, (coreAt t m.core).tlb = e.fit s (corePart s m.core) m.did world (4096 * m.page) :: old ∧ ∀ x ∈ old, x ∈ (coreAt s m.core).tlb) ∧
      ∀ cause detail, fillFault s (corePart s m.core) m.did world e (4096 * m.page) = some (cause, detail) → (coreAt t m.core).refusals =
        { did := m.did, page := m.page, cause := cause, detail := detail, leaf := some (e.cut (4096 * m.page) 4096) } :: (coreAt s m.core).refusals) ∧
    ∀ cause detail, (coreAt (answerMiss s m (.error (cause, detail))) m.core).refusals =
      { did := m.did, page := m.page, cause := cause, detail := detail } :: (coreAt s m.core).refusals)

/-- Taking a trap and disposing of it (R309, R330 to R335): a compute core's gang halts; the record's 64 words are written in the domain area, nothing
else is, and its notification is queued; a record or a notification that must wait follows later. The disposition word resumes the gang where the
record says, kills it, or enters its handler with cause, lanes and address in s60 to s63. A service core enters TVEC with the old pc in TEPC and IE in
PIE, for a trap and for its lowest pending enabled interrupt alike. A memory error marks its line uncorrectable. -/
def Obligations.TrapSteps : Prop :=
  (∀ (s : State) (k w n : Nat) (d : Deferred) (wp : Warp) (sl : Slot), warpAt s k w = some wp → slotOf (coreAt s k) wp.didNow = some (n, sl) →
    d.trap.group.length ≤ 8 →
    let key := physKey (corePart s k) (recordPa sl w)
    let ws := recordWords d w n wp.didNow (sl.w0.getLsbD 16) wp.frames.length
    let t := writeRecord s k w d
    let note : Notice := { core := k, w := w, record := BitVec.ofNat 64 (recordPa sl w) }
    (∀ i, i < 64 → memWord t (key + 4 * i) = ws.getD i 0) ∧ (∀ a, a < key ∨ key + 256 ≤ a → cellRead t.mem a = cellRead s.mem a) ∧
    (sliceAt t (coreSlice k)).notices = (sliceAt s (coreSlice k)).notices ++ [note] ∧ (warpAt t k w).map Warp.recordLive = some (some d.entry) ∧
    (∀ rest, wp.deferred = d :: rest → wp.recordLive = none → wp.halted = false → (sliceAt s (coreSlice k)).notices.length < 64 →
      let u := writeRecord (s.modWarp k w fun wp => { wp with deferred := rest, lateDisp := 0 }) k w d
      exec (.deferredTrapRecord k w) s = .next (if wp.lateDisp = 0 then u else homeWriteNat u (key + 60) 4 wp.lateDisp))) ∧
  (∀ (s : State) (n : Nat) (e : Notice) (rest : List Notice), (sliceAt s n).notices = e :: rest → (coreAt s (512 + 4 * n)).svc.ipend.getLsbD 1 = false →
    let u := (s.modSlice n fun sl => { sl with notices := rest }).modCore (512 + 4 * n) fun c => { c with svc := { c.svc with ipend := c.svc.ipend ||| 2, trapAddr := e.record } }
    let line := lineOf (physKey (corePart u e.core) e.record.toNat)
    exec (.notificationDrain n) s = .next (wakeWatchers (wakeWatchers u line) (line + 1))) ∧
  (∀ (s : State) (k w g : Nat) (cause : Word) (tval epc : DWord) (rest : Nat) (gn : Gang), gangAt s k w g = some gn →
    let t := enterTvec s k w g cause tval epc rest
    let wait := max gn.stall rest
    let r := (coreAt t k).svc
    t.mem = s.mem ∧ r.tepc = epc ∧ r.tcause = cause ∧ r.tval = tval ∧ r.pie = (coreAt s k).svc.ie ∧ r.ie = false ∧ r.tvec = (coreAt s k).svc.tvec ∧
    gangAt t k w g = some { gn with pc := slot0 (coreAt s k).svc.tvec, stall := wait, status := if wait = 0 then .ready else .stalled }) ∧
  (∀ (s : State) (k i : Nat) (gn : Gang), isCompute k = false → pendingIrq (coreAt s k).svc = some i → gangAt s k 0 0 = some gn → gn.atBoundary = true →
    (coreAt s k).svc.stopped = false → (coreAt s k).held = false →
    (i = 0 → ∃ tval, exec (.serviceInterrupt k) s = .next { enterTvec s k 0 0 0x80000000 tval gn.pc with free := s.free + 1 }) ∧
    (i = 1 → exec (.serviceInterrupt k) s = .next (enterTvec s k 0 0 0x80000001 (coreAt s k).svc.trapAddr gn.pc)) ∧
    (i = 2 → exec (.serviceInterrupt k) s = .next (enterTvec s k 0 0 0x80000002 (coreAt s k).svc.errAddr gn.pc))) ∧
  (∀ (s : State) (k w g key : Nat) (wp : Warp),
    (disposed s k w 1 = some (wp, g, key) →
      let pc : DWord := BitVec.ofNat 64 (memNat s (key + 16) 8)
      exec (.dispositionResume k w) s = .next (afterGangs ((closeRecord s k w).modGang k w g fun gn => { gn with pc := pc, trapped := false, inBundle := decide (slotNo pc ≠ 0) }) k w)) ∧
    (disposed s k w 2 = some (wp, g, key) → exec (.dispositionKill k w) s = .next (killGang (closeRecord s k w) k w g)) ∧
    (∀ gn, disposed s k w 3 = some (wp, g, key) → AMap.get? wp.gangs g = some gn →
      let h := handlerOf s k wp.didNow
      let x : Ctx := { s := s, k := k, c := coreAt s k, w := w, wp := wp, g := g, gn := gn }
      (h = 0 → exec (.dispositionHandler k w) s = .next (killGang (closeRecord s k w) k w g)) ∧
      (h ≠ 0 → checkTargets x wp.didNow gn.mask (fun _ => h) false = .ok () → exec (.dispositionHandler k w) s = .next (enterHandler s k w g key h)))) ∧
  (∀ (s : State) (k w g key : Nat) (h : DWord) (wp : Warp) (gn : Gang), warpAt s k w = some wp → AMap.get? wp.gangs g = some gn →
    let t := enterHandler s k w g key h
    t.mem = s.mem ∧ (gangAt t k w g).map (fun gn => (gn.pc, gn.mask, gn.mode, gn.trapped, gn.stall, gn.status)) =
      some (slot0 h, gn.mask, 0x27, false, gn.stall, if gn.stall = 0 then .ready else .stalled) ∧
    (warpAt t k w).map (fun wp => (wp.sreg 60, wp.sreg 61, wp.sreg 62, wp.sreg 63)) =
      some (memWord s key, memWord s (key + 24), memWord s (key + 32), memWord s (key + 36)) ∧
    ∀ n, n < 60 → (warpAt t k w).map (fun wp => wp.sreg n) = some (wp.sreg n)) ∧
  ∀ (s : State) (p pa n : Nat), (sliceAt s n).part = some p → pa < 2 ^ 52 → paKind pa < 4 →
    let key := physKey p (pa / 128 * 128)
    exec (.memoryError n pa) s = .next (reportError (memMark s key 128) (errorSlice s key n) (pa / 128 * 128)) ∧
      (memMark s key 128).mem = s.mem ∧ ∀ i, i < 32 → AMap.getD (memMark s key 128).memPoison (key / 4 + i) false = true

/-- The commands of a core's debug mailbox (R412, R413, R415): halt, resume, step, dump, arm and read do what their op says and finish with status 2,
refuse a warp that holds state of a protected domain with 3, a halt for any such warp of its block, and any other op finishes with 4. -/
def Obligations.DebugSteps : Prop :=
  ∀ (s : State) (k : Nat) (m : Word) (a : Nat), (coreAt s k).mailbox = some m → mailboxKey s k = some a →
    let w := mbWarp m
    let g := mbGang m
    let ends := fun (t : State) (status : Nat) => Host.Outcome.next (finishDebug t k a status)
    (mbOp m = 1 →
      ((∃ v ∈ blockWarps (coreAt s k) w, debugRefused s k v = true) → exec (.debugHalt k) s = ends s 3) ∧
      ((∀ v ∈ blockWarps (coreAt s k) w, debugRefused s k v = false) →
        (blockOutstanding (coreAt (haltBlock s k w) k) w = true → exec (.debugHalt k) s = .next (haltBlock s k w)) ∧
        (blockOutstanding (coreAt (haltBlock s k w) k) w = false → exec (.debugHalt k) s = ends (haltBlock s k w) 2))) ∧
    (mbOp m = 2 → let free := fun (wp : Warp) => { wp with gangs := wp.gangs.map fun e => (e.1, { e.2 with dbgHalt := false }) }
      exec (.debugResume k) s = ends ((blockWarps (coreAt s k) w).foldl (fun s v => afterGangs (s.modWarp k v free) k v) s) 2 ∧
      ∀ v wp, warpAt s k v = some wp → (∀ e ∈ (free wp).gangs, e.2.dbgHalt = false) ∧ (free wp).gangs.map (fun e => (e.1, e.2.pc, e.2.mask)) = wp.gangs.map fun e => (e.1, e.2.pc, e.2.mask)) ∧
    (mbOp m = 3 →
      (debugRefused s k w = true → exec (.debugStep k) s = ends s 3) ∧
      (∀ gn, debugRefused s k w = false → gangAt s k w g = some gn →
        (m.getLsbD 31 = false → gn.dbgHalt = false → exec (.debugStep k) s = ends s 3) ∧
        (m.getLsbD 31 = false → gn.dbgHalt = true → ∃ t, exec (.debugStep k) s = .next t ∧ t.mem = s.mem ∧
          (gangAt t k w g).map Gang.stepping = some true ∧ (coreAt t k).mailbox = some (m ||| 0x80000000)) ∧
        (m.getLsbD 31 = true → gn.stepping = false → exec (.debugStep k) s = ends s 2))) ∧
    (mbOp m = 4 →
      (debugRefused s k w = true → exec (.debugDump k) s = ends s 3) ∧
      (∀ wp gn, debugRefused s k w = false → warpAt s k w = some wp → gangAt s k w g = some gn →
        let words := wordsAt s k wp.didNow gn.pc
        let d : Deferred := { entry := g, trap := { cause := 0 }, pc := gn.pc, resume := gn.pc, insn := words.1, ctl := words.2, gmask := gn.mask, mode := gn.mode, active := gn.mask &&& guardMask wp gn.mode }
        let ws := recordWords d w (match slotOf (coreAt s k) wp.didNow with | some e => e.1 | none => 0) wp.didNow (worldOf (coreAt s k) wp.didNow) wp.frames.length
        exec (.debugDump k) s = ends (homeWrite s (a + 256) (wordsBytes (ws ++ List.replicate (64 - ws.length) 0))) 2)) ∧
    (mbOp m = 5 → ∃ t, exec (.debugArm k) s = ends t 2 ∧ t.mem = s.mem ∧ (partAt t (corePart s k)).fired = false ∧
      ∀ j ∈ coresOfPart s (corePart s k), (coreAt t j).snaps = []) ∧
    (mbOp m = 6 →
      (debugRefused s k w = true → exec (.debugRead k) s = ends s 3) ∧
      (∀ sn, debugRefused s k w = false → AMap.get? (coreAt s k).snaps w = some sn →
        exec (.debugRead k) s = ends (homeWrite s (a + 512) (wordsBytes (snapshotWords sn ++ List.replicate (64 - (snapshotWords sn).length) 0))) 2)) ∧
    (mbOp m = 0 ∨ 6 < mbOp m → exec (.debugBadCommand k) s = ends s 4)

/-- The firmware's packets (R384 to R395, R416): a lane fetches the packet at its queue's read index, or marks a descriptor whose form or indexes are
wrong; a packet that may be parsed does what its type says and completes with its status, an unknown type with a packet error; an identifier that is
in the journal or of another generation answers STALE, any other is journaled with its effect; a WAITSIG whose signal is short blocks its queue; QUERY
answers from the journal. -/
def Obligations.PacketSteps : Prop :=
  (∀ (s : State) (n lane p : Nat) (ln : Lane) (d : QDesc), (sliceAt s n).part = some p → AMap.get? (sliceAt s n).lanes lane = some ln → ln.packet = none →
    queueDesc (s.seenBy p n) p ln.queue = some d → d.err = 0 → d.slice = n → keyShut s d.key = false →
    (d.ok = false → exec (.packetFetch n lane) s = .next (laneWrite s n (d.key + 32) 4 1)) ∧
    (d.ok = true → d.wake < d.read ∨ 2 ^ d.lsize < d.wake - d.read → exec (.packetFetch n lane) s = .next (laneWrite s n (d.key + 32) 4 2)) ∧
    (d.ok = true → d.read < d.wake → d.wake - d.read ≤ 2 ^ d.lsize → packetKey s p n d = none → exec (.packetFetch n lane) s = .next (laneWrite s n (d.key + 32) 4 1)) ∧
    (∀ key, d.ok = true → d.read < d.wake → d.wake - d.read ≤ 2 ^ d.lsize → packetKey s p n d = some key → keyShut s key = false →
      ∃ t, exec (.packetFetch n lane) s = .next t ∧ t.mem = s.mem ∧
        AMap.get? (sliceAt t n).lanes lane = some { ln with packet := some (packetAt (acquire s (640 + n) 0xFFFF 5) n key).1, index := d.read })) ∧
  (∀ (s : State) (n lane : Nat) (x : Parse),
    let id := pktNat x.pkt 56 8
    (parseAt s n lane (fun t => decide (t ≤ 1)) = some x →
      (pktType x.pkt = 1 → exec (.packetNop n lane) s = .next (parsed x s)) ∧
      (pktType x.pkt ≠ 1 → exec (.packetNop n lane) s = .next (complete x s 2))) ∧
    (parseAt s n lane (fun t => decide (t = 2)) = some x → exec (.packetSeed n lane) s = .next (journaled x s (w32 (pktNat x.pkt 24 4)) (seedEffect x))) ∧
    (parseAt s n lane (fun t => decide (t = 3)) = some x →
      (headerOk x.pkt = true → pktNat x.pkt 4 28 = 0 → id = 0 → exec (.packetSignal n lane) s = .next (complete x s 0)) ∧
      (headerOk x.pkt = false → id = 0 → exec (.packetSignal n lane) s = .next (complete x s 2)) ∧
      (headerOk x.pkt = true → pktNat x.pkt 4 28 ≠ 0 → id = 0 → exec (.packetSignal n lane) s = .next (complete x s 258)) ∧
      exec (.packetSignal n lane) s = .next (journaled x s 0 fun s =>
        (if !headerOk x.pkt then packetError 0 else if pktNat x.pkt 4 28 ≠ 0 then packetError 1 else 0, s, true))) ∧
    (∀ key, parseAt s n lane (fun t => decide (t = 4)) = some x → headerOk x.pkt = true → pktNat x.pkt 16 8 % 8 = 0 →
      keyOfVa (s.seenBy x.p x.slice) x.p x.d.did (pktVa x.pkt 16) = some key →
      (pktNat x.pkt 24 8 ≤ memNat s key 8 → exec (.packetWaitsig n lane) s = .next (complete x s 0)) ∧
      (memNat s key 8 < pktNat x.pkt 24 8 → exec (.packetWaitsig n lane) s = .next (blockQueue x s key (pktVa x.pkt 24)))) ∧
    (parseAt s n lane (fun t => decide (t = 5)) = some x → exec (.packetCistern n lane) s = .next (journaled x s 0 (cisternEffect x))) ∧
    (∀ key, parseAt s n lane (fun t => decide (t = 6)) = some x → headerOk x.pkt = true → notCistern (keyOfVa (s.seenBy x.p x.slice) x.p x.d.did (pktVa x.pkt 24)) = some key →
      pktNat x.pkt 24 8 % 8 = 0 → pktNat x.pkt 16 8 ≠ 0 → ∀ status result, queryAnswer s x.p (pktNat x.pkt 16 8) = (status, result, false) →
      exec (.packetQuery n lane) s = .next (complete x (laneWrite s x.slice key 8 (status + 2 ^ 32 * result.toNat)) 0)) ∧
    ∀ (r : Word) (eff : State → Nat × State × Bool),
      let e := eff s
      (id = 0 → journaled x s r eff = if e.2.2 then complete x e.2.1 e.1 else parsed x e.2.1) ∧
      (id ≠ 0 → (journalFind s x.p id).isSome = true → journaled x s r eff = complete x s 3) ∧
      (id ≠ 0 → (journalFind s x.p id).isSome = false → id / 2 ^ 48 ≠ (partAt s x.p).generation.toNat →
        journaled x s r eff = complete x (journalAdd s x.slice x.p { id := BitVec.ofNat 64 id, status := 3, result := r }) 3) ∧
      (id ≠ 0 → (journalFind s x.p id).isSome = false → id / 2 ^ 48 = (partAt s x.p).generation.toNat →
        let u := journalAdd e.2.1 x.slice x.p { id := BitVec.ofNat 64 id, status := e.1, result := r }
        journaled x s r eff = if e.2.2 then complete x u e.1 else parsed x u)) ∧
  (∀ (s : State) (p id : Nat) (e : JEntry), journalFind s p id = some e →
    (e.status % 256 < 3 → queryAnswer s p id = (e.status, e.result, false)) ∧ (3 ≤ e.status % 256 → queryAnswer s p id = (4, 0, false))) ∧
  (∀ (s : State) (n p : Nat), (sliceAt s n).part = some p → (sliceAt s n).serving = [] → quantumOver s n = true →
    let now := s.modSlice n fun sl => { sl with swapAt := (coreAt s (640 + n)).clk.toNat }
    let u := (List.range 32).foldl (fun s l => leaveLane s p n l) (checkBlocked (applySetup now p n) p n)
    exec (.quantumEnd n) s = .next (((eligibleQueues u p n).take 32).zipIdx.foldl (fun s q => enterLane s p n q.2 q.1) u)) ∧
  ∀ (s : State) (p n : Nat) (rest : List Nat), (partAt s p).slices = n :: rest →
    ∃ t, exec (.firmwareRestart p) s = .next t ∧ t.mem = s.mem ∧ (partAt t p).generation = (partAt s p).generation + 1 ∧
      (∀ m ∈ n :: rest, (sliceAt t m).lanes = [] ∧ (sliceAt t m).serving = []) ∧ (coreAt t (512 + 4 * n)).svc.imsg = w32 (65536 + ((partAt s p).generation + 1).toNat) ∧
      (coreAt t (512 + 4 * n)).svc.ipend = (coreAt s (512 + 4 * n)).svc.ipend ||| 1

/-- The cistern on its own (R222, R225, R375): a waiting write is performed once nothing blocks its region, in bytes and order as given, or refused if the
region has left its partition; a refresh sequencer goes on to its next window; the scrubber goes on to the next recorded range, and one in which it
meets an error that cannot be corrected and that does not match its digest has its region quarantined. -/
def Obligations.CisternSteps : Prop :=
  (∀ (s : State) (i : Nat) (w : CisternWrite), s.cisternWrites[i]? = some w →
    let ok := regionOf s w.part (w.offset / 2 ^ 26)
    ∀ bs bad v, (ok = true → cisternBlocked s w.part (w.offset / 2 ^ 26) = false ∧ w.content s = some (bs, bad, v)) → (ok = false → v = s) →
    let u := if ok then performCistern v w bs bad else s
    let t := cisternDone { u with cisternWrites := v.cisternWrites.eraseIdx i } w ok
    (w.core = none → exec (.cisternWriteStart i) s = .next t) ∧
    ∀ k lo hi split d, w.core = some k → (coreAt t k).svc.op = some (.hgmb 0x43 lo hi split d) →
      exec (.cisternWriteStart i) s = .next (hgmbDone t k lo (if ok then 0 else 1) d)) ∧
  (∀ (s : State) (slice part off : Nat) (did : BitVec 16) (bs : List Byte) (bad : List Nat), bs.length % 128 = 0 →
    let t := cisternWrite s slice part did off bs []
    cellsRead t.mem (cisternKey off) bs.length = bs ∧ (∀ a, a < cisternKey off ∨ cisternKey off + bs.length ≤ a → cellRead t.mem a = cellRead s.mem a) ∧
    ∀ w : CisternWrite, regionSlice (w.offset / 2 ^ 26) = slice → w.part = part → w.did = did → w.offset = off → w.skip = [] →
      (performCistern s w bs bad).mem = t.mem) ∧
  (∀ (s : State) (die : Nat), die < 8 → ∃ t, exec (.refreshWindow die) s = .next t ∧ t.mem = s.mem ∧
    refreshCount t die % 1536 = 0 ∧ ∀ e, e ≠ die → refreshCount t e = refreshCount s e) ∧
  ∀ (s : State) (die : Nat) (sound : Bool) (r : CisternRange), (s.ranges.find? fun r => decide (r.offset / 2 ^ 26 / 24 = die)) = some r →
    let moved := { s with ranges := s.ranges.erase r ++ [r] }
    let region := r.offset / 2 ^ 26
    (r.bad s = false → (sound = true ∨ Config.sha384 (r.bytes s) = r.digest) → exec (.cisternScrub die sound) s = .next moved) ∧
    (r.bad s = true ∨ (sound = false ∧ Config.sha384 (r.bytes s) ≠ r.digest) → ∃ t, exec (.cisternScrub die sound) s = .next t ∧ t.mem = s.mem ∧
      AMap.getD t.quarantined region false = true ∧ t = reportError (quarantine moved region) (regionSlice region) (cisternKey (region * 2 ^ 26)))

/-- The services of the headgate (R308, R322, R356, R359, R363 to R365, R369, R373, R380 to R383, R400 to R404, R408 to R411): a request that its service
answers has its status in word 0 of the response and in d, with the service's effect; a returned module answers all but the report with 4. A page of a
new owner is its own; a measurement register takes the digest of its old value and the new one; an absent member leaves a group that is being formed;
a re-interleave moves 64 granules; a migration's receipt ends it only if it verifies, in a session in which both sides have authenticated themselves;
an unlock begins with every key slot empty and ends when every protected domain has stopped. -/
def Obligations.ServiceSteps : Prop :=
  (∀ (s : State) (k : Nat) (r : Req),
    (∀ row ∈ ([(.kernelSetup k, 0x01, answer setupKernel), (.resize k, 0x02, answer startResize), (.setOwner k, 0x10, setOwner), (.sealFrames k, 0x11, sealFrames),
        (.groupRegister k, 0x20, answer registerMember), (.groupWithdraw k, 0x21, answer withdrawMember), (.tensorDefine k, 0x30, answer defineTensor),
        (.manifestSubmit k, 0x40, answer submitManifest), (.cisternPairing k, 0x42, pairRegions), (.keyRotateRequest k, 0x50, answer rotateKeys),
        (.peerWindow k, 0x60, exportWindow), (.bindKeySlot k, 0x70, answer bindSlot), (.registerOwnerKey k, 0x71, answer registerKey),
        (.extendMeasurement k, 0x80, answer extendRegister), (.measurementReport k, 0x81, answer reportMeasures), (.migrationExport k, 0x90, answerFree exportDomain),
        (.migrationImport k, 0x91, answerFree importDomain), (.debugChallenge k, 0xA1, answer drawChallenge)] : List (Instr × Nat × (Req → State → Option (Nat × State)))),
      reqAt s k row.2.1 = some r →
      (s.lifecycle = 3 → row.2.1 ≠ 0x81 → exec row.1 s = .next (hgmbDone s k r.lo 4 r.d)) ∧
      (∀ st u, s.lifecycle ≠ 3 ∨ row.2.1 = 0x81 → row.2.2 r s = some (st, u) → exec row.1 s = .next (hgmbDone u k r.lo st r.d))) ∧
    (reqAt s k 0x43 = some r → s.lifecycle ≠ 3 →
      (∀ n, loadRequest r s = .error n → exec (.cisternLoad k) s = .next (hgmbDone s k r.lo n r.d)) ∧
      (∀ w, loadRequest r s = .ok w → (∀ v ∈ s.cisternWrites, v.core ≠ some k) →
        exec (.cisternLoad k) s = .next { s with cisternWrites := s.cisternWrites ++ [w] })) ∧
    (reqAt s k 0xA0 = some r → k ≠ 672 → s.lifecycle = 3 → exec (.debugUnlock k) s = .next (hgmbDone s k r.lo 4 r.d)) ∧
    (reqAt s k 0xA0 = some r → k ≠ 672 → s.lifecycle ≠ 3 →
      (∀ bs, s.unlock = none → s.lifecycle ≠ 0 → tokenChecked (some r) s 1 = .ok bs → exec (.debugUnlock k) s = .next (beginUnlock s k (some (Config.sha384 bs)))) ∧
      (s.unlock = none → s.lifecycle = 0 → Config.debugDisabled = false → exec (.debugUnlock k) s = .next (beginUnlock s k none)) ∧
      (∀ n, s.unlock = none → s.lifecycle ≠ 0 → tokenChecked (some r) s 1 = .error n → exec (.debugUnlock k) s = .next (hgmbDone s k r.lo n r.d)) ∧
      (∀ token, s.unlock = some (k, token) → ((protectedSlots s).all fun e => domainStopped s e.2.2.did e.1) = true →
        exec (.debugUnlock k) s = .next (hgmbDone (recordToken { scrubProtected s with unlock := none, lifecycle := 2, debugOpen := true } token) k r.lo 0 r.d))) ∧
    (∀ bs, s.unlock = none → s.lifecycle ≠ 0 → s.lifecycle ≠ 3 → tokenChecked none s 1 = .ok bs → exec (.debugUnlock 672) s = .next (beginUnlock s 672 (some (Config.sha384 bs)))) ∧
    (reqAt s k 0xA2 = some r → k ≠ 672 →
      (s.lifecycle = 3 → exec (.returnModule k) s = .next (hgmbDone s k r.lo 4 r.d)) ∧
      (s.lifecycle ≠ 1 → s.lifecycle ≠ 3 → exec (.returnModule k) s = .next (hgmbDone s k r.lo 2 r.d)) ∧
      (∀ bs, s.lifecycle = 1 → s.unlock = none → tokenChecked (some r) s 2 = .ok bs → exec (.returnModule k) s = .next (beginUnlock s k (some (Config.sha384 bs)))) ∧
      (∀ token, s.lifecycle = 1 → s.unlock = some (k, token) → ((protectedSlots s).all fun e => domainStopped s e.2.2.did e.1) = true →
        exec (.returnModule k) s = .next (hgmbDone (recordToken { scrubProtected s with unlock := none, lifecycle := 3, fuses := 3 } token) k r.lo 0 r.d))) ∧
    (∀ fs new, ownerRequest r s = .ok (fs, new) → fs.any (frameBusy (revoke s r.p fs)) = false →
      setOwner r s = some (0, fs.foldl (fun s f => handOver s r.p f new true) (revoke s r.p fs))) ∧
    (9 ≤ r.w s 1 → r.w s 1 ≤ 15 → ∃ t, extendRegister r s = .ok t ∧
      measureOf t r.p (r.w s 1) = Config.sha384 (natLe 48 (measureOf s r.p (r.w s 1)).toNat ++ natLe 48 (r.digest s).toNat) ∧
      ∀ i, i ≠ r.w s 1 → measureOf t r.p i = measureOf s r.p i)) ∧
  (∀ (s : State) (p f : Nat) (new : PotEntry) (zero : Bool),
    let t := handOver s p f new zero
    (potAt t (65536 * f)).owner = new.owner ∧ (potAt t (65536 * f)).world = new.world ∧ ∀ g, g ≠ f → potAt t (65536 * g) = potAt s (65536 * g)) ∧
  (∀ (s : State) (n m : Nat) (g : Group) (meas : Digest), AMap.get? s.groups n = some g →
    (g.formed = true → ∃ t, exec (.memberAbsent n m) s = .next t ∧ t.mem = s.mem ∧ ∃ h, AMap.get? t.groups n = some h ∧ h.members.length = g.members.length ∧
      ∀ x ∈ h.members, x.module = m → x.present = false) ∧
    (g.formed = false → ∃ t, exec (.memberAbsent n m) s = .next t ∧ t.mem = s.mem ∧ ∃ h, AMap.get? t.groups n = some h ∧ h.members = g.members.filter fun x => decide (x.module ≠ m)) ∧
    ∃ t, exec (.memberReturn n m meas) s = .next t ∧ t.mem = s.mem ∧ ∃ h, AMap.get? t.groups n = some h ∧ h.members = g.members ∧
      (h.changed = true ↔ g.changed = true ∨ g.formed = true ∧ ∃ x ∈ g.members, x.module = m ∧ x.present = false ∧ x.meas ≠ meas)) ∧
  (∀ (s : State) (p : Nat) (rz : Resize), (partAt s p).resize = some rz →
    let mine := fun (e : CombineEntry) => decide (paKind e.pa = 0) && decide (rz.moving ≤ bitsN (paOf e.pa) 47 12) && decide (bitsN (paOf e.pa) 47 12 < rz.moving + 64)
    let u := (coresOfPart s p).foldl (fun s k => flushEntries s k mine) s
    let v := u.modPart p fun pt => { pt with resize := some { rz with moving := rz.moving + 64 } }
    exec (.reinterleaveGroup p) s = .next (if rz.total ≤ rz.moving + 64 then interleaved v p rz else v)) ∧
  ∀ (s : State) (p : Nat) (did : BitVec 16) (x : Export), (s.exports.find? fun x => decide (x.part = p) && decide (x.did = did)) = some x →
    (peerSession s = true → Config.receiptOk x.nonce s.free = true → exec (.migrationReceipt p did) s = .next { eraseExport s x with free := s.free + 1 }) ∧
    (peerSession s = false ∨ Config.receiptOk x.nonce s.free = false → exec (.migrationReceipt p did) s = .next { s with free := s.free + 1 })

/-- The SPDM endpoint (R405, R408): each request that may come now is answered with its own response code and its effect on the connection, any other with
an ERROR; a tenant's key enters a slot that no domain is bound to, in an established session only. -/
def Obligations.SpdmSteps : Prop :=
  ∀ (s : State) (req : Nat),
    let e := spdmAt s req
    let answers := fun (o : Host.Outcome State Fault Refusal) (f : Spdm) (code : Nat) =>
      ∃ body, o = .next { s with spdm := AMap.put s.spdm req { f with code := code, body := body } }
    answers (exec (.spdmGetVersion req) s) { version := true } 0x04 ∧
    (e.version = true → answers (exec (.spdmGetCapabilities req) s) { e with capabilities := true } 0x61) ∧
    (e.version = false → answers (exec (.spdmGetCapabilities req) s) e 0x7F) ∧
    (e.capabilities = true →
      answers (exec (.spdmNegotiateAlgorithms req true) s) { e with algorithms := true } 0x63 ∧ answers (exec (.spdmNegotiateAlgorithms req false) s) e 0x7F) ∧
    (e.algorithms = true → ∀ (nonce : Digest) (session slot p : Nat) (did : BitVec 16),
      answers (exec (.spdmGetDigests req) s) e 0x01 ∧ answers (exec (.spdmGetCertificate req slot) s) e (if slot = 0 then 0x02 else 0x7F) ∧
      answers (exec (.spdmChallenge req nonce) s) e 0x03 ∧
      (did = 0 ∨ protectedDom s p did = true → exec (.spdmGetMeasurements req p did nonce) s =
        .next { s with spdm := AMap.put s.spdm req { e with code := 0x60, body := signedResponse s 0x60 (measureBlocks s p did nonce) } }) ∧
      (did ≠ 0 → protectedDom s p did = false → answers (exec (.spdmGetMeasurements req p did nonce) s) e 0x7F) ∧
      answers (exec (.spdmKeyExchange req session) s) { e with session := some session, finished := false, bothSides := false } 0x64) ∧
    (e.algorithms = false → ∀ (nonce : Digest) (session slot p : Nat) (did : BitVec 16), ∀ i ∈ [Instr.spdmGetDigests req, .spdmGetCertificate req slot, .spdmChallenge req nonce,
      .spdmGetMeasurements req p did nonce, .spdmKeyExchange req session], answers (exec i s) e 0x7F) ∧
    (e.session.isSome = true →
      (∃ body, exec (.spdmFinish req) s =
        .next { s with free := s.free + 1, spdm := AMap.put s.spdm req { e with finished := true, bothSides := Config.requesterOk s.free, code := 0x65, body := body } }) ∧
      answers (exec (.spdmEndSession req) s) { e with session := none, finished := false, bothSides := false } 0x6C) ∧
    ∀ (session : Nat) (slot : BitVec 8) (key : BitVec 256) (f : Spdm), (s.spdm.find? fun q => decide (q.2.session = some session) && q.2.finished) = some (req, f) →
      (∀ ks, AMap.get? s.keySlots slot.toNat = some ks → ks.bound = false) → ∃ t, exec (.spdmKeyDelivery session slot key) s = .next t ∧ t.mem = s.mem ∧
        AMap.get? t.keySlots slot.toNat = some { key := key, session := session } ∧ ∀ n, n ≠ slot.toNat → AMap.get? t.keySlots n = AMap.get? s.keySlots n

/-- The fabric ports (R352 to R360, R362, R363): the next frame in sequence whose tag verifies under the key that its phase names and whose packets are
sound is accepted whole and decrypted, and the first of a new phase brings the pending key into use; any other frame that is not old is dropped and
replayed, and a frame that the node drops is replayed by the port; a port with 16 replays of one frame of either direction goes down, the requests
that it holds are answered with an error, and the groups that route through its node lose it; a port that retrains begins its sequences anew. A packet
that the module sends stands in the port's next frame, whose tag is that of its content under the active key (one packet a frame is the model's
choice, log entry 92). A read response performs its line with the payload's bytes; a write response performs the write; an atomic's response gives its
lane the old value; an error response gives uncorrectable data and is reported. A window access that its window refuses is answered with the cause,
and any other is performed at its home, unless a re-interleave moves its line or a host owns it. A Type 2 region passes to the host once the module's
requests to it have ended, and back; one that passed less than 2,048 cycles ago keeps its owner (which access counts as the owner's is the model's
choice, log entry 81). -/
def Obligations.FabricSteps : Prop :=
  (∀ (s : State) (port : Nat), (portAt s port).up = true → port < 64 →
    (∀ f, frameOk (portAt s port) port f = true → f.seq = (portAt s port).rxSeq → ∃ t, exec (.frameReceive port f) s = .next t ∧ t.mem = s.mem ∧
      (portAt t port).inbox = (portAt s port).inbox ++ cryptPackets ((frameKey (portAt s port) port f).getD 0) port f.seq 0 f.packets ∧ (portAt t port).rxSeq = (portAt s port).rxSeq + 1 ∧ (portAt t port).replays = 0 ∧
      (portAt t port).rxPhase = framePhase f ∧
      (portAt t port).rxActive = (if framePhase f = (portAt s port).rxPhase then (portAt s port).rxActive else (portAt s port).rxPending.getD 0) ∧
      ∀ n, n ≠ port → portAt t n = portAt s n) ∧
    (∀ f, (portAt s port).rxSeq < f.seq ∨ (f.seq = (portAt s port).rxSeq ∧ frameOk (portAt s port) port f = false) →
      exec (.frameReceive port f) s = .next (s.modPort port fun p => { p with dropped := true })) ∧
    ((portAt s port).dropped = true → exec (.frameReplay port) s = .next (s.modPort port fun p => { p with dropped := false, replays := p.replays + 1 })) ∧
    ((portAt s port).dropped = false → (portAt s port).unacked ≠ [] → exec (.frameReplay port) s = .next (s.modPort port fun p => { p with txReplays := p.txReplays + 1 })) ∧
    (16 ≤ (portAt s port).replays ∨ 16 ≤ (portAt s port).txReplays → ∃ t, exec (.portDown port) s = .next t ∧
      t.mem = (answerHeld (s.modPort port fun p => { inbox := p.inbox, keys := p.keys, session := p.session }) port).mem ∧ (portAt t port).up = false ∧ (∀ n, n ≠ port → portAt t n = portAt s n) ∧
      ∀ i g, (i, g) ∈ s.groups → g.nodes.contains port = true → ∃ h, (i, h) ∈ t.groups ∧ h.lost = insertNat port g.lost) ∧
    exec (.keyRotation port) s = .next (rotatePort s port) ∧
    (∀ pkt, (portAt s port).frames < 2 ^ 36 → ∃ f, portAt (sendPacket s port pkt) port = { portAt s port with txSeq := (portAt s port).txSeq + 1, unacked := (portAt s port).unacked ++ [f], frames := (portAt s port).frames + 1 } ∧
      f.seq = (portAt s port).txSeq ∧ f.tag = frameTag (Config.linkKey port (portAt s port).session true (portAt s port).txActive) port f.seq f.packets ∧ framePhase f = (portAt s port).txPhase ∧
      f.packets.length = 1)) ∧
  (∀ (s : State) (port : Nat), (portAt s port).up = false → port < 64 → ∃ t, exec (.portRetrain port) s = .next t ∧ t.mem = s.mem ∧
    (portAt t port).up = true ∧ (portAt t port).rxSeq = 0 ∧ (portAt t port).txSeq = 0 ∧ (portAt t port).inbox = (portAt s port).inbox ∧ ∀ n, n ≠ port → portAt t n = portAt s n) ∧
  (∀ (s : State) (port : Nat) (pkt : Packet) (k : Nat) (ac : Access), (portAt s port).inbox.head? = some pkt →
    let u := popPacket s port
    let read := fun (p : LinePart) => partWaits s port pkt.tag.toNat false p && (p.sectors.filter fun q => !p.hits.contains q).all fun q => pkt.sectors.getLsbD (q % 4)
    let part := partWaits s port pkt.tag.toNat true
    let lane := laneWaits s port pkt.tag.toNat
    (∀ p, pkt.kind = 2 → pendingOf s pkt (fun ac => readsData ac && ac.parts.any read) = some { k := k, ac := ac } → ac.parts.find? read = some p →
      exec (.fabricReadResponse port pkt) s = .next (armMonitor (performPart u k ac.id p.line { cells := responseCells pkt p.line }) k ac p.line)) ∧
    (∀ p, pkt.kind = 4 → ac.kind = .store → pendingOf s pkt (fun ac => (decide (ac.kind = .store) && ac.parts.any part) || (reduces ac && ac.lanes.any lane)) = some { k := k, ac := ac } →
      ac.parts.find? part = some p → exec (.fabricWriteAck port pkt) s = .next (storeDone u k ac.id p.line)) ∧
    (∀ la, pkt.kind = 4 → ac.kind ≠ .store → pendingOf s pkt (fun ac => (decide (ac.kind = .store) && ac.parts.any part) || (reduces ac && ac.lanes.any lane)) = some { k := k, ac := ac } →
      ac.lanes.find? lane = some la →
      let v := u.modCore k fun c => c.wrote ac.did (la.pa / 128)
      exec (.fabricWriteAck port pkt) s = .next (afterAtomic (markLane (wakeWatchers v (la.pa / 128)) k ac.id la.lane id) k ac la [])) ∧
    (∀ la, pkt.kind = 6 → pendingOf s pkt (fun ac => ac.isAtomic && ac.lanes.any lane) = some { k := k, ac := ac } → ac.lanes.find? lane = some la →
      let old := pkt.operands.toNat % 2 ^ (8 * la.size)
      let v := u.modCore k fun c => c.wrote ac.did (la.pa / 128)
      exec (.fabricAtomicResponse port pkt) s = .next (afterAtomic (markLane (if (atomFun ac la old).isSome then wakeWatchers v (la.pa / 128) else v) k ac.id la.lane
        fun lb => { lb with val := BitVec.ofNat 128 old }) k ac la [])) ∧
    (pkt.kind = 9 → pendingOf s pkt (fun ac => ((readsData ac || decide (ac.kind = .store)) && ac.parts.any (partWaits s port pkt.tag.toNat (decide (ac.kind = .store)))) ||
        ((ac.isAtomic || reduces ac) && ac.lanes.any lane)) = some { k := k, ac := ac } →
      (∀ p, ac.kind ≠ .store → ac.parts.find? (partWaits s port pkt.tag.toNat false) = some p → exec (.fabricErrorResponse port pkt) s =
        .next (armMonitor (performPart (reportError u (coreSlice k) (paOf (128 * p.line))) k ac.id p.line (lineFailed p.line false)) k ac p.line)) ∧
      (∀ p, ac.kind = .store → ac.parts.find? (partWaits s port pkt.tag.toNat true) = some p → let v := performPart (reportError u (coreSlice k) (paOf (128 * p.line))) k ac.id p.line {}
        exec (.fabricErrorResponse port pkt) s = .next (match accessAt v k ac.id with | some bc => if bc.parts.all fun q => q.performed then watchDone v k bc else v | none => v)) ∧
      (∀ la, ac.kind ≠ .store → ac.parts.find? (partWaits s port pkt.tag.toNat false) = none → ac.lanes.find? lane = some la → exec (.fabricErrorResponse port pkt) s =
        .next (afterAtomic (markLane (reportError u (coreSlice k) (paOf la.pa)) k ac.id la.lane fun lb => { lb with poison := 15 }) k ac la []))) ∧
    (pkt.kind = 1 ∨ pkt.kind = 3 ∨ pkt.kind = 5 ∨ pkt.kind = 7 →
      (∀ c, windowHome s port pkt = .error c → exec (.windowAccess port pkt) s = .next (sendPacket u port (errorTo s pkt c))) ∧
      (∀ key, windowHome s port pkt = .ok key → keyShut s key = false →
        exec (.windowAccess port pkt) s = .next (performWindow u port pkt key))) ∧
    (∀ m, pkt.kind = 8 → memberFor u (pkt.tag.toNat % 256) = some m → pkt.module.toNat ≠ m.module →
      let off := bitsN pkt.offset.toNat 40 0 / 128 * 128
      (pkt.offset.getLsbD 41 = true → off < 192 * 2 ^ 26 → regionOf u m.part (off / 2 ^ 26) = true →
        exec (.fabricMulticastLine port pkt) s = .next { u with cisternWrites := u.cisternWrites ++ [{ part := m.part, did := m.did, offset := off, bytes := pkt.payload }] }) ∧
      (pkt.offset.getLsbD 41 = false → off + 128 ≤ m.length → memberOwns u m off 128 = true →
        exec (.fabricMulticastLine port pkt) s = .next (engineWrite u ((partAt u m.part).slices.headD 0) m.part m.did (m.key off) pkt.payload)))) ∧
  (∀ (s : State) (port : Nat) (pkt : Packet) (w : Window), w ∈ s.windows → windowHome s port pkt ≠ .error 3 → (∀ v ∈ s.windows, v = w) →
    ∀ key, windowHome s port pkt = .ok key → w.node = port ∧ w.importers.getLsbD pkt.module.toNat = true ∧ key = physKey w.part (w.base + bitsN pkt.offset.toNat 34 0) ∧
      bitsN pkt.offset.toNat 34 0 < w.length ∧ (pkt.kind = 1 → w.r = true ∧ (potAt s key).world = false) ∧
      (pkt.kind ≠ 1 → w.w = true ∧ ((potAt s key).owner = 0 ∨ (potAt s key).owner = 0xFFFF))) ∧
  ∀ (s : State) (p r : Nat),
    (regionOk s p r = true → (partAt s p).hostOwned.contains r = false → keepsOwner (partAt s p) r = false →
      let u := (coresOfPart s p).foldl (fun s k => (flushEntries s k fun e => inRegion p r e.pa).modCore k fun c => l1Drop c none fun q => inRegion p r (32 * q)) s
      regionBusy u p r = false → exec (.cxlHostRequest p r) s = .next (u.modPart p fun pt => pt.toHost r)) ∧
    ((partAt s p).hostOwned.contains r = true → keepsOwner (partAt s p) r = false → ∃ t, exec (.cxlRegionReclaim p r) s = .next t ∧ (partAt t p).hostOwned = (partAt s p).hostOwned.filter fun n => decide (n ≠ r)) ∧
    (keepsOwner (partAt s p) r = true → exec (.cxlHostRequest p r) s = .next s ∧ exec (.cxlRegionReclaim p r) s = .next s)

/-- Partitions and the management controller (R376, R378, R379, R396, R397, R399, R402, R404, R407): a rectangle of free slices becomes a partition whose
memory and cistern regions are zero; a loader whose digest and signatures verify is copied to physical offset 0; a retry that fails uses one of the
tries up. A partition's reset keeps its list of slices and those of other partitions, drops its trees, and, where it has set the owner of no pod
frame, leaves memory and every other partition as they were. A sensor at 105 degrees brings its slice's quota down to 32; a quota and a limit are
taken in their ranges only; an image that verifies is staged, and a reset of the module takes it into use and never lowers the rollback counter. -/
def Obligations.ManagementSteps : Prop :=
  (∀ (s : State) (part : Nat) (rect : Rect) (boot : BootResult), part < 32 → (partAt s part).slices = [] → rectOk rect = true → s.lifecycle ≠ 3 →
    (∀ n ∈ rectSlices rect, (sliceAt s n).part = none ∧ takenByOther s part n = false) →
    ∃ t, exec (.partitionForm part rect boot) s = .next t ∧ (partAt t part).slices = rectSlices rect ∧ (∀ n ∈ rectSlices rect, n < 32 → (sliceAt t n).part = some part) ∧
      (boot = .failed → (partAt t part).booted = false ∧ (partAt t part).bootTries = 8 ∧ (∀ a, a < 2 ^ 48 → cellRead t.mem (2 ^ 52 * part + a) = 0) ∧
        ∀ r a, r < 192 → regionSlice r ∈ rectSlices rect → a < 2 ^ 26 → cellRead t.mem (2 ^ 48 + 2 ^ 26 * r + a) = 0) ∧
      (∀ bytes digest, boot = .loader bytes digest → bytes.length ≤ 2 ^ 48 → (partAt t part).booted = loaderGood s bytes digest ∧
        (loaderGood s bytes digest = true → cellsRead t.mem (2 ^ 52 * part) bytes.length = bytes))) ∧
  (∀ (s : State) (part : Nat), (partAt s part).slices ≠ [] → (partAt s part).booted = false → (partAt s part).bootTries ≠ 0 → s.lifecycle ≠ 3 →
    (∀ bytes digest, loaderGood s bytes digest = true → exec (.bootRetry part (.loader bytes digest)) s = .next (bootWith s part bytes digest)) ∧
    ∀ boot, (∀ bytes digest, boot = .loader bytes digest → loaderGood s bytes digest = false) →
      ∃ t, exec (.bootRetry part boot) s = .next t ∧ t.mem = s.mem ∧ partAt t part = { partAt s part with bootTries := (partAt s part).bootTries - 1 }) ∧
  (∀ (s : State) (part : Nat), (partAt s part).slices ≠ [] → ∃ t, exec (.partitionReset part) s = .next t ∧ (partAt t part).slices = (partAt s part).slices ∧
    (partAt t part).booted = false ∧ (∀ p, p ≠ part → (partAt t p).slices = (partAt s p).slices ∧ (partAt t p).booted = (partAt s p).booted) ∧
    ((∀ e ∈ s.pot, e.2.setter ≠ some part) → t.mem = s.mem ∧ ∀ p, p ≠ part → partAt t p = partAt s p) ∧ t.trees = s.trees.filter fun e => decide (e.2.part ≠ part)) ∧
  (∀ (s : State) (n : Nat) (reading : Sensor), n < 32 → reading.temp < 115 →
    ∃ t, exec (.sensorSample n reading) s = .next t ∧ t.mem = s.mem ∧ t.cores = s.cores ∧ sliceAt t n = { sliceAt s n with sensor := some reading, quota := if 105 ≤ reading.temp then 32 else 64 } ∧
      ∀ m, m ≠ n → sliceAt t m = sliceAt s m) ∧
  (∀ (s : State) (q : Nat), exec (.powerQuotaUpdate q) s = .next (if 8 ≤ q ∧ q ≤ 64 then { s with quota := q } else s)) ∧
  (∀ (s : State) (w : Nat), (4000 ≤ w ∧ w ≤ 11000 → ∃ t, exec (.powerLimitSet w) s = .next t ∧ t.powerLimit = w ∧ t.mem = s.mem ∧ t.cores = s.cores) ∧
    (w < 4000 ∨ 11000 < w → exec (.powerLimitSet w) s = .next s)) ∧
  (∀ (s : State) (i : FirmwareImage), ∃ t, exec (.firmwareUpdate i) s = .next t ∧ t.mem = s.mem ∧ t.cores = s.cores ∧
    t.staged = if i.ecdsaOk ∧ i.lmsOk ∧ i.bodyOk ∧ s.rollback ≤ i.version ∧ i.version ≤ 63 then some i else s.staged) ∧
  ∀ (s : State), ∃ t, exec .moduleReset s = .next t ∧ s.rollback ≤ t.rollback ∧ (∀ i, s.staged = some i → imageOk s i = true → t.firmware = some i ∧ i.version ≤ t.rollback) ∧
    (s.staged = none → t.firmware = s.firmware) ∧ t.cores = State.reset.cores ∧ t.log = s.log ∧ t.fuses = s.fuses ∧ t.lifecycle = s.fuses ∧
    ∀ a, cellRead t.mem a = if paKind a = 2 ∨ paKind a = 3 then cellRead s.mem a else 0
end

