-- ==== Sys2Proof/Laws/State.lean ====
section
/-! SUPPORT. Sys2Proof/Laws/State.lean: what each named update of the state leaves of each field. -/

namespace Sys2Proof.Machine

@[simp] theorem setCore_cur (s : State) (k : Nat) (c : Core) : (s.setCore k c).cur = s.cur := rfl
@[simp] theorem setCore_insn (s : State) (k : Nat) (c : Core) : (s.setCore k c).insn = s.insn := rfl
@[simp] theorem setCore_ctl (s : State) (k : Nat) (c : Core) : (s.setCore k c).ctl = s.ctl := rfl
@[simp] theorem setCore_agenda (s : State) (k : Nat) (c : Core) : (s.setCore k c).agenda = s.agenda := rfl
@[simp] theorem setCore_turn (s : State) (k : Nat) (c : Core) : (s.setCore k c).turn = s.turn := rfl
@[simp] theorem setCore_pair (s : State) (k : Nat) (c : Core) : (s.setCore k c).pair = s.pair := rfl
@[simp] theorem setCore_next (s : State) (k : Nat) (c : Core) : (s.setCore k c).next = s.next := rfl
@[simp] theorem setCore_free (s : State) (k : Nat) (c : Core) : (s.setCore k c).free = s.free := rfl
@[simp] theorem setCore_slices (s : State) (k : Nat) (c : Core) : (s.setCore k c).slices = s.slices := rfl
@[simp] theorem setCore_parts (s : State) (k : Nat) (c : Core) : (s.setCore k c).parts = s.parts := rfl
@[simp] theorem setCore_mem (s : State) (k : Nat) (c : Core) : (s.setCore k c).mem = s.mem := rfl
@[simp] theorem setCore_memPoison (s : State) (k : Nat) (c : Core) : (s.setCore k c).memPoison = s.memPoison := rfl
@[simp] theorem setCore_disposals (s : State) (k : Nat) (c : Core) : (s.setCore k c).disposals = s.disposals := rfl
@[simp] theorem setCore_pot (s : State) (k : Nat) (c : Core) : (s.setCore k c).pot = s.pot := rfl
@[simp] theorem setCore_trees (s : State) (k : Nat) (c : Core) : (s.setCore k c).trees = s.trees := rfl
@[simp] theorem setCore_nextTree (s : State) (k : Nat) (c : Core) : (s.setCore k c).nextTree = s.nextTree := rfl
@[simp] theorem setCore_groups (s : State) (k : Nat) (c : Core) : (s.setCore k c).groups = s.groups := rfl
@[simp] theorem setCore_tensors (s : State) (k : Nat) (c : Core) : (s.setCore k c).tensors = s.tensors := rfl
@[simp] theorem setCore_keySlots (s : State) (k : Nat) (c : Core) : (s.setCore k c).keySlots = s.keySlots := rfl
@[simp] theorem setCore_ports (s : State) (k : Nat) (c : Core) : (s.setCore k c).ports = s.ports := rfl
@[simp] theorem setCore_cxlPorts (s : State) (k : Nat) (c : Core) : (s.setCore k c).cxlPorts = s.cxlPorts := rfl
@[simp] theorem setCore_windows (s : State) (k : Nat) (c : Core) : (s.setCore k c).windows = s.windows := rfl
@[simp] theorem setCore_paired (s : State) (k : Nat) (c : Core) : (s.setCore k c).paired = s.paired := rfl
@[simp] theorem setCore_unverified (s : State) (k : Nat) (c : Core) : (s.setCore k c).unverified = s.unverified := rfl
@[simp] theorem setCore_quarantined (s : State) (k : Nat) (c : Core) : (s.setCore k c).quarantined = s.quarantined := rfl
@[simp] theorem setCore_ranges (s : State) (k : Nat) (c : Core) : (s.setCore k c).ranges = s.ranges := rfl
@[simp] theorem setCore_cisternWrites (s : State) (k : Nat) (c : Core) : (s.setCore k c).cisternWrites = s.cisternWrites := rfl
@[simp] theorem setCore_refresh (s : State) (k : Nat) (c : Core) : (s.setCore k c).refresh = s.refresh := rfl
@[simp] theorem setCore_saved (s : State) (k : Nat) (c : Core) : (s.setCore k c).saved = s.saved := rfl
@[simp] theorem setCore_reopen (s : State) (k : Nat) (c : Core) : (s.setCore k c).reopen = s.reopen := rfl
@[simp] theorem setCore_nextSerial (s : State) (k : Nat) (c : Core) : (s.setCore k c).nextSerial = s.nextSerial := rfl
@[simp] theorem setCore_liveSerials (s : State) (k : Nat) (c : Core) : (s.setCore k c).liveSerials = s.liveSerials := rfl
@[simp] theorem setCore_exports (s : State) (k : Nat) (c : Core) : (s.setCore k c).exports = s.exports := rfl
@[simp] theorem setCore_importNonces (s : State) (k : Nat) (c : Core) : (s.setCore k c).importNonces = s.importNonces := rfl
@[simp] theorem setCore_lifecycle (s : State) (k : Nat) (c : Core) : (s.setCore k c).lifecycle = s.lifecycle := rfl
@[simp] theorem setCore_fuses (s : State) (k : Nat) (c : Core) : (s.setCore k c).fuses = s.fuses := rfl
@[simp] theorem setCore_measures (s : State) (k : Nat) (c : Core) : (s.setCore k c).measures = s.measures := rfl
@[simp] theorem setCore_challenge (s : State) (k : Nat) (c : Core) : (s.setCore k c).challenge = s.challenge := rfl
@[simp] theorem setCore_unlock (s : State) (k : Nat) (c : Core) : (s.setCore k c).unlock = s.unlock := rfl
@[simp] theorem setCore_debugOpen (s : State) (k : Nat) (c : Core) : (s.setCore k c).debugOpen = s.debugOpen := rfl
@[simp] theorem setCore_debugNotices (s : State) (k : Nat) (c : Core) : (s.setCore k c).debugNotices = s.debugNotices := rfl
@[simp] theorem setCore_lost (s : State) (k : Nat) (c : Core) : (s.setCore k c).lost = s.lost := rfl
@[simp] theorem setCore_rollback (s : State) (k : Nat) (c : Core) : (s.setCore k c).rollback = s.rollback := rfl
@[simp] theorem setCore_staged (s : State) (k : Nat) (c : Core) : (s.setCore k c).staged = s.staged := rfl
@[simp] theorem setCore_firmware (s : State) (k : Nat) (c : Core) : (s.setCore k c).firmware = s.firmware := rfl
@[simp] theorem setCore_powerLimit (s : State) (k : Nat) (c : Core) : (s.setCore k c).powerLimit = s.powerLimit := rfl
@[simp] theorem setCore_quota (s : State) (k : Nat) (c : Core) : (s.setCore k c).quota = s.quota := rfl
@[simp] theorem setCore_log (s : State) (k : Nat) (c : Core) : (s.setCore k c).log = s.log := rfl
@[simp] theorem setCore_spdm (s : State) (k : Nat) (c : Core) : (s.setCore k c).spdm = s.spdm := rfl
@[simp] theorem setCore_nextTag (s : State) (k : Nat) (c : Core) : (s.setCore k c).nextTag = s.nextTag := rfl
@[simp] theorem setCore_moduleId (s : State) (k : Nat) (c : Core) : (s.setCore k c).moduleId = s.moduleId := rfl

@[simp] theorem modCore_cur (s : State) (k : Nat) (f : Core → Core) : (s.modCore k f).cur = s.cur := rfl
@[simp] theorem modCore_insn (s : State) (k : Nat) (f : Core → Core) : (s.modCore k f).insn = s.insn := rfl
@[simp] theorem modCore_ctl (s : State) (k : Nat) (f : Core → Core) : (s.modCore k f).ctl = s.ctl := rfl
@[simp] theorem modCore_agenda (s : State) (k : Nat) (f : Core → Core) : (s.modCore k f).agenda = s.agenda := rfl
@[simp] theorem modCore_turn (s : State) (k : Nat) (f : Core → Core) : (s.modCore k f).turn = s.turn := rfl
@[simp] theorem modCore_pair (s : State) (k : Nat) (f : Core → Core) : (s.modCore k f).pair = s.pair := rfl
@[simp] theorem modCore_next (s : State) (k : Nat) (f : Core → Core) : (s.modCore k f).next = s.next := rfl
@[simp] theorem modCore_free (s : State) (k : Nat) (f : Core → Core) : (s.modCore k f).free = s.free := rfl
@[simp] theorem modCore_slices (s : State) (k : Nat) (f : Core → Core) : (s.modCore k f).slices = s.slices := rfl
@[simp] theorem modCore_parts (s : State) (k : Nat) (f : Core → Core) : (s.modCore k f).parts = s.parts := rfl
@[simp] theorem modCore_mem (s : State) (k : Nat) (f : Core → Core) : (s.modCore k f).mem = s.mem := rfl
@[simp] theorem modCore_memPoison (s : State) (k : Nat) (f : Core → Core) : (s.modCore k f).memPoison = s.memPoison := rfl
@[simp] theorem modCore_disposals (s : State) (k : Nat) (f : Core → Core) : (s.modCore k f).disposals = s.disposals := rfl
@[simp] theorem modCore_pot (s : State) (k : Nat) (f : Core → Core) : (s.modCore k f).pot = s.pot := rfl
@[simp] theorem modCore_trees (s : State) (k : Nat) (f : Core → Core) : (s.modCore k f).trees = s.trees := rfl
@[simp] theorem modCore_nextTree (s : State) (k : Nat) (f : Core → Core) : (s.modCore k f).nextTree = s.nextTree := rfl
@[simp] theorem modCore_groups (s : State) (k : Nat) (f : Core → Core) : (s.modCore k f).groups = s.groups := rfl
@[simp] theorem modCore_tensors (s : State) (k : Nat) (f : Core → Core) : (s.modCore k f).tensors = s.tensors := rfl
@[simp] theorem modCore_keySlots (s : State) (k : Nat) (f : Core → Core) : (s.modCore k f).keySlots = s.keySlots := rfl
@[simp] theorem modCore_ports (s : State) (k : Nat) (f : Core → Core) : (s.modCore k f).ports = s.ports := rfl
@[simp] theorem modCore_cxlPorts (s : State) (k : Nat) (f : Core → Core) : (s.modCore k f).cxlPorts = s.cxlPorts := rfl
@[simp] theorem modCore_windows (s : State) (k : Nat) (f : Core → Core) : (s.modCore k f).windows = s.windows := rfl
@[simp] theorem modCore_paired (s : State) (k : Nat) (f : Core → Core) : (s.modCore k f).paired = s.paired := rfl
@[simp] theorem modCore_unverified (s : State) (k : Nat) (f : Core → Core) : (s.modCore k f).unverified = s.unverified := rfl
@[simp] theorem modCore_quarantined (s : State) (k : Nat) (f : Core → Core) : (s.modCore k f).quarantined = s.quarantined := rfl
@[simp] theorem modCore_ranges (s : State) (k : Nat) (f : Core → Core) : (s.modCore k f).ranges = s.ranges := rfl
@[simp] theorem modCore_cisternWrites (s : State) (k : Nat) (f : Core → Core) : (s.modCore k f).cisternWrites = s.cisternWrites := rfl
@[simp] theorem modCore_refresh (s : State) (k : Nat) (f : Core → Core) : (s.modCore k f).refresh = s.refresh := rfl
@[simp] theorem modCore_saved (s : State) (k : Nat) (f : Core → Core) : (s.modCore k f).saved = s.saved := rfl
@[simp] theorem modCore_reopen (s : State) (k : Nat) (f : Core → Core) : (s.modCore k f).reopen = s.reopen := rfl
@[simp] theorem modCore_nextSerial (s : State) (k : Nat) (f : Core → Core) : (s.modCore k f).nextSerial = s.nextSerial := rfl
@[simp] theorem modCore_liveSerials (s : State) (k : Nat) (f : Core → Core) : (s.modCore k f).liveSerials = s.liveSerials := rfl
@[simp] theorem modCore_exports (s : State) (k : Nat) (f : Core → Core) : (s.modCore k f).exports = s.exports := rfl
@[simp] theorem modCore_importNonces (s : State) (k : Nat) (f : Core → Core) : (s.modCore k f).importNonces = s.importNonces := rfl
@[simp] theorem modCore_lifecycle (s : State) (k : Nat) (f : Core → Core) : (s.modCore k f).lifecycle = s.lifecycle := rfl
@[simp] theorem modCore_fuses (s : State) (k : Nat) (f : Core → Core) : (s.modCore k f).fuses = s.fuses := rfl
@[simp] theorem modCore_measures (s : State) (k : Nat) (f : Core → Core) : (s.modCore k f).measures = s.measures := rfl
@[simp] theorem modCore_challenge (s : State) (k : Nat) (f : Core → Core) : (s.modCore k f).challenge = s.challenge := rfl
@[simp] theorem modCore_unlock (s : State) (k : Nat) (f : Core → Core) : (s.modCore k f).unlock = s.unlock := rfl
@[simp] theorem modCore_debugOpen (s : State) (k : Nat) (f : Core → Core) : (s.modCore k f).debugOpen = s.debugOpen := rfl
@[simp] theorem modCore_debugNotices (s : State) (k : Nat) (f : Core → Core) : (s.modCore k f).debugNotices = s.debugNotices := rfl
@[simp] theorem modCore_lost (s : State) (k : Nat) (f : Core → Core) : (s.modCore k f).lost = s.lost := rfl
@[simp] theorem modCore_rollback (s : State) (k : Nat) (f : Core → Core) : (s.modCore k f).rollback = s.rollback := rfl
@[simp] theorem modCore_staged (s : State) (k : Nat) (f : Core → Core) : (s.modCore k f).staged = s.staged := rfl
@[simp] theorem modCore_firmware (s : State) (k : Nat) (f : Core → Core) : (s.modCore k f).firmware = s.firmware := rfl
@[simp] theorem modCore_powerLimit (s : State) (k : Nat) (f : Core → Core) : (s.modCore k f).powerLimit = s.powerLimit := rfl
@[simp] theorem modCore_quota (s : State) (k : Nat) (f : Core → Core) : (s.modCore k f).quota = s.quota := rfl
@[simp] theorem modCore_log (s : State) (k : Nat) (f : Core → Core) : (s.modCore k f).log = s.log := rfl
@[simp] theorem modCore_spdm (s : State) (k : Nat) (f : Core → Core) : (s.modCore k f).spdm = s.spdm := rfl
@[simp] theorem modCore_nextTag (s : State) (k : Nat) (f : Core → Core) : (s.modCore k f).nextTag = s.nextTag := rfl
@[simp] theorem modCore_moduleId (s : State) (k : Nat) (f : Core → Core) : (s.modCore k f).moduleId = s.moduleId := rfl

@[simp] theorem modWarp_cur (s : State) (k w : Nat) (f : Warp → Warp) : (s.modWarp k w f).cur = s.cur := rfl
@[simp] theorem modWarp_insn (s : State) (k w : Nat) (f : Warp → Warp) : (s.modWarp k w f).insn = s.insn := rfl
@[simp] theorem modWarp_ctl (s : State) (k w : Nat) (f : Warp → Warp) : (s.modWarp k w f).ctl = s.ctl := rfl
@[simp] theorem modWarp_agenda (s : State) (k w : Nat) (f : Warp → Warp) : (s.modWarp k w f).agenda = s.agenda := rfl
@[simp] theorem modWarp_turn (s : State) (k w : Nat) (f : Warp → Warp) : (s.modWarp k w f).turn = s.turn := rfl
@[simp] theorem modWarp_pair (s : State) (k w : Nat) (f : Warp → Warp) : (s.modWarp k w f).pair = s.pair := rfl
@[simp] theorem modWarp_next (s : State) (k w : Nat) (f : Warp → Warp) : (s.modWarp k w f).next = s.next := rfl
@[simp] theorem modWarp_free (s : State) (k w : Nat) (f : Warp → Warp) : (s.modWarp k w f).free = s.free := rfl
@[simp] theorem modWarp_slices (s : State) (k w : Nat) (f : Warp → Warp) : (s.modWarp k w f).slices = s.slices := rfl
@[simp] theorem modWarp_parts (s : State) (k w : Nat) (f : Warp → Warp) : (s.modWarp k w f).parts = s.parts := rfl
@[simp] theorem modWarp_mem (s : State) (k w : Nat) (f : Warp → Warp) : (s.modWarp k w f).mem = s.mem := rfl
@[simp] theorem modWarp_memPoison (s : State) (k w : Nat) (f : Warp → Warp) : (s.modWarp k w f).memPoison = s.memPoison := rfl
@[simp] theorem modWarp_disposals (s : State) (k w : Nat) (f : Warp → Warp) : (s.modWarp k w f).disposals = s.disposals := rfl
@[simp] theorem modWarp_pot (s : State) (k w : Nat) (f : Warp → Warp) : (s.modWarp k w f).pot = s.pot := rfl
@[simp] theorem modWarp_trees (s : State) (k w : Nat) (f : Warp → Warp) : (s.modWarp k w f).trees = s.trees := rfl
@[simp] theorem modWarp_nextTree (s : State) (k w : Nat) (f : Warp → Warp) : (s.modWarp k w f).nextTree = s.nextTree := rfl
@[simp] theorem modWarp_groups (s : State) (k w : Nat) (f : Warp → Warp) : (s.modWarp k w f).groups = s.groups := rfl
@[simp] theorem modWarp_tensors (s : State) (k w : Nat) (f : Warp → Warp) : (s.modWarp k w f).tensors = s.tensors := rfl
@[simp] theorem modWarp_keySlots (s : State) (k w : Nat) (f : Warp → Warp) : (s.modWarp k w f).keySlots = s.keySlots := rfl
@[simp] theorem modWarp_ports (s : State) (k w : Nat) (f : Warp → Warp) : (s.modWarp k w f).ports = s.ports := rfl
@[simp] theorem modWarp_cxlPorts (s : State) (k w : Nat) (f : Warp → Warp) : (s.modWarp k w f).cxlPorts = s.cxlPorts := rfl
@[simp] theorem modWarp_windows (s : State) (k w : Nat) (f : Warp → Warp) : (s.modWarp k w f).windows = s.windows := rfl
@[simp] theorem modWarp_paired (s : State) (k w : Nat) (f : Warp → Warp) : (s.modWarp k w f).paired = s.paired := rfl
@[simp] theorem modWarp_unverified (s : State) (k w : Nat) (f : Warp → Warp) : (s.modWarp k w f).unverified = s.unverified := rfl
@[simp] theorem modWarp_quarantined (s : State) (k w : Nat) (f : Warp → Warp) : (s.modWarp k w f).quarantined = s.quarantined := rfl
@[simp] theorem modWarp_ranges (s : State) (k w : Nat) (f : Warp → Warp) : (s.modWarp k w f).ranges = s.ranges := rfl
@[simp] theorem modWarp_cisternWrites (s : State) (k w : Nat) (f : Warp → Warp) : (s.modWarp k w f).cisternWrites = s.cisternWrites := rfl
@[simp] theorem modWarp_refresh (s : State) (k w : Nat) (f : Warp → Warp) : (s.modWarp k w f).refresh = s.refresh := rfl
@[simp] theorem modWarp_saved (s : State) (k w : Nat) (f : Warp → Warp) : (s.modWarp k w f).saved = s.saved := rfl
@[simp] theorem modWarp_reopen (s : State) (k w : Nat) (f : Warp → Warp) : (s.modWarp k w f).reopen = s.reopen := rfl
@[simp] theorem modWarp_nextSerial (s : State) (k w : Nat) (f : Warp → Warp) : (s.modWarp k w f).nextSerial = s.nextSerial := rfl
@[simp] theorem modWarp_liveSerials (s : State) (k w : Nat) (f : Warp → Warp) : (s.modWarp k w f).liveSerials = s.liveSerials := rfl
@[simp] theorem modWarp_exports (s : State) (k w : Nat) (f : Warp → Warp) : (s.modWarp k w f).exports = s.exports := rfl
@[simp] theorem modWarp_importNonces (s : State) (k w : Nat) (f : Warp → Warp) : (s.modWarp k w f).importNonces = s.importNonces := rfl
@[simp] theorem modWarp_lifecycle (s : State) (k w : Nat) (f : Warp → Warp) : (s.modWarp k w f).lifecycle = s.lifecycle := rfl
@[simp] theorem modWarp_fuses (s : State) (k w : Nat) (f : Warp → Warp) : (s.modWarp k w f).fuses = s.fuses := rfl
@[simp] theorem modWarp_measures (s : State) (k w : Nat) (f : Warp → Warp) : (s.modWarp k w f).measures = s.measures := rfl
@[simp] theorem modWarp_challenge (s : State) (k w : Nat) (f : Warp → Warp) : (s.modWarp k w f).challenge = s.challenge := rfl
@[simp] theorem modWarp_unlock (s : State) (k w : Nat) (f : Warp → Warp) : (s.modWarp k w f).unlock = s.unlock := rfl
@[simp] theorem modWarp_debugOpen (s : State) (k w : Nat) (f : Warp → Warp) : (s.modWarp k w f).debugOpen = s.debugOpen := rfl
@[simp] theorem modWarp_debugNotices (s : State) (k w : Nat) (f : Warp → Warp) : (s.modWarp k w f).debugNotices = s.debugNotices := rfl
@[simp] theorem modWarp_lost (s : State) (k w : Nat) (f : Warp → Warp) : (s.modWarp k w f).lost = s.lost := rfl
@[simp] theorem modWarp_rollback (s : State) (k w : Nat) (f : Warp → Warp) : (s.modWarp k w f).rollback = s.rollback := rfl
@[simp] theorem modWarp_staged (s : State) (k w : Nat) (f : Warp → Warp) : (s.modWarp k w f).staged = s.staged := rfl
@[simp] theorem modWarp_firmware (s : State) (k w : Nat) (f : Warp → Warp) : (s.modWarp k w f).firmware = s.firmware := rfl
@[simp] theorem modWarp_powerLimit (s : State) (k w : Nat) (f : Warp → Warp) : (s.modWarp k w f).powerLimit = s.powerLimit := rfl
@[simp] theorem modWarp_quota (s : State) (k w : Nat) (f : Warp → Warp) : (s.modWarp k w f).quota = s.quota := rfl
@[simp] theorem modWarp_log (s : State) (k w : Nat) (f : Warp → Warp) : (s.modWarp k w f).log = s.log := rfl
@[simp] theorem modWarp_spdm (s : State) (k w : Nat) (f : Warp → Warp) : (s.modWarp k w f).spdm = s.spdm := rfl
@[simp] theorem modWarp_nextTag (s : State) (k w : Nat) (f : Warp → Warp) : (s.modWarp k w f).nextTag = s.nextTag := rfl
@[simp] theorem modWarp_moduleId (s : State) (k w : Nat) (f : Warp → Warp) : (s.modWarp k w f).moduleId = s.moduleId := rfl

@[simp] theorem modGang_cur (s : State) (k w g : Nat) (f : Gang → Gang) : (s.modGang k w g f).cur = s.cur := rfl
@[simp] theorem modGang_insn (s : State) (k w g : Nat) (f : Gang → Gang) : (s.modGang k w g f).insn = s.insn := rfl
@[simp] theorem modGang_ctl (s : State) (k w g : Nat) (f : Gang → Gang) : (s.modGang k w g f).ctl = s.ctl := rfl
@[simp] theorem modGang_agenda (s : State) (k w g : Nat) (f : Gang → Gang) : (s.modGang k w g f).agenda = s.agenda := rfl
@[simp] theorem modGang_turn (s : State) (k w g : Nat) (f : Gang → Gang) : (s.modGang k w g f).turn = s.turn := rfl
@[simp] theorem modGang_pair (s : State) (k w g : Nat) (f : Gang → Gang) : (s.modGang k w g f).pair = s.pair := rfl
@[simp] theorem modGang_next (s : State) (k w g : Nat) (f : Gang → Gang) : (s.modGang k w g f).next = s.next := rfl
@[simp] theorem modGang_free (s : State) (k w g : Nat) (f : Gang → Gang) : (s.modGang k w g f).free = s.free := rfl
@[simp] theorem modGang_slices (s : State) (k w g : Nat) (f : Gang → Gang) : (s.modGang k w g f).slices = s.slices := rfl
@[simp] theorem modGang_parts (s : State) (k w g : Nat) (f : Gang → Gang) : (s.modGang k w g f).parts = s.parts := rfl
@[simp] theorem modGang_mem (s : State) (k w g : Nat) (f : Gang → Gang) : (s.modGang k w g f).mem = s.mem := rfl
@[simp] theorem modGang_memPoison (s : State) (k w g : Nat) (f : Gang → Gang) : (s.modGang k w g f).memPoison = s.memPoison := rfl
@[simp] theorem modGang_disposals (s : State) (k w g : Nat) (f : Gang → Gang) : (s.modGang k w g f).disposals = s.disposals := rfl
@[simp] theorem modGang_pot (s : State) (k w g : Nat) (f : Gang → Gang) : (s.modGang k w g f).pot = s.pot := rfl
@[simp] theorem modGang_trees (s : State) (k w g : Nat) (f : Gang → Gang) : (s.modGang k w g f).trees = s.trees := rfl
@[simp] theorem modGang_nextTree (s : State) (k w g : Nat) (f : Gang → Gang) : (s.modGang k w g f).nextTree = s.nextTree := rfl
@[simp] theorem modGang_groups (s : State) (k w g : Nat) (f : Gang → Gang) : (s.modGang k w g f).groups = s.groups := rfl
@[simp] theorem modGang_tensors (s : State) (k w g : Nat) (f : Gang → Gang) : (s.modGang k w g f).tensors = s.tensors := rfl
@[simp] theorem modGang_keySlots (s : State) (k w g : Nat) (f : Gang → Gang) : (s.modGang k w g f).keySlots = s.keySlots := rfl
@[simp] theorem modGang_ports (s : State) (k w g : Nat) (f : Gang → Gang) : (s.modGang k w g f).ports = s.ports := rfl
@[simp] theorem modGang_cxlPorts (s : State) (k w g : Nat) (f : Gang → Gang) : (s.modGang k w g f).cxlPorts = s.cxlPorts := rfl
@[simp] theorem modGang_windows (s : State) (k w g : Nat) (f : Gang → Gang) : (s.modGang k w g f).windows = s.windows := rfl
@[simp] theorem modGang_paired (s : State) (k w g : Nat) (f : Gang → Gang) : (s.modGang k w g f).paired = s.paired := rfl
@[simp] theorem modGang_unverified (s : State) (k w g : Nat) (f : Gang → Gang) : (s.modGang k w g f).unverified = s.unverified := rfl
@[simp] theorem modGang_quarantined (s : State) (k w g : Nat) (f : Gang → Gang) : (s.modGang k w g f).quarantined = s.quarantined := rfl
@[simp] theorem modGang_ranges (s : State) (k w g : Nat) (f : Gang → Gang) : (s.modGang k w g f).ranges = s.ranges := rfl
@[simp] theorem modGang_cisternWrites (s : State) (k w g : Nat) (f : Gang → Gang) : (s.modGang k w g f).cisternWrites = s.cisternWrites := rfl
@[simp] theorem modGang_refresh (s : State) (k w g : Nat) (f : Gang → Gang) : (s.modGang k w g f).refresh = s.refresh := rfl
@[simp] theorem modGang_saved (s : State) (k w g : Nat) (f : Gang → Gang) : (s.modGang k w g f).saved = s.saved := rfl
@[simp] theorem modGang_reopen (s : State) (k w g : Nat) (f : Gang → Gang) : (s.modGang k w g f).reopen = s.reopen := rfl
@[simp] theorem modGang_nextSerial (s : State) (k w g : Nat) (f : Gang → Gang) : (s.modGang k w g f).nextSerial = s.nextSerial := rfl
@[simp] theorem modGang_liveSerials (s : State) (k w g : Nat) (f : Gang → Gang) : (s.modGang k w g f).liveSerials = s.liveSerials := rfl
@[simp] theorem modGang_exports (s : State) (k w g : Nat) (f : Gang → Gang) : (s.modGang k w g f).exports = s.exports := rfl
@[simp] theorem modGang_importNonces (s : State) (k w g : Nat) (f : Gang → Gang) : (s.modGang k w g f).importNonces = s.importNonces := rfl
@[simp] theorem modGang_lifecycle (s : State) (k w g : Nat) (f : Gang → Gang) : (s.modGang k w g f).lifecycle = s.lifecycle := rfl
@[simp] theorem modGang_fuses (s : State) (k w g : Nat) (f : Gang → Gang) : (s.modGang k w g f).fuses = s.fuses := rfl
@[simp] theorem modGang_measures (s : State) (k w g : Nat) (f : Gang → Gang) : (s.modGang k w g f).measures = s.measures := rfl
@[simp] theorem modGang_challenge (s : State) (k w g : Nat) (f : Gang → Gang) : (s.modGang k w g f).challenge = s.challenge := rfl
@[simp] theorem modGang_unlock (s : State) (k w g : Nat) (f : Gang → Gang) : (s.modGang k w g f).unlock = s.unlock := rfl
@[simp] theorem modGang_debugOpen (s : State) (k w g : Nat) (f : Gang → Gang) : (s.modGang k w g f).debugOpen = s.debugOpen := rfl
@[simp] theorem modGang_debugNotices (s : State) (k w g : Nat) (f : Gang → Gang) : (s.modGang k w g f).debugNotices = s.debugNotices := rfl
@[simp] theorem modGang_lost (s : State) (k w g : Nat) (f : Gang → Gang) : (s.modGang k w g f).lost = s.lost := rfl
@[simp] theorem modGang_rollback (s : State) (k w g : Nat) (f : Gang → Gang) : (s.modGang k w g f).rollback = s.rollback := rfl
@[simp] theorem modGang_staged (s : State) (k w g : Nat) (f : Gang → Gang) : (s.modGang k w g f).staged = s.staged := rfl
@[simp] theorem modGang_firmware (s : State) (k w g : Nat) (f : Gang → Gang) : (s.modGang k w g f).firmware = s.firmware := rfl
@[simp] theorem modGang_powerLimit (s : State) (k w g : Nat) (f : Gang → Gang) : (s.modGang k w g f).powerLimit = s.powerLimit := rfl
@[simp] theorem modGang_quota (s : State) (k w g : Nat) (f : Gang → Gang) : (s.modGang k w g f).quota = s.quota := rfl
@[simp] theorem modGang_log (s : State) (k w g : Nat) (f : Gang → Gang) : (s.modGang k w g f).log = s.log := rfl
@[simp] theorem modGang_spdm (s : State) (k w g : Nat) (f : Gang → Gang) : (s.modGang k w g f).spdm = s.spdm := rfl
@[simp] theorem modGang_nextTag (s : State) (k w g : Nat) (f : Gang → Gang) : (s.modGang k w g f).nextTag = s.nextTag := rfl
@[simp] theorem modGang_moduleId (s : State) (k w g : Nat) (f : Gang → Gang) : (s.modGang k w g f).moduleId = s.moduleId := rfl

@[simp] theorem modSlice_cur (s : State) (n : Nat) (f : Slice → Slice) : (s.modSlice n f).cur = s.cur := rfl
@[simp] theorem modSlice_insn (s : State) (n : Nat) (f : Slice → Slice) : (s.modSlice n f).insn = s.insn := rfl
@[simp] theorem modSlice_ctl (s : State) (n : Nat) (f : Slice → Slice) : (s.modSlice n f).ctl = s.ctl := rfl
@[simp] theorem modSlice_agenda (s : State) (n : Nat) (f : Slice → Slice) : (s.modSlice n f).agenda = s.agenda := rfl
@[simp] theorem modSlice_turn (s : State) (n : Nat) (f : Slice → Slice) : (s.modSlice n f).turn = s.turn := rfl
@[simp] theorem modSlice_pair (s : State) (n : Nat) (f : Slice → Slice) : (s.modSlice n f).pair = s.pair := rfl
@[simp] theorem modSlice_next (s : State) (n : Nat) (f : Slice → Slice) : (s.modSlice n f).next = s.next := rfl
@[simp] theorem modSlice_free (s : State) (n : Nat) (f : Slice → Slice) : (s.modSlice n f).free = s.free := rfl
@[simp] theorem modSlice_cores (s : State) (n : Nat) (f : Slice → Slice) : (s.modSlice n f).cores = s.cores := rfl
@[simp] theorem modSlice_parts (s : State) (n : Nat) (f : Slice → Slice) : (s.modSlice n f).parts = s.parts := rfl
@[simp] theorem modSlice_mem (s : State) (n : Nat) (f : Slice → Slice) : (s.modSlice n f).mem = s.mem := rfl
@[simp] theorem modSlice_memPoison (s : State) (n : Nat) (f : Slice → Slice) : (s.modSlice n f).memPoison = s.memPoison := rfl
@[simp] theorem modSlice_disposals (s : State) (n : Nat) (f : Slice → Slice) : (s.modSlice n f).disposals = s.disposals := rfl
@[simp] theorem modSlice_pot (s : State) (n : Nat) (f : Slice → Slice) : (s.modSlice n f).pot = s.pot := rfl
@[simp] theorem modSlice_trees (s : State) (n : Nat) (f : Slice → Slice) : (s.modSlice n f).trees = s.trees := rfl
@[simp] theorem modSlice_nextTree (s : State) (n : Nat) (f : Slice → Slice) : (s.modSlice n f).nextTree = s.nextTree := rfl
@[simp] theorem modSlice_groups (s : State) (n : Nat) (f : Slice → Slice) : (s.modSlice n f).groups = s.groups := rfl
@[simp] theorem modSlice_tensors (s : State) (n : Nat) (f : Slice → Slice) : (s.modSlice n f).tensors = s.tensors := rfl
@[simp] theorem modSlice_keySlots (s : State) (n : Nat) (f : Slice → Slice) : (s.modSlice n f).keySlots = s.keySlots := rfl
@[simp] theorem modSlice_ports (s : State) (n : Nat) (f : Slice → Slice) : (s.modSlice n f).ports = s.ports := rfl
@[simp] theorem modSlice_cxlPorts (s : State) (n : Nat) (f : Slice → Slice) : (s.modSlice n f).cxlPorts = s.cxlPorts := rfl
@[simp] theorem modSlice_windows (s : State) (n : Nat) (f : Slice → Slice) : (s.modSlice n f).windows = s.windows := rfl
@[simp] theorem modSlice_paired (s : State) (n : Nat) (f : Slice → Slice) : (s.modSlice n f).paired = s.paired := rfl
@[simp] theorem modSlice_unverified (s : State) (n : Nat) (f : Slice → Slice) : (s.modSlice n f).unverified = s.unverified := rfl
@[simp] theorem modSlice_quarantined (s : State) (n : Nat) (f : Slice → Slice) : (s.modSlice n f).quarantined = s.quarantined := rfl
@[simp] theorem modSlice_ranges (s : State) (n : Nat) (f : Slice → Slice) : (s.modSlice n f).ranges = s.ranges := rfl
@[simp] theorem modSlice_cisternWrites (s : State) (n : Nat) (f : Slice → Slice) : (s.modSlice n f).cisternWrites = s.cisternWrites := rfl
@[simp] theorem modSlice_refresh (s : State) (n : Nat) (f : Slice → Slice) : (s.modSlice n f).refresh = s.refresh := rfl
@[simp] theorem modSlice_saved (s : State) (n : Nat) (f : Slice → Slice) : (s.modSlice n f).saved = s.saved := rfl
@[simp] theorem modSlice_reopen (s : State) (n : Nat) (f : Slice → Slice) : (s.modSlice n f).reopen = s.reopen := rfl
@[simp] theorem modSlice_nextSerial (s : State) (n : Nat) (f : Slice → Slice) : (s.modSlice n f).nextSerial = s.nextSerial := rfl
@[simp] theorem modSlice_liveSerials (s : State) (n : Nat) (f : Slice → Slice) : (s.modSlice n f).liveSerials = s.liveSerials := rfl
@[simp] theorem modSlice_exports (s : State) (n : Nat) (f : Slice → Slice) : (s.modSlice n f).exports = s.exports := rfl
@[simp] theorem modSlice_importNonces (s : State) (n : Nat) (f : Slice → Slice) : (s.modSlice n f).importNonces = s.importNonces := rfl
@[simp] theorem modSlice_lifecycle (s : State) (n : Nat) (f : Slice → Slice) : (s.modSlice n f).lifecycle = s.lifecycle := rfl
@[simp] theorem modSlice_fuses (s : State) (n : Nat) (f : Slice → Slice) : (s.modSlice n f).fuses = s.fuses := rfl
@[simp] theorem modSlice_measures (s : State) (n : Nat) (f : Slice → Slice) : (s.modSlice n f).measures = s.measures := rfl
@[simp] theorem modSlice_challenge (s : State) (n : Nat) (f : Slice → Slice) : (s.modSlice n f).challenge = s.challenge := rfl
@[simp] theorem modSlice_unlock (s : State) (n : Nat) (f : Slice → Slice) : (s.modSlice n f).unlock = s.unlock := rfl
@[simp] theorem modSlice_debugOpen (s : State) (n : Nat) (f : Slice → Slice) : (s.modSlice n f).debugOpen = s.debugOpen := rfl
@[simp] theorem modSlice_debugNotices (s : State) (n : Nat) (f : Slice → Slice) : (s.modSlice n f).debugNotices = s.debugNotices := rfl
@[simp] theorem modSlice_lost (s : State) (n : Nat) (f : Slice → Slice) : (s.modSlice n f).lost = s.lost := rfl
@[simp] theorem modSlice_rollback (s : State) (n : Nat) (f : Slice → Slice) : (s.modSlice n f).rollback = s.rollback := rfl
@[simp] theorem modSlice_staged (s : State) (n : Nat) (f : Slice → Slice) : (s.modSlice n f).staged = s.staged := rfl
@[simp] theorem modSlice_firmware (s : State) (n : Nat) (f : Slice → Slice) : (s.modSlice n f).firmware = s.firmware := rfl
@[simp] theorem modSlice_powerLimit (s : State) (n : Nat) (f : Slice → Slice) : (s.modSlice n f).powerLimit = s.powerLimit := rfl
@[simp] theorem modSlice_quota (s : State) (n : Nat) (f : Slice → Slice) : (s.modSlice n f).quota = s.quota := rfl
@[simp] theorem modSlice_log (s : State) (n : Nat) (f : Slice → Slice) : (s.modSlice n f).log = s.log := rfl
@[simp] theorem modSlice_spdm (s : State) (n : Nat) (f : Slice → Slice) : (s.modSlice n f).spdm = s.spdm := rfl
@[simp] theorem modSlice_nextTag (s : State) (n : Nat) (f : Slice → Slice) : (s.modSlice n f).nextTag = s.nextTag := rfl
@[simp] theorem modSlice_moduleId (s : State) (n : Nat) (f : Slice → Slice) : (s.modSlice n f).moduleId = s.moduleId := rfl

@[simp] theorem modPart_cur (s : State) (p : Nat) (f : Partition → Partition) : (s.modPart p f).cur = s.cur := rfl
@[simp] theorem modPart_insn (s : State) (p : Nat) (f : Partition → Partition) : (s.modPart p f).insn = s.insn := rfl
@[simp] theorem modPart_ctl (s : State) (p : Nat) (f : Partition → Partition) : (s.modPart p f).ctl = s.ctl := rfl
@[simp] theorem modPart_agenda (s : State) (p : Nat) (f : Partition → Partition) : (s.modPart p f).agenda = s.agenda := rfl
@[simp] theorem modPart_turn (s : State) (p : Nat) (f : Partition → Partition) : (s.modPart p f).turn = s.turn := rfl
@[simp] theorem modPart_pair (s : State) (p : Nat) (f : Partition → Partition) : (s.modPart p f).pair = s.pair := rfl
@[simp] theorem modPart_next (s : State) (p : Nat) (f : Partition → Partition) : (s.modPart p f).next = s.next := rfl
@[simp] theorem modPart_free (s : State) (p : Nat) (f : Partition → Partition) : (s.modPart p f).free = s.free := rfl
@[simp] theorem modPart_cores (s : State) (p : Nat) (f : Partition → Partition) : (s.modPart p f).cores = s.cores := rfl
@[simp] theorem modPart_slices (s : State) (p : Nat) (f : Partition → Partition) : (s.modPart p f).slices = s.slices := rfl
@[simp] theorem modPart_mem (s : State) (p : Nat) (f : Partition → Partition) : (s.modPart p f).mem = s.mem := rfl
@[simp] theorem modPart_memPoison (s : State) (p : Nat) (f : Partition → Partition) : (s.modPart p f).memPoison = s.memPoison := rfl
@[simp] theorem modPart_disposals (s : State) (p : Nat) (f : Partition → Partition) : (s.modPart p f).disposals = s.disposals := rfl
@[simp] theorem modPart_pot (s : State) (p : Nat) (f : Partition → Partition) : (s.modPart p f).pot = s.pot := rfl
@[simp] theorem modPart_trees (s : State) (p : Nat) (f : Partition → Partition) : (s.modPart p f).trees = s.trees := rfl
@[simp] theorem modPart_nextTree (s : State) (p : Nat) (f : Partition → Partition) : (s.modPart p f).nextTree = s.nextTree := rfl
@[simp] theorem modPart_groups (s : State) (p : Nat) (f : Partition → Partition) : (s.modPart p f).groups = s.groups := rfl
@[simp] theorem modPart_tensors (s : State) (p : Nat) (f : Partition → Partition) : (s.modPart p f).tensors = s.tensors := rfl
@[simp] theorem modPart_keySlots (s : State) (p : Nat) (f : Partition → Partition) : (s.modPart p f).keySlots = s.keySlots := rfl
@[simp] theorem modPart_ports (s : State) (p : Nat) (f : Partition → Partition) : (s.modPart p f).ports = s.ports := rfl
@[simp] theorem modPart_cxlPorts (s : State) (p : Nat) (f : Partition → Partition) : (s.modPart p f).cxlPorts = s.cxlPorts := rfl
@[simp] theorem modPart_windows (s : State) (p : Nat) (f : Partition → Partition) : (s.modPart p f).windows = s.windows := rfl
@[simp] theorem modPart_paired (s : State) (p : Nat) (f : Partition → Partition) : (s.modPart p f).paired = s.paired := rfl
@[simp] theorem modPart_unverified (s : State) (p : Nat) (f : Partition → Partition) : (s.modPart p f).unverified = s.unverified := rfl
@[simp] theorem modPart_quarantined (s : State) (p : Nat) (f : Partition → Partition) : (s.modPart p f).quarantined = s.quarantined := rfl
@[simp] theorem modPart_ranges (s : State) (p : Nat) (f : Partition → Partition) : (s.modPart p f).ranges = s.ranges := rfl
@[simp] theorem modPart_cisternWrites (s : State) (p : Nat) (f : Partition → Partition) : (s.modPart p f).cisternWrites = s.cisternWrites := rfl
@[simp] theorem modPart_refresh (s : State) (p : Nat) (f : Partition → Partition) : (s.modPart p f).refresh = s.refresh := rfl
@[simp] theorem modPart_saved (s : State) (p : Nat) (f : Partition → Partition) : (s.modPart p f).saved = s.saved := rfl
@[simp] theorem modPart_reopen (s : State) (p : Nat) (f : Partition → Partition) : (s.modPart p f).reopen = s.reopen := rfl
@[simp] theorem modPart_nextSerial (s : State) (p : Nat) (f : Partition → Partition) : (s.modPart p f).nextSerial = s.nextSerial := rfl
@[simp] theorem modPart_liveSerials (s : State) (p : Nat) (f : Partition → Partition) : (s.modPart p f).liveSerials = s.liveSerials := rfl
@[simp] theorem modPart_exports (s : State) (p : Nat) (f : Partition → Partition) : (s.modPart p f).exports = s.exports := rfl
@[simp] theorem modPart_importNonces (s : State) (p : Nat) (f : Partition → Partition) : (s.modPart p f).importNonces = s.importNonces := rfl
@[simp] theorem modPart_lifecycle (s : State) (p : Nat) (f : Partition → Partition) : (s.modPart p f).lifecycle = s.lifecycle := rfl
@[simp] theorem modPart_fuses (s : State) (p : Nat) (f : Partition → Partition) : (s.modPart p f).fuses = s.fuses := rfl
@[simp] theorem modPart_measures (s : State) (p : Nat) (f : Partition → Partition) : (s.modPart p f).measures = s.measures := rfl
@[simp] theorem modPart_challenge (s : State) (p : Nat) (f : Partition → Partition) : (s.modPart p f).challenge = s.challenge := rfl
@[simp] theorem modPart_unlock (s : State) (p : Nat) (f : Partition → Partition) : (s.modPart p f).unlock = s.unlock := rfl
@[simp] theorem modPart_debugOpen (s : State) (p : Nat) (f : Partition → Partition) : (s.modPart p f).debugOpen = s.debugOpen := rfl
@[simp] theorem modPart_debugNotices (s : State) (p : Nat) (f : Partition → Partition) : (s.modPart p f).debugNotices = s.debugNotices := rfl
@[simp] theorem modPart_lost (s : State) (p : Nat) (f : Partition → Partition) : (s.modPart p f).lost = s.lost := rfl
@[simp] theorem modPart_rollback (s : State) (p : Nat) (f : Partition → Partition) : (s.modPart p f).rollback = s.rollback := rfl
@[simp] theorem modPart_staged (s : State) (p : Nat) (f : Partition → Partition) : (s.modPart p f).staged = s.staged := rfl
@[simp] theorem modPart_firmware (s : State) (p : Nat) (f : Partition → Partition) : (s.modPart p f).firmware = s.firmware := rfl
@[simp] theorem modPart_powerLimit (s : State) (p : Nat) (f : Partition → Partition) : (s.modPart p f).powerLimit = s.powerLimit := rfl
@[simp] theorem modPart_quota (s : State) (p : Nat) (f : Partition → Partition) : (s.modPart p f).quota = s.quota := rfl
@[simp] theorem modPart_log (s : State) (p : Nat) (f : Partition → Partition) : (s.modPart p f).log = s.log := rfl
@[simp] theorem modPart_spdm (s : State) (p : Nat) (f : Partition → Partition) : (s.modPart p f).spdm = s.spdm := rfl
@[simp] theorem modPart_nextTag (s : State) (p : Nat) (f : Partition → Partition) : (s.modPart p f).nextTag = s.nextTag := rfl
@[simp] theorem modPart_moduleId (s : State) (p : Nat) (f : Partition → Partition) : (s.modPart p f).moduleId = s.moduleId := rfl

@[simp] theorem memPut_cur (s : State) (key : Nat) (bs : List Byte) : (memPut s key bs).cur = s.cur := rfl
@[simp] theorem memPut_insn (s : State) (key : Nat) (bs : List Byte) : (memPut s key bs).insn = s.insn := rfl
@[simp] theorem memPut_ctl (s : State) (key : Nat) (bs : List Byte) : (memPut s key bs).ctl = s.ctl := rfl
@[simp] theorem memPut_agenda (s : State) (key : Nat) (bs : List Byte) : (memPut s key bs).agenda = s.agenda := rfl
@[simp] theorem memPut_turn (s : State) (key : Nat) (bs : List Byte) : (memPut s key bs).turn = s.turn := rfl
@[simp] theorem memPut_pair (s : State) (key : Nat) (bs : List Byte) : (memPut s key bs).pair = s.pair := rfl
@[simp] theorem memPut_next (s : State) (key : Nat) (bs : List Byte) : (memPut s key bs).next = s.next := rfl
@[simp] theorem memPut_free (s : State) (key : Nat) (bs : List Byte) : (memPut s key bs).free = s.free := rfl
@[simp] theorem memPut_cores (s : State) (key : Nat) (bs : List Byte) : (memPut s key bs).cores = s.cores := rfl
@[simp] theorem memPut_slices (s : State) (key : Nat) (bs : List Byte) : (memPut s key bs).slices = s.slices := rfl
@[simp] theorem memPut_parts (s : State) (key : Nat) (bs : List Byte) : (memPut s key bs).parts = s.parts := rfl
@[simp] theorem memPut_disposals (s : State) (key : Nat) (bs : List Byte) : (memPut s key bs).disposals = s.disposals := rfl
@[simp] theorem memPut_pot (s : State) (key : Nat) (bs : List Byte) : (memPut s key bs).pot = s.pot := rfl
@[simp] theorem memPut_trees (s : State) (key : Nat) (bs : List Byte) : (memPut s key bs).trees = s.trees := rfl
@[simp] theorem memPut_nextTree (s : State) (key : Nat) (bs : List Byte) : (memPut s key bs).nextTree = s.nextTree := rfl
@[simp] theorem memPut_groups (s : State) (key : Nat) (bs : List Byte) : (memPut s key bs).groups = s.groups := rfl
@[simp] theorem memPut_tensors (s : State) (key : Nat) (bs : List Byte) : (memPut s key bs).tensors = s.tensors := rfl
@[simp] theorem memPut_keySlots (s : State) (key : Nat) (bs : List Byte) : (memPut s key bs).keySlots = s.keySlots := rfl
@[simp] theorem memPut_ports (s : State) (key : Nat) (bs : List Byte) : (memPut s key bs).ports = s.ports := rfl
@[simp] theorem memPut_cxlPorts (s : State) (key : Nat) (bs : List Byte) : (memPut s key bs).cxlPorts = s.cxlPorts := rfl
@[simp] theorem memPut_windows (s : State) (key : Nat) (bs : List Byte) : (memPut s key bs).windows = s.windows := rfl
@[simp] theorem memPut_paired (s : State) (key : Nat) (bs : List Byte) : (memPut s key bs).paired = s.paired := rfl
@[simp] theorem memPut_unverified (s : State) (key : Nat) (bs : List Byte) : (memPut s key bs).unverified = s.unverified := rfl
@[simp] theorem memPut_quarantined (s : State) (key : Nat) (bs : List Byte) : (memPut s key bs).quarantined = s.quarantined := rfl
@[simp] theorem memPut_ranges (s : State) (key : Nat) (bs : List Byte) : (memPut s key bs).ranges = s.ranges := rfl
@[simp] theorem memPut_cisternWrites (s : State) (key : Nat) (bs : List Byte) : (memPut s key bs).cisternWrites = s.cisternWrites := rfl
@[simp] theorem memPut_refresh (s : State) (key : Nat) (bs : List Byte) : (memPut s key bs).refresh = s.refresh := rfl
@[simp] theorem memPut_saved (s : State) (key : Nat) (bs : List Byte) : (memPut s key bs).saved = s.saved := rfl
@[simp] theorem memPut_reopen (s : State) (key : Nat) (bs : List Byte) : (memPut s key bs).reopen = s.reopen := rfl
@[simp] theorem memPut_nextSerial (s : State) (key : Nat) (bs : List Byte) : (memPut s key bs).nextSerial = s.nextSerial := rfl
@[simp] theorem memPut_liveSerials (s : State) (key : Nat) (bs : List Byte) : (memPut s key bs).liveSerials = s.liveSerials := rfl
@[simp] theorem memPut_exports (s : State) (key : Nat) (bs : List Byte) : (memPut s key bs).exports = s.exports := rfl
@[simp] theorem memPut_importNonces (s : State) (key : Nat) (bs : List Byte) : (memPut s key bs).importNonces = s.importNonces := rfl
@[simp] theorem memPut_lifecycle (s : State) (key : Nat) (bs : List Byte) : (memPut s key bs).lifecycle = s.lifecycle := rfl
@[simp] theorem memPut_fuses (s : State) (key : Nat) (bs : List Byte) : (memPut s key bs).fuses = s.fuses := rfl
@[simp] theorem memPut_measures (s : State) (key : Nat) (bs : List Byte) : (memPut s key bs).measures = s.measures := rfl
@[simp] theorem memPut_challenge (s : State) (key : Nat) (bs : List Byte) : (memPut s key bs).challenge = s.challenge := rfl
@[simp] theorem memPut_unlock (s : State) (key : Nat) (bs : List Byte) : (memPut s key bs).unlock = s.unlock := rfl
@[simp] theorem memPut_debugOpen (s : State) (key : Nat) (bs : List Byte) : (memPut s key bs).debugOpen = s.debugOpen := rfl
@[simp] theorem memPut_debugNotices (s : State) (key : Nat) (bs : List Byte) : (memPut s key bs).debugNotices = s.debugNotices := rfl
@[simp] theorem memPut_lost (s : State) (key : Nat) (bs : List Byte) : (memPut s key bs).lost = s.lost := rfl
@[simp] theorem memPut_rollback (s : State) (key : Nat) (bs : List Byte) : (memPut s key bs).rollback = s.rollback := rfl
@[simp] theorem memPut_staged (s : State) (key : Nat) (bs : List Byte) : (memPut s key bs).staged = s.staged := rfl
@[simp] theorem memPut_firmware (s : State) (key : Nat) (bs : List Byte) : (memPut s key bs).firmware = s.firmware := rfl
@[simp] theorem memPut_powerLimit (s : State) (key : Nat) (bs : List Byte) : (memPut s key bs).powerLimit = s.powerLimit := rfl
@[simp] theorem memPut_quota (s : State) (key : Nat) (bs : List Byte) : (memPut s key bs).quota = s.quota := rfl
@[simp] theorem memPut_log (s : State) (key : Nat) (bs : List Byte) : (memPut s key bs).log = s.log := rfl
@[simp] theorem memPut_spdm (s : State) (key : Nat) (bs : List Byte) : (memPut s key bs).spdm = s.spdm := rfl
@[simp] theorem memPut_nextTag (s : State) (key : Nat) (bs : List Byte) : (memPut s key bs).nextTag = s.nextTag := rfl
@[simp] theorem memPut_moduleId (s : State) (key : Nat) (bs : List Byte) : (memPut s key bs).moduleId = s.moduleId := rfl

@[simp] theorem memMark_cur (s : State) (key n : Nat) : (memMark s key n).cur = s.cur := rfl
@[simp] theorem memMark_insn (s : State) (key n : Nat) : (memMark s key n).insn = s.insn := rfl
@[simp] theorem memMark_ctl (s : State) (key n : Nat) : (memMark s key n).ctl = s.ctl := rfl
@[simp] theorem memMark_agenda (s : State) (key n : Nat) : (memMark s key n).agenda = s.agenda := rfl
@[simp] theorem memMark_turn (s : State) (key n : Nat) : (memMark s key n).turn = s.turn := rfl
@[simp] theorem memMark_pair (s : State) (key n : Nat) : (memMark s key n).pair = s.pair := rfl
@[simp] theorem memMark_next (s : State) (key n : Nat) : (memMark s key n).next = s.next := rfl
@[simp] theorem memMark_free (s : State) (key n : Nat) : (memMark s key n).free = s.free := rfl
@[simp] theorem memMark_cores (s : State) (key n : Nat) : (memMark s key n).cores = s.cores := rfl
@[simp] theorem memMark_slices (s : State) (key n : Nat) : (memMark s key n).slices = s.slices := rfl
@[simp] theorem memMark_parts (s : State) (key n : Nat) : (memMark s key n).parts = s.parts := rfl
@[simp] theorem memMark_mem (s : State) (key n : Nat) : (memMark s key n).mem = s.mem := rfl
@[simp] theorem memMark_disposals (s : State) (key n : Nat) : (memMark s key n).disposals = s.disposals := rfl
@[simp] theorem memMark_pot (s : State) (key n : Nat) : (memMark s key n).pot = s.pot := rfl
@[simp] theorem memMark_trees (s : State) (key n : Nat) : (memMark s key n).trees = s.trees := rfl
@[simp] theorem memMark_nextTree (s : State) (key n : Nat) : (memMark s key n).nextTree = s.nextTree := rfl
@[simp] theorem memMark_groups (s : State) (key n : Nat) : (memMark s key n).groups = s.groups := rfl
@[simp] theorem memMark_tensors (s : State) (key n : Nat) : (memMark s key n).tensors = s.tensors := rfl
@[simp] theorem memMark_keySlots (s : State) (key n : Nat) : (memMark s key n).keySlots = s.keySlots := rfl
@[simp] theorem memMark_ports (s : State) (key n : Nat) : (memMark s key n).ports = s.ports := rfl
@[simp] theorem memMark_cxlPorts (s : State) (key n : Nat) : (memMark s key n).cxlPorts = s.cxlPorts := rfl
@[simp] theorem memMark_windows (s : State) (key n : Nat) : (memMark s key n).windows = s.windows := rfl
@[simp] theorem memMark_paired (s : State) (key n : Nat) : (memMark s key n).paired = s.paired := rfl
@[simp] theorem memMark_unverified (s : State) (key n : Nat) : (memMark s key n).unverified = s.unverified := rfl
@[simp] theorem memMark_quarantined (s : State) (key n : Nat) : (memMark s key n).quarantined = s.quarantined := rfl
@[simp] theorem memMark_ranges (s : State) (key n : Nat) : (memMark s key n).ranges = s.ranges := rfl
@[simp] theorem memMark_cisternWrites (s : State) (key n : Nat) : (memMark s key n).cisternWrites = s.cisternWrites := rfl
@[simp] theorem memMark_refresh (s : State) (key n : Nat) : (memMark s key n).refresh = s.refresh := rfl
@[simp] theorem memMark_saved (s : State) (key n : Nat) : (memMark s key n).saved = s.saved := rfl
@[simp] theorem memMark_reopen (s : State) (key n : Nat) : (memMark s key n).reopen = s.reopen := rfl
@[simp] theorem memMark_nextSerial (s : State) (key n : Nat) : (memMark s key n).nextSerial = s.nextSerial := rfl
@[simp] theorem memMark_liveSerials (s : State) (key n : Nat) : (memMark s key n).liveSerials = s.liveSerials := rfl
@[simp] theorem memMark_exports (s : State) (key n : Nat) : (memMark s key n).exports = s.exports := rfl
@[simp] theorem memMark_importNonces (s : State) (key n : Nat) : (memMark s key n).importNonces = s.importNonces := rfl
@[simp] theorem memMark_lifecycle (s : State) (key n : Nat) : (memMark s key n).lifecycle = s.lifecycle := rfl
@[simp] theorem memMark_fuses (s : State) (key n : Nat) : (memMark s key n).fuses = s.fuses := rfl
@[simp] theorem memMark_measures (s : State) (key n : Nat) : (memMark s key n).measures = s.measures := rfl
@[simp] theorem memMark_challenge (s : State) (key n : Nat) : (memMark s key n).challenge = s.challenge := rfl
@[simp] theorem memMark_unlock (s : State) (key n : Nat) : (memMark s key n).unlock = s.unlock := rfl
@[simp] theorem memMark_debugOpen (s : State) (key n : Nat) : (memMark s key n).debugOpen = s.debugOpen := rfl
@[simp] theorem memMark_debugNotices (s : State) (key n : Nat) : (memMark s key n).debugNotices = s.debugNotices := rfl
@[simp] theorem memMark_lost (s : State) (key n : Nat) : (memMark s key n).lost = s.lost := rfl
@[simp] theorem memMark_rollback (s : State) (key n : Nat) : (memMark s key n).rollback = s.rollback := rfl
@[simp] theorem memMark_staged (s : State) (key n : Nat) : (memMark s key n).staged = s.staged := rfl
@[simp] theorem memMark_firmware (s : State) (key n : Nat) : (memMark s key n).firmware = s.firmware := rfl
@[simp] theorem memMark_powerLimit (s : State) (key n : Nat) : (memMark s key n).powerLimit = s.powerLimit := rfl
@[simp] theorem memMark_quota (s : State) (key n : Nat) : (memMark s key n).quota = s.quota := rfl
@[simp] theorem memMark_log (s : State) (key n : Nat) : (memMark s key n).log = s.log := rfl
@[simp] theorem memMark_spdm (s : State) (key n : Nat) : (memMark s key n).spdm = s.spdm := rfl
@[simp] theorem memMark_nextTag (s : State) (key n : Nat) : (memMark s key n).nextTag = s.nextTag := rfl
@[simp] theorem memMark_moduleId (s : State) (key n : Nat) : (memMark s key n).moduleId = s.moduleId := rfl

@[simp] theorem memZero_cur (s : State) (key n : Nat) : (memZero s key n).cur = s.cur := rfl
@[simp] theorem memZero_insn (s : State) (key n : Nat) : (memZero s key n).insn = s.insn := rfl
@[simp] theorem memZero_ctl (s : State) (key n : Nat) : (memZero s key n).ctl = s.ctl := rfl
@[simp] theorem memZero_agenda (s : State) (key n : Nat) : (memZero s key n).agenda = s.agenda := rfl
@[simp] theorem memZero_turn (s : State) (key n : Nat) : (memZero s key n).turn = s.turn := rfl
@[simp] theorem memZero_pair (s : State) (key n : Nat) : (memZero s key n).pair = s.pair := rfl
@[simp] theorem memZero_next (s : State) (key n : Nat) : (memZero s key n).next = s.next := rfl
@[simp] theorem memZero_free (s : State) (key n : Nat) : (memZero s key n).free = s.free := rfl
@[simp] theorem memZero_cores (s : State) (key n : Nat) : (memZero s key n).cores = s.cores := rfl
@[simp] theorem memZero_slices (s : State) (key n : Nat) : (memZero s key n).slices = s.slices := rfl
@[simp] theorem memZero_parts (s : State) (key n : Nat) : (memZero s key n).parts = s.parts := rfl
@[simp] theorem memZero_disposals (s : State) (key n : Nat) : (memZero s key n).disposals = s.disposals := rfl
@[simp] theorem memZero_pot (s : State) (key n : Nat) : (memZero s key n).pot = s.pot := rfl
@[simp] theorem memZero_trees (s : State) (key n : Nat) : (memZero s key n).trees = s.trees := rfl
@[simp] theorem memZero_nextTree (s : State) (key n : Nat) : (memZero s key n).nextTree = s.nextTree := rfl
@[simp] theorem memZero_groups (s : State) (key n : Nat) : (memZero s key n).groups = s.groups := rfl
@[simp] theorem memZero_tensors (s : State) (key n : Nat) : (memZero s key n).tensors = s.tensors := rfl
@[simp] theorem memZero_keySlots (s : State) (key n : Nat) : (memZero s key n).keySlots = s.keySlots := rfl
@[simp] theorem memZero_ports (s : State) (key n : Nat) : (memZero s key n).ports = s.ports := rfl
@[simp] theorem memZero_cxlPorts (s : State) (key n : Nat) : (memZero s key n).cxlPorts = s.cxlPorts := rfl
@[simp] theorem memZero_windows (s : State) (key n : Nat) : (memZero s key n).windows = s.windows := rfl
@[simp] theorem memZero_paired (s : State) (key n : Nat) : (memZero s key n).paired = s.paired := rfl
@[simp] theorem memZero_unverified (s : State) (key n : Nat) : (memZero s key n).unverified = s.unverified := rfl
@[simp] theorem memZero_quarantined (s : State) (key n : Nat) : (memZero s key n).quarantined = s.quarantined := rfl
@[simp] theorem memZero_ranges (s : State) (key n : Nat) : (memZero s key n).ranges = s.ranges := rfl
@[simp] theorem memZero_cisternWrites (s : State) (key n : Nat) : (memZero s key n).cisternWrites = s.cisternWrites := rfl
@[simp] theorem memZero_refresh (s : State) (key n : Nat) : (memZero s key n).refresh = s.refresh := rfl
@[simp] theorem memZero_saved (s : State) (key n : Nat) : (memZero s key n).saved = s.saved := rfl
@[simp] theorem memZero_reopen (s : State) (key n : Nat) : (memZero s key n).reopen = s.reopen := rfl
@[simp] theorem memZero_nextSerial (s : State) (key n : Nat) : (memZero s key n).nextSerial = s.nextSerial := rfl
@[simp] theorem memZero_liveSerials (s : State) (key n : Nat) : (memZero s key n).liveSerials = s.liveSerials := rfl
@[simp] theorem memZero_exports (s : State) (key n : Nat) : (memZero s key n).exports = s.exports := rfl
@[simp] theorem memZero_importNonces (s : State) (key n : Nat) : (memZero s key n).importNonces = s.importNonces := rfl
@[simp] theorem memZero_lifecycle (s : State) (key n : Nat) : (memZero s key n).lifecycle = s.lifecycle := rfl
@[simp] theorem memZero_fuses (s : State) (key n : Nat) : (memZero s key n).fuses = s.fuses := rfl
@[simp] theorem memZero_measures (s : State) (key n : Nat) : (memZero s key n).measures = s.measures := rfl
@[simp] theorem memZero_challenge (s : State) (key n : Nat) : (memZero s key n).challenge = s.challenge := rfl
@[simp] theorem memZero_unlock (s : State) (key n : Nat) : (memZero s key n).unlock = s.unlock := rfl
@[simp] theorem memZero_debugOpen (s : State) (key n : Nat) : (memZero s key n).debugOpen = s.debugOpen := rfl
@[simp] theorem memZero_debugNotices (s : State) (key n : Nat) : (memZero s key n).debugNotices = s.debugNotices := rfl
@[simp] theorem memZero_lost (s : State) (key n : Nat) : (memZero s key n).lost = s.lost := rfl
@[simp] theorem memZero_rollback (s : State) (key n : Nat) : (memZero s key n).rollback = s.rollback := rfl
@[simp] theorem memZero_staged (s : State) (key n : Nat) : (memZero s key n).staged = s.staged := rfl
@[simp] theorem memZero_firmware (s : State) (key n : Nat) : (memZero s key n).firmware = s.firmware := rfl
@[simp] theorem memZero_powerLimit (s : State) (key n : Nat) : (memZero s key n).powerLimit = s.powerLimit := rfl
@[simp] theorem memZero_quota (s : State) (key n : Nat) : (memZero s key n).quota = s.quota := rfl
@[simp] theorem memZero_log (s : State) (key n : Nat) : (memZero s key n).log = s.log := rfl
@[simp] theorem memZero_spdm (s : State) (key n : Nat) : (memZero s key n).spdm = s.spdm := rfl
@[simp] theorem memZero_nextTag (s : State) (key n : Nat) : (memZero s key n).nextTag = s.nextTag := rfl
@[simp] theorem memZero_moduleId (s : State) (key n : Nat) : (memZero s key n).moduleId = s.moduleId := rfl

@[simp] theorem logEvent_cur (s : State) (e p n : Nat) : (s.logEvent e p n).cur = s.cur := rfl
@[simp] theorem logEvent_insn (s : State) (e p n : Nat) : (s.logEvent e p n).insn = s.insn := rfl
@[simp] theorem logEvent_ctl (s : State) (e p n : Nat) : (s.logEvent e p n).ctl = s.ctl := rfl
@[simp] theorem logEvent_agenda (s : State) (e p n : Nat) : (s.logEvent e p n).agenda = s.agenda := rfl
@[simp] theorem logEvent_turn (s : State) (e p n : Nat) : (s.logEvent e p n).turn = s.turn := rfl
@[simp] theorem logEvent_pair (s : State) (e p n : Nat) : (s.logEvent e p n).pair = s.pair := rfl
@[simp] theorem logEvent_next (s : State) (e p n : Nat) : (s.logEvent e p n).next = s.next := rfl
@[simp] theorem logEvent_free (s : State) (e p n : Nat) : (s.logEvent e p n).free = s.free := rfl
@[simp] theorem logEvent_cores (s : State) (e p n : Nat) : (s.logEvent e p n).cores = s.cores := rfl
@[simp] theorem logEvent_slices (s : State) (e p n : Nat) : (s.logEvent e p n).slices = s.slices := rfl
@[simp] theorem logEvent_parts (s : State) (e p n : Nat) : (s.logEvent e p n).parts = s.parts := rfl
@[simp] theorem logEvent_mem (s : State) (e p n : Nat) : (s.logEvent e p n).mem = s.mem := rfl
@[simp] theorem logEvent_memPoison (s : State) (e p n : Nat) : (s.logEvent e p n).memPoison = s.memPoison := rfl
@[simp] theorem logEvent_disposals (s : State) (e p n : Nat) : (s.logEvent e p n).disposals = s.disposals := rfl
@[simp] theorem logEvent_pot (s : State) (e p n : Nat) : (s.logEvent e p n).pot = s.pot := rfl
@[simp] theorem logEvent_trees (s : State) (e p n : Nat) : (s.logEvent e p n).trees = s.trees := rfl
@[simp] theorem logEvent_nextTree (s : State) (e p n : Nat) : (s.logEvent e p n).nextTree = s.nextTree := rfl
@[simp] theorem logEvent_groups (s : State) (e p n : Nat) : (s.logEvent e p n).groups = s.groups := rfl
@[simp] theorem logEvent_tensors (s : State) (e p n : Nat) : (s.logEvent e p n).tensors = s.tensors := rfl
@[simp] theorem logEvent_keySlots (s : State) (e p n : Nat) : (s.logEvent e p n).keySlots = s.keySlots := rfl
@[simp] theorem logEvent_ports (s : State) (e p n : Nat) : (s.logEvent e p n).ports = s.ports := rfl
@[simp] theorem logEvent_cxlPorts (s : State) (e p n : Nat) : (s.logEvent e p n).cxlPorts = s.cxlPorts := rfl
@[simp] theorem logEvent_windows (s : State) (e p n : Nat) : (s.logEvent e p n).windows = s.windows := rfl
@[simp] theorem logEvent_paired (s : State) (e p n : Nat) : (s.logEvent e p n).paired = s.paired := rfl
@[simp] theorem logEvent_unverified (s : State) (e p n : Nat) : (s.logEvent e p n).unverified = s.unverified := rfl
@[simp] theorem logEvent_quarantined (s : State) (e p n : Nat) : (s.logEvent e p n).quarantined = s.quarantined := rfl
@[simp] theorem logEvent_ranges (s : State) (e p n : Nat) : (s.logEvent e p n).ranges = s.ranges := rfl
@[simp] theorem logEvent_cisternWrites (s : State) (e p n : Nat) : (s.logEvent e p n).cisternWrites = s.cisternWrites := rfl
@[simp] theorem logEvent_refresh (s : State) (e p n : Nat) : (s.logEvent e p n).refresh = s.refresh := rfl
@[simp] theorem logEvent_saved (s : State) (e p n : Nat) : (s.logEvent e p n).saved = s.saved := rfl
@[simp] theorem logEvent_reopen (s : State) (e p n : Nat) : (s.logEvent e p n).reopen = s.reopen := rfl
@[simp] theorem logEvent_nextSerial (s : State) (e p n : Nat) : (s.logEvent e p n).nextSerial = s.nextSerial := rfl
@[simp] theorem logEvent_liveSerials (s : State) (e p n : Nat) : (s.logEvent e p n).liveSerials = s.liveSerials := rfl
@[simp] theorem logEvent_exports (s : State) (e p n : Nat) : (s.logEvent e p n).exports = s.exports := rfl
@[simp] theorem logEvent_importNonces (s : State) (e p n : Nat) : (s.logEvent e p n).importNonces = s.importNonces := rfl
@[simp] theorem logEvent_lifecycle (s : State) (e p n : Nat) : (s.logEvent e p n).lifecycle = s.lifecycle := rfl
@[simp] theorem logEvent_fuses (s : State) (e p n : Nat) : (s.logEvent e p n).fuses = s.fuses := rfl
@[simp] theorem logEvent_measures (s : State) (e p n : Nat) : (s.logEvent e p n).measures = s.measures := rfl
@[simp] theorem logEvent_challenge (s : State) (e p n : Nat) : (s.logEvent e p n).challenge = s.challenge := rfl
@[simp] theorem logEvent_unlock (s : State) (e p n : Nat) : (s.logEvent e p n).unlock = s.unlock := rfl
@[simp] theorem logEvent_debugOpen (s : State) (e p n : Nat) : (s.logEvent e p n).debugOpen = s.debugOpen := rfl
@[simp] theorem logEvent_debugNotices (s : State) (e p n : Nat) : (s.logEvent e p n).debugNotices = s.debugNotices := rfl
@[simp] theorem logEvent_lost (s : State) (e p n : Nat) : (s.logEvent e p n).lost = s.lost := rfl
@[simp] theorem logEvent_rollback (s : State) (e p n : Nat) : (s.logEvent e p n).rollback = s.rollback := rfl
@[simp] theorem logEvent_staged (s : State) (e p n : Nat) : (s.logEvent e p n).staged = s.staged := rfl
@[simp] theorem logEvent_firmware (s : State) (e p n : Nat) : (s.logEvent e p n).firmware = s.firmware := rfl
@[simp] theorem logEvent_powerLimit (s : State) (e p n : Nat) : (s.logEvent e p n).powerLimit = s.powerLimit := rfl
@[simp] theorem logEvent_quota (s : State) (e p n : Nat) : (s.logEvent e p n).quota = s.quota := rfl
@[simp] theorem logEvent_spdm (s : State) (e p n : Nat) : (s.logEvent e p n).spdm = s.spdm := rfl
@[simp] theorem logEvent_nextTag (s : State) (e p n : Nat) : (s.logEvent e p n).nextTag = s.nextTag := rfl
@[simp] theorem logEvent_moduleId (s : State) (e p n : Nat) : (s.logEvent e p n).moduleId = s.moduleId := rfl

@[simp] theorem setCore_cores (s : State) (k : Nat) (c : Core) : (s.setCore k c).cores = AMap.put s.cores k c := rfl
@[simp] theorem modSlice_slices (s : State) (n : Nat) (f : Slice → Slice) : (s.modSlice n f).slices = AMap.put s.slices n (f (sliceAt s n)) := rfl
@[simp] theorem modPart_parts (s : State) (p : Nat) (f : Partition → Partition) : (s.modPart p f).parts = AMap.put s.parts p (f (partAt s p)) := rfl
@[simp] theorem memPut_mem (s : State) (key : Nat) (bs : List Byte) : (memPut s key bs).mem = cellsWrite s.mem key bs := rfl
@[simp] theorem memZero_mem (s : State) (key n : Nat) : (memZero s key n).mem = cellsClear s.mem key n := rfl

end Sys2Proof.Machine
end

