-- ==== Sys2Proof/Laws/Memory.lean ====
section
/-! SUPPORT. Sys2Proof/Laws/Memory.lean: the laws of sparse maps and of memory cells: read after write, and the canonical form that
every memory operation keeps. -/

namespace Sys2Proof.Machine

/-! ## Maps -/

theorem AMap.get?_put {α : Type} (m : AMap α) (n k : Nat) (a : α) : AMap.get? (AMap.put m n a) k = if n = k then some a else AMap.get? m k := by
  induction m with
  | nil => simp [AMap.put, AMap.get?]
  | cons h t ih =>
    obtain ⟨j, v⟩ := h
    simp only [AMap.put]
    split
    · simp [AMap.get?]
    · split
      · subst_vars; simp only [AMap.get?]; split <;> rfl
      · simp only [AMap.get?, ih]
        split
        · subst_vars; rw [if_neg (by assumption)]
        · rfl

@[simp] theorem AMap.get?_put_self {α : Type} (m : AMap α) (n : Nat) (a : α) : AMap.get? (AMap.put m n a) n = some a := by simp [AMap.get?_put]

theorem AMap.get?_put_ne {α : Type} (m : AMap α) {n k : Nat} (a : α) (h : n ≠ k) : AMap.get? (AMap.put m n a) k = AMap.get? m k := by
  simp [AMap.get?_put, h]

theorem AMap.get?_del {α : Type} (m : AMap α) (n k : Nat) : AMap.get? (AMap.del m n) k = if n = k then none else AMap.get? m k := by
  induction m with
  | nil => simp [AMap.del, AMap.get?]
  | cons p t ih =>
    obtain ⟨j, v⟩ := p
    unfold AMap.del at ih ⊢
    by_cases hjn : j = n <;> by_cases hjk : j = k <;> by_cases hnk : n = k <;> simp_all [AMap.get?]

/-- A register or cell written reads back, whether the value is listed or not; every other reads as before. -/
theorem AMap.getD_putD {α : Type} [DecidableEq α] (m : AMap α) (n k : Nat) (a d : α) :
    AMap.getD (AMap.putD m n a d) k d = if n = k then a else AMap.getD m k d := by
  unfold AMap.putD AMap.getD
  split
  · subst_vars; rw [AMap.get?_del]; split <;> simp
  · rw [AMap.get?_put]; split <;> simp

theorem AMap.get?_modify {α : Type} (m : AMap α) (n k : Nat) (f : α → α) :
    AMap.get? (AMap.modify m n f) k = (AMap.get? m k).map fun v => if k = n then f v else v := by
  induction m with
  | nil => rfl
  | cons p t ih =>
    obtain ⟨j, v⟩ := p
    unfold AMap.modify at ih ⊢
    by_cases hjn : j = n <;> by_cases hjk : j = k <;> simp_all [AMap.get?]

@[simp] theorem coreAt_setCore (s : State) (k : Nat) (c : Core) : coreAt (s.setCore k c) k = c := by simp [coreAt, State.setCore, AMap.getD]

theorem coreAt_setCore_ne (s : State) {k j : Nat} (c : Core) (h : k ≠ j) : coreAt (s.setCore k c) j = coreAt s j := by
  simp [coreAt, State.setCore, AMap.getD, AMap.get?_put_ne _ _ h]

@[simp] theorem coreAt_modCore (s : State) (k : Nat) (f : Core → Core) : coreAt (s.modCore k f) k = f (coreAt s k) := by simp [State.modCore]

theorem coreAt_modCore_ne (s : State) {k j : Nat} (f : Core → Core) (h : k ≠ j) : coreAt (s.modCore k f) j = coreAt s j := coreAt_setCore_ne s _ h

@[simp] theorem sliceAt_modSlice (s : State) (n : Nat) (f : Slice → Slice) : sliceAt (s.modSlice n f) n = f (sliceAt s n) := by
  simp [sliceAt, State.modSlice, AMap.getD]

theorem sliceAt_modSlice_ne (s : State) {n m : Nat} (f : Slice → Slice) (h : n ≠ m) : sliceAt (s.modSlice n f) m = sliceAt s m := by
  simp [sliceAt, State.modSlice, AMap.getD, AMap.get?_put_ne _ _ h]

@[simp] theorem partAt_modPart (s : State) (p : Nat) (f : Partition → Partition) : partAt (s.modPart p f) p = f (partAt s p) := by
  simp [partAt, State.modPart, AMap.getD]

@[simp] theorem sliceAt_modCore (s : State) (k n : Nat) (f : Core → Core) : sliceAt (s.modCore k f) n = sliceAt s n := rfl
@[simp] theorem partAt_modCore (s : State) (k p : Nat) (f : Core → Core) : partAt (s.modCore k f) p = partAt s p := rfl
@[simp] theorem coreAt_modSlice (s : State) (n k : Nat) (f : Slice → Slice) : coreAt (s.modSlice n f) k = coreAt s k := rfl
@[simp] theorem coreAt_modPart (s : State) (p k : Nat) (f : Partition → Partition) : coreAt (s.modPart p f) k = coreAt s k := rfl
@[simp] theorem partAt_modSlice (s : State) (n p : Nat) (f : Slice → Slice) : partAt (s.modSlice n f) p = partAt s p := rfl
@[simp] theorem sliceAt_modPart (s : State) (p n : Nat) (f : Partition → Partition) : sliceAt (s.modPart p f) n = sliceAt s n := rfl

theorem warpAt_modWarp (s : State) (k w v : Nat) (f : Warp → Warp) :
    warpAt (s.modWarp k w f) k v = (warpAt s k v).map fun wp => if v = w then f wp else wp := by
  simp [warpAt, State.modWarp, AMap.get?_modify]

theorem gangAt_modGang (s : State) (k w g : Nat) (f : Gang → Gang) : gangAt (s.modGang k w g f) k w g = (gangAt s k w g).map f := by
  simp only [gangAt, State.modGang, warpAt_modWarp]
  cases warpAt s k w <;> simp [AMap.get?_modify]

/-! ## The canonical form -/

/-- Every address of the list is above a bound. -/
theorem cellsRise_cons {a : Nat} {b : Byte} {m : List Host.Cell} :
    cellsRise ((a, b) :: m) = true ↔ (∀ p ∈ m, a < p.1) ∧ cellsRise m = true := by
  induction m generalizing a b with
  | nil => simp [cellsRise]
  | cons h t ih =>
    obtain ⟨c, d⟩ := h
    have := @ih c d
    simp only [cellsRise, Bool.and_eq_true, decide_eq_true_eq]
    constructor
    · rintro ⟨h1, h2⟩
      refine ⟨?_, h2⟩
      intro p hp
      rcases List.mem_cons.mp hp with rfl | hp
      · exact h1
      · exact Nat.lt_trans h1 ((this.mp h2).1 p hp)
    · rintro ⟨h1, h2⟩
      exact ⟨h1 (c, d) (by simp), h2⟩

theorem Memory.wf_cons {a : Nat} {b : Byte} {m : List Host.Cell} :
    Memory.wf ((a, b) :: m) = true ↔ (∀ p ∈ m, a < p.1) ∧ b ≠ 0 ∧ Memory.wf m = true := by
  simp only [Memory.wf, Bool.and_eq_true, cellsRise_cons, List.all_cons, decide_eq_true_eq]
  tauto

theorem mem_put_fst {m : List Host.Cell} {n : Nat} {a : Byte} {p : Host.Cell} (h : p ∈ AMap.put m n a) : p.1 = n ∨ p ∈ m := by
  induction m with
  | nil => simp_all [AMap.put]
  | cons q t ih =>
    obtain ⟨k, v⟩ := q
    simp only [AMap.put] at h
    split at h
    · simp at h; rcases h with rfl | rfl | h <;> simp_all
    · split at h
      · simp at h; rcases h with rfl | h <;> simp_all
      · simp at h; rcases h with rfl | h
        · simp
        · rcases ih h with h | h <;> simp_all

theorem wf_put {m : List Host.Cell} (h : Memory.wf m = true) (n : Nat) {a : Byte} (ha : a ≠ 0) : Memory.wf (AMap.put m n a) = true := by
  induction m with
  | nil => exact Memory.wf_cons.mpr ⟨by simp, ha, rfl⟩
  | cons q t ih =>
    obtain ⟨k, v⟩ := q
    obtain ⟨h1, h2, h3⟩ := Memory.wf_cons.mp h
    simp only [AMap.put]
    split
    · rename_i hk
      refine Memory.wf_cons.mpr ⟨?_, ha, h⟩
      intro p hp
      rcases List.mem_cons.mp hp with rfl | hp
      · exact hk
      · exact Nat.lt_trans hk (h1 p hp)
    · split
      · subst_vars; exact Memory.wf_cons.mpr ⟨h1, ha, h3⟩
      · refine Memory.wf_cons.mpr ⟨?_, h2, ih h3⟩
        intro p hp
        rcases mem_put_fst hp with h | h
        · omega
        · exact h1 p h

theorem wf_filter {m : List Host.Cell} (h : Memory.wf m = true) (f : Host.Cell → Bool) : Memory.wf (m.filter f) = true := by
  induction m with
  | nil => exact h
  | cons q t ih =>
    obtain ⟨k, v⟩ := q
    obtain ⟨h1, h2, h3⟩ := Memory.wf_cons.mp h
    simp only [List.filter_cons]
    split
    · exact Memory.wf_cons.mpr ⟨fun p hp => h1 p (List.mem_filter.mp hp).1, h2, ih h3⟩
    · exact ih h3

theorem wf_del {m : List Host.Cell} (h : Memory.wf m = true) (n : Nat) : Memory.wf (AMap.del m n) = true := wf_filter h _

/-- Writing one byte keeps the canonical form. -/
theorem wf_cellWrite {m : List Host.Cell} (h : Memory.wf m = true) (a : Nat) (b : Byte) : Memory.wf (cellWrite m a b) = true := by
  unfold cellWrite AMap.putD
  split
  · exact wf_del h a
  · exact wf_put h a (by assumption)

/-- Writing bytes keeps the canonical form. -/
theorem wf_cellsWrite {m : List Host.Cell} (h : Memory.wf m = true) (a : Nat) (bs : List Byte) : Memory.wf (cellsWrite m a bs) = true := by
  induction bs generalizing m a with
  | nil => exact h
  | cons b bs ih => exact ih (wf_cellWrite h a b) (a + 1)

/-- Zeroing a range keeps the canonical form. -/
theorem wf_cellsClear {m : List Host.Cell} (h : Memory.wf m = true) (a n : Nat) : Memory.wf (cellsClear m a n) = true := wf_filter h _

theorem wf_memPut {s : State} (h : Memory.wf s.mem = true) (key : Nat) (bs : List Byte) : Memory.wf (memPut s key bs).mem = true := wf_cellsWrite h key bs

theorem wf_memPutNat {s : State} (h : Memory.wf s.mem = true) (key n v : Nat) : Memory.wf (memPutNat s key n v).mem = true := wf_memPut h key _

theorem wf_memZero {s : State} (h : Memory.wf s.mem = true) (key n : Nat) : Memory.wf (memZero s key n).mem = true := wf_cellsClear h key n

/-! ## Read after write -/

/-- One byte written reads back; every other byte reads as before. -/
theorem cellRead_cellWrite (m : List Host.Cell) (a k : Nat) (b : Byte) :
    cellRead (cellWrite m a b) k = if a = k then b else cellRead m k := AMap.getD_putD m a k b 0

/-- Filtering a map by its keys. -/
theorem AMap.get?_filter_key {α : Type} (m : AMap α) (p : Nat → Bool) (k : Nat) :
    AMap.get? (m.filter fun q => p q.1) k = if p k then AMap.get? m k else none := by
  induction m with
  | nil => simp [AMap.get?]
  | cons q m ih =>
    obtain ⟨a, v⟩ := q
    by_cases h : p a = true
    · simp only [List.filter_cons, h, if_true, AMap.get?, ih]
      by_cases hk : a = k
      · subst hk; simp [h]
      · simp [hk]
    · simp only [List.filter_cons, h, if_false, Bool.false_eq_true, AMap.get?, ih]
      by_cases hk : a = k
      · subst hk; simp [h]
      · simp [hk]

/-- A cleared range reads zero; every other byte reads as before. -/
theorem cellRead_cellsClear (m : List Host.Cell) (a n k : Nat) :
    cellRead (cellsClear m a n) k = if a ≤ k ∧ k < a + n then 0 else cellRead m k := by
  have := AMap.get?_filter_key m (fun i => !(decide (a ≤ i) && decide (i < a + n))) k
  simp only [cellRead, AMap.getD, cellsClear, this]
  by_cases h1 : a ≤ k <;> by_cases h2 : k < a + n <;> simp [h1, h2]

/-- Bytes written read back; every byte outside them reads as before. -/
theorem cellRead_cellsWrite (m : List Host.Cell) (a k : Nat) (bs : List Byte) :
    cellRead (cellsWrite m a bs) k = if a ≤ k ∧ k < a + bs.length then bs.getD (k - a) 0 else cellRead m k := by
  induction bs generalizing m a with
  | nil =>
    have h1 : ¬ (a ≤ k ∧ k < a + ([] : List Byte).length) := by simp
    rw [if_neg h1]; rfl
  | cons b bs ih =>
    simp only [cellsWrite, ih, cellRead_cellWrite, List.length_cons]
    by_cases h1 : a = k
    · subst h1
      have h2 : ¬ (a + 1 ≤ a ∧ a < a + 1 + bs.length) := by omega
      have h3 : a ≤ a ∧ a < a + (bs.length + 1) := by omega
      simp [h3]
    · by_cases h2 : a + 1 ≤ k ∧ k < a + 1 + bs.length
      · have h3 : a ≤ k ∧ k < a + (bs.length + 1) := by omega
        have h4 : k - a = (k - (a + 1)) + 1 := by omega
        rw [if_pos h2, if_pos h3, h4]; simp
      · have h3 : ¬ (a ≤ k ∧ k < a + (bs.length + 1)) := by omega
        rw [if_neg h2, if_neg h1, if_neg h3]

theorem length_natLe (n v : Nat) : (natLe n v).length = n := by
  induction n generalizing v with
  | zero => rfl
  | succ n ih => simp [natLe, ih]

theorem leNat_natLe (n v : Nat) : leNat (natLe n v) = v % 2 ^ (8 * n) := by
  induction n generalizing v with
  | zero => simp [natLe, leNat, Nat.mod_one]
  | succ n ih =>
    simp only [natLe, leNat, ih, BitVec.toNat_ofNat]
    rw [show 8 * (n + 1) = 8 + 8 * n by ring, Nat.pow_add, Nat.mod_mul]

/-- Bytes written read back as a list. -/
theorem cellsRead_cellsWrite (m : List Host.Cell) (a : Nat) (bs : List Byte) : cellsRead (cellsWrite m a bs) a bs.length = bs := by
  have h : ∀ (n i : Nat), i + n = bs.length → cellsRead (cellsWrite m a bs) (a + i) n = bs.drop i := by
    intro n
    induction n with
    | zero => intro i h; rw [List.drop_of_length_le (by omega)]; rfl
    | succ n ih =>
      intro i h
      have hi : i < bs.length := by omega
      rw [cellsRead, cellRead_cellsWrite, if_pos (by omega), Nat.add_assoc, ih (i + 1) (by omega), List.drop_eq_getElem_cons hi]
      simp [List.getD, hi]
  simpa using h bs.length 0 (by omega)

/-- A number stored reads back, little-endian (R11). -/
theorem cellsNat_cellsWrite (m : List Host.Cell) (a n v : Nat) : cellsNat (cellsWrite m a (natLe n v)) a n = v % 2 ^ (8 * n) := by
  have h := cellsRead_cellsWrite m a (natLe n v)
  rw [length_natLe] at h
  rw [cellsNat, h, leNat_natLe]

/-- A scalar register written reads back; the others read as before. -/
theorem sreg_setS (wp : Warp) (n m : Nat) (v : Word) : (wp.setS n v).sreg m = if n = m then v else wp.sreg m := AMap.getD_putD _ _ _ _ _

@[simp] theorem setS_gangs (wp : Warp) (n : Nat) (v : Word) : (wp.setS n v).gangs = wp.gangs := rfl

end Sys2Proof.Machine
end

