-- ==== Sys2Proof/Laws/Retire.lean ====
section
/-! SUPPORT. Sys2Proof/Laws/Retire.lean: the shared checks pass when an instruction issues normally; retiring an instruction, and beginning
to wait in one, change no more than Advanced says. -/

namespace Sys2Proof.Machine

open Sys2Proof.Safety

theorem gangAt_modGang' (s : State) (k w g v h : Nat) (f : Gang → Gang) :
    gangAt (s.modGang k w g f) k v h = (gangAt s k v h).map fun gn => if v = w ∧ h = g then f gn else gn := by
  simp only [gangAt, State.modGang, warpAt_modWarp]
  cases warpAt s k v with
  | none => simp
  | some wp => by_cases hv : v = w <;> by_cases hh : h = g <;> simp [hv, hh, AMap.get?_modify]

theorem ageLatch_gangs (wp : Warp) (m : Mask) : (wp.ageLatch m).gangs = wp.gangs := rfl

theorem foldl_push {P : Warp → Prop} (hP : ∀ wp l v, P wp → P (Warp.push wp l v)) (ls : List Nat) (v : Nat → Word) {wp : Warp} (h : P wp) :
    P (ls.foldl (fun wp l => wp.push l (v l)) wp) := by
  induction ls generalizing wp with
  | nil => exact h
  | cons l ls ih => exact ih (hP wp l (v l) h)

theorem holdPush_keeps (x : Ctx) (f : Form) (r : Nat → Word) (wp : Warp) :
    (holdPush x f r wp).gangs = wp.gangs ∧ shell (holdPush x f r wp) = shell wp := by
  have hP : ∀ (w0 : Warp) (l : Nat) (v : Word), (w0.gangs = wp.gangs ∧ shell w0 = shell wp) →
      ((w0.push l v).gangs = wp.gangs ∧ shell (w0.push l v) = shell wp) := fun _ _ _ h => h
  unfold holdPush
  split
  · exact ⟨rfl, rfl⟩
  · exact foldl_push (P := fun w0 => w0.gangs = wp.gangs ∧ shell w0 = shell wp) hP _ _ ⟨rfl, rfl⟩
  · exact foldl_push (P := fun w0 => w0.gangs = wp.gangs ∧ shell w0 = shell wp) hP _ _ ⟨rfl, rfl⟩
  · exact foldl_push (P := fun w0 => w0.gangs = wp.gangs ∧ shell w0 = shell wp) hP _ _ ⟨rfl, rfl⟩

/-- Every check of R38 passes when the instruction issues normally. -/
theorem check_of_issues {x : Ctx} {f : Form} (h : Issues x f) : check x f = .ok () := by
  simp [check, need, h.frame, h.profile, h.early, h.operands, h.latch, h.bound, h.index, h.typed, h.edge, h.stall, h.ready, h.clean, bind, Except.bind]

/-- The checks of an access pass when the instruction issues normally. -/
theorem checkMem_of_issues {x : Ctx} {f : Form} (h : Issues x f) (va : Nat → DWord) : checkMem x f va = .ok () := by
  rw [checkMem, check_of_issues h]

/-- The three updates of an issue: the core's record, the warp's latches, the gang. -/
def issueUpdates (x : Ctx) (f : Form) (s : State) (y : Bool) (fw : Warp → Warp) (fg : Gang → Gang) : State :=
  ((s.modCore x.k fun c => c.issuedBy x f y).modWarp x.k x.w fw).modGang x.k x.w x.g fg

theorem warpAt_modCore (s : State) (k : Nat) (f : Core → Core) (w : Nat) (h : (f (coreAt s k)).warps = (coreAt s k).warps) :
    warpAt (s.modCore k f) k w = warpAt s k w := by simp [warpAt, h]

theorem bare_modWarp (s : State) (k w : Nat) (f : Warp → Warp) : bare (coreAt (s.modWarp k w f) k) = bare (coreAt s k) := by
  simp [State.modWarp, bare]

/-- The record of an issue touches no warp. -/
theorem issuedBy_warps (c : Core) (x : Ctx) (f : Form) (y : Bool) : (c.issuedBy x f y).warps = c.warps := by
  unfold Core.issuedBy Core.occupy
  dsimp only
  split <;> split <;> rfl

theorem bare_issuedBy (c : Core) (x : Ctx) (f : Form) (y : Bool) : bare (c.issuedBy x f y) = bare c := by
  unfold Core.issuedBy Core.occupy
  dsimp only
  split <;> split <;> rfl

/-- The warp after an issue has the gangs and all else that it had. -/
theorem warp_issuedBy (wp : Warp) (x : Ctx) (f : Form) (r : Nat → Word) :
    (wp.issuedBy x f r).gangs = wp.gangs ∧ shell (wp.issuedBy x f r) = shell wp := by
  obtain ⟨h1, h2⟩ := holdPush_keeps x f r (wp.ageLatch x.gn.mask)
  exact ⟨h1, h2⟩

theorem advanced_issueUpdates (x : Ctx) (f : Form) (s : State) (y : Bool) (fw : Warp → Warp) (fg : Gang → Gang) (pc : DWord)
    (hg : ∀ wp, (fw wp).gangs = wp.gangs) (hs : ∀ wp, shell (fw wp) = shell wp) (hl : ∀ gn, lasting (fg gn) = lasting gn)
    (hp : ∀ gn, gangAt s x.k x.w x.g = some gn → (fg gn).pc = pc) : Advanced x s (issueUpdates x f s y fw fg) pc := by
  have hw : ∀ w, warpAt (s.modCore x.k fun c => c.issuedBy x f y) x.k w = warpAt s x.k w := fun w => warpAt_modCore s x.k _ w (issuedBy_warps _ _ _ _)
  have hga : ∀ g, gangAt ((s.modCore x.k fun c => c.issuedBy x f y).modWarp x.k x.w fw) x.k x.w g = gangAt s x.k x.w g := by
    intro g
    simp only [gangAt, warpAt_modWarp, hw]
    cases warpAt s x.k x.w with
    | none => rfl
    | some wp => simp [hg]
  refine ⟨rfl, ?_, ?_, ?_, ?_, ?_, ?_, ?_⟩
  · intro k hk
    simp only [issueUpdates, State.modGang, State.modWarp]
    rw [coreAt_modCore_ne _ _ (Ne.symm hk), coreAt_modCore_ne _ _ (Ne.symm hk), coreAt_modCore_ne _ _ (Ne.symm hk)]
  · simp only [issueUpdates, State.modGang]
    rw [bare_modWarp, bare_modWarp]
    rw [coreAt_modCore]
    simp only [bare_issuedBy]
  · intro w h
    simp only [issueUpdates, State.modGang, warpAt_modWarp, hw, Option.map_map]
    cases warpAt s x.k w with
    | none => rfl
    | some wp => simp [h]
  · simp only [issueUpdates, State.modGang, warpAt_modWarp, hw, Option.map_map]
    cases warpAt s x.k x.w with
    | none => rfl
    | some wp => simp; exact hs wp
  · intro g h
    simp only [issueUpdates, gangAt_modGang', hga]
    cases gangAt s x.k x.w g <;> simp [h]
  · simp only [issueUpdates, gangAt_modGang', hga, Option.map_map]
    cases gangAt s x.k x.w x.g <;> simp [hl]
  · intro gn h
    simp only [issueUpdates, gangAt_modGang', hga] at h
    cases hq : gangAt s x.k x.w x.g with
    | none => simp [hq] at h
    | some g0 => simp [hq] at h; subst h; exact hp g0 hq

theorem noStep_of_running {x : Ctx} (h : x.gn.stepping = false) : x.noStep = x := by
  simp only [Ctx.noStep]; rw [← h]

theorem endStep_of_running {x : Ctx} (h : x.gn.stepping = false) (s : State) : endStep x s = s := by simp [endStep, h]

/-- Retiring an instruction in a state s, with no single step in progress. -/
theorem retireTo_advanced (x : Ctx) (f : Form) (s : State) (pc : DWord) (r : Nat → Word) (extra : Nat) (h : x.gn.stepping = false) :
    Advanced x s (retireTo x f s pc r extra) pc := by
  have e : retireTo x f s pc r extra = issueUpdates x f s (x.yieldBit || decide (0 < extra)) (fun wp => wp.issuedBy x f r)
      (fun gn => { gn.issued x f extra with pc := pc, inBundle := decide (slotNo pc ≠ 0) }) := by simp [retireTo, h, issueUpdates]
  rw [e]
  exact advanced_issueUpdates x f s _ _ _ pc (fun wp => (warp_issuedBy wp x f r).1) (fun wp => (warp_issuedBy wp x f r).2) (fun _ => rfl) (fun _ _ => rfl)

/-- An instruction that retires to the next slot. -/
theorem retire_answers {x : Ctx} (f : Form) (s : State) (r : Nat → Word) (h : x.gn.stepping = false) :
    Answers (.next (retire x f s r)) x s (nextSlot x.gn.pc) := ⟨_, rfl, retireTo_advanced x f s _ r 0 h⟩

/-- Beginning to wait in an instruction, in a state whose gang stands where it stood. -/
theorem beginWait_waits {x : Ctx} (f : Form) (s : State) (c : WaitCause) (h : ∀ gn, gangAt s x.k x.w x.g = some gn → gn.pc = x.gn.pc) :
    Waits (.next (beginWait x f s c)) x s c := by
  have e : beginWait x f s c = issueUpdates x f s x.yieldBit (fun wp => wp.issuedBy x { f with lat := 0 } fun _ => 0)
      (fun gn => { gn.issued x f with status := .waiting c, insn := x.s.insn, ctl := x.s.ctl }) := rfl
  refine ⟨_, rfl, ?_, ?_⟩
  · rw [e]
    exact advanced_issueUpdates x f s _ _ _ _ (fun wp => (warp_issuedBy wp x _ _).1) (fun wp => (warp_issuedBy wp x _ _).2) (fun _ => rfl) h
  · intro gn hg
    rw [e, issueUpdates, gangAt_modGang'] at hg
    cases hq : gangAt ((s.modCore x.k fun c => c.issuedBy x f x.yieldBit).modWarp x.k x.w fun wp => wp.issuedBy x { f with lat := 0 } fun _ => 0) x.k x.w x.g with
    | none => rw [hq] at hg; simp at hg
    | some g0 => rw [hq] at hg; simp at hg; subst hg; rfl

end Sys2Proof.Machine
end

