-- ==== Sys2Proof/Laws/Path.lean ====
section
/-! SUPPORT. Sys2Proof/Laws/Path.lean: what putting an access on a core's path leaves as it was: every warp apart from its counters, every gang,
every byte of memory. -/

namespace Sys2Proof.Machine

theorem coreAt_modCore' (s : State) (k j : Nat) (f : Core → Core) : coreAt (s.modCore k f) j = if j = k then f (coreAt s j) else coreAt s j := by
  by_cases h : j = k
  · subst h; simp
  · rw [if_neg h, coreAt_modCore_ne s f (Ne.symm h)]

/-- A change of a core that keeps its warps keeps every gang. -/
theorem gangAt_modCore {s : State} {k : Nat} {f : Core → Core} (h : (f (coreAt s k)).warps = (coreAt s k).warps) (j w g : Nat) :
    gangAt (s.modCore k f) j w g = gangAt s j w g := by
  simp only [gangAt, warpAt, coreAt_modCore']
  by_cases hj : j = k
  · subst hj; simp [h]
  · simp [hj]

/-- A change of a warp that keeps its gangs keeps every gang. -/
theorem gangAt_modWarp {s : State} {k w : Nat} {f : Warp → Warp} (h : ∀ wp, (f wp).gangs = wp.gangs) (j v g : Nat) :
    gangAt (s.modWarp k w f) j v g = gangAt s j v g := by
  by_cases hj : j = k
  · subst hj
    simp only [gangAt, warpAt_modWarp]
    cases warpAt s j v with
    | none => rfl
    | some wp => by_cases hv : v = w <;> simp [hv, h]
  · simp only [gangAt, warpAt, State.modWarp]
    rw [coreAt_modCore_ne _ _ (Ne.symm hj)]

theorem countUp_gangs (wp : Warp) (c : Counter) : (wp.countUp c).gangs = wp.gangs := by cases c <;> rfl

/-- Touching the L1 for the parts that hit keeps all but the L1. -/
theorem foldl_touch (did : BitVec 16) (ps : List LinePart) (c : Core) :
    let c' := ps.foldl (fun c p => if p.hits.isEmpty then c else l1Touch c did p.line) c
    c'.warps = c.warps ∧ c'.inflight = c.inflight ∧ c'.nextId = c.nextId ∧ c'.clk = c.clk := by
  induction ps generalizing c with
  | nil => exact ⟨rfl, rfl, rfl, rfl⟩
  | cons p ps ih =>
    simp only [List.foldl_cons]
    by_cases h : p.hits.isEmpty
    · simp only [h, if_true]; exact ih c
    · simp only [h]; exact ih (l1Touch c did p.line)

/-- Storing lanes through the L1 keeps the warps, the numbers of accesses, and their count. -/
theorem foldl_storeLane (did : BitVec 16) (ls : List LaneAcc) (c : Core) :
    let c' := ls.foldl (fun c la => storeLane c did la) c
    c'.warps = c.warps ∧ c'.nextId = c.nextId ∧ c'.inflight.length = c.inflight.length := by
  induction ls generalizing c with
  | nil => exact ⟨rfl, rfl, rfl⟩
  | cons l ls ih =>
    simp only [List.foldl_cons]
    obtain ⟨h1, h2, h3⟩ := ih (storeLane c did l)
    exact ⟨h1.trans rfl, h2.trans rfl, h3.trans (by simp [storeLane, l1Store])⟩

theorem markRead_cores (s : State) (t : Option Nat) (ks : List Nat) : (markRead s t ks).cores = s.cores ∧ (markRead s t ks).mem = s.mem := by
  cases t <;> exact ⟨rfl, rfl⟩

theorem markTensors_keeps (ks : List Nat) (s : State) : (markTensors s ks).cores = s.cores ∧ (markTensors s ks).mem = s.mem := by
  induction ks generalizing s with
  | nil => exact ⟨rfl, rfl⟩
  | cons k ks ih =>
    simp only [markTensors, List.foldl_cons] at ih ⊢
    split
    · exact ih s
    · exact ⟨(ih _).1.trans rfl, (ih _).2.trans rfl⟩

theorem gangAt_cores {s t : State} (h : t.cores = s.cores) (k w g : Nat) : gangAt t k w g = gangAt s k w g := by
  simp [gangAt, warpAt, coreAt, h]

theorem pushAccess_gangs (s : State) (k : Nat) (ac : Access) (j w g : Nat) : gangAt (pushAccess s k ac) j w g = gangAt s j w g := by
  simp only [pushAccess]
  rw [gangAt_modCore]
  · exact gangAt_cores rfl _ _ _
  · rfl

/-- An access on the path: the core's path is one longer. -/
theorem pushAccess_inflight (s : State) (k : Nat) (ac : Access) :
    ∃ parts lanes, (coreAt (pushAccess s k ac) k).inflight =
        (coreAt s k).inflight ++ [{ ac with id := (coreAt s k).nextId, born := (coreAt s k).clk, parts := parts, lanes := lanes }] ∧
      parts = (tagParts s ac.parts).1 ∧ (coreAt (pushAccess s k ac) k).nextId = (coreAt s k).nextId + 1 ∧ (pushAccess s k ac).mem = s.mem ∧
      (coreAt (pushAccess s k ac) k).warps = (coreAt s k).warps := by
  refine ⟨(tagParts s ac.parts).1, (if ac.parts.isEmpty then tagLanes s ac.lanes else (ac.lanes, (tagParts s ac.parts).2)).1, ?_, rfl, ?_, rfl, ?_⟩ <;>
  · simp only [pushAccess, coreAt_modCore]; rfl

/-- Numbering the requests keeps their lines. -/
theorem tagParts_lines (s : State) (ps : List LinePart) : (tagParts s ps).1.map LinePart.line = ps.map LinePart.line := by
  have h : ∀ (ps : List LinePart) (acc : List LinePart) (n : Nat),
      (ps.foldl (fun (q : List LinePart × Nat) p => (q.1 ++ [{ p with tag := tagFor q.2 p.line }], if paKind (128 * p.line) = 2 then q.2 + 1 else q.2)) (acc, n)).1.map LinePart.line
        = acc.map LinePart.line ++ ps.map LinePart.line := by
    intro ps
    induction ps with
    | nil => simp
    | cons p ps ih => intro acc n; simp [ih]
  exact (h ps [] s.nextTag).trans (by simp)

theorem startLoad_gangs (x : Ctx) (kind : AccKind) (dest : Dest) (lanes : List LaneAcc) (l1 : Bool) (hit : Option Nat) (k w g : Nat) :
    gangAt (startLoad x kind dest lanes l1 hit) k w g = gangAt x.s k w g := by
  simp only [startLoad]
  rw [pushAccess_gangs]
  have hc : ∀ t : State, t.cores = x.s.cores → ∀ ps : List LinePart,
      gangAt (t.modCore x.k fun c => ps.foldl (fun c p => if p.hits.isEmpty then c else l1Touch c x.did p.line) c) k w g = gangAt x.s k w g := by
    intro t ht ps
    rw [gangAt_modCore (foldl_touch x.did ps _).1]
    exact gangAt_cores ht _ _ _
  split
  · exact hc _ (markRead_cores _ _ _).1 _
  · rw [gangAt_modWarp (fun wp => countUp_gangs wp _)]
    exact hc _ (markRead_cores _ _ _).1 _

theorem startStore_gangs (x : Ctx) (lanes : List LaneAcc) (hit : Option Nat) (k w g : Nat) :
    gangAt (startStore x lanes hit) k w g = gangAt x.s k w g := by
  simp only [startStore]
  rw [pushAccess_gangs, gangAt_modWarp (fun wp => countUp_gangs wp _)]
  have hc : gangAt (x.s.modCore x.k fun c => lanes.foldl (fun c la => storeLane c x.did la) (overtake c x.w x.wp.age lanes)) k w g = gangAt x.s k w g :=
    gangAt_modCore ((foldl_storeLane x.did lanes _).1.trans rfl) _ _ _
  split
  · rw [gangAt_cores (markTensors_keeps _ _).1]; exact hc
  · exact hc

/-- The gang that the cursor names stands where its context says. -/
theorem ctxOf_some {s : State} {x : Ctx} (h : ctxOf s = some x) :
    x.s = s ∧ x.k = s.cur.core ∧ x.w = s.cur.w ∧ x.g = s.cur.g ∧ x.c = coreAt s x.k ∧ warpAt s x.k x.w = some x.wp ∧ gangAt s x.k x.w x.g = some x.gn := by
  simp only [ctxOf] at h
  split at h
  · cases h
  · rename_i wp hw
    split at h
    · cases h
    · rename_i gn hg
      cases h
      exact ⟨rfl, rfl, rfl, rfl, rfl, hw, by simp [gangAt, warpAt, hw, hg]⟩

theorem pc_of_ctx {s : State} {x : Ctx} (h : ctxOf s = some x) {t : State} (ht : gangAt t x.k x.w x.g = gangAt x.s x.k x.w x.g) :
    ∀ gn, gangAt t x.k x.w x.g = some gn → gn.pc = x.gn.pc := by
  obtain ⟨hs, -, -, -, -, -, hg⟩ := ctxOf_some h
  intro gn hgn
  rw [ht, hs, hg] at hgn
  cases hgn; rfl

/-- Writing a destination leaves a warp's gangs as they are. -/
theorem dstN_gangs (l : Nat) (r : Reg) (n x : Nat) (wp : Warp) : (wp.dstN l r n x).gangs = wp.gangs := by
  induction n generalizing wp r x with
  | zero => rfl
  | succ n ih =>
    simp only [Warp.dstN]
    split <;> exact ih _ x wp

theorem dstS_gangs (wp : Warp) (r : Reg) (n x : Nat) : (wp.dstS r n x).gangs = wp.gangs := dstN_gangs 0 r n x wp

/-- A gang that wakes and is not being single-stepped goes on at the next slot, once what is left of its stall count has run out. -/
theorem wake_gang {s : State} {k w g : Nat} {gn : Gang} (h : gangAt s k w g = some gn) (hs : gn.stepping = false) :
    (gangAt (wake s k w g) k w g).map (fun gn => (gn.pc, gn.status, gn.monitor)) = some (nextSlot gn.pc, gn.goOn.status, gn.monitor) := by
  simp only [wake, h, wakeTo, hs, Bool.false_and, Bool.false_eq_true, if_false, gangAt_modGang, Option.map_some]
  rfl

/-- Changing one engine queue of a core changes that queue alone. -/
theorem queueOf_modQueue (s : State) (k : Nat) (p q : EngineQueue) (f : List Command → List Command) :
    queueOf (s.modQueue k p f) k q = if p = q then f (queueOf s k q) else queueOf s k q := by
  cases p <;> cases q <;> simp [State.modQueue, queueOf]

/-! ## What a write at a home leaves of the path -/

/-- Two states with the same accesses on every core's path. -/
def SamePath (s t : State) : Prop := ∀ k, (coreAt t k).inflight = (coreAt s k).inflight

theorem SamePath.refl (s : State) : SamePath s s := fun _ => rfl
theorem SamePath.trans {s t u : State} (h : SamePath s t) (h' : SamePath t u) : SamePath s u := fun k => (h' k).trans (h k)

theorem samePath_modCore (s : State) (k : Nat) (f : Core → Core) (h : ∀ c, (f c).inflight = c.inflight) : SamePath s (s.modCore k f) := by
  intro j
  rw [coreAt_modCore']
  split
  · exact h _
  · rfl

theorem samePath_modWarp (s : State) (k w : Nat) (f : Warp → Warp) : SamePath s (s.modWarp k w f) := samePath_modCore s k _ fun _ => rfl
theorem samePath_modGang (s : State) (k w g : Nat) (f : Gang → Gang) : SamePath s (s.modGang k w g f) := samePath_modWarp s k w _

theorem samePath_foldl {α : Type} (f : State → α → State) (h : ∀ s a, SamePath s (f s a)) (l : List α) (s : State) : SamePath s (l.foldl f s) := by
  induction l generalizing s with
  | nil => exact .refl s
  | cons a l ih => exact (h s a).trans (ih _)

theorem samePath_fireIf (s : State) (p bit : Nat) : SamePath s (fireIf s p bit) := by
  unfold fireIf fireTrigger
  split
  · split
    · exact .refl s
    · refine SamePath.trans (t := s.modPart p fun pt => { pt with fired := true }) (fun _ => rfl) ?_
      refine samePath_foldl _ ?_ _ _
      intro s k
      exact samePath_modCore s k _ fun _ => rfl
  · exact .refl s

theorem samePath_publishAt (s : State) (slice part scope : Nat) (p : Publication) : SamePath s (publishAt s slice part scope p) := by
  unfold publishAt
  split <;> exact fun _ => rfl

theorem samePath_writeRecord (s : State) (k w : Nat) (d : Deferred) : SamePath s (writeRecord s k w d) := by
  unfold writeRecord
  split
  · exact .refl s
  · split
    · exact .refl s
    · refine SamePath.trans ?_ (samePath_modWarp _ _ _ _)
      exact fun _ => rfl

theorem samePath_trapCompute (s : State) (k w : Nat) (d : Deferred) : SamePath s (trapCompute s k w d) := by
  unfold trapCompute
  have h := (samePath_modGang s k w d.entry fun gn => { gn with trapped := true, stepping := false, status := gn.status.beforeHalt }).trans
    (samePath_fireIf _ (corePart (s.modGang k w d.entry fun gn => { gn with trapped := true, stepping := false, status := gn.status.beforeHalt }) k) 2)
  dsimp only
  split
  · exact h
  · split
    · exact h.trans (samePath_modWarp _ _ _ _)
    · exact h.trans (samePath_writeRecord _ _ _ _)

theorem samePath_wakeTo (s : State) (k w g : Nat) (pc : DWord) : SamePath s (wakeTo s k w g pc) := by
  unfold wakeTo
  split
  · exact .refl s
  · dsimp only
    split
    · exact (samePath_modGang s k w g _).trans (samePath_trapCompute _ _ _ _)
    · exact samePath_modGang s k w g _

theorem samePath_wake (s : State) (k w g : Nat) : SamePath s (wake s k w g) := by
  unfold wake
  split
  · exact .refl s
  · exact samePath_wakeTo _ _ _ _ _

theorem samePath_endSleep (s : State) (q : Cursor) (n : Nat) : SamePath s (endSleep s q n) := by
  unfold endSleep
  split
  · exact .refl s
  · split
    · exact ((samePath_modGang s _ _ _ _).trans (samePath_modWarp _ _ _ _)).trans (samePath_wake _ _ _ _)
    · exact .refl s

theorem samePath_wakeWatchers (s : State) (line : Nat) : SamePath s (wakeWatchers s line) := by
  unfold wakeWatchers
  apply samePath_foldl
  intro s q
  split
  · exact .refl s
  · split
    · exact samePath_endSleep _ _ _
    · exact samePath_modGang _ _ _ _ _

theorem samePath_dispositionStore (s : State) (key n : Nat) : SamePath s (dispositionStore s key n) := by
  unfold dispositionStore
  apply samePath_foldl
  intro s e
  dsimp only
  refine fun k => ?_
  have h1 : ∀ (c : Prop) [Decidable c] (a b : State), (coreAt a k).inflight = (coreAt s k).inflight → (coreAt b k).inflight = (coreAt s k).inflight →
      (coreAt (if c then a else b) k).inflight = (coreAt s k).inflight := by
    intro c _ a b ha hb; split <;> assumption
  exact h1 _ _ _ rfl rfl

theorem samePath_homeWrite (s : State) (key : Nat) (bs : List Byte) : SamePath s (homeWrite s key bs) := by
  unfold homeWrite
  split
  · exact .refl s
  · have hm : ∀ t : State, SamePath t (mailboxStore t key bs.length) := by
      intro t
      unfold mailboxStore
      split
      · exact .refl t
      · split
        · exact .refl t
        · split
          · exact .refl t
          · exact SamePath.trans (samePath_modCore t _ (fun c => { c with mailbox := some _ }) fun _ => rfl) fun _ => rfl
    refine SamePath.trans ?_ (hm _)
    split
    · exact (SamePath.trans (t := memPut s key bs) (fun _ => rfl) (samePath_dispositionStore _ _ _)).trans (samePath_wakeWatchers _ _)
    · exact (SamePath.trans (t := memPut s key bs) (fun _ => rfl) (samePath_dispositionStore _ _ _)).trans
        (samePath_foldl _ (fun s l => samePath_wakeWatchers s l) _ _)

theorem SamePath.access {s t : State} (h : SamePath s t) (k id : Nat) : accessAt t k id = accessAt s k id := by simp only [accessAt, h k]

end Sys2Proof.Machine
end

