-- ==== Sys2Proof/Laws/View.lean ====
section
/-! SUPPORT. Sys2Proof/Laws/View.lean: reading and writing through a scratchpad window (R108, R181, R339). -/

namespace Sys2Proof.Machine

/-- A range of at most 4,096 bytes lies in one group, or in two. -/
theorem view_runs_small (v : View) (a n : Nat) (h : n ≤ 4096) :
    v.runs 17 a n = if n = 0 then [] else if (v.base + a) % 49152 + n ≤ 49152 then [(a, n)] else
      [(a, 49152 - (v.base + a) % 49152), (a + (49152 - (v.base + a) % 49152), n - (49152 - (v.base + a) % 49152))] := by
  have hm := Nat.mod_lt (v.base + a) (show 49152 > 0 by omega)
  unfold View.runs
  by_cases h0 : n = 0
  · simp [h0]
  · simp only [h0, if_false]
    split
    · rename_i h1
      rw [Nat.min_eq_left (by omega)]
      simp [View.runs]
    · rename_i h1
      have e : min n (49152 - (v.base + a) % 49152) = 49152 - (v.base + a) % 49152 := Nat.min_eq_right (by omega)
      rw [e]
      unfold View.runs
      have h2 : (v.base + (a + (49152 - (v.base + a) % 49152))) % 49152 = 0 := by omega
      have h3 : n - (49152 - (v.base + a) % 49152) ≠ 0 := by omega
      simp only [h3, if_false, h2, Nat.sub_zero]
      rw [Nat.min_eq_left (by omega)]
      simp [View.runs]

/-- Within a group a window is contiguous. -/
theorem view_at_run (v : View) (a m i : Nat) (h : (v.base + a) % 49152 + m ≤ 49152) (hi : i < m) : v.at (a + i) = v.at a + i := by
  have e1 : (v.base + (a + i)) / 49152 = (v.base + a) / 49152 := by omega
  have e2 : (v.base + (a + i)) % 49152 = (v.base + a) % 49152 + i := by omega
  simp only [View.at, e1, e2]; omega

/-- A range reads the same in two memories that agree on it. -/
theorem cellsRead_congr {m m' : List Host.Cell} {a n : Nat} (h : ∀ i < n, cellRead m (a + i) = cellRead m' (a + i)) : cellsRead m a n = cellsRead m' a n := by
  induction n generalizing a with
  | zero => rfl
  | succ n ih =>
    have h0 := h 0 (by omega)
    have h1 : ∀ i < n, cellRead m (a + 1 + i) = cellRead m' (a + 1 + i) := fun i hi => by have := h (i + 1) (by omega); rwa [show a + (i + 1) = a + 1 + i by omega] at this
    simp only [cellsRead, ih h1, show cellRead m a = cellRead m' a from h0]

/-- Bytes put into a window read back, and every other byte of the scratchpad stays. -/
theorem viewPut_spec (c : Core) (v : View) (a : Nat) (bs : List Byte) (h : bs.length ≤ 4096) :
    viewBytes (viewPut c v a bs) v a bs.length = bs ∧
    ∀ x, (∀ i < bs.length, x ≠ v.at (a + i)) → cellRead (viewPut c v a bs).scratch x = cellRead c.scratch x := by
  have hm := Nat.mod_lt (v.base + a) (show 49152 > 0 by omega)
  simp only [viewPut, viewBytes, view_runs_small v a _ h]
  by_cases h0 : bs.length = 0
  · simp [List.length_eq_zero_iff.mp h0]
  simp only [h0, if_false]
  by_cases h1 : (v.base + a) % 49152 + bs.length ≤ 49152
  · simp only [h1, if_true, List.foldl_cons, List.foldl_nil, List.flatMap_cons, List.flatMap_nil, List.append_nil, Nat.sub_self, List.drop_zero, List.take_length, scratchPut]
    refine ⟨cellsRead_cellsWrite _ _ _, fun x hx => ?_⟩
    rw [cellRead_cellsWrite, if_neg]
    rintro ⟨h2, h3⟩
    have := hx (x - v.at a) (by omega)
    rw [view_at_run v a bs.length _ h1 (by omega)] at this
    omega
  · simp only [h1, if_false, List.foldl_cons, List.foldl_nil, List.flatMap_cons, List.flatMap_nil, List.append_nil, Nat.sub_self, List.drop_zero, scratchPut, Nat.add_sub_cancel_left]
    generalize hM : 49152 - (v.base + a) % 49152 = M
    have hb : (v.base + (a + M)) % 49152 = 0 := by omega
    have l1 : (bs.take M).length = M := by simp; omega
    have l2 : ((bs.drop M).take (bs.length - M)).length = bs.length - M := by simp
    have hdis : v.at a + M ≤ v.at (a + M) ∨ v.at (a + M) + (bs.length - M) ≤ v.at a := by
      simp only [View.at, hb]
      have hk := Nat.lt_trichotomy (v.group ((v.base + a) / 49152)) (v.group ((v.base + (a + M)) / 49152))
      omega
    refine ⟨?_, fun x hx => ?_⟩
    · have e1 : cellsRead (cellsWrite (cellsWrite c.scratch (v.at a) (bs.take M)) (v.at (a + M)) ((bs.drop M).take (bs.length - M))) (v.at a) M = bs.take M := by
        have := cellsRead_cellsWrite c.scratch (v.at a) (bs.take M)
        rw [l1] at this
        rw [← this]
        refine cellsRead_congr fun i hi => ?_
        rw [this, cellRead_cellsWrite, if_neg (by rw [l2]; omega)]
      have e2 := cellsRead_cellsWrite (cellsWrite c.scratch (v.at a) (bs.take M)) (v.at (a + M)) ((bs.drop M).take (bs.length - M))
      rw [l2] at e2
      rw [e1, e2]
      rw [List.take_of_length_le (l := bs.drop M) (by simp), List.take_append_drop]
    · rw [cellRead_cellsWrite, if_neg, cellRead_cellsWrite, if_neg]
      · rw [l1]; rintro ⟨h2, h3⟩
        have := hx (x - v.at a) (by omega)
        rw [view_at_run v a M _ (by omega) (by omega)] at this
        omega
      · rw [l2]; rintro ⟨h2, h3⟩
        have := hx (M + (x - v.at (a + M))) (by omega)
        rw [← Nat.add_assoc, view_at_run v (a + M) (bs.length - M) _ (by omega) (by omega)] at this
        omega

/-- Marking words uncorrectable changes no byte. -/
theorem viewMark_scratch (c : Core) (v : View) (a n : Nat) : (viewMark c v a n).scratch = c.scratch := by
  simp only [viewMark]
  generalize v.runs 17 a n = rs
  induction rs generalizing c with
  | nil => rfl
  | cons r rs ih => rw [List.foldl_cons, ih]; rfl

/-- What is put into a window depends on the scratchpad only. -/
theorem viewPut_scratch_congr {c d : Core} (h : c.scratch = d.scratch) (v : View) (a : Nat) (bs : List Byte) : (viewPut c v a bs).scratch = (viewPut d v a bs).scratch := by
  simp only [viewPut]
  generalize v.runs 17 a bs.length = rs
  induction rs generalizing c d with
  | nil => exact h
  | cons r rs ih => rw [List.foldl_cons, List.foldl_cons]; exact ih (by simp only [scratchPut, h])

/-- A window's bytes are those of its places. -/
theorem viewBytes_congr {c d : Core} (v : View) (a n : Nat) (hn : n ≤ 4096) (h : ∀ i < n, cellRead c.scratch (v.at (a + i)) = cellRead d.scratch (v.at (a + i))) :
    viewBytes c v a n = viewBytes d v a n := by
  have hm := Nat.mod_lt (v.base + a) (show 49152 > 0 by omega)
  have hrun : ∀ b m, (v.base + b) % 49152 + m ≤ 49152 → (∀ i < m, cellRead c.scratch (v.at (b + i)) = cellRead d.scratch (v.at (b + i))) →
      cellsRead c.scratch (v.at b) m = cellsRead d.scratch (v.at b) m := fun b m hb h' =>
    cellsRead_congr fun i hi => by rw [← view_at_run v b m i hb hi]; exact h' i hi
  simp only [viewBytes, view_runs_small v a n hn]
  by_cases h0 : n = 0
  · simp [h0]
  simp only [h0, if_false]
  by_cases h1 : (v.base + a) % 49152 + n ≤ 49152
  · simp only [h1, if_true, List.flatMap_cons, List.flatMap_nil, List.append_nil]
    exact hrun a n h1 h
  · simp only [h1, if_false, List.flatMap_cons, List.flatMap_nil, List.append_nil]
    rw [hrun a _ (by omega) fun i hi => h i (by omega), hrun (a + (49152 - (v.base + a) % 49152)) _ (by omega) fun i hi => by
      rw [Nat.add_assoc]; exact h _ (by omega)]

end Sys2Proof.Machine
end

