-- ==== Sys2Proof/Tests/Slice0.lean ====
section
/-! SUPPORT. Sys2Proof/Tests/Slice0.lean: the decoding of one word of every row, the check of terms, single steps whose results the spec
states or that follow from its rules by hand, and for each statement states and operands that meet its hypotheses. -/

open Sys2Proof Sys2Proof.Machine Sys2Proof.Safety
set_option maxRecDepth 100000

namespace Sys2Proof.Tests

/-! ## The check of terms: an ill-formed term for each check -/

/-- A load request. -/
def packet0 : Packet := { kind := 1, sectors := 0, phase := false, spare := 0, tag := 0, module := 0, slice := 0, opWord := 0, offset := 0, operands := 0, payload := [] }
def packet1 : Packet := { packet0 with spare := 1 }
def packet2 : Packet := { packet0 with payload := List.replicate 129 0 }
def frame0 : Frame := { seq := 0, packets := [packet0], tag := 0 }
def sensor0 : Sensor := { temp := 60, volts := [0, 0, 0, 0], amps := [0, 0, 0, 0], power := 0 }
def rect0 : Rect := { row0 := 0, row1 := 0, col0 := 0, col1 := 0 }
def rect1 : Rect := { rect0 with row0 := 1 }
def rect2 : Rect := { rect0 with row1 := 4 }
def rect3 : Rect := { rect0 with col0 := 1 }
def rect4 : Rect := { rect0 with col1 := 8 }

theorem test_wf_refuses0 :
    Instr.wf (.stallRunout 672 0 0) = false ∧ Instr.wf (.stallRunout 0 64 0) = false ∧ Instr.wf (.stallRunout 0 0 8) = false ∧
    Instr.wf (.yieldRunout 672 0 0) = false ∧ Instr.wf (.yieldRunout 0 64 0) = false ∧ Instr.wf (.yieldRunout 0 0 8) = false ∧
    Instr.wf (.ageingThreshold 672 0 0) = false ∧ Instr.wf (.ageingThreshold 0 64 0) = false ∧ Instr.wf (.ageingThreshold 0 0 8) = false ∧
    Instr.wf (.meetParkExpiry 672 0 0) = false ∧ Instr.wf (.meetParkExpiry 0 64 0) = false ∧ Instr.wf (.meetParkExpiry 0 0 8) = false ∧
    Instr.wf (.vgrowGrant 512 0) = false ∧ Instr.wf (.vgrowGrant 0 4) = false ∧ Instr.wf (.binTimerExpiry 512 0) = false ∧
    Instr.wf (.binTimerExpiry 0 32) = false ∧ Instr.wf (.looseWarpPlace 512 0) = false ∧ Instr.wf (.looseWarpPlace 0 32) = false ∧
    Instr.wf (.launchRequest 32 0) = false ∧ Instr.wf (.launchRequest 0 32) = false ∧ Instr.wf (.dispatchBlock 32) = false ∧
    Instr.wf (.warpRetire 672 0) = false ∧ Instr.wf (.warpRetire 0 64) = false ∧ Instr.wf (.loadSectorLand 672 0 0) = false ∧
    Instr.wf (.scratchpadLoadReturn 672 0) = false ∧ Instr.wf (.storeAck 672 0) = false ∧ Instr.wf (.homeLoad 672 0 0) = false ∧
    Instr.wf (.homeStore 672 0 0) = false ∧ Instr.wf (.homeAtomic 672 0 0) = false ∧ Instr.wf (.homeAtomic 0 0 33) = false ∧
    Instr.wf (.atomicReturn 672 0) = false ∧ Instr.wf (.monitorDrop 672 0 0) = false ∧ Instr.wf (.monitorDrop 0 64 0) = false ∧
    Instr.wf (.monitorDrop 0 0 8) = false ∧ Instr.wf (.wsleepTimeout 672 0 0) = false ∧ Instr.wf (.wsleepTimeout 0 64 0) = false ∧
    Instr.wf (.wsleepTimeout 0 0 8) = false ∧ Instr.wf (.bwaittTimeout 672 0 0) = false ∧ Instr.wf (.bwaittTimeout 0 64 0) = false ∧
    Instr.wf (.bwaittTimeout 0 0 8) = false := by
  refine ⟨?_, ?_, ?_, ?_, ?_, ?_, ?_, ?_, ?_, ?_, ?_, ?_, ?_, ?_, ?_, ?_, ?_, ?_, ?_, ?_, ?_, ?_, ?_, ?_, ?_, ?_, ?_, ?_, ?_, ?_, ?_, ?_, ?_, ?_, ?_, ?_, ?_, ?_, ?_, ?_⟩ <;> rfl

theorem test_wf_refuses1 :
    Instr.wf (.combiningEntryExpiry 672 0) = false ∧ Instr.wf (.combiningEntryExpiry 0 64) = false ∧ Instr.wf (.relDrainDone 672 0 0) = false ∧
    Instr.wf (.relDrainDone 0 64 0) = false ∧ Instr.wf (.relDrainDone 0 0 8) = false ∧ Instr.wf (.acqWaitDone 672 0 0) = false ∧
    Instr.wf (.acqWaitDone 0 64 0) = false ∧ Instr.wf (.acqWaitDone 0 0 8) = false ∧ Instr.wf (.translationWalk 32) = false ∧
    Instr.wf (.translationAnswer 32 0) = false ∧ Instr.wf (.remoteAtomicTimeout 672 0) = false ∧ Instr.wf (.copyStart 512 0) = false ∧
    Instr.wf (.copyStart 0 2) = false ∧ Instr.wf (.copyChunk 512 0) = false ∧ Instr.wf (.copyChunk 0 2) = false ∧
    Instr.wf (.copyPieceLand 512 0 0) = false ∧ Instr.wf (.copyPieceLand 0 2 0) = false ∧ Instr.wf (.copyoPieceAck 512 0 0) = false ∧
    Instr.wf (.copyoPieceAck 0 2 0) = false ∧ Instr.wf (.engineFaultDeliver 672 0) = false ∧ Instr.wf (.engineFaultDeliver 0 64) = false ∧
    Instr.wf (.qfenceRelease 672 0) = false ∧ Instr.wf (.mldbRun 512) = false ∧ Instr.wf (.mmacRun 512) = false ∧ Instr.wf (.mrdRun 512) = false ∧
    Instr.wf (.mzeroRun 512) = false ∧ Instr.wf (.manchRun 512) = false ∧ Instr.wf (.epiRun 512) = false ∧ Instr.wf (.mtestRun 512 0) = false ∧
    Instr.wf (.mfenceRun 512 false) = false ∧ Instr.wf (.scrubMatrixRun 512) = false ∧ Instr.wf (.selfTestIdle 512 false) = false ∧
    Instr.wf (.batchReopen 512) = false ∧ Instr.wf (.gathRun 32) = false ∧ Instr.wf (.poolRun 32) = false ∧ Instr.wf (.poolRowArrive 32 0) = false ∧
    Instr.wf (.mcredRun 32) = false ∧ Instr.wf (.mcstRun 32) = false ∧ Instr.wf (.wbcastRun 32) = false ∧ Instr.wf (.dgstRun 32) = false := by
  refine ⟨?_, ?_, ?_, ?_, ?_, ?_, ?_, ?_, ?_, ?_, ?_, ?_, ?_, ?_, ?_, ?_, ?_, ?_, ?_, ?_, ?_, ?_, ?_, ?_, ?_, ?_, ?_, ?_, ?_, ?_, ?_, ?_, ?_, ?_, ?_, ?_, ?_, ?_, ?_, ?_⟩ <;> rfl

theorem test_wf_refuses2 :
    Instr.wf (.engineCommandComplete 32 .pq) = false ∧ Instr.wf (.engineCommandComplete 0 .mq) = false ∧ Instr.wf (.gateProceed 512 0) = false ∧
    Instr.wf (.gateProceed 0 64) = false ∧ Instr.wf (.gretProceed 512 0) = false ∧ Instr.wf (.gretProceed 0 64) = false ∧
    Instr.wf (.dpreComplete 672) = false ∧ Instr.wf (.warpHalt 512 0) = false ∧ Instr.wf (.warpHalt 0 64) = false ∧
    Instr.wf (.unitScrubDone 512 .l1) = false ∧ Instr.wf (.unitScrubDone 0 (.regFile 4)) = false ∧ Instr.wf (.unitScrubDone 0 (.granule 4 0)) = false ∧
    Instr.wf (.unitScrubDone 0 (.granule 0 64)) = false ∧ Instr.wf (.unitScrubDone 0 (.scratchGroup 16)) = false ∧ Instr.wf (.unitWake 512 .l1) = false ∧
    Instr.wf (.unitWake 0 (.regFile 4)) = false ∧ Instr.wf (.unitWake 0 (.granule 4 0)) = false ∧ Instr.wf (.unitWake 0 (.granule 0 64)) = false ∧
    Instr.wf (.unitWake 0 (.scratchGroup 16)) = false ∧ Instr.wf (.unitPowerDown 512 .l1) = false ∧ Instr.wf (.unitPowerDown 0 (.regFile 4)) = false ∧
    Instr.wf (.unitPowerDown 0 (.granule 4 0)) = false ∧ Instr.wf (.unitPowerDown 0 (.granule 0 64)) = false ∧
    Instr.wf (.unitPowerDown 0 (.scratchGroup 16)) = false ∧ Instr.wf (.deferredTrapRecord 512 0) = false ∧ Instr.wf (.deferredTrapRecord 0 64) = false ∧
    Instr.wf (.notificationDrain 32) = false ∧ Instr.wf (.serviceInterrupt 672) = false ∧ Instr.wf (.wfiWake 672) = false ∧
    Instr.wf (.sipiDeliver 672) = false ∧ Instr.wf (.dispositionResume 512 0) = false ∧ Instr.wf (.dispositionResume 0 64) = false ∧
    Instr.wf (.dispositionKill 512 0) = false ∧ Instr.wf (.dispositionKill 0 64) = false ∧ Instr.wf (.dispositionHandler 512 0) = false ∧
    Instr.wf (.dispositionHandler 0 64) = false ∧ Instr.wf (.memoryError 32 0) = false ∧ Instr.wf (.isctlWrite 672) = false ∧
    Instr.wf (.ipendWrite 672) = false ∧ Instr.wf (.watchRegWrite 672) = false := by
  refine ⟨?_, ?_, ?_, ?_, ?_, ?_, ?_, ?_, ?_, ?_, ?_, ?_, ?_, ?_, ?_, ?_, ?_, ?_, ?_, ?_, ?_, ?_, ?_, ?_, ?_, ?_, ?_, ?_, ?_, ?_, ?_, ?_, ?_, ?_, ?_, ?_, ?_, ?_, ?_, ?_⟩ <;> rfl

theorem test_wf_refuses3 :
    Instr.wf (.csrWrite 672) = false ∧ Instr.wf (.debugHalt 512) = false ∧ Instr.wf (.debugResume 512) = false ∧ Instr.wf (.debugStep 512) = false ∧
    Instr.wf (.debugDump 512) = false ∧ Instr.wf (.debugArm 512) = false ∧ Instr.wf (.debugRead 512) = false ∧ Instr.wf (.debugBadCommand 512) = false ∧
    Instr.wf (.packetFetch 32 0) = false ∧ Instr.wf (.packetFetch 0 32) = false ∧ Instr.wf (.packetNop 32 0) = false ∧ Instr.wf (.packetNop 0 32) = false ∧
    Instr.wf (.packetSeed 32 0) = false ∧ Instr.wf (.packetSeed 0 32) = false ∧ Instr.wf (.packetSignal 32 0) = false ∧
    Instr.wf (.packetSignal 0 32) = false ∧ Instr.wf (.packetWaitsig 32 0) = false ∧ Instr.wf (.packetWaitsig 0 32) = false ∧
    Instr.wf (.packetCistern 32 0) = false ∧ Instr.wf (.packetCistern 0 32) = false ∧ Instr.wf (.packetQuery 32 0) = false ∧
    Instr.wf (.packetQuery 0 32) = false ∧ Instr.wf (.quantumEnd 32) = false ∧ Instr.wf (.firmwareRestart 32) = false ∧
    Instr.wf (.reinterleaveGroup 32) = false ∧ Instr.wf (.migrationReceipt 32 0) = false ∧ Instr.wf (.frameReceive 64 frame0) = false ∧
    Instr.wf (.frameReceive 0 { frame0 with packets := [packet1] }) = false ∧ Instr.wf (.portDown 64) = false ∧ Instr.wf (.portRetrain 64) = false ∧
    Instr.wf (.keyRotation 64) = false ∧ Instr.wf (.fabricReadResponse 64 packet0) = false ∧ Instr.wf (.fabricReadResponse 0 packet1) = false ∧
    Instr.wf (.fabricReadResponse 0 packet2) = false ∧ Instr.wf (.fabricWriteAck 64 packet0) = false ∧ Instr.wf (.fabricWriteAck 0 packet1) = false ∧
    Instr.wf (.fabricWriteAck 0 packet2) = false ∧ Instr.wf (.fabricAtomicResponse 64 packet0) = false ∧
    Instr.wf (.fabricAtomicResponse 0 packet1) = false ∧ Instr.wf (.fabricAtomicResponse 0 packet2) = false := by
  refine ⟨?_, ?_, ?_, ?_, ?_, ?_, ?_, ?_, ?_, ?_, ?_, ?_, ?_, ?_, ?_, ?_, ?_, ?_, ?_, ?_, ?_, ?_, ?_, ?_, ?_, ?_, ?_, ?_, ?_, ?_, ?_, ?_, ?_, ?_, ?_, ?_, ?_, ?_, ?_, ?_⟩ <;> rfl

theorem test_wf_refuses4 :
    Instr.wf (.fabricMulticastLine 64 packet0) = false ∧ Instr.wf (.fabricMulticastLine 0 packet1) = false ∧
    Instr.wf (.fabricMulticastLine 0 packet2) = false ∧ Instr.wf (.fabricErrorResponse 64 packet0) = false ∧
    Instr.wf (.fabricErrorResponse 0 packet1) = false ∧ Instr.wf (.fabricErrorResponse 0 packet2) = false ∧ Instr.wf (.windowAccess 64 packet0) = false ∧
    Instr.wf (.windowAccess 0 packet1) = false ∧ Instr.wf (.windowAccess 0 packet2) = false ∧ Instr.wf (.frameReplay 64) = false ∧
    Instr.wf (.cxlHostRequest 32 0) = false ∧ Instr.wf (.cxlRegionReclaim 32 0) = false ∧ Instr.wf (.refreshWindow 8) = false ∧
    Instr.wf (.cisternScrub 8 false) = false ∧ Instr.wf (.sensorSample 32 sensor0) = false ∧
    Instr.wf (.sensorSample 0 { sensor0 with volts := [] }) = false ∧ Instr.wf (.sensorSample 0 { sensor0 with amps := [] }) = false ∧
    Instr.wf (.powerQuotaUpdate 65) = false ∧ Instr.wf (.partitionForm 32 rect0 .failed) = false ∧ Instr.wf (.partitionForm 0 rect1 .failed) = false ∧
    Instr.wf (.partitionForm 0 rect2 .failed) = false ∧ Instr.wf (.partitionForm 0 rect3 .failed) = false ∧
    Instr.wf (.partitionForm 0 rect4 .failed) = false ∧ Instr.wf (.bootRetry 32 .failed) = false ∧ Instr.wf (.partitionReset 32) = false := by
  refine ⟨?_, ?_, ?_, ?_, ?_, ?_, ?_, ?_, ?_, ?_, ?_, ?_, ?_, ?_, ?_, ?_, ?_, ?_, ?_, ?_, ?_, ?_, ?_, ?_, ?_⟩ <;> rfl

/-! ## Decoding: one word of every row, its fields d, a and b the distinct bytes 0x83, 0xC5 and 0xE9 where the row leaves them free (R23, R25, R36) -/

theorem test_decode_control :
    decode 0x0083C5E9 = .ok .ill ∧ decode 0x0183C5E9 = .ok .nop ∧ decode 0x0283C5E9 = .ok (.bra 0x83c5e9) ∧ decode 0x0383C5E9 = .ok (.sbra (.s 3) 0xc5e9) ∧
    decode 0x0483C5E9 = .ok (.brx (.p 5)) ∧ decode 0x0583C5E9 = .ok (.call (.s 3) 0xc5e9) ∧ decode 0x0683C5E9 = .ok (.callx (.s 3) (.p 5)) ∧
    decode 0x0783C5E9 = .ok (.ret (.p 5)) ∧ decode 0x0883C5E9 = .ok (.join 0xc5e9) ∧ decode 0x0983C5E9 = .ok .meet ∧
    decode 0x0A83C5E9 = .ok (.switch (.s 3) 0xc5e9) ∧ decode 0x0B83C5E9 = .ok (.wsync 0xc5e9) ∧ decode 0x0C83C5E9 = .ok .exit ∧
    decode 0x0D83C5E9 = .ok (.trap 0xc5e9) ∧ decode 0x0E83C5E9 = .ok (.yield 0xc5e9) ∧ decode 0x0F83C5E9 = .ok (.exec (.p 5)) := by
  refine ⟨?_, ?_, ?_, ?_, ?_, ?_, ?_, ?_, ?_, ?_, ?_, ?_, ?_, ?_, ?_, ?_⟩ <;> rfl

theorem test_decode_lane0 :
    decode 0x1083C5E9 = .ok (.mov (.s 3) (.p 5)) ∧ decode 0x1183C5E9 = .ok (.movi (.s 3) 0xc5e9) ∧ decode 0x1283C5E9 = .ok (.movh (.s 3) 0xc5e9) ∧
    decode 0x1383C5E9 = .ok (.add (.s 3) (.p 5) (.k 9)) ∧ decode 0x1483C5E9 = .ok (.sub (.s 3) (.p 5) (.k 9)) ∧
    decode 0x1583C5E9 = .ok (.mul (.s 3) (.p 5) (.k 9)) ∧ decode 0x1683C5E9 = .ok (.mulh (.s 3) (.p 5) (.k 9)) ∧
    decode 0x1783C5E9 = .ok (.mad (.s 3) (.p 5) (.k 9)) ∧ decode 0x1883C5E9 = .ok (.neg (.s 3) (.p 5)) ∧ decode 0x1983C5E9 = .ok (.abs (.s 3) (.p 5)) ∧
    decode 0x1A83C5E9 = .ok (.min (.s 3) (.p 5) (.k 9)) ∧ decode 0x1B83C5E9 = .ok (.max (.s 3) (.p 5) (.k 9)) ∧
    decode 0x1C83C5E9 = .ok (.div (.s 3) (.p 5) (.k 9)) ∧ decode 0x1D83C5E9 = .ok (.rem (.s 3) (.p 5) (.k 9)) ∧
    decode 0x1E83C5E9 = .ok (.clamp (.s 3) (.p 5) (.k 9)) ∧ decode 0x1F83C5E9 = .ok (.sel (.s 3) (.p 5) (.k 9)) ∧
    decode 0x2083C5E9 = .ok (.and (.s 3) (.p 5) (.k 9)) ∧ decode 0x2183C5E9 = .ok (.or (.s 3) (.p 5) (.k 9)) ∧
    decode 0x2283C5E9 = .ok (.xor (.s 3) (.p 5) (.k 9)) ∧ decode 0x2383C5E9 = .ok (.not (.s 3) (.p 5)) ∧
    decode 0x2483C5E9 = .ok (.shl (.s 3) (.p 5) (.k 9)) ∧ decode 0x2583C5E9 = .ok (.shr (.s 3) (.p 5) (.k 9)) ∧
    decode 0x2683C5E9 = .ok (.sar (.s 3) (.p 5) (.k 9)) ∧ decode 0x2783C5E9 = .ok (.rol (.s 3) (.p 5) (.k 9)) := by
  refine ⟨?_, ?_, ?_, ?_, ?_, ?_, ?_, ?_, ?_, ?_, ?_, ?_, ?_, ?_, ?_, ?_, ?_, ?_, ?_, ?_, ?_, ?_, ?_, ?_⟩ <;> rfl

theorem test_decode_lane1 :
    decode 0x2883C5E9 = .ok (.fsh (.s 3) (.p 5) (.k 9)) ∧ decode 0x2983C5E9 = .ok (.clz (.s 3) (.p 5)) ∧ decode 0x2A83C5E9 = .ok (.popc (.s 3) (.p 5)) ∧
    decode 0x2B83C5E9 = .ok (.brev (.s 3) (.p 5)) ∧ decode 0x2C83C5E9 = .ok (.bfx (.s 3) (.p 5) (.k 9)) ∧
    decode 0x2D83C5E9 = .ok (.bfi (.s 3) (.p 5) (.k 9)) ∧ decode 0x2E83C5E9 = .ok (.cmp 16 3 (.p 5) (.k 9)) ∧
    decode 0x2F33C5E9 = .ok (.plog 6 3 (.p 5) (.k 9)) ∧ decode 0x3083C5E9 = .ok (.cvt (.s 3) (.p 5) 7 9) ∧ decode 0x3183C5E9 = .ok (.rnd (.s 3) (.p 5)) ∧
    decode 0x3283C5E9 = .ok (.rcp (.s 3) (.p 5)) ∧ decode 0x3383C5E9 = .ok (.rsq (.s 3) (.p 5)) ∧ decode 0x3483C5E9 = .ok (.sqrt (.s 3) (.p 5)) ∧
    decode 0x3583C5E9 = .ok (.ex2 (.s 3) (.p 5)) ∧ decode 0x3683C5E9 = .ok (.lg2 (.s 3) (.p 5)) ∧ decode 0x3783C5E9 = .ok (.sin (.s 3) (.p 5)) ∧
    decode 0x3883C5E9 = .ok (.cos (.s 3) (.p 5)) ∧ decode 0x3983C5E9 = .ok (.tanh (.s 3) (.p 5)) ∧ decode 0x3A83C5E9 = .ok (.fcls (.s 3) (.p 5)) ∧
    decode 0x3B83C5E9 = .ok (.addc (.s 3) (.p 5) (.k 9)) ∧ decode 0x3C83C5E9 = .ok (.mode (.s 3) (.p 5)) ∧ decode 0x3D83C5E9 = .ok (.modef 0x83 0xc5e9) := by
  refine ⟨?_, ?_, ?_, ?_, ?_, ?_, ?_, ?_, ?_, ?_, ?_, ?_, ?_, ?_, ?_, ?_, ?_, ?_, ?_, ?_, ?_, ?_⟩ <;> rfl

theorem test_decode_gang :
    decode 0x4083C5E9 = .ok (.vote (.s 3) (.p 5) 0xe9) ∧ decode 0x4183C5E9 = .ok (.pickIdx (.s 3) (.p 5) (.k 9)) ∧
    decode 0x4283C5E9 = .ok (.pickUp (.s 3) (.p 5) (.k 9)) ∧ decode 0x4383C5E9 = .ok (.pickDn (.s 3) (.p 5) (.k 9)) ∧
    decode 0x4483C5E9 = .ok (.pickXor (.s 3) (.p 5) (.k 9)) ∧ decode 0x4583C5E9 = .ok (.scan (.s 3) (.p 5) 0xe9) ∧
    decode 0x4683C5E9 = .ok (.scanx (.s 3) (.p 5) 0xe9) ∧ decode 0x4783C5E9 = .ok (.redx (.s 3) (.p 5) 0xe9) ∧
    decode 0x4883C5E9 = .ok (.matchEq (.s 3) (.p 5)) ∧ decode 0x4983C5E9 = .ok (.v2s (.s 3) (.p 5) (.k 9)) ∧
    decode 0x4A83C5E9 = .ok (.vmovx (.s 3) (.p 5) (.k 9)) ∧ decode 0x4B83C5E9 = .ok (.vstx (.s 3) (.p 5) (.k 9)) ∧
    decode 0x4C83C5E9 = .ok (.vgrow (.s 3) 0xc5e9) ∧ decode 0x4D83C5E9 = .ok (.vshrink (.s 3) 0xc5e9) ∧
    decode 0x4E83C5E9 = .ok (.spawn (.s 3) (.p 5) (.k 9)) ∧ decode 0x4F83C5E9 = .ok (.grid (.p 5)) := by
  refine ⟨?_, ?_, ?_, ?_, ?_, ?_, ?_, ?_, ?_, ?_, ?_, ?_, ?_, ?_, ?_, ?_⟩ <;> rfl

theorem test_decode_scalar :
    decode 0x5083C5E9 = .ok (.smov (.s 3) (.p 5)) ∧ decode 0x5183C5E9 = .ok (.smovi (.s 3) 0xc5e9) ∧ decode 0x5283C5E9 = .ok (.smovh (.s 3) 0xc5e9) ∧
    decode 0x5383C5E9 = .ok (.sadd (.s 3) (.p 5) (.k 9)) ∧ decode 0x5483C5E9 = .ok (.ssub (.s 3) (.p 5) (.k 9)) ∧
    decode 0x5583C5E9 = .ok (.smul (.s 3) (.p 5) (.k 9)) ∧ decode 0x5683C5E9 = .ok (.smulh (.s 3) (.p 5) (.k 9)) ∧
    decode 0x5783C5E9 = .ok (.sand (.s 3) (.p 5) (.k 9)) ∧ decode 0x5883C5E9 = .ok (.sor (.s 3) (.p 5) (.k 9)) ∧
    decode 0x5983C5E9 = .ok (.sxor (.s 3) (.p 5) (.k 9)) ∧ decode 0x5A83C5E9 = .ok (.sshl (.s 3) (.p 5) (.k 9)) ∧
    decode 0x5B83C5E9 = .ok (.sshr (.s 3) (.p 5) (.k 9)) ∧ decode 0x5C83C5E9 = .ok (.ssar (.s 3) (.p 5) (.k 9)) ∧
    decode 0x5D83C5E9 = .ok (.sseq (.s 3) (.p 5) (.k 9)) ∧ decode 0x5E83C5E9 = .ok (.sslt (.s 3) (.p 5) (.k 9)) ∧
    decode 0x5F83C5E9 = .ok (.ssltn (.s 3) (.p 5) (.k 9)) := by
  refine ⟨?_, ?_, ?_, ?_, ?_, ?_, ?_, ?_, ?_, ?_, ?_, ?_, ?_, ?_, ?_, ?_⟩ <;> rfl

theorem test_decode_memory0 :
    decode 0x6083C5E9 = .ok (.ld8 (.s 3) (.p 5) 0xe9) ∧ decode 0x6183C5E9 = .ok (.ld16 (.s 3) (.p 5) 0xe9) ∧
    decode 0x6283C5E9 = .ok (.ld32 (.s 3) (.p 5) 0xe9) ∧ decode 0x6383C5E9 = .ok (.ld64 (.s 3) (.p 5) 0xe9) ∧
    decode 0x6483C5E9 = .ok (.ld128 (.s 3) (.p 5) 0xe9) ∧ decode 0x6583C5E9 = .ok (.st8 (.s 3) (.p 5) 0xe9) ∧
    decode 0x6683C5E9 = .ok (.st16 (.s 3) (.p 5) 0xe9) ∧ decode 0x6783C5E9 = .ok (.st32 (.s 3) (.p 5) 0xe9) ∧
    decode 0x6883C5E9 = .ok (.st64 (.s 3) (.p 5) 0xe9) ∧ decode 0x6983C5E9 = .ok (.st128 (.s 3) (.p 5) 0xe9) ∧
    decode 0x6A83C5E9 = .ok (.lds32 (.s 3) (.p 5) 0xe9) ∧ decode 0x6B83C5E9 = .ok (.lds64 (.s 3) (.p 5) 0xe9) ∧
    decode 0x6C83C5E9 = .ok (.lds128 (.s 3) (.p 5) 0xe9) ∧ decode 0x6D83C5E9 = .ok (.sts32 (.s 3) (.p 5) 0xe9) ∧
    decode 0x6E83C5E9 = .ok (.sts64 (.s 3) (.p 5) 0xe9) ∧ decode 0x6F83C5E9 = .ok (.sts128 (.s 3) (.p 5) 0xe9) ∧
    decode 0x7083C5E9 = .ok (.sld (.s 3) (.p 5) 0xe9) ∧ decode 0x7183C5E9 = .ok (.sst (.s 3) (.p 5) 0xe9) ∧
    decode 0x7283C5E9 = .ok (.ldw (.s 3) (.p 5) 0xe9) ∧ decode 0x7383C5E9 = .ok (.pref 0x83 (.p 5) 0xe9) ∧
    decode 0x7483C5E9 = .ok (.fetchAdd (.s 3) (.p 5) (.k 9)) ∧ decode 0x7583C5E9 = .ok (.fetchMin (.s 3) (.p 5) (.k 9)) ∧
    decode 0x7683C5E9 = .ok (.fetchMax (.s 3) (.p 5) (.k 9)) ∧ decode 0x7783C5E9 = .ok (.fetchAnd (.s 3) (.p 5) (.k 9)) := by
  refine ⟨?_, ?_, ?_, ?_, ?_, ?_, ?_, ?_, ?_, ?_, ?_, ?_, ?_, ?_, ?_, ?_, ?_, ?_, ?_, ?_, ?_, ?_, ?_, ?_⟩ <;> rfl

theorem test_decode_memory1 :
    decode 0x7883C5E9 = .ok (.fetchOr (.s 3) (.p 5) (.k 9)) ∧ decode 0x7983C5E9 = .ok (.fetchXor (.s 3) (.p 5) (.k 9)) ∧
    decode 0x7A83C5E9 = .ok (.fetchXchg (.s 3) (.p 5) (.k 9)) ∧ decode 0x7B83C5E9 = .ok (.cas (.s 3) (.p 5) (.k 9)) ∧
    decode 0x7C83C5E9 = .ok (.red 0x83 (.p 5) (.k 9)) ∧ decode 0x7D83C5E9 = .ok (.cpy 0x83 (.p 5)) ∧ decode 0x7E83C5E9 = .ok (.cpyo 0x83 (.p 5)) := by
  refine ⟨?_, ?_, ?_, ?_, ?_, ?_, ?_⟩ <;> rfl

theorem test_decode_barrier :
    decode 0x8083C5E9 = .ok (.binit (.p 5) (.k 9)) ∧ decode 0x8183C5E9 = .ok (.barv (.s 3) (.p 5)) ∧ decode 0x8283C5E9 = .ok (.bexp (.p 5) (.k 9)) ∧
    decode 0x8383C5E9 = .ok (.bwait (.s 3) (.p 5) (.k 9)) ∧ decode 0x8483C5E9 = .ok (.bwaity (.s 3) (.p 5) 0xe9) ∧
    decode 0x8583C5E9 = .ok (.bwaitt (.s 3) (.p 5) (.k 9)) ∧ decode 0x8683C5E9 = .ok (.watch (.s 3) (.p 5) 0xe9) ∧
    decode 0x8783C5E9 = .ok (.wsleep (.s 3) (.p 5)) ∧ decode 0x8883C5E9 = .ok (.fence 0xc5e9) ∧ decode 0x8983C5E9 = .ok (.rel 0xc5e9) ∧
    decode 0x8A83C5E9 = .ok (.acq 0xc5e9) ∧ decode 0x8B83C5E9 = .ok (.waitc (.s 3) 0xc5e9) ∧ decode 0x8C83C5E9 = .ok (.qfence 0xc5e9) := by
  refine ⟨?_, ?_, ?_, ?_, ?_, ?_, ?_, ?_, ?_, ?_, ?_, ?_, ?_⟩ <;> rfl

theorem test_decode_matrix :
    decode 0x9083C5E9 = .ok (.pack (.s 3) (.p 5) (.k 9)) ∧ decode 0x9183C5E9 = .ok (.unpack (.s 3) (.p 5) (.k 9)) ∧ decode 0x9283C5E9 = .ok (.mldb (.p 5)) ∧
    decode 0x9383C5E9 = .ok (.mmac 0x83 (.p 5)) ∧ decode 0x9402C5E9 = .ok (.mrd true false (.p 5)) ∧ decode 0x9583C5E9 = .ok (.mzero 0xc5e9) ∧
    decode 0x9683C5E9 = .ok (.manch 0x83 (.p 5)) ∧ decode 0x9783C5E9 = .ok (.epi (.p 5)) ∧ decode 0x9883C5E9 = .ok (.mfence (.p 5)) ∧
    decode 0x9983C5E9 = .ok .mtest ∧ decode 0x9A83C5E9 = .ok (.mstat (.s 3) 0xc5e9) := by
  refine ⟨?_, ?_, ?_, ?_, ?_, ?_, ?_, ?_, ?_, ?_, ?_⟩ <;> rfl

theorem test_decode_engine :
    decode 0xA083C5E9 = .ok (.gath (.s 3) (.p 5)) ∧ decode 0xA183C5E9 = .ok (.pool (.s 3) (.p 5)) ∧ decode 0xA283C5E9 = .ok (.mcred (.s 3) (.p 5)) ∧
    decode 0xA383C5E9 = .ok (.mcst (.s 3) (.p 5)) ∧ decode 0xA483C5E9 = .ok (.agq (.s 3) 0xc5e9) ∧ decode 0xA583C5E9 = .ok (.wbcast (.s 3) (.p 5)) ∧
    decode 0xA683C5E9 = .ok (.dgst (.s 3) (.p 5)) ∧ decode 0xA783C5E9 = .ok (.topen (.s 3) (.p 5)) ∧ decode 0xA883C5E9 = .ok (.tcommit (.s 3) (.p 5)) := by
  refine ⟨?_, ?_, ?_, ?_, ?_, ?_, ?_, ?_, ?_⟩ <;> rfl

theorem test_decode_gate :
    decode 0xB083C5E9 = .ok (.gate (.s 3) 0xc5e9) ∧ decode 0xB183C5E9 = .ok .gret ∧ decode 0xB283C5E9 = .ok (.treeq (.s 3) 0xc5e9) ∧
    decode 0xB383C5E9 = .ok (.scrub 0x83 (.p 5) (.k 9)) := by
  refine ⟨?_, ?_, ?_, ?_⟩ <;> rfl

theorem test_decode_system :
    decode 0xC083C5E9 = .ok (.csrr (.s 3) (.p 5)) ∧ decode 0xC183C5E9 = .ok (.csrw (.s 3) (.p 5) (.k 9)) ∧
    decode 0xC283C5E9 = .ok (.csrs (.s 3) (.p 5) (.k 9)) ∧ decode 0xC383C5E9 = .ok (.csrc (.s 3) (.p 5) (.k 9)) ∧ decode 0xC483C5E9 = .ok .tret ∧
    decode 0xC583C5E9 = .ok .wfi ∧ decode 0xC683C5E9 = .ok (.sipi (.p 5) (.k 9)) ∧ decode 0xC700C5E9 = .ok .tlbiAll ∧
    decode 0xC701C5E9 = .ok (.tlbiDom (.p 5)) ∧ decode 0xC702C5E9 = .ok (.tlbiVa (.p 5) (.k 9)) ∧ decode 0xC703C5E9 = .ok (.tlbiVaall (.k 9)) ∧
    decode 0xC883C5E9 = .ok (.dslw (.p 5) (.k 9)) ∧ decode 0xC983C5E9 = .ok (.dpre (.s 3) (.p 5) (.k 9)) ∧ decode 0xCA83C5E9 = .ok (.ctxs (.p 5) (.k 9)) ∧
    decode 0xCB83C5E9 = .ok (.ctxl (.p 5) (.k 9)) ∧ decode 0xCC83C5E9 = .ok (.wswap (.s 3) 0xc5e9) ∧ decode 0xCD83C5E9 = .ok (.hgmb (.s 3) (.p 5)) ∧
    decode 0xCE83C5E9 = .ok (.snap 0xc5e9) ∧ decode 0xCF83C5E9 = .ok (.brk 0xc5e9) := by
  refine ⟨?_, ?_, ?_, ?_, ?_, ?_, ?_, ?_, ?_, ?_, ?_, ?_, ?_, ?_, ?_, ?_, ?_, ?_, ?_⟩ <;> rfl

/-! ## Single steps -/

/-- The state that a step answers. -/
def after : Host.Outcome State Fault Refusal → State
  | .next s => s
  | _ => { free := 1 }

/-- Compute core 0 about to issue a word: slot control of the word, mode, lane mask, and the warp's registers. -/
def placed (w slot : Nat) (mode mask : Word) (vs ss : AMap Word) (ps : AMap Mask) : State :=
  let s := (State.reset.withFetchWord 32 w).modWarp 0 0 fun wp => { wp with vregs := vs, sregs := ss, preds := ps }
  memPut (s.modGang 0 0 0 fun gn => { gn with mode := mode, mask := mask }) fetchBase (natLe 4 (0x40000000 + slot * 2 ^ 20))

/-- The warp and the gang after a step. -/
def warpNow (s : State) : Warp := (warpAt s 0 0).getD {}
def gangNow (s : State) : Gang := (gangAt s 0 0 0).getD {}

/-- A vector register in lane 5 after a word has run in lane 5 alone, the registers given for that lane. -/
def lane5 (w : Nat) (mode : Word) (vs : List (Nat × Nat)) (d : Nat) : Nat :=
  ((warpNow (after (step (placed w 0 mode 0x20 (vs.map fun (r, v) => (32 * r + 5, w32 v)) [] [])))).vreg d 5).toNat
/-- A scalar register after a word has run. -/
def scalarOf (w : Nat) (mode : Word) (ss : List (Nat × Nat)) (d : Nat) : Nat :=
  ((warpNow (after (step (placed w 0 mode 0xFFFFFFFF [] (ss.map fun (r, v) => (r, w32 v)) [])))).sreg d).toNat
/-- A predicate in lane 5 after a word has run there. -/
def pred5 (w : Nat) (mode : Word) (vs : List (Nat × Nat)) (ps : AMap Mask) (p : Nat) : Bool :=
  (predMask (warpNow (after (step (placed w 0 mode 0x20 (vs.map fun (r, v) => (32 * r + 5, w32 v)) [] ps)))) p).getLsbD 5

/-- The worked example of packed bytes under "Vector arithmetic": ADD wraps, and saturates by the type. -/
theorem test_add_packed : lane5 0x13030102 0x7 [(1, 0x7F800102), (2, 0x01FF7F7F)] 3 = 0x807F8081 ∧
    lane5 0x13030102 0x1007 [(1, 0x7F800102), (2, 0x01FF7F7F)] 3 = 0x7F807F7F ∧ lane5 0x13030102 0x1047 [(1, 0x7F800102), (2, 0x01FF7F7F)] 3 = 0x80FF8081 := by decide
/-- R62: 5 − 7. -/
theorem test_sub : lane5 0x14030102 0x27 [(1, 5), (2, 7)] 3 = 0xFFFFFFFE := by decide
/-- R62: the low and the high half of −2 × 3, signed, and of 0xFFFFFFFE × 3, unsigned. -/
theorem test_mul_high : lane5 0x15030102 0x27 [(1, 0xFFFFFFFE), (2, 3)] 3 = 0xFFFFFFFA ∧ lane5 0x16030102 0x27 [(1, 0xFFFFFFFE), (2, 3)] 3 = 0xFFFFFFFF ∧
    lane5 0x16030102 0x67 [(1, 0xFFFFFFFE), (2, 3)] 3 = 2 := by decide
/-- R62: old d takes part in MAD. -/
theorem test_mad : lane5 0x17030102 0x27 [(1, 5), (2, 7), (3, 100)] 3 = 135 := by decide
/-- R62: in f32, 2.0 × 3.0 + 1.0 is 7.0. -/
theorem test_mad_float : lane5 0x17030102 0xA7 [(1, 0x40000000), (2, 0x40400000), (3, 0x3F800000)] 3 = 0x40E00000 := by decide
/-- R62, R51: the negative of the least byte, wrapping and with sat. -/
theorem test_neg_abs : lane5 0x18030100 0x7 [(1, 0x00007F80)] 3 = 0x00008180 ∧ lane5 0x18030100 0x1007 [(1, 0x00007F80)] 3 = 0x0000817F ∧
    lane5 0x19030100 0x27 [(1, 0xFFFFFFFB)] 3 = 5 := by decide
/-- R63: MIN by value, signed and unsigned. -/
theorem test_min_max : lane5 0x1A030102 0x27 [(1, 0xFFFFFFFF), (2, 1)] 3 = 0xFFFFFFFF ∧ lane5 0x1A030102 0x67 [(1, 0xFFFFFFFF), (2, 1)] 3 = 1 ∧
    lane5 0x1B030102 0xA7 [(1, 0x7FC00000), (2, 0xBF800000)] 3 = 0xBF800000 := by decide
/-- R63: CLAMP with a above b gives b. -/
theorem test_clamp : lane5 0x1E030102 0x27 [(1, 9), (2, 4), (3, 6)] 3 = 4 ∧ lane5 0x1E030102 0x27 [(1, 1), (2, 4), (3, 6)] 3 = 4 := by decide
/-- R64: −7 div 2 toward zero, a zero divisor, and the minimum by −1. -/
theorem test_div : lane5 0x1C030102 0x27 [(1, 0xFFFFFFF9), (2, 2)] 3 = 0xFFFFFFFD ∧ lane5 0x1C030102 0x27 [(1, 7), (2, 0)] 3 = 0xFFFFFFFF ∧
    lane5 0x1C030102 0x1027 [(1, 0x80000000), (2, 0xFFFFFFFF)] 3 = 0x7FFFFFFF := by decide
/-- R64: the remainder takes the sign of a; in f32, 1.0 / 4.0 is 0.25. -/
theorem test_rem : lane5 0x1D030102 0x27 [(1, 0xFFFFFFF9), (2, 2)] 3 = 0xFFFFFFFF ∧ lane5 0x1D030102 0x27 [(1, 7), (2, 0)] 3 = 7 ∧
    lane5 0x1C030102 0xA7 [(1, 0x3F800000), (2, 0x40800000)] 3 = 0x3E800000 := by decide
/-- R61: MOVI extends the sign, MOVH writes the high half alone. -/
theorem test_movi_movh : lane5 0x11038001 0x27 [(3, 7)] 3 = 0xFFFF8001 ∧ lane5 0x12031234 0x27 [(3, 0x56789ABC)] 3 = 0x12349ABC := by decide
/-- R65: SEL by the guard, in lanes whose guard fails too. -/
theorem test_sel :
    let wp := warpNow (after (step (placed 0x1F030102 0 0x20 0x30 [(36, 10), (37, 11), (68, 20), (69, 21)] [] [(0, 0x10)])))
    wp.vreg 3 4 = 10 ∧ wp.vreg 3 5 = 21 := by decide
/-- R66: logic acts on all bits. -/
theorem test_logic : lane5 0x20030102 0x7 [(1, 0xF0F0FF00), (2, 0x3C3C0FF0)] 3 = 0x30300F00 ∧ lane5 0x21030102 0x7 [(1, 0xF0F0FF00), (2, 0x3C3C0FF0)] 3 = 0xFCFCFFF0 ∧
    lane5 0x22030102 0x7 [(1, 0xF0F0FF00), (2, 0x3C3C0FF0)] 3 = 0xCCCCF0F0 ∧ lane5 0x23030100 0x7 [(1, 0xF0F0FF00)] 3 = 0x0F0F00FF := by decide
/-- R67: counts below the width, and of the width. -/
theorem test_shifts : lane5 0x24030102 0x27 [(1, 3), (2, 4)] 3 = 48 ∧ lane5 0x24030102 0x27 [(1, 3), (2, 32)] 3 = 0 ∧
    lane5 0x25030102 0x27 [(1, 0x80000000), (2, 4)] 3 = 0x08000000 ∧ lane5 0x26030102 0x67 [(1, 0x80000000), (2, 40)] 3 = 0xFFFFFFFF := by decide
/-- R67: a rotation by 36 is one by 4; FSH shifts a and b by old d. -/
theorem test_rotate_funnel : lane5 0x27030102 0x27 [(1, 0x80000001), (2, 36)] 3 = 0x00000018 ∧
    lane5 0x28030102 0x27 [(1, 0x00000012), (2, 0x34567890), (3, 40)] 3 = 0x12345678 := by decide
/-- R68: leading zeros of bytes, ones, and the reversal of halves. -/
theorem test_bit_counts : lane5 0x29030100 0x7 [(1, 0x00800140)] 3 = 0x08000701 ∧ lane5 0x2A030100 0x27 [(1, 0xF000000F)] 3 = 8 ∧
    lane5 0x2B030100 0x17 [(1, 0x00018000)] 3 = 0x80000001 := by decide
/-- R69: bits 11 to 4, signed and unsigned; BFI replaces them in d. -/
theorem test_bit_fields : lane5 0x2C030102 0x27 [(1, 0x00000F80), (2, 0x0804)] 3 = 0xFFFFFFF8 ∧ lane5 0x2C030102 0x67 [(1, 0x00000F80), (2, 0x0804)] 3 = 0xF8 ∧
    lane5 0x2D030102 0x27 [(1, 0x12), (2, 0x0804), (3, 0xFFFFFFFF)] 3 = 0xFFFFF12F := by decide
/-- R70: the carry comes from and goes to the guard predicate. -/
theorem test_addc :
    let wp := warpNow (after (step (placed 0x3B030102 0 0x21 0x30 [(36, 0xFFFFFFFF), (37, 5), (68, 0), (69, 6)] [] [(1, 0x10)])))
    wp.vreg 3 4 = 0 ∧ wp.vreg 3 5 = 11 ∧ predMask wp 1 = 0x10 := by decide
/-- R71: cmp.lt p1, v3, v4 has d = 0x11; signed, then unsigned; any and all of bytes. -/
theorem test_cmp : pred5 0x2E110304 0x27 [(3, 0xFFFFFFFF), (4, 1)] [] 1 = true ∧ pred5 0x2E110304 0x67 [(3, 0xFFFFFFFF), (4, 1)] [] 1 = false ∧
    pred5 0x2E6A0304 0x7 [(3, 0x01000000), (4, 0x00010101)] [] 2 = true ∧ pred5 0x2E2A0304 0x7 [(3, 0x01000000), (4, 0x00010101)] [] 2 = false := by decide
/-- R73: plog.and p1, p2, p3 is 0x2F41C2C3; plog.andn has table 4. -/
theorem test_plog : pred5 0x2F41C2C3 0x27 [] [(2, 0x20), (3, 0x20)] 1 = true ∧ pred5 0x2F41C2C3 0x27 [] [(2, 0x20)] 1 = false ∧
    pred5 0x2F21C2C3 0x27 [] [(2, 0x20)] 1 = true ∧ pred5 0x2F21C2C3 0x27 [] [(3, 0x20)] 1 = false := by decide
/-- The worked example of f32 to bf16: part 0, part 1, ties away, toward zero. -/
theorem test_cvt_parts : lane5 0x3006040A 0x97 [(4, 0x3F808001), (6, 0)] 6 = 0x00003F81 ∧ lane5 0x3006052A 0x97 [(5, 0x3F808000), (6, 0x3F81)] 6 = 0x3F803F81 ∧
    lane5 0x3006052A 0x897 [(5, 0x3F808000), (6, 0x3F81)] 6 = 0x3F813F81 ∧ lane5 0x3006040A 0x297 [(4, 0x3F808001), (6, 0)] 6 = 0x00003F80 := by decide
/-- The worked example "one rule per row": to e2m1 (code 14), e4m3 (12) and e5m2 (13). -/
theorem test_cvt_narrow : lane5 0x3006040A 0xE7 [(4, 0x40A00000)] 6 = 6 ∧ lane5 0x3006040A 0x8E7 [(4, 0x40A00000)] 6 = 7 ∧
    lane5 0x3006040A 0xC7 [(4, 0x43960000)] 6 = 0x79 ∧ lane5 0x3006040A 0xC7 [(4, 0x43E80000)] 6 = 0x7E ∧ lane5 0x3006040A 0xC7 [(4, 0x43F00000)] 6 = 0x7F ∧
    lane5 0x3006040A 0x10C7 [(4, 0x43F00000)] 6 = 0x7E ∧ lane5 0x3006040A 0xD7 [(4, 0x37C00000)] 6 = 2 ∧ lane5 0x3006040A 0x2D7 [(4, 0x37C00000)] 6 = 1 ∧
    lane5 0x3006040A 0x20D7 [(4, 0x37C00000)] 6 = 0 := by decide
/-- R77: 2.5 to an integer, to even and away. -/
theorem test_rnd : lane5 0x31030100 0xA7 [(1, 0x40200000)] 3 = 0x40000000 ∧ lane5 0x31030100 0x8A7 [(1, 0x40200000)] 3 = 0x40400000 := by decide
/-- R79, R81: the root of 4.0; the root of −1.0 is the canonical NaN; the reciprocal of −0 is −∞. -/
theorem test_roots : lane5 0x34030100 0xA7 [(1, 0x40800000)] 3 = 0x40000000 ∧ lane5 0x34030100 0xA7 [(1, 0xBF800000)] 3 = 0x7FC00000 ∧
    lane5 0x32030100 0xA7 [(1, 0x80000000)] 3 = 0xFF800000 := by decide
/-- R78: −∞, +0, a negative subnormal. -/
theorem test_fcls : lane5 0x3A030100 0xA7 [(1, 0xFF800000)] 3 = 2 ∧ lane5 0x3A030100 0xA7 [(1, 0)] 3 = 6 ∧ lane5 0x3A030100 0x20A7 [(1, 0x80000001)] 3 = 4 := by decide
/-- R82: MODE gives the old mode and takes the new from a scalar. -/
theorem test_mode :
    let t := after (step (placed 0x3C838400 0 0x27 0x20 [] [(4, 0xA7)] []))
    (warpNow t).sreg 3 = 0x27 ∧ (gangNow t).mode = 0xA7 := by decide
/-- R83: modef.arith 0x104 writes bits 13 to 4; a field number of 10 is a mode fault. -/
theorem test_modef : (gangNow (after (step (placed 0x3D080104 0 0x27 0x20 [] [] [])))).mode = 0x1047 ∧
    (gangNow (after (step (placed 0x3D0A0000 0 0x27 0x20 [] [] [])))).trapped = true := by decide

/-- The gang of the worked example "counting and placing survivors": lanes 4 to 11. -/
def survivors (w : Nat) : State :=
  placed w 0 0x27 0xFF0 [(68, 5), (69, 0xFFFFFFFF), (70, 0), (71, 7), (72, 3), (73, 0xFFFFFFFE), (74, 9), (75, 4)] [] [(1, 0xD90)]
/-- A vector register in lanes 4 to 11. -/
def lanes411 (s : State) (r : Nat) : List Nat := [4, 5, 6, 7, 8, 9, 10, 11].map fun l => ((warpNow s).vreg r l).toNat

/-- The worked example: CMP, VOTE, SCANX, REDX and PICK. -/
theorem test_survivors_cmp : predMask (warpNow (after (step (survivors 0x2E2102E0)))) 1 = 0xD90 := by decide
theorem test_survivors_vote : (warpNow (after (step (survivors 0x408AC102)))).sreg 10 = 0xD90 ∧ (warpNow (after (step (survivors 0x408BC103)))).sreg 11 = 5 := by decide
theorem test_survivors_scanx : lanes411 (after (step (survivors 0x4605C100))) 5 = [0, 1, 1, 1, 2, 3, 3, 4] := by decide
theorem test_survivors_redx : (warpNow (after (step (survivors 0x478C0200)))).sreg 12 = 25 := by decide
theorem test_survivors_pick : lanes411 (after (step (survivors 0x420602E1))) 6 = [5, 5, 0xFFFFFFFF, 0, 7, 3, 0xFFFFFFFE, 9] := by decide
/-- R149: the running sums. -/
theorem test_scan : lanes411 (after (step (survivors 0x45050200))) 5 = [5, 4, 4, 11, 14, 12, 21, 25] := by decide
/-- R148: the lane above, and the lane whose number differs in bit 0. -/
theorem test_pick_dn_xor : lanes411 (after (step (survivors 0x430602E1))) 6 = [0xFFFFFFFF, 0, 7, 3, 0xFFFFFFFE, 9, 4, 4] ∧
    lanes411 (after (step (survivors 0x440602E1))) 6 = [0xFFFFFFFF, 5, 7, 0, 0xFFFFFFFE, 3, 4, 9] := by decide
/-- R150: the mask of the lanes with an equal value. -/
theorem test_match : lanes411 (after (step (placed 0x48050200 0 0x27 0x30 [(68, 9), (69, 9)] [] []))) 5 = [0x30, 0x30, 0, 0, 0, 0, 0, 0] := by decide
/-- R151: V2S from lane 7, and from a lane outside the gang. -/
theorem test_v2s : (warpNow (after (step (placed 0x49830284 0 0x27 0xFF0 [(71, 7)] [(4, 7)] [])))).sreg 3 = 7 ∧
    (warpNow (after (step (placed 0x49830284 0 0x27 0xFF0 [(71, 7)] [(3, 8), (4, 0)] [])))).sreg 3 = 0 := by decide

/-- R84: SMULH, SSAR and the compares; R61: SMOVH keeps the low half. -/
theorem test_scalar_high : scalarOf 0x56838485 0x27 [(4, 0xFFFFFFFE), (5, 3)] 3 = 0xFFFFFFFF ∧ scalarOf 0x56838485 0x67 [(4, 0xFFFFFFFE), (5, 3)] 3 = 2 ∧
    scalarOf 0x52831234 0x27 [(3, 0x56789ABC)] 3 = 0x12349ABC := by decide
theorem test_scalar_shift : scalarOf 0x5A838485 0x27 [(4, 3), (5, 4)] 3 = 48 ∧ scalarOf 0x5B838485 0x27 [(4, 48), (5, 4)] 3 = 3 ∧
    scalarOf 0x5C838485 0x27 [(4, 0x80000000), (5, 33)] 3 = 0xFFFFFFFF := by decide
theorem test_scalar_compare : scalarOf 0x5E838485 0x27 [(4, 0xFFFFFFFF), (5, 1)] 3 = 1 ∧ scalarOf 0x5F838485 0x27 [(4, 0xFFFFFFFF), (5, 1)] 3 = 0 ∧
    scalarOf 0x5D838485 0x27 [(4, 8), (5, 8)] 3 = 1 := by decide
theorem test_scalar_arith : scalarOf 0x53838485 0x27 [(4, 7), (5, 9)] 3 = 16 ∧ scalarOf 0x54838485 0x27 [(4, 7), (5, 9)] 3 = 0xFFFFFFFE ∧
    scalarOf 0x55838485 0x27 [(4, 7), (5, 9)] 3 = 63 := by decide
/-- R48, R84: under i64 a sum carries into the pair's high register. -/
theorem test_scalar_pair : scalarOf 0x53828486 0x37 [(4, 0xFFFFFFFF), (5, 1), (6, 1), (7, 2)] 3 = 4 := by decide

/-- R55: BRA with all lanes active goes 16 bytes a unit; the last bundle is at 0x10000. -/
theorem test_bra : (gangNow (after (step (placed 0x02FFFFFC 0 0x27 0x30 [] [] [])))).pc = 0xFFC4 := by decide
/-- R137, R138: the lanes that do not branch go on in another gang. -/
theorem test_bra_diverges :
    let t := after (step (placed 0x02000004 0 0x20 0x30 [] [] [(0, 0x10)]))
    ((warpNow t).gangs.map fun (_, gn) => (gn.pc.toNat, gn.mask.toNat)) = [(0x10008, 0x20), (0x10044, 0x10)] := by decide
/-- R56: SBRA tests the scalar for the whole gang. -/
theorem test_sbra : (gangNow (after (step (placed 0x0385FFFC 0 0x27 0x30 [] [(5, 1)] [])))).pc = 0xFFC4 ∧
    (gangNow (after (step (placed 0x0385FFFC 0 0x27 0x30 [] [] [])))).pc = 0x10008 := by decide
/-- R140: CALL writes the address of the next slot to the link pair of each lane. -/
theorem test_call :
    let t := after (step (placed 0x05060002 0 0x27 0x20 [] [] []))
    (gangNow t).pc = 0x10024 ∧ (warpNow t).vreg 6 5 = 0x10008 ∧ (warpNow t).vreg 7 5 = 0 := by decide
/-- R58: TRAP halts the gang, which resumes at the next slot. -/
theorem test_trap :
    let t := after (step (placed 0x0D001234 0 0x27 0x20 [] [] []))
    (gangNow t).trapped = true ∧ (gangNow t).pc = 0x10008 := by decide
/-- R57: EXIT takes the gang's lanes out of the warp. -/
theorem test_exit :
    let t := after (step ((placed 0x0C000000 0 0x27 0x30 [] [] []).modWarp 0 0 fun wp => { wp with wld := 0xF0 }))
    (warpNow t).wld = 0xC0 ∧ (warpNow t).gangs = [] := by decide
/-- R20: hold 11 pushes the result, and a-select 11 reads it: the MAD and ADD of "A bundle worked to the bit". -/
theorem test_latch :
    (warpNow (after (step (placed 0x17060405 0x158 0xA7 0x20 [(133, 0x40000000), (165, 0x40400000), (197, 0x3F800000)] [] [])))).newest 5 = some 0x40E00000 := by decide
/-- R18, R132: with stall checking, a stall count that is too short is a stall fault. -/
theorem test_stall_check :
    (gangNow (after (step ((placed 0x13030102 0 0x10027 0x20 [] [] []).modGang 0 0 0 fun gn => { gn with recent := [{ code := 1, left := 2 }] })))).trapped = true := by decide

/-! ## Memory -/

/-- A data page at 0x200000 for the domain, present and writable. -/
def withData (s : State) : State :=
  s.modCore 0 fun c => { c with tlb := { did := 1, va := 0x200000, size := 65536, pa := 0x200000, w := true, x := false } :: c.tlb }

/-- R86, R88: LD32 issues an access of its lanes and lc is one more; the data comes later. -/
theorem test_ld32_issues :
    let s := withData (placed 0x62040201 0 0x27 0x30 [(68, 0x200010), (69, 0x200020)] [] [])
    let s := { s with pot := [(0x20, { owner := 1 })] }
    let t := after (step s)
    (warpNow t).lc = 1 ∧ (coreAt t 0).inflight.map (fun ac => ac.lanes.map fun la => (la.lane, la.pa)) = [[(4, 0x200014), (5, 0x200024)]] := by decide
/-- R87 step 2: an address that is not a multiple of the size is a misaligned fault with the mask of the lanes. -/
theorem test_ld32_misaligned :
    let t := after (step (withData (placed 0x62040200 0 0x27 0x30 [(68, 0x200012), (69, 0x200020)] [] [])))
    (gangNow t).trapped = true ∧ (warpNow t).lc = 0 := by decide
/-- R180: STS32 and LDS32 act on the core's scratchpad bytes, low byte first. -/
theorem test_sts32 :
    let s := (placed 0x6D030200 0 0x27 0x20 [(69, 0x40), (101, 0x11223344)] [] []).modWarp 0 0 fun wp => { wp with view := { base := 0x100, size := 0x100, did := 1 } }
    let t := after (step s)
    cellsRead (coreAt t 0).scratch 0x140 4 = [0x44, 0x33, 0x22, 0x11] := by decide
/-- R188, R189, the worked example "CAS on one word": lane 0 expects 5, observes 5 and leaves 9; lane 2 expects 5 where 11 stands. -/
theorem test_cas_lanes :
    let ac : Access := { id := 0, kind := .atomic .cas, mode := 0x27 }
    atomFun ac { lane := 0, pa := 0, size := 4, val := 9, expect := 5 } 5 = some 9 ∧ atomFun ac { lane := 2, pa := 0, size := 4, val := 7, expect := 5 } 11 = none := by decide
/-- R213, the worked example "four granules of one partition". -/
theorem test_interleave : hbmHome [0, 1, 8, 9] 0x3201840C0 = 1 ∧ hbmHome [0, 1, 8, 9] 0x3201850C0 = 8 ∧ hbmHome [0, 1, 8, 9] 0x3201860C0 = 9 ∧
    hbmHome [0, 1, 8, 9] 0x3201870C0 = 0 ∧ hbmLocal 4 0x3201840C0 = 0xC80610C0 ∧ hbmBank 4 0x3201840C0 = 0 := by decide
/-- R340: VA 0x00C00000 indexes 0, 0, 0, 6 and 0; the leaf at level 0 maps frame 0x7000. -/
theorem test_walk :
    let s := [(0x1000, 0x2001), (0x2000, 0x3001), (0x3000, 0x4001), (0x4030, 0x5001), (0x5000, 0x7005)].foldl (fun s (a, e) => memPutNat s a 8 e) State.reset
    walkFrom s 0 0x00C00123 5 0x1000 = .ok { va := 0x00C00000, size := 4096, pa := 0x7000, w := true, x := false } := by decide
/-- R273, the worked example "a tiny term in two orders": 1 then 2^−250, and the other way round. -/
theorem test_anchor : (({} : Acc).addTerm 1 0).addTerm 1 (-250) = { a := 0x80000000000000000000000000000000000000000000000000000000, anchor := some 0, below := true } ∧
    (({} : Acc).addTerm 1 (-250)).addTerm 1 0 = { a := 0x200000000000000000000000000000000000000000000000000000000000000, anchor := some (-26), below := true, span := true } := by decide
/-- R244 to R247, the worked example "one block, one cell": 3.0, −1.25 and 0.5 in pl4. -/
theorem test_pack :
    let s := (placed 0x9008A8FF 0 0xA7 0xFFFFFFFF [(256, 0x40400000), (257, 0xBFA00000), (258, 0x3F000000)] [(40, 0x03000000), (41, 0x00200010), (42, 0x00010001)] []).modWarp 0 0
      fun wp => { wp with view := { base := 0, size := 0x1000, did := 1 } }
    let c := coreAt (after (step s)) 0
    [0, 0x200, 0x400, 0x600].map (fun a => cellsNat c.scratch a 4) = [4, 3, 3, 2] ∧ cellRead c.scratch 0x800 = 0x7E := by decide
/-- R196, R199: BINIT writes an object that expects n arrivals; a misaligned object is a barrier fault. -/
theorem test_binit :
    let s := fun (a : Word) => (placed 0x80008485 0 0x27 0xFFFFFFFF [] [(4, a), (5, 3)] []).modWarp 0 0 fun wp => { wp with view := { base := 0x100, size := 0x100, did := 1 } }
    (barAt (coreAt (after (step (s 0x20))) 0) 0x120).valid = true ∧ (gangNow (after (step (s 0x24)))).trapped = true := by decide
/-- R92: WAITC goes on when the counter is at most n, and waits otherwise. -/
theorem test_waitc :
    let s := (placed 0x8BD90002 0 0x27 0xFFFFFFFF [] [] []).modWarp 0 0
    (gangNow (after (step (s fun wp => { wp with lc := 2 })))).pc = 0x10008 ∧ (gangNow (after (step (s fun wp => { wp with lc := 3 })))).status = .waiting .counter := by decide
/-- R155: VSHRINK gives back n of 16 blocks. -/
theorem test_vshrink : (warpNow (after (step (placed 0x4D830004 0 0x27 0xFFFFFFFF [] [] [])))).blocks = 12 ∧
    (warpNow (after (step (placed 0x4D830004 0 0x27 0xFFFFFFFF [] [] [])))).sreg 3 = 12 := by decide
/-- R143, R142: JOIN pushes the rejoin address, and MEET of a whole gang pops it. -/
theorem test_join_meet :
    ((gangNow (after (step (placed 0x08000003 0 0x27 0x30 [] [] [])))).stack.map fun e => (e.rejoin.toNat, e.mask.toNat)) = [(0x10034, 0x30)] := by decide
/-- R283: a gate index beyond the table is a gate fault. -/
theorem test_gate_refused : (gangNow (after (step (placed 0xB0820005 0 0x27 0xFFFFFFFF [] [] [])))).trapped = true := by decide
/-- R37: a supervisor instruction on a compute core is a privilege fault, TRET on a service core goes to TEPC. -/
theorem test_profiles :
    let svc := (State.reset.withFetchWord 32 0xC4000000).modCore 512 fun c => { c with svc := { c.svc with tepc := 0x3004, pie := true } }
    let t := after (step svc)
    ((gangAt t 512 0 0).map Gang.pc, (coreAt t 512).svc.ie) = (some 0x3004, true) ∧
    (gangNow (after (step { State.reset.withFetchWord 32 0x01000000 with mem := (memPut State.reset 0x10000 (natLe 4 0x40000000 ++ natLe 4 0xC4000000)).mem }))).trapped = true := by decide
/-- R302: CSRR of ISCTL reads its reset value. -/
theorem test_csrr :
    let t := after (step ((State.reset.withFetchWord 32 0xC0838400).modWarp 512 0 fun wp => { wp with sregs := [(4, 0x00100000)] }))
    ((warpAt t 512 0).map fun wp => wp.sreg 3) = some 0x08000000 := by decide
/-- R36: a code without an instruction is an illegal-instruction fault, and so is the word of zeros (R54). -/
theorem test_illegal : (gangNow (after (step (placed 0x3F000000 0 0x27 0x20 [] [] [])))).trapped = true ∧
    (gangNow (after (step (placed 0 0 0x27 0x20 [] [] [])))).trapped = true := by decide
/-- The steps of the module: a quota in range is taken, one out of range is not (R397). -/
theorem test_quota : (after (exec (.powerQuotaUpdate 8) State.reset)).quota = 8 ∧ (after (exec (.powerQuotaUpdate 7) State.reset)).quota = 64 := by decide
/-! ## Witnesses: states and operands that meet the hypotheses of each statement -/

/-- The conditions of Issues, as a test. -/
def issuesB (x : Ctx) (f : Form) : Bool :=
  decide (bitsW x.s.ctl 31 30 < 2) && (profileFault x.k f.op).isNone && !earlyHit x f && operandOk x f && decide (latchMissing x f = 0) && boundOk x f && decide (indexOut x f = 0) && f.typed
  && decide (edgeMissing x f = 0) && !stallShort x f && !pendingHit x f && (poisonOf x f).isNone && !x.gn.stepping

theorem issues_of_issuesB (x : Ctx) (f : Form) (h : issuesB x f = true) : Issues x f := by
  simp only [issuesB, Bool.and_eq_true, Bool.not_eq_true', decide_eq_true_eq, Option.isNone_iff_eq_none] at h
  obtain ⟨⟨⟨⟨⟨⟨⟨⟨⟨⟨⟨⟨h1, h2⟩, h3⟩, h4⟩, h5⟩, h6⟩, h7⟩, h8⟩, h9⟩, h10⟩, h11⟩, h12⟩, h13⟩ := h
  exact ⟨h1, h2, h3, h4, h5, h6, h7, h8, h9, h10, h11, h12, h13⟩

/-- The cursor of a state names a live gang, and its context passes a test. -/
def meets (s : State) (p : Ctx → Bool) : Bool := match ctxOf s with | some x => p x | none => false

theorem exists_of_meets (s : State) (p : Ctx → Bool) (h : meets s p = true) : ∃ x, ctxOf s = some x ∧ p x = true := by
  unfold meets at h; split at h
  · next x hx => exact ⟨x, hx, h⟩
  · cases h

/-- A gang of compute core 0 in the middle of a step, and one of service core 512. -/
def stood (mode mask : Word) (vs ss : AMap Word) (ps : AMap Mask) : State :=
  { placed 0x01000000 0 mode mask vs ss ps with pair := [], cur := {}, insn := 0x01000000, ctl := 0x40000000 }
def stoodSvc (ss : AMap Word) : State :=
  { (State.reset.withFetchWord 32 0xC4000000).modWarp 512 0 fun wp => { wp with sregs := ss } with pair := [], cur := { core := 512 }, insn := 0xC4000000, ctl := 0x40000000 }
def modG (s : State) (f : Gang → Gang) : State := s.modGang 0 0 0 f
def modW (s : State) (f : Warp → Warp) : State := s.modWarp 0 0 f
def i32 : State := stood 0x27 0xFFFFFFFF [] [] []
def i64 : State := stood 0x37 0xFFFFFFFF [] [] []
def f32 : State := stood 0xA7 0xFFFFFFFF [] [] []

/-- Every row of a table issues in one of the modes i32 and f32, whatever its number. -/
def rowsIssue (n : Nat) (rows : Ctx → List Form) : Bool :=
  (List.range n).all fun i => [i32, f32].any fun s => meets s fun x => match (rows x)[i]? with | some f => issuesB x f | none => false

theorem witness_StepRunsDecoded_word :
    let s := State.reset.withFetchWord 32 0x13030102
    let t := State.reset.withFetchWord 32 0x3F000000
    s.agenda = [] ∧ (∀ u ∈ [s, t], u.pair = [{}] ∧ meets { u with pair := [], cur := {} } fun x => match tlbLook x.c x.did x.gn.pc with | .hit e => e.x | _ => false) ∧
    decode 0x13030102 = .ok (.add (.v 3) (.v 1) (.v 2)) ∧ decode 0x3F000000 = .error .opcode := by
  refine ⟨by decide, by decide, rfl, rfl⟩
theorem witness_StepRunsDecoded_cycle :
    State.reset.agenda = [] ∧ State.reset.pair = [] ∧ State.reset.turn % 2 = 0 ∧ (beginCycle State.reset).2 = [] ∧
    (let s := { State.reset.withFetchWord 32 0x13030102 with pair := [] }; s.turn % 2 = 0 ∧ (beginCycle s).2 = [{}]) := by decide
theorem witness_StepRunsDecoded_event :
    (nextEvent { State.reset with turn := 1 }).isNone = true ∧ (nextEvent { i32.modWarp 0 0 (fun wp => { wp with gangs := [], wld := 0 }) with turn := 1 }).isSome = true := by decide
theorem witness_StepRunsDecoded_fetch :
    let s := State.reset.withFetchWord 32 0x13030102
    let look := fun (u : State) => match ctxOf { u with pair := [], cur := {} } with | some x => isCompute x.k && (match tlbLook x.c x.did x.gn.pc with | .miss => decide (u.free = 1) | .notCanonical => decide (u.free = 2) | .hit e => !e.x && decide (u.free = 3) | _ => false) | none => false
    (∀ u ∈ [{ s.modCore 0 (fun c => { c with tlb := [] }) with free := 1 }, { s.modGang 0 0 0 (fun gn => { gn with pc := 0x8000000000000004 }) with free := 2 },
        { s.modCore 0 (fun c => { c with tlb := c.tlb.map fun e => { e with x := false } }) with free := 3 }], u.agenda = [] ∧ u.pair = [{}] ∧ look u = true) := by decide
theorem witness_MemoryStaysCanonical :
    Memory.wf i32.mem = true ∧ (match step (State.reset.withFetchWord 32 0x13030102) with | .next _ => true | _ => false) = true := by decide
theorem witness_FaultOrder :
    let add := fun (x : Ctx) => aluForm x 0x13 (.v 3) (.v 1) (.v 2) true true false (arithType x.t) (latAdd x.t)
    let ok := fun (x : Ctx) (f : Form) => decide (bitsW x.s.ctl 31 30 < 2) && (profileFault x.k f.op).isNone
    meets { i32 with ctl := 0x80000000 } (fun x => decide (2 ≤ bitsW x.s.ctl 31 30)) ∧
    meets i32 (fun x => decide (profileFault x.k 0xC0 = some 0x04) && decide (bitsW x.s.ctl 31 30 < 2)) ∧
    meets i32 (fun x => let f := aluForm x 0x13 (.p 3) (.v 1) (.v 2) true true false true 4; ok x f && !operandOk x f) ∧
    meets { i32 with ctl := 0x40600000 } (fun x => ok x (add x) && operandOk x (add x) && decide (latchMissing x (add x) ≠ 0)) ∧
    meets (modW i32 fun wp => { wp with blocks := 0 }) (fun x => ok x (add x) && operandOk x (add x) && decide (latchMissing x (add x) = 0) && !boundOk x (add x)) ∧
    meets (stood 0xC7 1 [] [] []) (fun x => ok x (add x) && operandOk x (add x) && boundOk x (add x) && !(add x).typed) ∧
    meets { stood 0xC027 1 [] [] [] with ctl := 0x40200000 } (fun x => ok x (add x) && operandOk x (add x) && boundOk x (add x) && (add x).typed && decide (edgeMissing x (add x) ≠ 0)) ∧
    meets (modG (stood 0x10027 1 [] [] []) fun gn => { gn with recent := [{ code := 3, left := 1 }] })
      (fun x => ok x (add x) && operandOk x (add x) && boundOk x (add x) && (add x).typed && decide (edgeMissing x (add x) = 0) && stallShort x (add x)) ∧
    meets (modW i32 fun wp => { wp with pend := [{ code := 3, lanes := 0xFFFFFFFF, left := 2 }] })
      (fun x => ok x (add x) && operandOk x (add x) && boundOk x (add x) && (add x).typed && decide (edgeMissing x (add x) = 0) && !stallShort x (add x) && pendingHit x (add x)) := by decide
/-- A register that a load is to write and that SCRUB reads before its checks. -/
def loading3 : State := (stood 0x27 1 [] [] []).modCore 0 fun c => { c with inflight := [{ id := 5, did := 1, kind := .load, dest := .scal 3 1, lanes := [{ lane := 0, pa := 0, size := 4 }] }] }
theorem witness_FaultOrder_early :
    meets loading3 (fun x => decide (bitsW x.s.ctl 31 30 < 2) && (profileFault x.k 0xB3).isNone && earlyHit x (scrubForm x 1 (.s 3) .z (scrubFirst x 1 (.s 3)))) := by decide
/-- The rows of the other families: no field is wrong, and one that is. -/
theorem witness_FaultOrder_system :
    meets i32 (fun x => (systemRows x (.s 2) (.s 8) (.s 8) 0 1 1 false false).any (fun r => decide (r.1 = .mldb (.s 8)) && operandOk x r.2 && boundOk x r.2 && r.2.typed) &&
      (systemRows x (.s 3) (.v 1) (.s 8) 0 9 300 false false).any (fun r => decide (r.1 = .agq (.s 3) 300) && !operandOk x r.2)) ∧
    meets i32 (fun x => (systemRows x (.v 3) (.v 2) (.s 8) 0 1 1 false false).any (fun r => decide (r.1 = .ld32 (.v 3) (.v 2) 0) && operandOk x r.2 && decide (profileFault x.k r.2.op = none)) &&
      (systemRows x (.v 3) (.v 2) (.s 8) 0 1 1 false false).any (fun r => decide (r.1 = .tret) && decide (profileFault x.k r.2.op = some 0x04))) := by decide
theorem witness_ShiftMeaning : meets i32 fun x => x.t.isInt && ([0x24, 0x25, 0x26, 0x27, 0x28].all fun op => issuesB x (aluForm x op (.v 3) (.v 1) (.v 2) true true (decide (op = 0x28)) true 4)) := by decide
theorem witness_BitMeaning : meets i32 fun x => x.t.isInt && ([(0x20, Reg.v 2), (0x21, .v 2), (0x22, .v 2), (0x23, .z)].all fun (op, b) =>
    issuesB x (aluForm x op (.v 3) (.v 1) b true (decide (op ≠ 0x23)) false true 4)) && ([0x29, 0x2A, 0x2B].all fun op => issuesB x (aluForm x op (.v 3) (.v 1) .z true false false true 4)) := by decide
theorem witness_IntegerMeaning :
    EType.i8.isInt = true ∧ intValue .i8 0x80 = intMin .i8 ∧ intValue .i8 0xFF = -1 ∧ (0x80 : Nat) < 2 ^ EType.i8.width ∧ ¬ (intValue .i8 0x7F = intMin .i8 ∧ intValue .i8 0xFF = -1) := by decide
theorem witness_CarryAdd :
    [0x27, 0x21].all fun m => meets (stood m 0xFFFFFFFF [] [] []) fun x => issuesB x { aluForm x 0x3B (.v 3) (.v 1) (.v 2) true true false (decide (x.t = .i32 ∨ x.t = .n32)) 4 with acts := some x.gn.mask, writes := [(.v 3, 1), (predReg (modeGp x.mode), 1)] } := by decide
theorem witness_ElementResults : rowsIssue 32 fun x => (elementRows x (.v 3) (.v 1) (.v 2)).map fun r => r.2.1 := by decide
theorem witness_ElementResults_wide : meets (stood 0x37 1 [] [] []) fun x => ((elementRows x (.v 4) (.v 6) (.v 8)).map fun r => r.2.1).take 12 |>.all (issuesB x) := by decide
theorem witness_OperandResults : rowsIssue 11 fun x => (operandRows x (.v 3) (.v 1) (.v 2) 5 0).map fun r => r.2.1 := by decide
theorem witness_ModeAndConversion :
    (meets i32 fun x => [Reg.z, .s 4].all fun a => issuesB x { op := 0x3C, classes := Reg.sz (.s 3) && Reg.unif a, guard := false, once := true, more := [(a, 1)], writes := [(.s 3, 1)], lat := 2, typed := Reg.isZ a || modeOk (x.rd 0 a) }) ∧
    (meets i32 fun x => (modefValue x.gn.mode 8 0x104).isSome && issuesB x { op := 0x3D, guard := false, once := true }) ∧
    [(i32, (10 : Nat)), (f32, 3), (i64, 2), (f32, 14)].all fun (s, t) => meets s fun x => match etypeOf t with
      | none => false
      | some ts => issuesB x { op := 0x30, classes := Reg.vz (.v 4) && decide (0 < cvtParts ts x.t), a := .v 2, aw := ts.regs, aLane := !ts.is64, res := !x.t.is64, more := if ts.elems < x.t.elems then [(.v 4, x.t.regs)] else [], writes := [(.v 4, x.t.regs)], lat := if ts.is64 || x.t.is64 then 10 else 5 } := by decide
theorem witness_PredicateResults :
    (meets i32 fun x => issuesB x { op := 0x2E, classes := decide (23 < 24), a := .v 1, b := .v 2, aw := x.width, bw := x.width, aLane := !x.is64, bLane := !x.is64, writes := [(predReg 1, 1)], lat := 4 }) ∧
    (meets i32 fun x => issuesB x { op := 0x2F, classes := Reg.isP (.p 2) && Reg.isP (.p 3), more := [(.p 2, 1), (.p 3, 1)], writes := [(predReg 1, 1)], lat := 2 }) ∧
    ([(0, Reg.p 1), (1, .z), (2, .v 3), (3, .s 3)].all fun (op, d) => meets i32 fun x => issuesB x { op := 0x40, classes := decide (op < 4) && (if op < 2 then Reg.isP d || Reg.isZ d else Reg.vz d || Reg.isS d) && Reg.isP (.p 2), more := [(.p 2, 1)], writes := [(d, 1)], lat := 6, res := decide (2 ≤ op) && Reg.vz d }) := by decide
theorem witness_ScalarResults : (meets i32 fun x => ((scalarRows x (.s 3) (.s 4) (.s 5) 7).map fun r => r.2.1).all (issuesB x)) ∧
    (meets i64 fun x => ((scalarRows x (.s 2) (.s 4) (.s 6) 7).map fun r => r.2.1).all (issuesB x)) ∧
    (meets i32 fun x => issuesB x { op := 0x52, classes := Reg.sz (.s 3), guard := false, once := true, more := [(.s 3, 1)], writes := [(.s 3, 1)], lat := 2 }) := by decide
theorem witness_LaneExchange :
    (meets (stood 0x27 0xF0 [] [] []) fun x => [(0x41, 0), (0x42, 1), (0x43, 2), (0x44, 3)].all fun (op, v) =>
      issuesB x { laneForm x op (Reg.vz (.v 3)) (.v 1) x.width (.v 3) x.width with b := .k 1, bw := 1, bLane := true, ownPoison := true, writes := [(.v 3, x.width), (predReg (modeGp x.mode), 1)], from_ := some ((List.range 32).map fun l => (pickSource x v (srcB x (.k 1) l).toNat l).getD l), noEdge := true, early := if x.asel = 3 ∧ !x.blatch then regCodes (.k 1) 1 else [] } &&
      (takenPoison x x.active (fun l => (pickSource x v (srcB x (.k 1) l).toNat l).getD l) (.v 1) x.width).isNone && decide (x.asel = 0)) ∧
    (meets i32 fun x => [Reg.v 3, .s 3].all fun d => issuesB x (scanForm x 0x47 d (.v 1) 0 (Reg.vz d || Reg.isS d))) ∧
    ([0, 31, 40].all fun n => meets (stood 0x27 1 [] [(5, n)] []) fun x =>
      let f := { laneForm x 0x49 (Reg.sz (.s 3) && Reg.unif (.s 5)) (.v 1) x.width (.s 3) x.width with aOk := Reg.isV (.v 1), more := [(.s 5, 1)], ownPoison := true, res := false }
      issuesB x f && (holdPoison x f).isNone && (takenPoison x (bitMask 0) (fun l => l) (.v 1) x.width true).isNone) := by decide
theorem witness_IndexedRegisters :
    (meets i32 fun x => (let f : Form := { op := 0x4A, classes := Reg.vz (.v 3), a := .v 1, b := .k 1, aw := 1, bw := 1, aOk := Reg.isV (.v 1), bOk := Reg.isV (.k 1) || Reg.unif (.k 1), aLane := true, bLane := true, res := true, ownPoison := true, writes := [(.v 3, 1)], lat := 6, waits := allVectors x.wp, indexed := if x.asel = 3 then none else some (vNum (.v 1)), early := if x.blatch then [] else regCodes (.k 1) 1 }; issuesB x f && (holdPoison x f).isNone) &&
      (indexedPoison x fun l => vNum (.v 1) + (srcB x (.k 1) l).toNat).isNone) ∧
    (meets i32 fun x => issuesB x { op := 0x4B, classes := Reg.isV (.v 3), a := .v 1, b := .k 1, aw := 1, bw := 1, bOk := Reg.isV (.k 1) || Reg.unif (.k 1), aLane := true, bLane := true, indexed := some (vNum (.v 3)), early := if x.blatch then [] else regCodes (.k 1) 1, waits := ((lanesOf x.active).map fun l => vNum (.v 3) + (srcB x (.k 1) l).toNat).filter fun n => decide (n < 8 * x.wp.blocks) }) := by decide
/-- A gang at a JOIN's rejoin address, with one entry on its stack; another gang of the warp that may stand elsewhere. -/
def atMeet (limit : Nat) (pend : List PendRecord) (others : AMap Gang) : State :=
  modW i32 fun wp => { wp with meetLimit := limit, gangs := (0, { pc := 0x10004, mask := 0xF, stack := [{ rejoin := 0x10004, mask := 0xFF, tag := 3 }], pending := pend }) :: others }
/-- Every lane's pair v6:v7 or s6:s7 holds the code page's landing bundle. -/
def toCode : State := stood 0x27 0xF ((List.range 4).map fun l => (32 * 6 + l, 0x10000)) [(6, 0x10000)] []
theorem witness_SimpleControl :
    meets i32 (fun x => issuesB x (ctlForm 0x01) && issuesB x { ctlForm 0x03 (Reg.unif (.s 1) || decide (Reg.s 1 = .p 7)) with more := [(.s 1, 1)] } &&
      issuesB x (ctlForm 0x0E) && issuesB x (ctlForm 0x08) && decide (x.gn.stack.length < 16) && issuesB x { ctlForm 0x0F (Reg.unif .z || Reg.isP .z) with more := [(.z, 1)] }) ∧
    meets (atMeet 512 [] []) (fun x => decide (x.gn.stack ≠ []) && decide (x.gn.mask &&& ~~~(0x3 : Mask) ≠ 0) && issuesB x { ctlForm 0x0F (Reg.unif (.p 1) || Reg.isP (.p 1)) with more := [(.p 1, 1)] }) ∧
    meets (modG i32 fun gn => { gn with stack := List.replicate 15 { rejoin := 0, mask := 0, tag := 0 } }) (fun x => decide (x.gn.stack.length < 16)) := by decide
theorem witness_LaneTransfers :
    meets toCode (fun x => issuesB x { op := 0x02 } && issuesB x { op := 0x05, classes := Reg.vz (.v 4), writes := [(.v 4, 2)], lat := 4 } &&
      issuesB x { op := 0x04, classes := Reg.addrPair (.v 6), more := [(.v 6, 2)] } && decide (checkTargets x x.did x.active (fun l => x.rd64 l (.v 6)) false = .ok ()) &&
      issuesB x { op := 0x06, classes := Reg.vz (.v 4) && Reg.addrPair (.s 6), more := [(.s 6, 2)], writes := [(.v 4, 2)], lat := 4 } &&
      decide (checkTargets x x.did x.active (fun l => x.rd64 l (.s 6)) false = .ok ())) ∧
    meets (stood 0x27 0xF [] [(6, 0x10004)] []) (fun x => issuesB x { op := 0x07, classes := Reg.addrPair (.s 6), more := [(.s 6, 2)] } &&
      decide (checkTargets x x.did x.active (fun l => x.rd64 l (.s 6)) true = .ok ())) := by decide
theorem witness_TransferMoves :
    meets i32 (fun x => !x.gn.stepping && decide (x.gn.mask ≠ 0) && decide (x.active = x.gn.mask)) ∧ meets (stood 0x20 0xF [] [] []) (fun x => decide (x.active = 0) && decide (x.gn.mask ≠ 0)) ∧
    meets (stood 0x20 0xF [] [] [(0, 3)]) (fun x => decide (x.active ≠ 0) && decide (x.active ≠ x.gn.mask) && !modeLstep x.mode && decide ((freeEntries x.wp).head? = some 1)) := by decide
theorem witness_WarpRejoins :
    let entry : StackEntry := { rejoin := 0x10004, mask := 0xFF, tag := 3 }
    let at_ := fun (x : Ctx) => issuesB x (ctlForm 0x09) && decide (x.gn.stack = [entry]) && decide (entry.rejoin = x.gn.pc)
    meets i32 (fun x => issuesB x (ctlForm 0x09) && decide (x.gn.stack = [])) ∧
    meets (atMeet 512 [{ dest := 0x10024, lanes := 0xF0, mode := 0x27, depth := 1 }] []) (fun x => at_ x && (x.gn.pending.map fun r => decide (r.depth = x.gn.stack.length)) == [true]) ∧
    meets (atMeet 512 [] []) (fun x => at_ x && decide (x.gn.pending = []) && !siblingOut x.wp x.g x.gn.pc 3) ∧
    meets (atMeet 0 [] [(1, { pc := 0x10024, mask := 0xF0, stack := [entry] })]) (fun x => at_ x && decide (x.gn.pending = []) && decide (x.wp.meetLimit = 0)) ∧
    meets (atMeet 512 [] [(1, { pc := 0x10024, mask := 0xF0, stack := [entry] })]) (fun x => at_ x && decide (x.gn.pending = []) && siblingOut x.wp x.g x.gn.pc 3 && decide (x.wp.meetLimit ≠ 0)) ∧
    meets i32 (fun x => issuesB x (ctlForm 0x0B) && issuesB x { op := 0x0C } && x.wp.gangs.all fun p => decide (p.2.pending = []) && decide (p.2.stack = [])) := by decide
/-- A SWITCH of two cases and the table bundle after it, whose entries lead back to it. -/
theorem witness_SwitchTransfers :
    let s := fun mask => memPut (stood 0x27 mask [] [] []) 0x10010 (natLe 4 0x80000000 ++ natLe 4 0xFFFFFFFF ++ natLe 4 0 ++ natLe 4 0)
    let ok := fun (x : Ctx) (l : Nat) =>
      let addr := switchEntryAddr x.gn.pc (switchIndex x (.k 1) 2 l)
      (match tlbLook x.c x.did addr with | .hit e => e.x | _ => false) && decide (bitsW (switchWord x addr (bundleOf addr)) 31 30 = 2) &&
        (match tlbLook x.c x.did (switchTarget x addr) with | .hit e => e.x | _ => false)
    let form : Form := { op := 0x0A, classes := Reg.any (.k 1) && !Reg.isP (.k 1) && decide (1 ≤ 2) && decide (2 ≤ 1024), more := [(.k 1, 1)] }
    let fetched := fun (s : State) => s.modCore 0 fun c => { c with tables := [(tableKey 1 0x10010, 0)] }
    let tables := fun (x : Ctx) => (AMap.get? x.c.tables (tableKey x.did (bundleOf (switchEntryAddr x.gn.pc (switchIndex x (.k 1) 2 0))).toNat))
    meets (s 0xF) (fun x => issuesB x form && (lanesOf x.gn.mask).all (ok x) && (tables x).isNone) ∧
    meets (fetched (s 0xF)) (fun x => issuesB x form && (lanesOf x.gn.mask).all (ok x) && decide (tables x = some 0)) ∧
    meets (fetched (s 0)) (fun x => issuesB x form && ok x 0 && decide (x.gn.mask = 0) && decide (tables x = some 0)) := by decide
theorem witness_TrapInstructions :
    meets i32 (fun x => decide (bitsW x.s.ctl 31 30 < 2) && issuesB x { op := 0x0D } && decide (x.active ≠ 0) && issuesB x { op := 0xCF, guard := false, once := true }) ∧
    meets (stood 0x20 0xF [] [] []) (fun x => issuesB x { op := 0x0D } && decide (x.active = 0)) := by decide
theorem witness_RegisterBlocks :
    let grow := fun (n : Nat) (x : Ctx) => decide (x.wp.frames = []) && match slotOf x.c x.wp.did with
      | none => false
      | some (_, sl) => issuesB x { op := 0x4C, classes := Reg.sz (.s 3) && decide (n ≤ 15), guard := false, once := true, writes := [(.s 3, 1)] } && decide (x.wp.blocks + n ≤ 16) &&
          decide (granulesFor (x.wp.blocks + n) - granulesFor x.wp.blocks ≤ sl.granules - sl.reserve - granulesFor x.wp.blocks)
    let older := fun (x : Ctx) => (quadWarps x.c (x.w / 16) x.wp.did).any fun p => decide (p.2.age < x.wp.age) && p.2.growing.isSome
    let opens := fun (x : Ctx) (g : Nat) => match slotOf x.c x.wp.did with | some (_, sl) => decide (g ≤ openGranules x.c sl (x.w / 16)) | none => false
    let small := modW i32 fun wp => { wp with blocks := 4 }
    let waits : Warp := { blocks := 4, did := 1, didNow := 1, gangs := [(0, { status := .waiting (.vgrow 4 .z) })] }
    meets i32 (grow 0) ∧ meets small (fun x => grow 12 x && opens x 6 && !older x) ∧
    meets ((modW small fun wp => { wp with age := 1 }).modCore 0 fun c => { c with warps := c.warps ++ [(1, waits)] }) (fun x => grow 4 x && older x) ∧
    meets i32 (fun x => issuesB x { op := 0x4D, classes := Reg.sz (.s 3) && decide (15 ≤ 15) && decide (15 < x.wp.blocks), guard := false, once := true, writes := [(.s 3, 1)], waits := (List.range (8 * 15)).map (8 * (x.wp.blocks - 15) + ·) } && !landsAbove x.c x.w x.wp.age 8) := by decide
/-- A launch descriptor at 0x200000: entry 0x10000, 1 register block, 1 warp. -/
def withDesc (ss : AMap Word) : State :=
  memPut (withData (stood 0x27 0xF ((List.range 4).map fun l => (32 * 6 + l, 0x10000)) ss [])) 0x200000 (natLe 8 0x10000 ++ natLe 4 0x0101)
theorem witness_WorkSpawning :
    let f : Form := { op := 0x4E, classes := Reg.addrPair (.v 6), a := .v 1, b := .v 2, aw := 1, bw := 1, aLane := true, bLane := true, more := [(.v 6, 2)] }
    meets (stood 0x20 0xF [] [] []) (fun x => issuesB x f && decide (x.active = 0)) ∧
    meets (withDesc []) (fun x => issuesB x f && decide (x.active ≠ 0) && x.gn.spawnLeft.isNone && decide (checkTargets x x.did x.active (fun l => x.rd64 l (.v 6)) false = .ok ()) &&
      (launchDrain x 2).isNone) ∧
    meets (withDesc [(8, 0x200000), (10, 0x00010001), (11, 1)]) (fun x => issuesB x { op := 0x4F, classes := groupReg (.s 8) 58, guard := false, once := true, more := groupReads (.s 8) 6 } &&
      decide (bitsW (groupWord x (.s 8) 2) 15 0 ≠ 0) && decide (bitsW (groupWord x (.s 8) 2) 31 16 ≠ 0) && decide (bitsW (groupWord x (.s 8) 3) 15 0 ≠ 0) &&
      decide (bitsW (groupWord x (.s 8) 3) 31 16 = 0) && (match gridDesc x (pairW (groupWord x (.s 8) 0) (groupWord x (.s 8) 1)) with
        | .ok d => (launchRefused x.s x.part x.did d).isNone | .error _ => false) && (launchDrain x 3).isNone) := by decide

/-- The conditions of Goes, as a test, and that no watch register matches. -/
def goesB (x : Ctx) (c : Counter) (lanes : List LaneAcc) (same : CombineEntry → Bool) : Bool :=
  decide (x.wp.count c < 63) && !hostHeld x (lanes.map fun la => la.pa) && (flushFor x (rangesOf lanes) same).isNone
theorem goes_of_goesB (x : Ctx) (c : Counter) (lanes : List LaneAcc) (same : CombineEntry → Bool) (h : goesB x c lanes same = true) : Goes x c lanes same := by
  simp only [goesB, Bool.and_eq_true, Bool.not_eq_true', decide_eq_true_eq, Option.isNone_iff_eq_none] at h
  exact ⟨h.1.1, h.1.2, h.2⟩
/-- A watch register that matches every access to the 128 bytes at 0x200000. -/
def watching (s : State) : State := s.modCore 0 fun c => { c with watch := [(0, { reg := 0xE7000000, addr := 0x200000, did := 1 })] }
/-- Lanes 0 to 3 of the gang name 0x200000 in v6:v7; s6:s7 does too. -/
def atData (mode : Word) : State := withData (stood mode 0xF ((List.range 4).map fun l => (32 * 6 + l, 0x200000)) [(6, 0x200000)] [])
/-- The same lanes name a page of the cistern. -/
def atCistern : State := (atData 0x27).modCore 0 fun c => { c with tlb := [{ did := 1, va := 0x200000, size := 65536, pa := 0x1000000000000, w := false, x := false }] }
theorem witness_LoadsIssue :
    (List.range 6).all (fun i => meets (if i = 5 then atCistern else atData 0x27) fun x => match (loadRows (.v 8) (.v 6) 0)[i]? with
      | none => false
      | some r => issuesB x { op := r.2.1, classes := Reg.addrPair (.v 6) && Reg.vz (.v 8), more := [(.v 6, 2)], writes := [(.v 8, r.2.2.2.1)] } && decide (x.active ≠ 0) &&
          decide (checkAccess x { size := r.2.2.1, write := false, kindDetail := r.2.2.2.2.2 } false x.active (effAddr x (.v 6) 0 r.2.2.1) (fun _ => false) (fun k => decide (r.2.2.2.2.1 = .load) && hitsL1 x k) = .ok ()) &&
          goesB x .lc ((lanesOf x.active).map fun l => { lane := l, pa := keyFor x (effAddr x (.v 6) 0 r.2.2.1 l), va := effAddr x (.v 6) 0 r.2.2.1 l, size := r.2.2.1 : LaneAcc }) (fun _ => false)) ∧
    (∀ s ∈ [atData 0x27, watching (atData 0x27)], meets s fun x => (watchHit x false 0 [(0x200000, 4)]).isSome == !x.c.watch.isEmpty && (watchHit x false 1 [(0x200000, 4)]).isSome == !x.c.watch.isEmpty) ∧
    meets (modW i32 fun wp => { wp with lc := 62 }) (fun x => decide (x.wp.count .lc < 63)) ∧
    meets (stood 0x20 0xF [] [] []) (fun x => decide (x.active = 0)) := by decide
theorem witness_StoresIssue :
    (List.range 5).all (fun i => meets (atData 0x27) fun x => match (storeRows (.v 8) (.v 6) 0)[i]? with
      | none => false
      | some r =>
        let lanes := (lanesOf x.active).map fun l => { lane := l, pa := keyFor x (effAddr x (.v 6) 0 r.2.2.1 l), size := r.2.2.1, val := BitVec.ofNat 128 (storeData x (.v 8) r.2.2.1 l) : LaneAcc }
        issuesB x { op := r.2.1, classes := Reg.addrPair (.v 6) && r.2.2.2.2, more := [(.v 6, 2), (.v 8, r.2.2.2.1)] } && decide (x.active ≠ 0) &&
          decide (checkAccess x { size := r.2.2.1, write := true } false x.active (effAddr x (.v 6) 0 r.2.2.1) (coversLine lanes) (fun _ => false) = .ok ()) &&
          goesB x .sc lanes (fun _ => false)) ∧
    meets (stood 0x20 0xF [] [] []) (fun x => decide (x.active = 0)) := by decide
theorem witness_ScalarAccessIssue :
    meets (atData 0x27) (fun x =>
      issuesB x { op := 0x70, classes := Reg.spair (.s 6) && Reg.sz (.s 3), more := [(.s 6, 2)], writes := [(.s 3, x.width)], guard := false, once := true } &&
      decide (checkAccess x { size := 4, write := false } true 1 (fun _ => 0x200000) (fun _ => false) (hitsL1 x) = .ok ()) && (let lane : LaneAcc := { lane := 0, pa := keyFor x 0x200000, va := 0x200000, size := 4 }; goesB x .lc [lane] (fun _ => false)) &&
      issuesB x { op := 0x71, classes := Reg.spair (.s 6) && Reg.sz (.s 3), more := [(.s 6, 2), (.s 3, x.width)], guard := false, once := true } &&
      (let lane : LaneAcc := { lane := 0, pa := keyFor x 0x200000, size := 4, val := BitVec.ofNat 128 (x.scal (.s 3)) }
       decide (checkAccess x { size := 4, write := true } true 1 (fun _ => 0x200000) (coversLine [lane]) (fun _ => false) = .ok ()) && goesB x .sc [lane] (fun _ => false)) &&
      issuesB x { op := 0x73, classes := Reg.addrPair (.v 6) && decide (1 < 2), more := [(.v 6, 2)] } && (lanesOf x.active).all (fun l => prefOk x (prefAddr x (.v 6) 0 l)) &&
      decide (laneWhere x.active (fun l => decide (tlbLook x.c x.did (prefAddr x (.v 6) 0 l) = .miss)) = 0) && !hitsL1 x 0x200000 && decide (wayMask x.k x.c x.did ≠ 0)) := by decide
/-- A warp with a view of 4 KiB at core address 0x100. -/
def withView (s : State) : State := modW s fun wp => { wp with view := { base := 0x100, size := 0x1000, did := 1 } }
def inScratch : State := withView (stood 0x27 3 [] [] [])
theorem witness_ScratchpadAccesses_aligned : meets inScratch (fun x => (lanesOf x.active).all fun l => decide (scratchEa x (.v 6) 0 16 l % 16 = 0)) := by decide
theorem witness_ScratchpadAccesses_owned : meets inScratch (fun x => (lanesOf x.active).all fun l => viewOk x.k x.c x.wp.view (scratchEa x (.v 6) 0 16 l) 16) := by decide
theorem witness_ScratchpadAccesses_free : meets inScratch (fun x => (lanesOf x.active).all fun l => !viewScrubbing x.c x.wp.view (scratchEa x (.v 6) 0 16 l) 16 && (watchHit x true 0 [(scratchEa x (.v 6) 0 16 l, 16)]).isNone && (watchHit x true 1 [(scratchEa x (.v 6) 0 16 l, 16)]).isNone) := by decide
theorem witness_ScratchpadAccesses_loads :
    meets inScratch (fun x => ([(0x6A, 1), (0x6B, 2), (0x6C, 4)].all fun (op, n) => issuesB x { op := op, classes := Reg.vz (.v 8), more := [(.v 6, 1)], writes := [(.v 8, n)] })) := by decide
theorem witness_ScratchpadAccesses_stores :
    meets inScratch (fun x => ([((0x6D : Nat), (1 : Nat), Reg.any (.v 8)), (0x6E, 2, Reg.vz (.v 8) || Reg.isS (.v 8)), (0x6F, 4, Reg.vz (.v 8))].all fun (op, n, ok) =>
      issuesB x { op := op, classes := ok, more := [(.v 6, 1), (.v 8, n)] })) := by decide
theorem witness_ScratchpadAccesses :
    (meets inScratch (fun x => (lanesOf x.active).all fun l => decide (scratchEa x (.v 6) 0 16 l % 16 = 0))) ∧
    (meets inScratch (fun x => (lanesOf x.active).all fun l => viewOk x.k x.c x.wp.view (scratchEa x (.v 6) 0 16 l) 16)) ∧
    (meets inScratch (fun x => (lanesOf x.active).all fun l => !viewScrubbing x.c x.wp.view (scratchEa x (.v 6) 0 16 l) 16 && (watchHit x true 0 [(scratchEa x (.v 6) 0 16 l, 16)]).isNone && (watchHit x true 1 [(scratchEa x (.v 6) 0 16 l, 16)]).isNone)) ∧
    (meets inScratch (fun x => ([(0x6A, 1), (0x6B, 2), (0x6C, 4)].all fun (op, n) => issuesB x { op := op, classes := Reg.vz (.v 8), more := [(.v 6, 1)], writes := [(.v 8, n)] }))) ∧
    (meets inScratch (fun x => ([((0x6D : Nat), (1 : Nat), Reg.any (.v 8)), (0x6E, 2, Reg.vz (.v 8) || Reg.isS (.v 8)), (0x6F, 4, Reg.vz (.v 8))].all fun (op, n, ok) =>
      issuesB x { op := op, classes := ok, more := [(.v 6, 1), (.v 8, n)] }))) :=
  ⟨witness_ScratchpadAccesses_aligned, witness_ScratchpadAccesses_owned, witness_ScratchpadAccesses_free, witness_ScratchpadAccesses_loads, witness_ScratchpadAccesses_stores⟩
theorem witness_AtomicsIssue_fetch :
    meets (atData 0x27) (fun x => [0x74, 0x75, 0x76, 0x77, 0x78, 0x79, 0x7A].all fun op => issuesB x { atomForm x op (Reg.vz (.v 8)) (.v 6) (.v 9) with writes := [(.v 8, x.width)] }) ∧
    meets (atData 0x27) (fun x => issuesB x { atomForm x 0x7B (Reg.isV (.v 8)) (.v 6) (.v 9) with writes := [(.v 8, x.width)], more := (atomForm x 0x7B (Reg.isV (.v 8)) (.v 6) (.v 9)).more ++ [(.v 8, x.width)] }) := by decide
/-- In the mode i32, and with sat. -/
def atomicsFit (m : Word) : Bool :=
  meets (atData m) fun x => decide (x.active ≠ 0) && decide (checkAtomic x (.v 6) = .ok ()) && issuesB x (atomForm x 0x7C (decide (0 < 6)) (.v 6) (.v 9)) && goesB x .lc (atomLanes x (.v 6) (.v 9) fun _ => 0) (fun _ => false) &&
    goesB x .lc (atomLanes x (.v 6) (.v 9) fun l => opD x (.v 8) l) (fun _ => false) && goesB x .sc (atomLanes x (.v 6) (.v 9) fun _ => 0) (fun e => !modeSat x.mode && e.sameKey x .add)
theorem witness_AtomicsIssue : atomicsFit 0x27 = true := by decide
theorem witness_AtomicsIssue_sat : atomicsFit 0x1027 = true := by decide
theorem witness_AtomicsIssue_room : meets (atData 0x27) (fun x => decide (bufferUse x.c + newEntries x .add (atomLanes x (.v 6) (.v 9) fun _ => 0) ≤ 64)) := by decide
/-- The data page of lanes 0 to 3 with a TLB entry, or a refusal, of some kind. -/
def pageOnly (es : List TlbEntry) (rs : List TlbRefusal) : State := (atData 0x27).modCore 0 fun c => { c with tlb := es, refusals := rs }
/-- What the checks of a store to one address of every lane find: misaligned, missing, the fault of step 3, refused by the owner, a cistern page. -/
def storeFinds (s : State) (va : DWord) : Option (Bool × Bool × Option Nat × Bool × Bool) :=
  (ctxOf s).map fun x => (decide (va.toNat % 4 ≠ 0), decide (tlbLook x.c x.did va = .miss), step3 x.s x.c x.part x.did x.wp.tree { size := 4, write := true } (fun _ => false) (fun _ => false) va,
    (match tlbLook x.c x.did va with | .refused c _ => decide (c = 0x09) | _ => false), match tlbLook x.c x.did va with | .hit e => decide (paKind (e.paOf va) = 1) | _ => false)
/-- Each kind of finding, and none. -/
theorem witness_AccessChecks :
    let page : TlbEntry := { did := 1, va := 0x200000, size := 65536, pa := 0x200000, w := true, x := false }
    ∀ p ∈ ([(([page], []), 0x200002, (true, false, none, false, false)), (([], []), 0x200000, (false, true, none, false, false)), (([page], []), 0x8000000000000000, (false, false, some 9, false, false)),
        (([{ page with w := false }], []), 0x200000, (false, false, some 1, false, false)), (([], [{ did := 1, page := 0x200, cause := 0x08, detail := 5 }]), 0x200000, (false, false, some 5, false, false)),
        (([], [{ did := 1, page := 0x200, cause := 0x09, detail := 2 }]), 0x200000, (false, false, none, true, false)),
        (([{ page with pa := 0x1000000000000, w := false }], []), 0x200000, (false, false, none, false, true)), (([page], []), 0x200000, (false, false, none, false, false))] :
        List ((List TlbEntry × List TlbRefusal) × DWord × (Bool × Bool × Option Nat × Bool × Bool))),
      storeFinds (pageOnly p.1.1 p.1.2) p.2.1 = some p.2.2 := by decide
/-- An object of 3 arrivals in phase 0 at 0x120, named by s4; s5 holds 0 and s6:s7 a phase of 0 and a limit. -/
def atObject (phase limit : Word) : State :=
  (withView (stood 0x27 0xF [] [(4, 0x20), (5, phase), (6, phase), (7, limit), (8, 0xFFFF)] [])).modCore 0 fun c => scratchPutNat c 0x120 16 (5 * 65536)
def objectB (x : Ctx) (r : Reg) (valid : Bool) : Bool :=
  decide ((x.rd 0 r).toNat < 2 ^ 20) && decide ((x.rd 0 r).toNat % 16 = 0) && viewOk x.k x.c x.wp.view (x.rd 0 r).toNat 16 &&
  !viewScrubbing x.c x.wp.view (x.rd 0 r).toNat 16 && decide (x.wp.view.at (x.rd 0 r).toNat = 0x120) && (!valid || (barAt x.c (x.wp.view.at (x.rd 0 r).toNat)).valid)
theorem witness_BarrierArrivals :
    meets (atObject 1 0) (fun x => objectB x (.s 4) true && issuesB x (barForm 0x80 (Reg.unif (.s 4) && Reg.unif (.s 8)) [(.s 4, 1), (.s 8, 1)] []) && decide (1 ≤ (x.rd 0 (.s 8)).toNat) && decide ((x.rd 0 (.s 8)).toNat ≤ 65535) &&
      decide (barWaiters x.c 0x120 = []) && issuesB x { barForm 0x81 (Reg.sz (.s 3) && Reg.unif (.s 4)) [(.s 4, 1)] [(.s 3, 1)] with guard := true } &&
      decide ((barAt x.c 0x120).arrivals + popCount x.active ≤ (barAt x.c 0x120).expected) && issuesB x (barForm 0x82 (Reg.unif (.s 4) && Reg.unif (.s 5)) [(.s 4, 1), (.s 5, 1)] []) &&
      decide ((barAt x.c 0x120).bexp + (x.rd 0 (.s 5)).toNat < 2 ^ 32)) := by decide
theorem witness_BarrierWaits_limit :
    ((gangAt (modG i32 fun gn => { gn with status := .waiting (.barrier 0x120 0 (.bwaitt .z) (some 0)) }) 0 0 0).map fun gn => (gn.stepping, gn.status)) =
      some (false, .waiting (.barrier 0x120 0 (.bwaitt .z) (some 0))) ∧
    (barAt (coreAt (atObject 0 0) 0) 0x120).completes = false ∧ { barAt (coreAt (atObject 0 0) 0) 0x120 with arrivals := 5 }.completes = true := by decide
/-- In the object's phase and in another one; with a limit of 0 and of 7. -/
def waitsFit (phase limit : Nat) : Bool :=
  meets (atObject (w32 phase) (w32 limit)) fun x => objectB x (.s 4) true &&
    issuesB x (barForm 0x83 (Reg.sz (.s 3) && Reg.unif (.s 4) && Reg.unif (.s 5)) [(.s 4, 1), (.s 5, 1)] [(.s 3, 1)]) &&
    issuesB x (barForm 0x84 (Reg.unif (.s 4) && Reg.unif (.s 5)) [(.s 4, 1), (.s 5, 1)] []) &&
    issuesB x (barForm 0x85 (Reg.sz (.s 3) && Reg.unif (.s 4) && Reg.spair (.s 6)) [(.s 4, 1), (.s 6, 2)] [(.s 3, 1)]) &&
    decide ((barAt x.c 0x120).phase = 0) && decide (bitsW (x.rd 0 (.s 5)) 15 0 = phase) && decide (bitsW (loW (x.rd64 0 (.s 6))) 15 0 = phase) && decide ((hiW (x.rd64 0 (.s 6))).toNat = limit)
theorem witness_BarrierWaits : waitsFit 0 0 = true ∧ waitsFit 0 7 = true ∧ waitsFit 1 0 = true := by decide
theorem witness_WatchAndSleep :
    let mon : Monitor := { line := 0x4000, did := 1 }
    let sleeps := fun (s : State) => meets s fun x => issuesB x { op := 0x87, classes := Reg.sz (.s 3) && Reg.unif (.s 4), more := [(.s 4, 1)], writes := [(.s 3, 1)], guard := false, once := true }
    meets (atData 0x27) (fun x => issuesB x { op := 0x86, classes := Reg.spair (.s 6) && Reg.sz (.s 3), more := [(.s 6, 2)], writes := [(.s 3, x.width)], guard := false, once := true } &&
      decide (checkAccess x { size := 4, write := false, kindDetail := fun k => if k = 1 ∨ k = 3 then some 4 else none } true 1 (fun _ => scalarAddr x (.s 6) 0) (fun _ => false) (fun _ => false) = .ok ()) &&
      (let lane : LaneAcc := { lane := 0, pa := keyFor x 0x200000, va := 0x200000, size := 4 }; goesB x .lc [lane] (fun _ => false))) ∧
    sleeps (modG i32 fun gn => { gn with watching := some 1 }) ∧ sleeps i32 ∧ sleeps (modG i32 fun gn => { gn with monitor := some { mon with lost := true } }) ∧
    sleeps (modG i32 fun gn => { gn with monitor := some { mon with hit := true } }) ∧ sleeps (modG i32 fun gn => { gn with monitor := some mon }) ∧
    (gangAt (modG i32 fun gn => { gn with monitor := some mon, status := .waiting (.sleep (.s 3) (some 0)) }) 0 0 0).map (fun gn => (gn.monitor, gn.status, gn.stepping)) =
      some (some mon, .waiting (.sleep (.s 3) (some 0)), false) := by decide
theorem witness_Fences :
    let st : Access := { id := 0, did := 1, kind := .store, parts := [{ line := 0x4000 }] }
    let out := i32.modCore 0 fun c => { c with inflight := [st], nextId := 1 }
    let ready := fun (x : Ctx) => let s := flushEntries x.s x.k fun _ => true; relReady s x.k x.did x.w x.wp.age 3 (coreAt s x.k).nextId
    let form := fun op => { op := op, classes := decide (3 < 6), guard := false, once := true : Form }
    meets (modW i32 fun wp => { wp with lc := 63 }) (fun x => waitCounter (.x 17) = some .lc && issuesB x { op := 0x8B, classes := decide (63 < 64), guard := false, once := true } && decide (x.wp.count .lc ≤ 63) &&
      decide (62 < x.wp.count .lc) && issuesB x (form 0x8A) && decide (x.wp.lc ≠ 0)) ∧
    meets i32 (fun x => ready x && issuesB x (form 0x89) && issuesB x (form 0x88) && decide (x.wp.lc = 0) && issuesB x (form 0x8A) &&
      issuesB x { op := 0x8C, classes := decide (31 < 32), guard := false, once := true } && decide (31 &&& queueMask x.c x.did = 31)) ∧
    meets out (fun x => !ready x && issuesB x (form 0x89)) ∧
    (∀ acq ∈ [false, true], ∀ lc ∈ [0, 1], meets (modW (modG i32 fun gn => { gn with status := .waiting (.fence true acq 3 0) }) fun wp => { wp with lc := lc })
      (fun x => decide (x.gn.status = .waiting (.fence true acq 3 0)) && relReady x.s x.k x.wp.didNow x.w x.wp.age 3 0)) ∧
    meets (modG i32 fun gn => { gn with status := .waiting (.fence false true 3 0) }) (fun x => decide (x.wp.lc = 0)) ∧
    (∀ q ∈ allQueues, beforeMark (queueView (i32.modCore 0 fun c => { c with cq0 := [{ id := 5, op := .marker 5 }] }) 0 q) 0 5 = false) := by decide
/-- A copy of 2 rows of 32 bytes from 0x200000 to 0x40, whose barrier object is at 0x20; the group's seven words stand in s40 to s46. -/
def copyGroup : List Word := [0x200000, 0, 0x40, 0x00020020, 0x40, 0x20, 0x80000020]
def atCopy (g : List Word) : State := { withData (atObject 0 0) with cur := {} }.modWarp 0 0 fun wp => { wp with sregs := g.zipIdx.map fun (v, i) => (40 + i, v) }
/-- The conditions of CopyFits, as a test. -/
def copyFitsB (x : Ctx) (g : List Word) (o : Option Nat) : Bool :=
  let c := copyOf g
  decide (c.mem.toNat % 16 = 0) && decide (c.sp % 16 = 0) && decide (c.len % 16 = 0) && decide (c.mstride % 16 = 0) && decide (c.sstride % 16 = 0) && (decide (c.rows ≤ 1) || decide (c.len ≤ c.sstride)) &&
  (decide (bitsW (g.getD 2 0) 31 20 = 0) && decide (bitsW (g.getD 5 0) 31 16 = 0) && decide (bitsW (g.getD 6 0) 30 20 = 0)) &&
  decide (checkRanges x ((List.range c.rows).map fun i => (c.sp + i * c.sstride, c.len)) = .ok ()) && match o with
    | none => (g.getD 6 0).getLsbD 31 == false
    | some obj => (g.getD 6 0).getLsbD 31 && decide (checkObject x (w32 (bitsW (g.getD 6 0) 19 0)) true = .ok obj) &&
        (List.range c.rows).all fun i => !(decide (c.sp + i * c.sstride < bitsW (g.getD 6 0) 19 0 + 16) && decide (bitsW (g.getD 6 0) 19 0 < c.sp + i * c.sstride + c.len))
theorem fits_of_copyFitsB (x : Ctx) (g : List Word) (o : Option Nat) (h : copyFitsB x g o = true) : CopyFits x g o := by
  simp only [copyFitsB, Bool.and_eq_true, Bool.or_eq_true, decide_eq_true_eq] at h
  obtain ⟨⟨⟨⟨⟨⟨⟨⟨h1, h2⟩, h3⟩, h4⟩, h5⟩, h6⟩, h7⟩, h8⟩, h9⟩ := h
  refine ⟨h1, h2, h3, h4, h5, h6, ⟨h7.1.1, h7.1.2, h7.2⟩, h8, ?_⟩
  cases o with
  | none => simpa using h9
  | some obj =>
    simp only [Bool.and_eq_true, decide_eq_true_eq, List.all_eq_true, List.mem_range, Bool.not_eq_true', Bool.and_eq_false_iff, decide_eq_false_iff_not] at h9
    exact ⟨h9.1.1, h9.1.2, fun i hi hc => (h9.2 i hi).elim (· hc.1) (· hc.2)⟩
def takesB (x : Ctx) (eq : EngineQueue) : Bool := (queueMask x.c x.did).testBit (queueNum eq) && decide (x.wp.ec < 63) && decide ((queueOf x.s x.k eq).length < 64)
/-- A copy of no rows, with no barrier. -/
def copyNone : List Word := [0x200000, 0, 0x40, 0x00000020, 0x40, 0x20, 0]
theorem witness_CopiesIssue_issue :
    meets (atCopy copyGroup) (fun x => [0x7D, 0x7E].all (fun op => issuesB x { op := op, classes := decide (1 < 2) && groupReg (.s 40) 56, guard := false, once := true, more := groupReads (.s 40) 7 }) &&
      takesB x .cq0 && takesB x .cq1) := by decide
theorem witness_CopiesIssue_fits :
    (∀ p ∈ [(copyGroup, some 0x120), (copyNone, none)], meets (atCopy p.1) fun x => copyFitsB x ((List.range 7).map (groupWord x (.s 40))) p.2) ∧ (copyOf copyGroup).total = 64 ∧ (copyOf copyNone).total = 0 := by decide
theorem witness_CopiesIssue_check :
    meets (atCopy copyGroup) (fun x =>
      let ps := (copyOf ((List.range 7).map (groupWord x (.s 40)))).pieces 0
      [false, true].all fun out => decide (rangeCheck x.s x.k x.did x.wp.tree (copyAsk out) (coversWhole ps x.s x.k x.did x.wp.tree) (ps.map fun p => p.va) = .ok)) := by decide
/-- The tile of the worked example "one block, one cell" in s40 to s42; position 0 in z. -/
def atTile (mode : Word) : State := (withView (stood mode 0xFFFFFFFF [] [(40, 0x03000000), (41, 0x00200010), (42, 0x00010001), (43, 0x7F7F7F7F)] []))
def planeFits (mode : Word) : Bool :=
  meets (atTile mode) fun x => (checkLayout x (groupWord x (.s 40) 0) (groupWord x (.s 40) 1) (groupWord x (.s 40) 2) [0]).isOk && decide (x.active ≠ 0) &&
    decide (0 + x.t.elems ≤ bitsW (groupWord x (.s 40) 2) 31 16) && decide (x.c.watch = []) && (watchHit x true 0 [(0, 2 ^ 20)]).isNone && (watchHit x true 1 [(0, 2 ^ 20)]).isNone
theorem witness_PlaneInstructions : planeFits 0xA7 = true ∧ planeFits 0x27 = true := by decide
theorem witness_PlaneInstructions_issue :
    meets (atTile 0xA7) (fun x => issuesB x { op := 0x90, classes := Reg.isV (.v 8) && groupReg (.s 40) 60 && Reg.unif .z, more := [(.v 8, 1), (.z, 1)] ++ groupReads (.s 40) 3, typed := packType x.t } &&
      issuesB x { op := 0x91, classes := Reg.isV (.v 8) && groupReg (.s 40) 60 && Reg.unif .z, more := [(.z, 1)] ++ groupReads (.s 40) 3, writes := [(.v 8, 1)], typed := packType x.t }) := by decide
/-- A tile of 4 blocks in a row, and a position word with mx = 1 in s60. -/
def atScaled : State := modW (atTile 0x07) fun wp => { wp with sregs := [(40, 0x03000000), (41, 0x00200010), (42, 0x00040004), (43, 0x7F7F7F7F), (60, 0x8000)] }
theorem witness_PlaneInstructions_scaled :
    meets atScaled (fun x => (x.rd 0 (.s 60)).getLsbD 15 && decide (bitsW (x.rd 0 (.s 60)) 14 5 = 0) && decide (x.t.elems ≤ bitsW (groupWord x (.s 40) 2) 31 16) &&
      issuesB x { op := 0x90, classes := Reg.isV (.v 8) && groupReg (.s 40) 60 && Reg.unif (.s 60), more := [(.v 8, 1), (.s 60, 1)] ++ groupReads (.s 40) 3, typed := packType x.t } &&
      issuesB x { op := 0x90, classes := groupReg (.s 40) 58, more := [(.v 8, 1), (.s 60, 1)] ++ groupReads (.s 40) 3 ++ groupReads (.s 40) 4, typed := mxType x.t }) ∧
    meets atScaled (fun x => (checkLayout x (groupWord x (.s 40) 0) (groupWord x (.s 40) 1) (groupWord x (.s 40) 2) [0]).isOk) := by decide
/-- The same tile; MLDB has given the engine's nkb. -/
def atMatrix (ss : AMap Word) : State :=
  (modW (atTile 0xA7) fun wp => { wp with sregs := ss ++ wp.sregs }).modCore 0 fun c => { c with matrix := { c.matrix with issuedNkb := some 1, issueDid := 1 } }
theorem witness_MatrixCommands_queue :
    meets (atMatrix []) (fun x => !batchHeld x && (queueMask x.c x.did).testBit 2 && decide (x.wp.ec < 63) && decide (x.c.mq.length < 64)) := by decide
theorem witness_MatrixCommands_tiles :
    meets (atMatrix []) (fun x => issuesB x (mqForm 0x92 (groupReg (.s 40) 60) (groupReads (.s 40) 3)) && issuesB x (mqForm 0x93 (groupReg (.s 40) 60 && decide (1 < 2)) (groupReads (.s 40) 3)) &&
      match checkLayout x (groupWord x (.s 40) 0) (groupWord x (.s 40) 1) (groupWord x (.s 40) 2) (List.range 32) with
        | .ok l => decide ((openBatch x).1.issuedNkb = some l.nkb)
        | .error _ => false) := by decide
theorem witness_MatrixCommands_mrd :
    meets (atMatrix [(2, 0), (3, 0x40)]) (fun x => issuesB x (mqForm 0x94 (groupReg (.s 2) 62) (groupReads (.s 2) 2)) && decide (outType (bitsW (openBatch x).1.issuedEpi 12 8) = some .f32) &&
      decide (bitsW (groupWord x (.s 2) 0) 31 20 = 0 ∧ bitsW (groupWord x (.s 2) 1) 31 16 = 0 ∧ bitsW (groupWord x (.s 2) 0) 19 0 % 4 = 0 ∧ bitsW (groupWord x (.s 2) 1) 15 0 % 4 = 0) && decide (outBytes .f32 16 ≤ bitsW (groupWord x (.s 2) 1) 15 0) && decide (checkRanges x (mrdRanges .f32 (bitsW (groupWord x (.s 2) 0) 19 0) (bitsW (groupWord x (.s 2) 1) 15 0)) = .ok ())) := by decide
theorem witness_MatrixCommands_sets :
    meets (atMatrix [(2, 0xFFFFFE00), (3, 511)]) (fun x => issuesB x (mqForm 0x95 (decide (1 ≤ 3) && decide (3 ≤ 3)) []) && ([Reg.s 2, .s 3].all fun a =>
      issuesB x (mqForm 0x96 (decide (1 ≤ 1) && decide (1 ≤ 3) && Reg.unif a) [(a, 1)]) && decide (-512 ≤ (x.rd 0 a).toInt) && decide ((x.rd 0 a).toInt ≤ 511))) := by decide
theorem witness_MatrixCommands_epi :
    meets (atMatrix [(2, 0xA0B), (3, 0x40), (4, 0x80)]) (fun x =>
      let w := groupWord x (.s 2) 0
      issuesB x (mqForm 0x97 (groupReg (.s 2) 58) (groupReads (.s 2) 5)) && decide (bitsW w 31 17 = 0) && decide (bitsW w 15 13 < 5) && (outType (bitsW w 12 8)).isSome && decide (bitsW w 2 1 < 3) &&
      w.getLsbD 0 && decide (bitsW w 2 1 ≠ 0) && decide (epiSource x false (groupWord x (.s 2) 1) = .ok ()) && w.getLsbD 3 && decide (epiSource x (w.getLsbD 4) (groupWord x (.s 2) 2) = .ok ())) := by decide
theorem witness_MatrixCommands_fence :
    meets (atMatrix []) (fun x => issuesB x (mqForm 0x98 (Reg.unif .z) [(.z, 1)]) && decide (barrierWord x (x.rd 0 .z) = .ok none) && issuesB x (mqForm 0x99 true [])) := by decide
/-- Scalars from s40 on, with the data page and the view. -/
def atGroup (g : List Word) : State := modW (withData (withView (stood 0x27 0xF [] [] []))) fun wp => { wp with sregs := g.zipIdx.map fun (v, i) => (40 + i, v) }
/-- The bag of the worked example "one bag, two orders", to the scratchpad and to memory. -/
def poolFits (g : List Word) : Bool :=
  meets (atGroup g) fun x =>
    let g := (List.range 8).map (groupWord x (.s 40))
    let c := poolOf g
    [0xA0, 0xA1].all (fun op => issuesB x (engineForm op .z (.s 40) 56 8)) && decide (c.base.toNat % 16 = 0 ∧ c.list % c.entry = 0 ∧ bitsW (g.getD 2 0) 31 20 = 0 ∧ c.k ≠ 0 ∧ c.b ≠ 0 ∧ 1 ≤ c.e ∧ c.e ≤ 4096) &&
    poolFormat (etypeOf (bitsW (g.getD 4 0) 17 13)) && decide (c.pool < 1 ∧ bitsW (g.getD 4 0) 23 22 = 0 ∧ c.rm < 5 ∧ bitsW (g.getD 4 0) 31 27 = 0 ∧ c.stride % 16 = 0 ∧ c.rowBytes ≤ c.stride) &&
    decide (c.out.toNat % 16 = 0) && (c.okind || decide (c.out.toNat < 2 ^ 20))
def poolRanges (gath : Bool) (g : List Word) : Bool :=
  meets (atGroup g) fun x =>
    let c := poolOf ((List.range 8).map (groupWord x (.s 40)))
    decide (checkRanges x ([(c.list, c.entry * c.entries)] ++ if c.okind then [] else [(c.out.toNat, c.outBytes gath)]) = .ok ()) &&
    (!c.okind || decide (issueCheck x { size := 16, write := true } (firstLines c.out (c.outBytes gath)) = .ok ()))
def bagHere : List Word := [0x800000, 0, 0x100, 0x20003, 0x12002, 0x10, 0x200, 0]
def bagThere : List Word := [0x800000, 0, 0x100, 0x20003, 0x212002, 0x10, 0x200000, 0]
theorem witness_EngineCommands_pool : poolFits bagHere = true ∧ poolFits bagThere = true := by decide
theorem witness_EngineCommands_ranges : poolRanges true bagHere = true ∧ poolRanges false bagHere = true ∧ poolRanges true bagThere = true ∧ poolRanges false bagThere = true := by decide
theorem witness_EngineCommands_queues :
    meets (atGroup []) (fun x => decide (barrierWord x (x.rd 0 .z) = .ok none) && (queueMask x.c x.did).testBit 3 && (queueMask x.c x.did).testBit 4 && decide (x.wp.ec < 63) &&
      decide ((queueOf x.s x.k .pq).length < 64) && decide ((queueOf x.s x.k .fq).length < 64)) := by decide
theorem witness_EngineCommands_collective :
    meets (atGroup [0, 0, 32, 0x200000, 0]) (fun x => ([(0xA2, true), (0xA3, false)].all fun (op, w) => issuesB x (engineForm op .z (.s 40) 58 5) &&
      decide (issueCheck x { size := 128, write := w } (firstLines (pairW (groupWord x (.s 40) 3) (groupWord x (.s 40) 4)) 128) = .ok ())) && decide (checkRanges x [(statusField (groupWord x (.s 40) 0), 4)] = .ok ()) &&
      decide (statusField (groupWord x (.s 40) 0) % 4 = 0 ∧ bitsW (groupWord x (.s 40) 0) 31 28 = 0 ∧ (groupWord x (.s 40) 1).toNat % 128 = 0 ∧ (groupWord x (.s 40) 2).toNat = 32)) := by decide
theorem witness_EngineCommands_cistern :
    meets { atGroup [0, 0, 1, 0x200000, 0] with pot := [(cisternKey 0 / 65536, { owner := 1 })] } (fun x => issuesB x (engineForm 0xA5 .z (.s 40) 58 5) &&
      decide (checkCistern x (groupWord x (.s 40) 1) (groupWord x (.s 40) 2) = .ok ()) && cisternOwned x.s x.did x.world 0 1 && decide (issueCheck x { size := 128, write := false } (firstLines 0x200000 4096) = .ok ())) ∧
    meets { atGroup [0x40, 0, 1] with pot := [(cisternKey 0 / 65536, { owner := 1 })] } (fun x => issuesB x (engineForm 0xA6 .z (.s 40) 60 3) && decide (bitsW (groupWord x (.s 40) 0) 19 0 = 0x40) &&
      decide (checkCistern x (groupWord x (.s 40) 1) (groupWord x (.s 40) 2) = .ok ()) && decide (checkRanges x [(0x40, 52)] = .ok ()) && cisternOwned x.s x.did x.world 0 1) := by decide
/-- Tensor 5 of the domain, open or not, at version 9. -/
def atTensor (isOpen : Bool) : State := { stood 0x27 0xF [] [(4, 5)] [] with tensors := [(5, { slot := 0, owner := 1, base := physKey 0 0x3000000000000, length := 4096, mac := 0, version := 9, open_ := isOpen })] }
theorem witness_StatusQueries_status :
    meets i32 (fun x => [0, 1, 2].all (fun n => issuesB x { mqForm 0x9A (Reg.sz (.s 3) && decide (n < 3)) [] with writes := [(.s 3, 1)], lat := 4 }) &&
      issuesB x { op := 0xA4, classes := Reg.sz (.s 3) && decide (255 ≤ 255), guard := false, once := true, writes := [(.s 3, 1)] } && decide (x.wp.lc < 63) && !(groupAt x.s x.part 255).formed &&
      issuesB x { op := 0xB2, classes := (Reg.spair (.s 2) || Reg.isZ (.s 2)) && decide (2 < 3), guard := false, once := true, writes := [(.s 2, 2)] } && !(treeAnswer x.s x.wp.tree 2).2) ∧
    meets { i32 with groups := [(255, { formed := true })] } (fun x => (groupAt x.s x.part 255).formed) := by decide
theorem witness_StatusQueries_tensor :
    ∀ isOpen ∈ [false, true], meets (atTensor isOpen) (fun x => issuesB x (tensorForm 0xA7 (.s 3) (.s 4)) && issuesB x (tensorForm 0xA8 (.s 3) (.s 4)) && decide ((x.rd 0 (.s 4)).toNat = 5) &&
      ((AMap.get? x.s.tensors 5).any fun t => decide (t.owner = x.did) && decide (t.base / 2 ^ 52 = x.part) && t.open_ == isOpen && decide (t.version < 2 ^ 32 - 1) && decide (bitmapBits x.s + t.length / 128 ≤ 2 ^ 27)) && !cxlStorePending x) := by decide
theorem witness_StatusQueries_pending :
    meets ((atTensor true).modCore 0 fun c => { c with inflight := [{ id := 0, did := 1, kind := .store, parts := [{ line := physKey 0 0x3000000000000 / 128 }] }] }) (fun x => cxlStorePending x) := by decide

/-- The domain's gate table at 0x200000: entry 0 leads to the domain itself, at 0x10000, with 2 arguments. -/
def atGate : State :=
  memPut ((withData i32).modCore 0 fun c => { c with slots := [(0, { fetchSlot with w4 := 0x200000 })] }) 0x200000 (natLe 4 0x02010001 ++ natLe 8 0x10000)
theorem witness_GatePassage_gate :
    meets atGate (fun x => issuesB x { op := 0xB0, classes := Reg.sz (.s 3) && decide (0 ≤ 63), guard := false, once := true, writes := [(.s 3, 1)] } &&
      decide (gateChecks x 0 = .ok { target := 1, nargs := 2, entry := 0x10000, base := 0, bytes := 0 }) && !pendingOn x (gateCodes x.wp 2) && gateDrained x.s x.k x.w x.wp x.c.nextId) ∧
    meets (modW atGate fun wp => { wp with sc := 1 }) (fun x => !gateDrained x.s x.k x.w x.wp x.c.nextId) := by decide
def gateFrame0 : GateFrame := { nargs := 2, vregs := [], vpoison := [], sregs := [], spoison := [], preds := [], ppoison := [], mode := 0x27, stack := [], ret := 0x10008, dst := .s 3, caller := 1, view := {} }
theorem witness_GatePassage_gret :
    meets (modW i32 fun wp => { wp with frames := [gateFrame0] }) (fun x => issuesB x { op := 0xB1, guard := false, once := true } && decide (x.wp.frames ≠ []) && x.wp.converged && !ownsBatch x && !pendingOn x (gateCodes x.wp 2) && gateDrained x.s x.k x.w x.wp x.c.nextId) ∧
    (let e : GateEntry := { target := 1, nargs := 2, entry := 0x10000, base := 0, bytes := 0 }
     ∀ st ∈ [WaitCause.gate (.s 3) e 0, .gret 0], meets (modG i32 fun gn => { gn with status := .waiting st }) (fun x => decide (x.wp.gangs = [(x.g, x.gn)]) && gateDrained x.s x.k x.w x.wp 0 && !x.wp.preempt && !x.wp.halted &&
       (slotOf x.c 1).any fun p => !p.2.halted)) ∧ Reg.sz (.s 3) = true := by decide
theorem witness_GatePassage_frame :
    let e : GateEntry := { target := 2, nargs := 2, entry := 0x10000, base := 0, bytes := 0 }
    (((({} : Warp).enterGate 0 {} (.s 3) e).setV 1 0 7).setS 4 5).frames = (({} : Warp).enterGate 0 {} (.s 3) e).frames := by decide
theorem witness_ScrubInstruction :
    meets (withView (stood 0x27 0xF [] [(4, 0), (6, 0x20), (7, 0x30)] [])) (fun x => [(0x7 : BitVec 8), 0xF].all (fun m => issuesB x (scrubForm x m (.s 4) (.s 6) (scrubFirst x m (.s 4)))) &&
      decide (scrubRange x (loW (x.rd64 0 (.s 6))).toNat (hiW (x.rd64 0 (.s 6))).toNat = .ok ()) && !batchHeld x && (queueMask x.c x.did).testBit 2 && decide (x.wp.ec < 63) && decide (x.c.mq.length < 64)) := by decide

theorem witness_ControlRegisters_issue :
    meets (stoodSvc [(4, 0x00100000), (5, 0x00400001)]) (fun x => decide (csrTarget x (x.rd 0 (.s 4)) = .ok (0, 0)) && issuesB x (csrForm 0xC0 (.s 3) (.s 4) none) &&
      ([(0xC1, x.rd 0 (.s 5)), (0xC2, csrRead (coreAt x.s 0) 0 ||| 1), (0xC3, csrRead (coreAt x.s 0) 0 &&& ~~~(x.rd 0 .z))].all fun (op, v) => issuesB x (csrForm op (.s 3) (.s 4) (some (.s 5))) && csrAccepts 0 v)) := by decide
theorem witness_ControlRegisters_done :
    ∀ p ∈ [((0 : Nat), (0x00400001 : Word)), (0x18, 7), (0x40, 1), (0x43, 1), (0x10, 3), (0x19, 7), (0x50, 1)],
      (coreAt ((stoodSvc []).modCore 512 fun c => { c with svc := { c.svc with op := some (.csr 0 p.1 0 p.2 .z) } }) 512).svc.op = some (.csr 0 p.1 0 p.2 .z) ∧ csrAccepts p.1 (csrNew 0 0 p.2) = true := by decide
theorem witness_SupervisorInstructions_plain :
    meets (stoodSvc [(4, 0x00100000), (5, 0), (6, 0x200000)]) (fun x => ([0xC4, 0xC5, 0xCE, 0xC7].all fun op => issuesB x { op := op, guard := false, once := true }) && decide (x.c.svc.ipend = 0) &&
      issuesB x { op := 0xC6, classes := Reg.unif (.s 5) && Reg.unif (.s 4), guard := false, once := true, more := [(.s 5, 1), (.s 4, 1)] } && decide (bitsW (x.rd 0 (.s 5)) 31 8 = 0) &&
      (partAt x.s x.part).slices.contains (bitsW (x.rd 0 (.s 5)) 4 0) && !(coreAt x.s (sipiTarget (x.rd 0 (.s 5)))).svc.ipend.getLsbD 0 &&
      issuesB x { op := 0xC7, classes := Reg.unif (.s 5) && Reg.spair (.s 6), guard := false, once := true, more := [(.s 5, 1), (.s 6, 2)] }) ∧
    meets ((stoodSvc []).modCore 512 fun c => { c with svc := { c.svc with ipend := 1 } }) (fun x => decide (x.c.svc.ipend ≠ 0) && (coreAt x.s (sipiTarget 0)).svc.ipend.getLsbD 0) := by decide
theorem witness_SupervisorInstructions_swap :
    meets { stoodSvc [] with paired := [95] } (fun x => decide (95 ≤ 95) && x.s.paired.contains 95 && !regionOf x.s x.part 190) ∧
    meets { (stoodSvc []).modSlice (regionSlice 190) (fun sl => { sl with part := some 0 }) with paired := [95] } (fun x => regionOf x.s x.part 190 && !writePending x.s x.part 191 &&
      issuesB x { op := 0xCC, classes := Reg.sz (.s 3), guard := false, once := true, writes := [(.s 3, 1)] }) := by decide
theorem witness_SupervisorInstructions_done :
    (coreAt ((stoodSvc []).modCore 512 fun c => { c with svc := { c.svc with op := some .wfi, ipend := 1 } }) 512).svc.op = some .wfi ∧
    (let s := (stoodSvc []).modCore 512 fun c => { c with svc := { c.svc with op := some (.sipi 513 7) } }
     (coreAt s 512).svc.op = some (.sipi 513 7) ∧ (coreAt s 513).svc.ipend.getLsbD 0 = false) := by decide
/-- An image for a slot of core 0, in s8 to s15: nothing, and the slot of the tests for domain 1. -/
def atImage (sl : Slot) : State := stoodSvc [(4, 0x00100000), (8, sl.w0), (9, sl.w1), (10, sl.w2), (11, sl.w3), (12, sl.w4), (13, sl.w5), (14, sl.w6), (15, sl.w7)]
theorem witness_DomainInstructions_dslw :
    ∀ sl ∈ [({ w1 := 0 } : Slot), { fetchSlot with w6 := 0x10000, w7 := 0 }], meets (atImage sl) (fun x => decide (slotSelector x (x.rd 0 (.s 4)) = .ok (0, 0)) &&
      issuesB x { op := 0xC8, classes := Reg.unif (.s 4) && groupReg (.s 8) 56, guard := false, once := true, more := (.s 4, 1) :: groupReads (.s 8) 8 } &&
      decide (dslwChecks x.s x.part 0 0 (slotImage ((List.range 8).map (groupWord x (.s 8)))) = .ok ()) && !isReset (AMap.getD (coreAt x.s 0).slots 0 {}) (slotImage ((List.range 8).map (groupWord x (.s 8))))) := by decide
/-- Domain 1 on core 0, halted; the save area at 0x1000000. -/
def atSave (s : State) : State := s.modCore 0 fun c => { c with slots := [(0, { fetchSlot with halted := true })] }
theorem witness_DomainInstructions_ctxs :
    meets (atSave (stoodSvc [(4, 0x00100000), (6, 0x1000000)])) (fun x => issuesB x { op := 0xCA, classes := Reg.unif (.s 4) && Reg.spair (.s 6), guard := false, once := true, more := [(.s 4, 1), (.s 6, 2)] } &&
      (let old := AMap.getD (coreAt x.s 0).slots 0 {}
       old.valid && old.halted && domainStopped x.s old.did 0 && decide (x.s.liveSerials.length < 65536) && !writesOut (coreAt x.s 0) old.did)) ∧
    meets (atSave (stoodSvc [(4, 0x00100000), (6, 0x1000000)])) (fun x => saveAreaOk x.s x.part (AMap.getD (coreAt x.s 0).slots 0 {}) (x.rd64 0 (.s 6)).toNat) := by decide
/-- A saved context of domain 1 with serial 1, its header in the area at 0x1000000 with the check value of the headgate. -/
def savedOne : Saved := { serial := 1, core := 0, part := 0, area := 0x1000000, did := 1, world := false, rcount := 128, groups := 16 }
def atSaved : State :=
  let s := { atSave (stoodSvc [(4, 0x00100000), (6, 0x1000000)]) with saved := [savedOne], liveSerials := [1] }
  let sl := AMap.getD (coreAt s 0).slots 0 {}
  let header := natLe 4 1 ++ natLe 4 (bitsW sl.w0 16 0) ++ natLe 4 (bitsW sl.w1 15 8) ++ natLe 4 16 ++ natLe 4 0 ++ natLe 4 0 ++ natLe 8 1 ++ natLe 24 0 ++ natLe 8 (Config.checkValue 1).toNat
  { s with mem := header.zipIdx.map fun (b, i) => (0x1000000 + i, b) }
theorem witness_DomainInstructions_ctxl :
    (savedAt atSaved 0 0x1000000).map (fun sv => (sv.serial, sv.did, sv.world, sv.groups, sv.warps.length)) = some (1, 1, false, 16, 0) := by
  have h : memNat atSaved (0x1000000 + 56) 8 = (Config.checkValue 1).toNat := by
    have e : memNat atSaved (0x1000000 + 56) 8 = leNat (natLe 8 (Config.checkValue 1).toNat) := rfl
    rw [e, leNat_natLe]; exact Nat.mod_eq_of_lt (Config.checkValue 1).isLt
  have k : physKey 0 0x1000000 = 0x1000000 := rfl
  have n : memNat atSaved (0x1000000 + 24) 8 = 1 := rfl
  simp only [savedAt, k, n, h]; rfl
theorem witness_DomainInstructions_ctxl_slot :
    meets atSaved (fun x => let old := AMap.getD (coreAt x.s 0).slots 0 {}; old.valid && headerAgrees x.s x.part 0x1000000 old && decide ((groupList old.groups).length = 16) && decide (warpsOf (coreAt x.s 0) old.did = []) &&
      decide (slotsFor (coreAt x.s 0) old [] = some []) && !unitsClosed (coreAt x.s 0) old savedOne && saveAreaOk x.s x.part old 0x1000000 && issuesB x { op := 0xCB, classes := Reg.unif (.s 4) && Reg.spair (.s 6), guard := false, once := true, more := [(.s 4, 1), (.s 6, 2)] }) := by decide
theorem witness_DomainInstructions_dpre :
    meets (stoodSvc [(4, 1), (5, 0)]) (fun x => issuesB x { op := 0xC9, classes := Reg.sz (.s 3) && Reg.unif (.s 4) && Reg.unif (.s 5), guard := false, once := true, more := [(.s 4, 1), (.s 5, 1)], writes := [(.s 3, 1)] } &&
      decide (bitsW (x.rd 0 (.s 4)) 31 16 = 0) && (selectorOf x (x.rd 0 (.s 5)) true).isOk) ∧
    (warpAt (modW i32 fun wp => { wp with preempt := true }) 0 0).map (fun wp => (wp.preempt, wp.halted)) = some (true, false) ∧ (coreAt i32 0).inflight = [] ∧
    (let s := (stoodSvc []).modCore 512 fun c => { c with svc := { c.svc with op := some (.dpre [0, 1] 1 2 .z) } }
     (coreAt s 512).svc.op = some (.dpre [0, 1] 1 2 .z) ∧ ∀ j ∈ [0, 1], domainStopped s 1 j = true) := by decide
/-- A request of a service at 0x200000. -/
def atRequest (service : Nat) (owner : BitVec 16) : State :=
  { memPutNat ((stoodSvc [(4, 0x200000)]).modCore 512 fun c => { c with tlb := { did := 0xFFFF, va := 0x200000, size := 65536, pa := 0x200000, w := true, x := false } :: c.tlb }) 0x200000 4 service with pot := [(0x20, { owner := owner })] }
theorem witness_DomainInstructions_hgmb :
    meets (atRequest 0xA2 0xFFFF) (fun x => issuesB x { op := 0xCD, classes := Reg.sz (.s 3) && Reg.spair (.s 4), guard := false, once := true, more := [(.s 4, 2)], writes := [(.s 3, 1)] } &&
      decide (issueCheck x { size := 64, write := true } [x.rd64 0 (.s 4), x.rd64 0 (.s 4) + 252] = .ok ()) && decide (keyAt x.s x.k x.did none (x.rd64 0 (.s 4)) = 0x200000) && services.contains (memNat x.s 0x200000 4) &&
      decide ((potAt x.s 0x200000).owner = 0xFFFF)) ∧
    meets (atRequest 0xA3 0xFFFF) (fun x => !services.contains (memNat x.s 0x200000 4)) ∧ meets (atRequest 0x01 1) (fun x => decide ((potAt x.s 0x200000).owner ≠ 0xFFFF)) := by decide
/-! ### The steps that surroundings and schedule bring -/

/-- Core 0 with accesses in flight, of warp 0. -/
def flying (as : List Access) : State := (atData 0x27).modCore 0 fun c => { c with inflight := as }
def lane4 (key : Nat) (done : Bool) : LaneAcc := { lane := 0, pa := key, size := 4, val := 7, done := done }
def homeOk (s : State) (line : Nat) : Bool := firstOnPath (coreAt s 0) 5 line && !homeHeld s line && decide (paKind (128 * line) = 0) && (homeRead s 0 line).isSome
/-- A load of a line before its home and after it; an atomic before and after; a store before and after; a scratchpad load. -/
theorem witness_HomeSteps :
    (let ac : Access := { id := 5, kind := .load, dest := .vec 8 1 false, lanes := [lane4 0x200000 false], parts := [{ line := 0x4000, sectors := [0x10000] }] }
     let s := flying [ac]
     accessAt s 0 5 = some ac ∧ ac.watch = none ∧ ac.abandoned = false ∧ ((ac.parts.find? fun p => decide (p.line = 0x4000)).any fun p => !p.performed && (homeRead (podStir (partOut s 0 ac p (readRequest s (coreSlice 0) p)) 0x4000) 0 0x4000).isSome) = true ∧ homeOk s 0x4000 = true) ∧
    (let ac : Access := { id := 5, kind := .load, dest := .vec 8 1 false, lanes := [lane4 0x200000 false], parts := [{ line := 0x4000, sectors := [0x10000], performed := true }] }
     let s := flying [ac]
     accessAt s 0 5 = some ac ∧ (ac.parts.find? fun p => decide (p.line = 0x10000 / 4)).isSome = true ∧ (warpAt s 0 ac.w).map Warp.age = some ac.warpAge) ∧
    (∀ done ∈ [false, true],
     let ac : Access := { id := 5, kind := .store, lanes := [lane4 0x200000 false], parts := [{ line := 0x4000, performed := done }] }
     let s := flying [ac]
     accessAt s 0 5 = some ac ∧ homeOk s 0x4000 = true ∧ (ac.parts.all fun p => p.performed) = done) := by decide
theorem witness_HomeSteps_atomic :
    (∀ done ∈ [false, true], ∀ op ∈ [AtomOp.add, .cas],
     let ac : Access := { id := 5, kind := .atomic op, mode := 0x27, dest := .vec 8 1 false, lanes := [lane4 0x200000 done] }
     let s := flying [ac]
     accessAt s 0 5 = some ac ∧ ac.isAtomic = true ∧ (ac.lanes.all fun la => la.done) = done ∧ homeOk s 0x4000 = true ∧ (atomFun ac (lane4 0x200000 done) 1).isSome = decide (op = .add)) ∧
    (let ac : Access := { id := 5, kind := .lds, dest := .scal 3 1, lanes := [lane4 0x40 false] }
     accessAt (flying [ac]) 0 5 = some ac ∧ (warpAt (flying [ac]) 0 ac.w).map Warp.age = some ac.warpAge) ∧
    (let ac : Access := { id := 5, kind := .atomic .add, lanes := [lane4 (physKey 0 0x2000000000000) false] }
     let s := (flying [ac]).modCore 0 fun c => { c with clk := 8800 }
     accessAt s 0 5 = some ac ∧ ac.isAtomic = true ∧ (ac.lanes.any fun la => decide (paKind la.pa = 2)) = true ∧ (ac.lanes.all fun la => decide (paKind la.pa = 2) || la.done) = true ∧ ac.born.toNat + 8800 ≤ (coreAt s 0).clk.toNat ∧ (ac.lanes.map LaneAcc.lane).Nodup) := by decide
theorem witness_HomeSteps_buffer :
    let e : CombineEntry := { pa := 0x200000, width := 32, op := .add, etype := 2, rnd := 0, ftz := false, did := 1 }
    let s := i32.modCore 0 fun c => { c with combine := [e, { e with pa := 0x200004 }], clk := 2048 }
    (coreAt s 0).combine[0]? = some e ∧ e.born.toNat + 2048 ≤ (coreAt s 0).clk.toNat ∧ (∀ d ∈ (coreAt s 0).combine, d.pa = e.pa → d = e) ∧ (coreAt s 0).combine.Nodup := by decide

/-- The copy of the tests at the head of queue 0. -/
def copyCmd (op : EngineOp) (va : Word) (n : Nat) : Command :=
  let started := decide (0 < n)
  { id := 7, op := op, did := 1, group := va :: copyGroup.tail, view := { base := 0x100, size := 0x1000, did := 1 }, started := started, chunked := n - 1, pages := [(0, 0x200000), (32, 0x200040)] }
def atCopying (q : Command) : State := (atCopy copyGroup).modCore 0 fun c => { c with cq0 := [q] }
def copyCheck (s : State) (q : Command) : RangeAns :=
  let ps := (copyOf q.group).pieces q.chunked
  rangeCheck s 0 q.did (q.tree s) (copyAsk (decide (q.op = .cpyo))) (coversWhole ps s 0 q.did (q.tree s)) (ps.map fun p => p.va)
theorem witness_CopySteps :
    (let q := copyCmd .cpy 0x200000 0; let s := atCopying q; copyHead s 0 0 = some q ∧ q.started = false ∧ drained s q = true) ∧
    (∀ op ∈ [EngineOp.cpy, .cpyo],
      let q := copyCmd op 0x200000 1; let s := atCopying q
      copyHead s 0 0 = some q ∧ q.started = true ∧ q.chunked < (copyOf q.group).chunks ∧ chunkDone q = true ∧ domainHalted (coreAt s 0) q.did = false ∧ copyCheck s q = .ok) ∧
    (let q := copyCmd .cpy 0x900000 1; let s := atCopying q; copyHead s 0 0 = some q ∧ copyCheck s q = .miss [0x900000, 0x900040]) := by decide
theorem witness_CopySteps_fault :
    let q := copyCmd .cpy 0x900000 1
    let s := (atCopying q).modCore 0 fun c => { c with refusals := [{ did := 1, page := 0x900, cause := 8, detail := 1 }] }
    copyHead s 0 0 = some q ∧ (match copyCheck s q with | .fault 8 1 _ => true | _ => false) = true := by decide
theorem witness_CopySteps_pieces :
    ∀ op ∈ [EngineOp.cpy, .cpyo],
      let q := copyCmd op 0x200000 2; let s := atCopying q
      copyHead s 0 0 = some q ∧ ∀ off ∈ [0, 32], (match pieceOf q off with
        | none => false
        | some p =>
          let key := AMap.getD q.pages off 0
          clearBefore (coreAt s 0) q.mark (key / 128) && (engineRead s 0 key p.len).isSome && !keyHeld s key &&
          (performStore s 0 (key / 128) q.did ((ownUnits q p).map fun j => { lane := 0, pa := key + 16 * j, size := 16, val := BitVec.ofNat 128 (leNat (((viewBytes (coreAt s 0) q.view p.sp p.len).drop (16 * j)).take 16)) })).isSome) = true := by decide
theorem witness_CopySteps_delivery :
    let d : Deferred := { entry := 0, trap := { cause := 8 }, pc := 0, resume := 0, insn := 0, ctl := 0, gmask := 0, mode := 0, active := 0 }
    (let wp := warpNow (modW i32 fun wp => { wp with engineFaults := [d], gangs := [] }); wp.engineFaults = d :: [] ∧ lowestFirst wp.gangs = none) ∧
    (let wp := warpNow (modW i32 fun wp => { wp with engineFaults := [d] })
     lowestFirst wp.gangs = some 0 ∧ (AMap.get? wp.gangs 0).any Gang.atBoundary = true ∧ wp.preempt = false ∧ wp.halted = false) := by decide

/-- A command at the head of a queue of slice 0. -/
def engCmd (op : EngineOp) (g : List Word) (n : Nat) : Command :=
  { id := 7, op := op, did := 1, group := g, view := { base := 0x100, size := 0x1000, did := 1 }, started := decide (n = 1), ran := decide (n = 2) }
def atSlice (s : State) (q : Command) : State := s.modSlice 0 fun sl => { sl with pq := [q], fq := [q] }
/-- Entries 0, 1, padding, 2, 3 and 4 of the list of the bag, once read. -/
def listed (q : Command) (rows : List Nat) : Command :=
  { q with rows := rows, data := [(listKey, natLe 4 0 ++ natLe 4 1 ++ natLe 4 0xFFFFFFFF ++ natLe 4 2 ++ natLe 4 3 ++ natLe 4 4)] }
def bagMapped : State :=
  (atGroup bagHere).modCore 0 fun c => { c with tlb := { did := 1, va := 0x800000, size := 65536, pa := 0x800000, w := true, x := false } :: c.tlb }
theorem witness_EngineSteps_pool :
    (∀ op ∈ [EngineOp.gath, .pool], let q := engCmd op bagHere 0; let s := atSlice bagMapped q; sliceHead s 0 .pq = some q ∧ q.ran = false ∧ q.started = false ∧ drained s q = true) ∧
    (∀ op ∈ [EngineOp.gath, .pool], let q := listed (engCmd op bagHere 1) [0, 1, 3, 4, 5]; let s := atSlice bagMapped q
      sliceHead s 0 .pq = some q ∧ q.started = true ∧ (List.range (poolOf q.group).entries).all (fun i => q.rows.contains i || isPad q i) = true ∧ (poolOf q.group).entries = 6) ∧
    (∀ row ∈ [0, 5], let q := listed (engCmd .pool bagHere 1) []; let s := atSlice bagMapped q
      sliceHead s 0 .pq = some q ∧ row < (poolOf q.group).entries ∧ q.rows.contains row = false ∧ isPad q row = false ∧ rowStarts q row = true ∧
      rangeCheck s 0 1 (q.tree s) { size := 16, write := false } (fun _ => false) (rangeLines (rowAddr q row) (poolOf q.group).rowBytes) = .ok ∧
      (readParts s 0 (rowParts s q row)).isSome = true) := by decide
/-- Group 0 formed of node 0, whose member gives 0x1000 bytes of f32. -/
def atFormed (changed : Bool) (q : Command) : State :=
  { atSlice (atGroup []) q with groups := [(0, { formed := true, changed := changed, nodes := [0], members := [{ module := 0, etype := 10, op := 0, mask := 1, buffer := 0, length := 0x1000 }] })] }
theorem witness_EngineSteps_collective :
    (∀ p ∈ [(EngineOp.mcred, ([0, 0, 32, 0, 0] : List Word)), (.mcst, [0, 0, 32, 0x200000, 0]), (.wbcast, [0, 0, 1, 0x200000, 0])],
      (let q := engCmd p.1 p.2 0; let s := atFormed false q; sliceHead s 0 .fq = some q ∧ q.ran = false ∧ q.started = false ∧ drained s q = true ∧ q.status = none) ∧
      (let q := engCmd p.1 p.2 1; let s := atFormed true q; let g := startedGroup s q
       sliceHead s 0 .fq = some q ∧ groupStop g 0 128 true = some 2 ∧ groupStop { g with members := [] } 0 0 true = some 2) ∧
      (let q := engCmd p.1 p.2 1; let s := atFormed false q; let g := startedGroup s q
       sliceHead s 0 .fq = some q ∧ groupStop g 0 128 true = none ∧ groupStop { g with members := [] } 0 0 true = none ∧ cisternWaits s 0 q = false)) := by decide
theorem witness_EngineSteps_sources :
    ∀ p ∈ [(EngineOp.mcst, ([0, 0, 32, 0x200000, 0] : List Word), 128), (.wbcast, [0, 0, 1, 0x200000, 0], 4096)],
      let q := engCmd p.1 p.2.1 1; let s := atFormed false q
      rangeCheck s 0 1 (q.tree s) { size := 128, write := false } (fun _ => false) ((q.span p.2.2).map fun p => p.2.2) = .ok ∧ (readParts s 0 (keysOf s q ((q.span p.2.2).take 2))).isSome = true := by decide
theorem witness_EngineSteps_digest :
    (let q := engCmd .dgst [0x40, 0, 1] 0; let s := atFormed false q; sliceHead s 0 .fq = some q ∧ q.started = false ∧ drained s q = true) ∧
    (∀ mine ∈ [false, true], let q := engCmd .dgst [0x40, 0, 1] 1; let s := (atFormed false q).modSlice (regionSlice 0) fun sl => { sl with part := if mine then some 0 else none }
      sliceHead s 0 .fq = some q ∧ q.started = true ∧ s.cisternWrites = [] ∧ (s.ranges.filter fun r => decide (r.offset / 2 ^ 26 = 0)).length < 64 ∧ regionOf s (corePart s q.core) 0 = mine) ∧
    (∀ o ∈ [none, some 0x120], ∀ eq ∈ [EngineQueue.pq, .fq], let q := { engCmd .pool bagHere 2 with barrier := o, status := some 1 }; sliceHead (atFormed false q) 0 eq = some q ∧ q.ran = true) := by decide

/-- A matrix operation at the head of mq. -/
def mqCmd (op : EngineOp) : Command := { id := 7, op := op, did := 1, batch := 1, group := [0x40, 0x40], view := { base := 0x100, size := 0x1000, did := 1 } }
def atMq (q : Command) : State := i32.modCore 0 fun c => { c with mq := [q] }
theorem witness_MatrixSteps :
    (∀ op ∈ [EngineOp.mldb, .mmac 0, .mmac 1, .mzero 3, .manch 1 (-512), .epi, .mtest, .scrubMatrix, .mfence, .mrd 0 true], mqHead (coreAt (atMq (mqCmd op)) 0) = some (mqCmd op)) ∧
    (let q := { mqCmd .mfence with barrier := some 0x120 }; mqHead (coreAt (atMq q) 0) = some q ∧ q.op = .mfence ∧ q.barrier = some 0x120) ∧
    (∀ f ∈ [(0 : BitVec 8), 0x7F, 0xFF], let c := coreAt ((atMq (mqCmd (.mmac 0))).modCore 0 fun c => { c with matrix := { c.matrix with fenced := f, did := 1, b := some ⟨1, 0, [], []⟩ } }) 0
      (enterRun c.matrix (mqCmd (.mmac 0))).fenced = f ∧ (enterRun c.matrix (mqCmd (.mmac 0))).b = some ⟨1, 0, [], []⟩) ∧
    (∀ r < 31, 0x140 + r * 0x40 + outBytes .f32 16 ≤ 0x140 + (r + 1) * 0x40) ∧
    (let c := coreAt (i32.modCore 0 fun c => { c with matrix := { c.matrix with idle := 256 } }) 0; c.matrix.batch = none ∧ c.mq = [] ∧ 256 ≤ c.matrix.idle) := by decide
theorem witness_UnitSteps :
    (∀ u ∈ [PowerUnit.regFile 1, .granule 0 0, .scratchGroup 3, .matrix, .l1],
      (coreAt (i32.modCore 0 fun c => { c with scrubbing := [u], tainted := [u] }) 0).scrubbing.contains u = true ∧
      (let c := coreAt (i32.modCore 0 fun c => { c with asleep := [u], tainted := [u] }) 0; c.asleep.contains u = true ∧ c.tainted.contains u = true)) ∧
    (∀ u ∈ [PowerUnit.regFile 1, .scratchGroup 3, .matrix, .l1], let s := State.reset
      isCompute 5 = true ∧ (coreAt s 5).asleep.contains u = false ∧ (coreAt s 5).scrubbing.contains u = false ∧ unitIdle s 5 u = true) ∧
    (let r : Reopen := { core := 0, matrix := { did := 1 }, mq := [mqCmd .mtest] }
     let s := { i32 with reopen := [r] }
     s.reopen.find? (mayReopen (coreAt s 0) 0) = some r ∧ (coreAt s 0).matrix.batch = none ∧ (coreAt s 0).asleep.contains .matrix = false ∧ (coreAt s 0).scrubbing.contains .matrix = false) := by decide
theorem witness_SchedulingSteps_gangs :
    (∀ y ∈ [false, true], let gn := gangNow (modG i32 fun gn => { gn with status := .stalled, yielded := y }); gn.status = .stalled ∧ gn.stall = 0 ∧ gn.yielded = y) ∧
    (let gn := gangNow (modG i32 fun gn => { gn with ageing := 1024 }); 1024 ≤ gn.ageing ∧ gn.thresholdAt = none) ∧
    (let gn := gangNow (modG i32 fun gn => { gn with status := .parked 0 }); gn.status = .parked 0 ∧ gn.trapped = false) := by decide
/-- Warp 0 of 1 block waits in VGROW for n more beside other warps of 1 block; word w1 of the slot of its domain gives granules and reserve. -/
def growing (n others : Nat) (w1 : Word) : State :=
  let waits : Warp := { did := 1, didNow := 1, blocks := 1, wld := 1, gangs := [(0, { mask := 1, status := .waiting (.vgrow n .z) })] }
  let runs : Warp := { did := 1, didNow := 1, blocks := 1, wld := 1, age := 1, gangs := [(0, { mask := 1 })] }
  i32.modCore 0 fun c => { c with warps := (0, waits) :: (List.range others).map (fun i => (i + 1, runs)), slots := [(0, { fetchSlot with w1 := w1 })] }
/-- Of 64 granules the request takes open ones; of 3 it takes the reserve, but not while another warp runs; of 1 it takes none. -/
theorem witness_SchedulingSteps_growth :
    ∀ p ∈ [((0 : Nat), (0x48000 : Word), true, true, true), (0, 0x40600, false, true, true), (1, 0x40600, false, false, true), (0, 0x40200, false, true, false)],
      let s := growing 2 p.1 p.2.1; let c := coreAt s 0; let sl := AMap.getD c.slots 0 {}
      (growers c 0 sl.did).map Prod.fst = [0] ∧ sl.valid = true ∧ c.slots = [] ++ (0, sl) :: [] ∧ (growers c 0 sl.did).map (fun e => e.2.growing) = [some (0, 2, .z)] ∧
      (growers c 0 sl.did).all (fun e => decide (growNeed e.2 2 ≤ openGranules c sl 0) == p.2.2.1 && decide (growNeed e.2 2 ≤ freeGranules c sl 0) == p.2.2.2.2) = true ∧
      allGrowing c 0 sl.did = p.2.2.2.1 ∧ (serveGrow s 0 0 sl).isSome = decide (p.1 = 0) := by decide
/-- A spawn bin of core 0 with one thread. -/
def binOne (closed : Bool) : Bin := { entry := 0x10000, did := 1, tree := none, threads := [(1, 2)], closed := closed }
theorem witness_SchedulingSteps_bins :
    (∀ closed ∈ [false, true], let s := i32.modCore 0 fun c => { c with bins := [(0, binOne closed)] }
      AMap.get? (coreAt s 0).bins 0 = some (binOne closed) ∧ (binOne closed).timer = 0 ∧ (slotOf (coreAt s 0) 1).map (fun e => e.2.halted) = some false ∧
      olderUnit s 0 0 (binOne closed).since 1 = false ∧ olderUnit s 0 0 (partClk s 0) 1 = false ∧ (placeLoose s 0 0).isSome = true) ∧
    (let s := (i32.modPart 0 fun pt => { pt with clk := 1 }).modCore 0 fun c => { c with bins := [(0, binOne false), (1, binOne true)] }; olderUnit s 0 0 (partClk s 0) 1 = true) ∧
    (let s := i32.modCore 0 fun c => { c with bins := [(0, binOne false)], slots := [(0, { fetchSlot with halted := true })] }; (placeLoose s 0 0).isNone = true) := by decide
def gridOne : Grid := { id := 0, tree := none, did := 1, desc := { entry := 0x10000, vblocks := 1, nwarp := 2, bars := 1, allot := 64, meet := 0 }, gx := 2 }
theorem witness_SchedulingSteps_dispatch :
    (let s := i32.modPart 0 fun pt => { pt with launches := [{ slice := 0, lane := 3, grid := gridOne }] }
     (sliceAt s 0).part = some 0 ∧ ((partAt s 0).launches.find? fun l => decide (l.slice = 0) && decide (l.lane = 3)).any (fun l => decide (l.due ≤ (partAt s 0).clk)) = true) ∧
    (∀ n ∈ [0, 1], let g := { gridOne with next := n }; let s := i32.modPart 0 fun pt => { pt with grids := [g] }; nextGridOf s 0 = some g ∧ (coreForBlock s 0 g).isSome = true) := by decide
theorem witness_SchedulingSteps_retire :
    let s := (modW i32 fun wp => { wp with wld := 0, gangs := [], blk := some 5 }).modCore 0 fun c => { c with blocks := [(5, { live := 2 })] }
    let wp := warpNow s
    warpAt s 0 0 = some wp ∧ isCompute 0 = true ∧ wp.wld = 0 ∧ wp.lc = 0 ∧ wp.sc = 0 ∧ wp.ec = 0 ∧ wp.preempt = false ∧ wp.halted = false ∧ wp.loose = none ∧ wp.blk = some 5 ∧ treeHeld s wp.tree = false ∧
    (AMap.get? (coreAt s 0).blocks 5).map Block.live = some 2 := by decide
def missing (m : Miss) : State := i32.modSlice 0 fun sl => { sl with misses := [m] }
theorem witness_SchedulingSteps_translation :
    (let m : Miss := { core := 0, did := 1, page := 0x900 }
     ((sliceAt (missing m) 0).misses.find? fun m => !m.walking) = some m ∧ (walksOf (sliceAt (missing m) 0).misses).length < 64) ∧
    (∀ p ∈ [((512 : Nat), (0xFFFF : BitVec 16), true), (0, 1, false)],
      let m : Miss := { core := p.1, did := p.2.1, page := 0x200, walking := true }
      (sliceAt (missing m) 0).misses[0]? = some m ∧ ((sliceAt (missing m) 0).service.find? fun e => e.covers m.did (4096 * m.page)) = none ∧ (walkMiss (missing m) m).isOk = p.2.2) ∧
    (let m : Miss := { core := 0, did := 1, page := 0x200 }
     let e : TlbEntry := { did := 1, va := 0x200000, size := 65536, pa := 0x200000, w := true, x := false }
     let s := (missing m).modSlice 0 fun sl => { sl with service := [e] }
     (sliceAt s 0).misses[0]? = some m ∧ ((sliceAt s 0).service.find? fun e => e.covers m.did (4096 * m.page)) = some e ∧ fillFault { s with pot := [(0x20, { owner := 1 })] } 0 1 false e (4096 * m.page) = none ∧
     fillFault s 0 1 false e (4096 * m.page) = some (0x09, 2)) := by decide

/-- Service core 512 at the limit of its own clock for a returning atomic. -/
theorem witness_HomeSteps_service :
    let ac : Access := { id := 5, kind := .atomic .add, lanes := [lane4 (physKey 0 0x2000000000000) false] }
    let s := (stoodSvc []).modCore 512 fun c => { c with inflight := [ac], clk := 17600 }
    accessAt s 512 5 = some ac ∧ isService 512 = true ∧ ac.born.toNat + 17600 ≤ (coreAt s 512).clk.toNat := by decide
/-- A digest stands in the scratchpad, where the DGST names it, and in the partition's manifest. -/
def dgstCmd (page : Word) : Command := engCmd .dgst [0x40, page, 1] 1
def atDigest (page : Word) (d : Digest) : State :=
  ((atFormed false (dgstCmd page)).modPart 0 fun pt => { pt with manifests := [d] }).modCore 0 fun c => viewPut c (dgstCmd page).view 0x40 (natLe 48 d.toNat)
theorem atDigest_expected (page : Word) (d : Digest) : BitVec.ofNat 384 (leNat (viewBytes (coreAt (atDigest page d) 0) (dgstCmd page).view 0x40 48)) = d := by
  unfold atDigest
  rw [coreAt_modCore]
  have e := (viewPut_spec (coreAt ((atFormed false (dgstCmd page)).modPart 0 fun pt => { pt with manifests := [d] }) 0) (dgstCmd page).view 0x40 (natLe 48 d.toNat) (by rw [length_natLe]; decide)).1
  rw [length_natLe] at e
  rw [e, leNat_natLe, Nat.mod_eq_of_lt d.isLt, BitVec.ofNat_toNat, BitVec.setWidth_eq]
theorem atDigest_mem (page : Word) (d : Digest) :
    (atDigest page d).mem = (atFormed false (dgstCmd page)).mem ∧ (atDigest page d).memPoison = [] ∧ (partAt (atDigest page d) 0).manifests = [d] := by
  refine ⟨rfl, rfl, ?_⟩
  unfold atDigest
  rw [partAt_modCore, partAt_modPart]
/-- At most one array of a die is being refreshed: of two pages of different arrays one is not. -/
theorem witness_EngineSteps_refresh (s : State) : ∃ page ∈ [(0 : Word), 1], refreshing s (cisternKey (4096 * page.toNat)) = false := by
  have h : ∀ page ∈ [(0 : Word), 1], cisternRegion (cisternKey (4096 * page.toNat)) / 24 = 0 ∧ bitsN (paOf (cisternKey (4096 * page.toNat))) 15 12 = page.toNat := by simp [cisternKey, cisternRegion, paOf, bitsN]
  by_cases h0 : refreshOpen s 0 = some 0
  · exact ⟨1, by simp, by unfold refreshing; rw [(h 1 (by simp)).1, (h 1 (by simp)).2, h0]; decide⟩
  · exact ⟨0, by simp, by unfold refreshing; rw [(h 0 (by simp)).1, (h 0 (by simp)).2]; simpa using h0⟩
/-- A DGST that is accepted: the digest that its page has, and no refresh of its array. -/
theorem witness_EngineSteps_accepted :
    ∃ page ∈ [(0 : Word), 1], ∃ d : Digest, let s := atDigest page d
      let q := dgstCmd page
      let expected : Digest := BitVec.ofNat 384 (leNat (viewBytes (coreAt s q.core) q.view (bitsW (q.word 0) 19 0) 48))
      let range : CisternRange := { offset := 4096 * (q.word 1).toNat, pages := 1, digest := expected }
      Config.sha384 (range.bytes s) = expected ∧ range.bad s = false ∧ (partAt s (corePart s q.core)).manifests.contains expected = true ∧
        refreshing s (cisternKey (4096 * (q.word 1).toNat)) = false := by
  obtain ⟨page, hm, hr⟩ := witness_EngineSteps_refresh i32
  refine ⟨page, hm, Config.sha384 (cellsRead (atFormed false (dgstCmd page)).mem (cisternKey (4096 * page.toNat)) (4096 * 1)), ?_⟩
  generalize hd : Config.sha384 (cellsRead (atFormed false (dgstCmd page)).mem (cisternKey (4096 * page.toNat)) (4096 * 1)) = d
  have hc : bitsW ((dgstCmd page).word 0) 19 0 = 0x40 := by show bitsW (0x40 : Word) 19 0 = 0x40; decide
  have hw : (dgstCmd page).word 1 = page := rfl
  have hk : (dgstCmd page).core = 0 := rfl
  have hp : corePart (atDigest page d) 0 = 0 := rfl
  have hf : refreshing (atDigest page d) (cisternKey (4096 * page.toNat)) = refreshing i32 (cisternKey (4096 * page.toNat)) := rfl
  obtain ⟨h1, h2, h3⟩ := atDigest_mem page d
  simp only [hc, hw, hk, hp, hf, hr, atDigest_expected, h3, CisternRange.bytes, CisternRange.bad, h1, hd, memPoisoned, h2]
  simp
  exact fun _ _ => rfl
/-! ### Traps, the mailbox, packets, the cistern, services, fabric and management -/

/-- A trap of core 0's warp, and the warp's record, standing in its area with a disposition word; the domain's handler. -/
def trapOf (c : Nat) : Deferred := { entry := 0, trap := { cause := c }, pc := 0x10004, resume := 0x10008, insn := 0, ctl := 0, gmask := 0xF, mode := 0x27, active := 0xF }
def disposing (v handler : Nat) : State :=
  let s := modW i32 fun wp => { wp with recordLive := some 0, liveTrap := some (trapOf 3) }
  let s := s.modCore 0 fun c => { c with slots := [(0, { fetchSlot with w6 := 0x400000, w7 := 0 })] }
  { memPut (memPut s 0x40003C (natLe 4 v)) 0x404008 (natLe 8 handler) with disposals := [(0, 0, v)] }
theorem witness_TrapSteps_record :
    let s := modW i32 fun wp => { wp with deferred := [trapOf 3] }
    let wp := warpNow s
    warpAt s 0 0 = some wp ∧ (slotOf (coreAt s 0) wp.didNow).isSome = true ∧ (trapOf 3).trap.group.length ≤ 8 ∧ wp.deferred = trapOf 3 :: [] ∧ wp.recordLive = none ∧
      wp.halted = false ∧ (sliceAt s (coreSlice 0)).notices.length < 64 := by decide
theorem witness_TrapSteps_notice :
    let s := i32.modSlice 0 fun sl => { sl with notices := [{ core := 0, w := 0, record := 0x400000 }] }
    (sliceAt s 0).notices = { core := 0, w := 0, record := 0x400000 } :: [] ∧ (coreAt s 512).svc.ipend.getLsbD 1 = false := by decide
theorem witness_TrapSteps_interrupt :
    ∀ i ∈ [0, 1, 2],
      let s := (stoodSvc []).modCore 512 fun c => { c with svc := { c.svc with ie := true, ienable := 7, ipend := BitVec.ofNat 3 (2 ^ i) } }
      isCompute 512 = false ∧ pendingIrq (coreAt s 512).svc = some i ∧ (gangAt s 512 0 0).any Gang.atBoundary = true ∧ (coreAt s 512).svc.stopped = false ∧ (coreAt s 512).held = false := by decide
theorem witness_TrapSteps_disposition :
    (∀ v ∈ [1, 2, 3], (disposed (disposing v 0) 0 0 v).map (fun e => e.2) = some (0, 0x400000)) ∧ handlerOf (disposing 3 0) 0 1 = 0 ∧ handlerOf (disposing 3 0x10000) 0 1 = 0x10000 ∧
    (match warpAt (disposing 3 0x10000) 0 0, gangAt (disposing 3 0x10000) 0 0 0 with
      | some wp, some gn => decide (checkTargets { s := disposing 3 0x10000, k := 0, c := coreAt (disposing 3 0x10000) 0, w := 0, wp := wp, g := 0, gn := gn } 1 gn.mask (fun _ => 0x10000) false = .ok ())
      | _, _ => false) = true ∧
    (sliceAt i32 0).part = some 0 ∧ (2 ^ 52 - 1 ≥ 0x3FFFFFFFFFFFF ∧ paKind 0x3FFFFFFFFFFFF < 4) := by decide
/-- A command in the mailbox of core 0, which stands at 0x300000; the warp's block is of it alone, or it belongs to a protected domain. -/
def mailing (m : Word) (prot : Bool) : State :=
  { free := 0, slices := [(0, { part := some 0 })], cores := [(0, { mailbox := some m, dbgmb := 0x30, slots := [(0, if prot then { fetchSlot with w0 := fetchSlot.w0 ||| 0x10000 } else fetchSlot)], snaps := [(0, { tag := 0, clk := 0, wld := 0, lc := 0, sc := 0, ec := 0, gangs := [] })], warps := [(0, { did := 1, didNow := 1, wld := 1, gangs := [(0, { mask := 1, dbgHalt := m.getLsbD 30 })] })] })] }
theorem witness_DebugSteps (m : Word) : (coreAt (mailing m false) 0).mailbox = some m := rfl
theorem witness_DebugSteps_key : mailboxKey (mailing 3 false) 0 = some 0x300000 := by decide
theorem witness_DebugSteps_ops : ([1, 2, 3, 4, 5, 6, 0, 7, 0x80000003] : List Word).map mbOp = [1, 2, 3, 4, 5, 6, 0, 7, 3] := by decide
theorem witness_DebugSteps_refused : ∀ prot ∈ [false, true], debugRefused (mailing 1 prot) 0 (mbWarp 1) = prot := by decide
theorem witness_DebugSteps_gangs :
    blockOutstanding (coreAt (haltBlock (mailing 1 false) 0 0) 0) 0 = false ∧
    blockOutstanding (coreAt (haltBlock ((mailing 1 false).modCore 0 fun c => { c with inflight := [{ id := 5, kind := .lds }] }) 0 0) 0) 0 = true ∧
    (∀ b ∈ [false, true], (gangAt (mailing (if b then 0x40000003 else 3) false) 0 0 0).map (fun gn => (gn.dbgHalt, gn.stepping)) = some (b, false)) ∧
    (AMap.get? (coreAt (mailing 6 false) 0).snaps (mbWarp 6)).isSome = true := by decide

/-- Queue 0 of the partition with its descriptor at 0x300000 and its ring at 0x310000, resident on lane 3 of slice 0, and a packet in the lane. -/
def queued (lsize wake read : Nat) (pkt : Option (BitVec 512)) : State :=
  let s := (i32.modPart 0 fun pt => { pt with queueTable := 0x300000, queueCount := 1, generation := 7, journalSize := 4, journalVa := 0x320000, journal := [{ id := 0x7000000000005, status := 0, result := 9 }, { id := 0x7000000000006, status := 3, result := 9 }] })
  let s := s.modSlice 0 fun sl => { sl with lanes := [(3, { queue := 0, packet := pkt, index := read })], serving := if pkt.isSome then [(3, 0)] else [] }
  memPut s 0x300000 (natLe 8 0x310000 ++ natLe 4 lsize ++ natLe 4 0xFFFF ++ natLe 8 wake ++ natLe 8 read)
/-- A packet of a type, with bytes at places. -/
def packetOf (t : Nat) (fields : List (Nat × Nat)) : BitVec 512 := BitVec.ofNat 512 (t + 0x400000 + (fields.map fun f => f.2 * 2 ^ (8 * f.1)).sum)
set_option exponentiation.threshold 600
theorem witness_PacketSteps_fetch :
    (∀ p ∈ [((3 : Nat), (1 : Nat), (0 : Nat), false), (4, 0, 1, true), (4, 17, 0, true), (4, 16, 0, true), (16, 1, 0, true)], let s := queued p.1 p.2.1 p.2.2.1 none
      (sliceAt s 0).part = some 0 ∧ (AMap.get? (sliceAt s 0).lanes 3).map Lane.packet = some none ∧
      (queueDesc (s.seenBy 0 0) 0 0).map (fun d => (d.err, d.slice, d.ok, d.wake, d.read)) = some (0, 0, p.2.2.2, p.2.1, p.2.2.1)) ∧
    (let s := queued 4 16 0 none; (queueDesc (s.seenBy 0 0) 0 0).map (fun d => keyShut s d.key) = some false ∧ ((queueDesc (s.seenBy 0 0) 0 0).bind (packetKey s 0 0)).map (keyShut s) = some false) := by decide
/-- The packet of a lane as it is parsed. -/
def parsing (pkt : BitVec 512) (mine : Nat → Bool) : Option Parse := parseAt (queued 4 1 0 (some pkt)) 0 3 mine
theorem witness_PacketSteps_types :
    (∀ t ∈ [0, 1], (parsing (packetOf t []) fun t => decide (t ≤ 1)).map (fun x => pktType x.pkt) = some t) ∧
    (∀ t ∈ [2, 3, 4, 5, 6], (parsing (packetOf t []) fun u => decide (u = t)).map (fun x => (pktType x.pkt, headerOk x.pkt)) = some (t, true)) ∧
    (parsing (packetOf 3 [(2, 1)]) fun u => decide (u = 3)).map (fun x => (headerOk x.pkt, pktNat x.pkt 56 8)) = some (false, 0) ∧
    (parsing (packetOf 3 [(4, 1)]) fun u => decide (u = 3)).map (fun x => (headerOk x.pkt, pktNat x.pkt 4 28, pktNat x.pkt 56 8)) = some (true, 1, 0) := by decide
theorem witness_PacketSteps_waitsig :
    ∀ n ∈ [0, 1], let s := queued 4 1 0 (some (packetOf 4 [(16, 0x330000), (24, n)]))
      (parseAt s 0 3 fun t => decide (t = 4)).map (fun x => (headerOk x.pkt, pktNat x.pkt 16 8 % 8, keyOfVa (s.seenBy x.p x.slice) x.p x.d.did (pktVa x.pkt 16), pktNat x.pkt 24 8)) = some (true, 0, some 0x330000, n) ∧
      memNat s 0x330000 8 = 0 := by decide
theorem witness_PacketSteps_query :
    ∀ id ∈ [0x7000000000005, 0x7000000000006], let s := queued 4 1 0 (some (packetOf 6 [(16, id), (24, 0x330000)]))
      (parseAt s 0 3 fun t => decide (t = 6)).map (fun x => (headerOk x.pkt, notCistern (keyOfVa (s.seenBy x.p x.slice) x.p x.d.did (pktVa x.pkt 24)), pktNat x.pkt 24 8 % 8, pktNat x.pkt 16 8)) = some (true, some 0x330000, 0, id) ∧
      queryAnswer s 0 id = (if id = 0x7000000000005 then (0, 9, false) else (4, 0, false)) ∧ (journalFind s 0 id).map (fun e => decide (e.status % 256 < 3)) = some (decide (id = 0x7000000000005)) := by decide
theorem witness_PacketSteps_journal :
    ∀ p ∈ [((0x7000000000005 : Nat), true, true), (0x6000000000009, false, false), (0x7000000000009, false, true)], let s := queued 4 1 0 none
      p.1 ≠ 0 ∧ (journalFind s 0 p.1).isSome = p.2.1 ∧ decide (p.1 / 2 ^ 48 = (partAt s 0).generation.toNat) = p.2.2 := by decide
theorem witness_PacketSteps_firmware : (sliceAt i32 0).part = some 0 ∧ (partAt i32 0).slices = 0 :: [] := by decide
theorem witness_PacketSteps_quantum :
    let s := (i32.modPart 0 fun pt => { pt with quantum := 700000 }).modCore 640 fun c => { c with clk := 700000 }
    (sliceAt s 0).part = some 0 ∧ (sliceAt s 0).serving = [] ∧ quantumOver s 0 = true := by decide

/-- A write of one line that waits for the cistern of partition 0, and a range with its digest. -/
def loading (core : Option Nat) : State :=
  { (i32.modSlice (regionSlice 0) fun sl => { sl with part := some 0 }).modCore 512 (fun c => { c with svc := { c.svc with op := core.map fun _ => .hgmb 0x43 0x200000 0x201000 256 .z } }) with cisternWrites := [{ part := 0, offset := 0, bytes := List.replicate 128 1, core := core }], ranges := [{ offset := 0, pages := 1, digest := 0 }] }
theorem witness_CisternSteps :
    (∀ core ∈ [none, some 512], (loading core).cisternWrites[0]? = some { part := 0, offset := 0, bytes := List.replicate 128 1, core := core } ∧
      regionOf (loading core) 0 0 = true ∧ cisternBlocked (loading core) 0 0 = false) ∧
    (({ part := 0, offset := 0, bytes := List.replicate 128 1 } : CisternWrite).content i32).map (fun e => (e.1, e.2.1)) = some (List.replicate 128 1, []) ∧ regionOf i32 1 0 = false ∧
    (coreAt (loading (some 512)) 512).svc.op = some (.hgmb 0x43 0x200000 0x201000 256 .z) ∧
    ((loading none).ranges.find? fun r => decide (r.offset / 2 ^ 26 / 24 = 0)) = some { offset := 0, pages := 1, digest := 0 } ∧ (List.replicate 128 (1 : Byte)).length % 128 = 0 ∧
    ({ offset := 0, pages := 1, digest := 0 } : CisternRange).bad (loading none) = false := by decide
/-- A request of service core 512 at 0x200000, for a service of the headgate, with words at places. -/
def asking (num : Nat) (ws : List (Nat × Nat)) : State :=
  ws.foldl (fun s w => memPutNat s (0x200000 + 4 * w.1) 4 w.2) { (stoodSvc []).modCore 512 (fun c => { c with svc := { c.svc with op := some (.hgmb num 0x200000 0x201000 256 .z) } }) with pot := [(0x20, { owner := 0xFFFF })] }
def reqOf (num : Nat) (ws : List (Nat × Nat)) : Req := (reqAt (asking num ws) 512 num).getD ⟨0, 0, 0, 0, 0, .z⟩
/-- The service answers the request with a status. -/
def answers (num : Nat) (ws : List (Nat × Nat)) (f : Req → State → Option (Nat × State)) : Option Nat := (f (reqOf num ws) (asking num ws)).map Prod.fst
theorem witness_ServiceSteps_rows :
    ([answers 0x01 [(16, 1024)] (answer setupKernel), answers 0x02 [] (answer startResize), answers 0x10 [(2, 0x400000), (4, 1), (5, 1)] setOwner, answers 0x11 [] sealFrames,
      answers 0x20 [] (answer registerMember), answers 0x21 [] (answer withdrawMember), answers 0x30 [] (answer defineTensor), answers 0x40 [] (answer submitManifest)].all Option.isSome) = true := by decide
theorem witness_ServiceSteps_more :
    ([answers 0x42 [] pairRegions, answers 0x50 [] (answer rotateKeys), answers 0x60 [] exportWindow, answers 0x70 [] (answer bindSlot), answers 0x71 [] (answer registerKey),
      answers 0x90 [] (answer exportDomain), answers 0xA1 [] (answer drawChallenge)].all Option.isSome) = true := by decide
theorem witness_ServiceSteps_import : (answers 0x91 [] (answer importDomain)).isSome = true := by
  unfold answers answer; cases importDomain (reqOf 0x91 []) (asking 0x91 []) <;> rfl
theorem witness_ServiceSteps_measure (i : Nat) (h : i = 9 ∨ i = 15) :
    (reqOf 0x80 [(1, i)]).w (asking 0x80 [(1, i)]) 1 = i ∧ (answers 0x80 [(1, i)] (answer extendRegister)).isSome = true ∧ (answers 0x81 [] (answer reportMeasures)).isSome = true := by
  rcases h with rfl | rfl <;> exact ⟨rfl, rfl, rfl⟩
theorem witness_ServiceSteps_load :
    (asking 0x43 []).lifecycle ≠ 3 ∧ (reqAt (asking 0x43 []) 512 0x43).isSome = true ∧ (loadRequest (reqOf 0x43 []) (asking 0x43 [])).isOk = false ∧
    (let s := { (asking 0x43 [(2, 0x400000), (5, 1)]).modSlice (regionSlice 0) (fun sl => { sl with part := some 0 }) with pot := [(0x40, { owner := 0xFFFF }), (0x20, { owner := 0xFFFF })] }
     (loadRequest (reqOf 0x43 []) s).isOk = true ∧ s.cisternWrites = []) := by decide
/-- Whether a token is accepted, and whether the fuse disables it, are values of the configuration that no rule fixes: only a refusal is shown. -/
theorem witness_ServiceSteps_unlock :
    (∀ num ∈ [0xA0, 0xA2], (reqAt (asking num []) 512 num).isSome = true) ∧ (asking 0xA0 []).unlock = none ∧ (asking 0xA0 []).lifecycle = 1 ∧
    (∃ n, tokenChecked (reqOf 0xA0 []) (asking 0xA0 []) 1 = .error n) ∧
    (let s := { asking 0xA0 [] with unlock := some (512, some 0) }; s.unlock = some (512, some 0) ∧ ((protectedSlots s).all fun e => domainStopped s e.2.2.did e.1) = true) := by
  refine ⟨by decide, rfl, rfl, ?_, by decide⟩
  cases h : Config.debugDisabled
  · exact ⟨4, by simp [tokenChecked, want, h]; rfl⟩
  · exact ⟨4, by simp [tokenChecked, want, h]; rfl⟩
theorem witness_ServiceSteps_owner :
    let ws := [(2, 0x400000), (4, 1), (5, 1)]
    (match ownerRequest (reqOf 0x10 ws) (asking 0x10 ws) with
    | .ok (fs, _) => !fs.any (frameBusy (revoke (asking 0x10 ws) 0 fs))
    | .error _ => false) = true := by decide
theorem witness_ServiceSteps_groups :
    (∀ formed ∈ [false, true], let s := { i32 with groups := [(256, { formed := formed, members := [{ module := 3, etype := 10, op := 0, mask := 1, buffer := 0, length := 0x1000, present := !formed }] })] }
      (AMap.get? s.groups 256).map (fun g => (g.formed, g.members.map Member.module)) = some (formed, [3])) ∧
    (∀ n ∈ [0, 64], (partAt (i32.modPart 0 fun pt => { pt with resize := some { target := [0], old := [0], goal := [0], moving := n, total := 128 } }) 0).resize.isSome = true) ∧
    (let s := { i32 with exports := [{ part := 0, did := 1, area := 0, nonce := 0 }] }; (s.exports.find? fun x => decide (x.part = 0) && decide (x.did = 1)).isSome = true) := by decide
theorem witness_SpdmSteps :
    let e : Spdm := { version := true, capabilities := true, algorithms := true, session := some 5, finished := true }
    let s := { i32 with spdm := [(2, e)] }
    (spdmAt s 2) = e ∧ (spdmAt i32 2).version = false ∧ (spdmAt i32 2).algorithms = false ∧ protectedDom s 0 1 = false ∧
    (s.spdm.find? fun q => decide (q.2.session = some 5) && q.2.finished) = some (2, e) ∧ AMap.get? s.keySlots 7 = none := by decide
/-- Port 3 with packets in its inbox, its node without a window here, and an access on its way there. -/
def porting (up : Bool) (inbox : List Packet) (as : List Access) : State :=
  { i32.modCore 0 (fun c => { c with inflight := as }) with ports := [(3, { up := up, replays := 16, dropped := true, inbox := inbox, rxPending := some 1, rxSeq := 5 })] }
def pktFor (kind : BitVec 8) (sectors : BitVec 4) (payload : List Byte) : Packet :=
  { kind := kind, sectors := sectors, phase := true, spare := 0, tag := 9, module := 1, slice := 0, opWord := 0, offset := 0x20000000000, operands := 0, payload := payload }
/-- The first byte of the node's exported windows, as a key. -/
def nodeKey : Nat := 0x2000000000000 + 3 * 2 ^ 42 + 2 ^ 41
theorem witness_FabricSteps_frames :
    let s := porting true [] []
    let q := s.modPort 3 fun p => { p with dropped := false, unacked := [{ seq := 0, packets := [], tag := 0 }], txReplays := 16 }
    (portAt s 3).up = true ∧ (portAt (porting false [] []) 3).up = false ∧ (portAt s 3).dropped = true ∧ 16 ≤ (portAt s 3).replays ∧
    (portAt q 3).dropped = false ∧ (portAt q 3).unacked ≠ [] ∧ 16 ≤ (portAt q 3).txReplays ∧ (portAt q 3).frames < 2 ^ 36 ∧
    frameOk (portAt s 3) 3 { seq := 5, packets := [], tag := 0 } = false := by decide
/-- A frame of one packet in the new phase whose tag is the one that R354 computes under the pending key. -/
def goodFrame : Frame :=
  let ps := [pktFor 2 1 (List.replicate 32 0)]
  { seq := 5, packets := ps, tag := frameTag (Config.linkKey 3 0 false 1) 3 5 ps }
theorem witness_FabricSteps_accepted : frameOk (portAt (porting true [] []) 3) 3 goodFrame = true ∧ goodFrame.seq = (portAt (porting true [] []) 3).rxSeq := by
  have h : frameKey (portAt (porting true [] []) 3) 3 goodFrame = some (Config.linkKey 3 0 false 1) := rfl
  refine ⟨?_, rfl⟩
  unfold frameOk
  rw [h]
  simp [goodFrame, framePhase, pktFor]
  decide
def lineAt (performed : Bool) : LinePart := { line := nodeKey / 128, sectors := [nodeKey / 32], performed := performed, tag := some 9, sent := true }
def laneAt : LaneAcc := { lane := 0, pa := nodeKey, size := 4, tag := some 9, sent := true }
theorem witness_FabricSteps_reads :
    let ac : Access := { id := 5, kind := .load, parts := [lineAt false] }
    let pkt := pktFor 2 1 (List.replicate 32 0)
    let s := porting true [pkt] [ac]
    let read := fun (p : LinePart) => partWaits s 3 pkt.tag.toNat false p && (p.sectors.filter fun q => !p.hits.contains q).all fun q => pkt.sectors.getLsbD (q % 4)
    (portAt s 3).inbox.head? = some pkt ∧ (pendingOf s pkt (fun ac => readsData ac && ac.parts.any read)).map (fun e => (e.k, e.ac)) = some (0, ac) ∧ (ac.parts.find? read).isSome = true := by decide
theorem witness_FabricSteps_writes :
    ∀ ac ∈ [({ id := 5, kind := .store, parts := [lineAt false] } : Access), { id := 5, kind := .red .add, lanes := [laneAt] }],
    let pkt := pktFor 4 0 []
    let s := porting true [pkt] [ac]
    let part := partWaits s 3 pkt.tag.toNat true
    let lane := laneWaits s 3 pkt.tag.toNat
    (pendingOf s pkt (fun ac => (decide (ac.kind = .store) && ac.parts.any part) || (reduces ac && ac.lanes.any lane))).map (fun e => (e.k, e.ac)) = some (0, ac) ∧
      ((ac.parts.find? part).isSome || (ac.lanes.find? lane).isSome) = true := by decide
theorem witness_FabricSteps_others :
    (let ac : Access := { id := 5, kind := .atomic .add, lanes := [laneAt] }
     let s := porting true [pktFor 6 0 []] [ac]
     (pendingOf s (pktFor 6 0 []) (fun ac => ac.isAtomic && ac.lanes.any (laneWaits s 3 9))).map (fun e => (e.k, e.ac)) = some (0, ac) ∧ (ac.lanes.find? (laneWaits s 3 9)).isSome = true) ∧
    (let ac : Access := { id := 5, kind := .load, parts := [lineAt false] }
     let s := porting true [pktFor 9 0 []] [ac]
     (pendingOf s (pktFor 9 0 []) (fun ac => ((readsData ac || decide (ac.kind = .store)) && ac.parts.any (partWaits s 3 9 (decide (ac.kind = .store)))) || ((ac.isAtomic || reduces ac) && ac.lanes.any (laneWaits s 3 9)))).map
       (fun e => (e.k, e.ac)) = some (0, ac) ∧ (ac.parts.find? (partWaits s 3 9 false)).isSome = true) := by decide
/-- Node 3 may read and write window 0 of partition 0; module 1 imports it. -/
def exporting (pkt : Packet) : State := { porting true [pkt] [] with windows := [{ node := 3, win := 0, part := 0, base := 0x200000, length := 0x10000, r := true, w := true, importers := 2 }], pot := [(0x20, { owner := 0 })] }
theorem witness_FabricSteps_windows :
    (∀ kind ∈ [(1 : BitVec 8), 3, 5, 7], (portAt (exporting (pktFor kind 1 [])) 3).inbox.head? = some (pktFor kind 1 []) ∧ (windowHome (exporting (pktFor kind 1 [])) 3 (pktFor kind 1 [])).toOption = some 0x200000 ∧
      (windowHome (porting true [] []) 3 (pktFor kind 1 [])).isOk = false) ∧
    keyShut (exporting (pktFor 1 1 [])) 0x200000 = false := by decide
theorem witness_FabricSteps_multicast :
    ∀ cistern ∈ [false, true],
    let pkt := { pktFor 8 0 (List.replicate 128 1) with tag := 0, offset := if cistern then 0x20000000000 else 0 }
    let s := { (porting true [pkt] []).modSlice (regionSlice 0) (fun sl => { sl with part := some 0 }) with groups := [(0, { formed := true, members := [{ module := 0, etype := 10, op := 0, mask := 1, buffer := 0, frames := [0x200000], length := 128, did := 0xFFFF }] })], pot := [(0x20, { owner := 0xFFFF })] }
    (memberFor s 0).any (fun m => decide (pkt.module.toNat ≠ m.module) && decide (128 ≤ m.length) && memberOwns s m 0 128 && regionOf s m.part 0) = true ∧ pkt.offset.getLsbD 41 = cistern := by decide
theorem witness_FabricSteps_cxl :
    (decide (512 * (0 + 1) ≤ 15625000 * hbmStacks (partAt i32 0)) = true ∧ (partAt i32 0).hostOwned.contains 0 = false ∧ keepsOwner (partAt i32 0) 0 = false ∧ regionBusy i32 0 0 = false) ∧ (partAt (i32.modPart 0 fun pt => { pt with hostOwned := [0] }) 0).hostOwned.contains 0 = true ∧
    keepsOwner { moved := [(0, 5)], clk := 2052 } 0 = true ∧ keepsOwner { moved := [(0, 5)], clk := 2053 } 0 = false := by decide
/-- Whether the host exports a region, a loader verifies or a receipt verifies is a value of the configuration: each of these premises holds exactly where that value says so. -/
theorem witness_open_values (bytes : List Byte) (x : Digest) :
    (Config.hostExports 0 0 = true → regionOk i32 0 0 = true) ∧ (Config.loaderOk bytes 0 = true → loaderGood State.reset bytes (Config.sha384 bytes) = true) ∧
    (peerSession { i32 with spdm := [(2, { finished := true, bothSides := true })] } = true ∧ peerSession i32 = false) ∧ (Config.receiptOk x 0 = true ∨ Config.receiptOk x 0 = false) := by
  refine ⟨fun h => ?_, fun h => ?_, by decide, ?_⟩
  · unfold regionOk; rw [h]; decide
  · simp [loaderGood, show State.reset.rollback = 0 from rfl, h]
  · cases Config.receiptOk x 0 <;> simp
theorem witness_ManagementSteps :
    (let rect : Rect := { row0 := 0, row1 := 3, col0 := 7, col1 := 7 }
     (partAt State.reset 31).slices = [] ∧ rectOk rect = true ∧ rectSlices rect = [7, 15, 23, 31] ∧ State.reset.lifecycle ≠ 3 ∧ ∀ n ∈ rectSlices rect, (sliceAt State.reset n).part = none ∧ takenByOther State.reset 31 n = false) ∧
    (let s := i32.modPart 0 fun pt => { pt with bootTries := 1 }; (partAt s 0).slices ≠ [] ∧ (partAt s 0).booted = false ∧ (partAt s 0).bootTries ≠ 0) ∧
    (let i : FirmwareImage := { version := 63, digest := 0, ecdsaOk := true, lmsOk := true, bodyOk := true }; imageOk { i32 with staged := some i } i = true ∧ i32.staged = none) := by decide

end Sys2Proof.Tests
end

/-! SUPPORT. What the numeric operations of the shift and bit instructions make of one element, in the terms of bit vectors (R66 to R68),
and what the frames of the lane ALU answer where an instruction issues normally (R40). -/

namespace Sys2Proof.Machine

open Sys2Proof.Safety

/-! ## One element -/

theorem shlElem_eq (w p q : Nat) : shlElem w p q = (BitVec.ofNat w p <<< q).toNat := by
  rw [shlElem, BitVec.toNat_shiftLeft, BitVec.toNat_ofNat, Nat.shiftLeft_eq, Nat.mod_mul_mod]
  split
  · next h => rw [Nat.mod_eq_zero_of_dvd (Dvd.dvd.mul_left (Nat.pow_dvd_pow 2 h) p)]
  · rfl

theorem shrElem_eq {w p : Nat} (hp : p < 2 ^ w) (q : Nat) : shrElem w p q = (BitVec.ofNat w p >>> q).toNat := by
  rw [shrElem, BitVec.toNat_ushiftRight, BitVec.toNat_ofNat, Nat.mod_eq_of_lt hp, Nat.shiftRight_eq_div_pow]
  split
  · next h => rw [Nat.div_eq_of_lt (hp.trans_le (Nat.pow_le_pow_right (by decide) h))]
  · rfl

theorem sextN_eq_toInt (w p : Nat) : sextN p w = (BitVec.ofNat w p).toInt := by
  rw [BitVec.toInt_eq_toNat_cond, BitVec.toNat_ofNat, sextN]
  push_cast
  rfl

/-- Past the width, a w-bit number shifted right arithmetically stays what a shift by the width leaves: 0 or -1. -/
theorem ediv_two_pow_min {w : Nat} {v : Int} (hl : -2 ^ w ≤ v) (hu : v < 2 ^ w) (q : Nat) : v / 2 ^ min q w = v / 2 ^ q := by
  rcases Nat.le_total q w with h | h
  · rw [min_eq_left h]
  have hpow : (2 : Int) ^ w ≤ 2 ^ q := pow_le_pow_right₀ (by decide) h
  rw [min_eq_right h]
  rcases lt_or_ge v 0 with hv | hv
  · rw [Int.ediv_eq_neg_one_of_neg_of_le hv (by omega), Int.ediv_eq_neg_one_of_neg_of_le hv (by omega)]
  · rw [Int.ediv_eq_zero_of_lt hv hu, Int.ediv_eq_zero_of_lt hv (hu.trans_le hpow)]

theorem sarElem_eq (w p q : Nat) : sarElem w p q = (BitVec.sshiftRight (BitVec.ofNat w p) q).toNat := by
  have hl := BitVec.le_toInt (BitVec.ofNat w p)
  have hu := BitVec.toInt_lt (x := BitVec.ofNat w p)
  have hpow : (2 : Int) ^ (w - 1) ≤ 2 ^ w := pow_le_pow_right₀ (by decide) (Nat.sub_le w 1)
  rw [sarElem, sextN_eq_toInt, BitVec.sshiftRight_eq, BitVec.toNat_ofInt, Int.shiftRight_eq_div_pow, wrapN]
  push_cast
  rw [ediv_two_pow_min (by omega) (by omega)]

/-- A rotation puts together the low w - k bits moved up and the high k bits moved down. -/
theorem rolElem_eq {w p : Nat} (hw : 0 < w) (hp : p < 2 ^ w) (q : Nat) : rolElem w p q = (BitVec.rotateLeft (BitVec.ofNat w p) q).toNat := by
  have hk : q % w < w := Nat.mod_lt q hw
  have hsplit : 2 ^ w = 2 ^ (w - q % w) * 2 ^ (q % w) := by rw [← pow_add]; congr 1; omega
  have hlow : p / 2 ^ (w - q % w) < 2 ^ (q % w) := Nat.div_lt_of_lt_mul (hsplit ▸ hp)
  rw [BitVec.toNat_rotateLeft, BitVec.toNat_ofNat, Nat.mod_eq_of_lt hp, Nat.shiftLeft_eq, Nat.shiftRight_eq_div_pow, rolElem]
  rw [hsplit, Nat.mul_mod_mul_right, ← Nat.shiftLeft_eq, Nat.shiftLeft_add_eq_or_of_lt hlow]

theorem fshElem_eq {w p q : Nat} (hp : p < 2 ^ w) (hq : q < 2 ^ w) (c : Nat) :
    fshElem w p q c = (BitVec.setWidth w ((BitVec.ofNat w p ++ BitVec.ofNat w q) >>> (c % w))).toNat := by
  rw [BitVec.toNat_setWidth, BitVec.toNat_ushiftRight, BitVec.toNat_append, BitVec.toNat_ofNat, BitVec.toNat_ofNat, Nat.mod_eq_of_lt hp, Nat.mod_eq_of_lt hq,
    ← Nat.shiftLeft_add_eq_or_of_lt hq, Nat.shiftLeft_eq, Nat.shiftRight_eq_div_pow, fshElem]

/-- The first bit that is 1, counted from the top. -/
theorem clzN_eq {w p : Nat} (hp : p < 2 ^ w) : clzN w p = ((List.range w).find? fun i => p.testBit (w - 1 - i)).getD w := by
  rw [clzN]
  split
  · next h => rw [List.find?_eq_none.mpr (by simp [h]), Option.getD_none]
  · next h =>
    have hlog : p.log2 < w := (Nat.log2_lt h).mpr hp
    have htop : w - 1 - (w - 1 - p.log2) = p.log2 := by omega
    have hfind : ((List.range w).find? fun i => p.testBit (w - 1 - i)) = some (w - 1 - p.log2) := by
      refine List.find?_range_eq_some.mpr ⟨by rw [htop]; exact Nat.testBit_log2 h, List.mem_range.mpr (by omega), fun j hj => ?_⟩
      rw [Nat.testBit_lt_two_pow ((Nat.log2_lt h).mp (by omega))]
      rfl
    rw [hfind, Option.getD_some]

theorem popN_eq (w p : Nat) : popN w p = ((List.range w).filter p.testBit).length := by
  induction w generalizing p with
  | zero => rfl
  | succ n ih =>
    have hshift : (Nat.testBit p) ∘ Nat.succ = (p / 2).testBit := funext fun i => Nat.testBit_succ p i
    rw [popN, ih, ← List.countP_eq_length_filter, ← List.countP_eq_length_filter, List.range_succ_eq_map, List.countP_cons,
      List.countP_map, hshift, Nat.testBit_zero, Nat.add_comm]
    rcases Nat.mod_two_eq_zero_or_one p with h | h <;> simp [h]

theorem revN_lt (w p : Nat) : revN w p < 2 ^ w := by
  induction w generalizing p with
  | zero => exact Nat.one_pos
  | succ n ih =>
    have := ih (p / 2)
    rcases Nat.mod_two_eq_zero_or_one p with h | h <;> rw [revN, h, pow_succ] <;> omega

theorem testBit_revN {w i : Nat} (p : Nat) (hi : i < w) : (revN w p).testBit i = p.testBit (w - 1 - i) := by
  induction w generalizing p with
  | zero => omega
  | succ n ih =>
    rw [revN, Nat.mul_comm]
    rcases Nat.lt_succ_iff_lt_or_eq.mp hi with h | rfl
    · rw [Nat.testBit_two_pow_mul_add _ (revN_lt n _), if_pos h, ih _ h, ← Nat.testBit_succ]
      congr 1; omega
    · rw [Nat.testBit_two_pow_mul_add _ (revN_lt _ _)]
      simp

theorem revN_eq (w p : Nat) : revN w p = (BitVec.reverse (BitVec.ofNat w p)).toNat := by
  refine Nat.eq_of_testBit_eq fun i => ?_
  rw [BitVec.testBit_toNat, BitVec.getLsbD_reverse, BitVec.getMsbD_eq_getLsbD, BitVec.getLsbD_ofNat]
  by_cases hi : i < w
  · rw [testBit_revN p hi]
    simp [hi, show w - 1 - i < w by omega]
  · simp [hi, Nat.testBit_lt_two_pow ((revN_lt w p).trans_le (Nat.pow_le_pow_right (by decide) (Nat.le_of_not_lt hi)))]

/-! ## The operands -/

theorem EType.width_pos (t : EType) : 0 < t.width := by cases t <;> decide

theorem elemOf_lt (t : EType) (x i : Nat) : elemOf t x i < 2 ^ t.width := Nat.mod_lt _ (Nat.two_pow_pos _)

/-- Operations that agree on the values of an element agree element by element. -/
theorem perElem_congr {t : EType} {e e' : Nat → Nat → Nat → Nat} (x y c : Nat)
    (h : ∀ p q r, p < 2 ^ t.width → q < 2 ^ t.width → e p q r = e' p q r) : perElem t e x y c = perElem t e' x y c :=
  congrArg (buildElems t · t.elems) (funext fun i => h _ _ _ (elemOf_lt t x i) (elemOf_lt t y i))

/-- An operation of one operand is the same element by element whatever stands for the second. -/
theorem perElem_unary (t : EType) (e : Nat → Nat) (x y c : Nat) : perElem t (fun p _ _ => e p) x y c = perElem t (fun p _ _ => e p) x 0 c := rfl

theorem opA_lt (x : Ctx) (a : Reg) (l : Nat) : opA x a l < 2 ^ x.bits := by
  unfold opA Ctx.bits
  split <;> exact BitVec.isLt _

theorem opB_lt (x : Ctx) (b : Reg) (l : Nat) : opB x b l < 2 ^ x.bits := by
  unfold opB Ctx.bits
  split <;> exact BitVec.isLt _

theorem toNat_ofNat_opA (x : Ctx) (a : Reg) (l : Nat) : (BitVec.ofNat x.bits (opA x a l)).toNat = opA x a l := by
  rw [BitVec.toNat_ofNat, Nat.mod_eq_of_lt (opA_lt x a l)]

theorem toNat_ofNat_opB (x : Ctx) (b : Reg) (l : Nat) : (BitVec.ofNat x.bits (opB x b l)).toNat = opB x b l := by
  rw [BitVec.toNat_ofNat, Nat.mod_eq_of_lt (opB_lt x b l)]

/-! ## What the frames of the lane ALU answer -/

/-- A body that retires at the cursor's gang to the next slot answers the state that it retires in. -/
theorem run_retire_answers {s : State} {x : Ctx} {body : Ctx → Except Stop State} {f : Form} {t : State} {r : Nat → Word} (hx : ctxOf s = some x)
    (hb : body x = .ok (retire x f t r)) (h : Issues x f) : Answers (run s body) x t (nextSlot x.gn.pc) := by
  rw [run, hx]
  simp only [hb, settle]
  exact retire_answers f t r h.running

/-- A per-lane ALU instruction (R40) writes its destination in the active lanes. -/
theorem laneOp_answers {s : State} {x : Ctx} {body : Ctx → Except Stop State} {op n lat : Nat} {d a b : Reg} {useA useB readD typed : Bool} {r : Nat → Nat}
    (hx : ctxOf s = some x) (hb : body x = laneOp x (aluForm x op d a b useA useB readD typed lat) d n r)
    (h : Issues x (aluForm x op d a b useA useB readD typed lat)) : Answers (run s body) x (x.setWarp (x.wp.dst x.active d n r)) (nextSlot x.gn.pc) := by
  refine run_retire_answers (r := fun l => w32 (r l)) hx ?_ h
  rw [hb, laneOp, check_of_issues h]
  rfl

/-- An element-wise instruction of the integer types, whose operation e depends on the element's width alone, writes in the active lanes any operation
that agrees with e on the values of an element. -/
theorem intOp_answers {s : State} {x : Ctx} {op lat : Nat} {d a b : Reg} {useA useB readD : Bool} (e : Nat → Nat → Nat → Nat → Nat) {e' : Nat → Nat → Nat → Nat}
    (hx : ctxOf s = some x) (hint : x.t.isInt = true) (h : Issues x (aluForm x op d a b useA useB readD true lat))
    (he : ∀ p q c, p < 2 ^ x.t.width → q < 2 ^ x.t.width → e x.t.width p q c = e' p q c) :
    Answers (run s fun y => elemOp y (aluForm y op d a b useA useB readD y.t.isInt lat) d (e y.t.width)) x
      (x.setWarp (x.wp.dst x.active d x.width fun l => perElem x.t e' (opA x a l) (opB x b l) (opD x d l))) (nextSlot x.gn.pc) := by
  rw [← hint] at h
  simp only [← perElem_congr _ _ _ he]
  exact laneOp_answers hx rfl h

/-- An element-wise instruction of one operand of the integer types: there is no second operand to read. -/
theorem countOp_answers {s : State} {x : Ctx} {op : Nat} {d a : Reg} (e : Nat → Nat → Nat) {e' : Nat → Nat} (hx : ctxOf s = some x)
    (hint : x.t.isInt = true) (h : Issues x (aluForm x op d a .z true false false true 4)) (he : ∀ p, p < 2 ^ x.t.width → e x.t.width p = e' p) :
    Answers (run s fun y => elemOp y (aluForm y op d a .z true false false y.t.isInt 4) d fun p _ _ => e y.t.width p) x
      (x.setWarp (x.wp.dst x.active d x.width fun l => perElem x.t (fun p _ _ => e' p) (opA x a l) 0 (opD x d l))) (nextSlot x.gn.pc) := by
  rw [funext fun l => (perElem_unary x.t e' (opA x a l) (opB x .z l) (opD x d l)).symm]
  exact intOp_answers (fun w p _ _ => e w p) hx hint h fun p _ _ hp _ => he p hp

/-! ## Shifts, logic and bit counts -/

/-- Settles O8: each shift of an element, in the model's arithmetic on numbers, is that of the bit vector, whatever the count. -/
theorem shiftMeaning : Obligations.ShiftMeaning := by
  intro s x d a b hx hint
  simp only [List.forall_mem_cons, List.not_mem_nil, false_implies, implies_true, and_true]
  refine ⟨fun h => ?shl, fun h => ?shr, fun h => ?sar, fun h => ?rol, fun h => ?fsh⟩
  case shl => exact intOp_answers (fun w p q _ => shlElem w p q) hx hint h fun p q _ _ _ => shlElem_eq _ p q
  case shr => exact intOp_answers (fun w p q _ => shrElem w p q) hx hint h fun p q _ hp _ => shrElem_eq hp q
  case sar => exact intOp_answers (fun w p q _ => sarElem w p q) hx hint h fun p q _ _ _ => sarElem_eq _ p q
  case rol => exact intOp_answers (fun w p q _ => rolElem w p q) hx hint h fun p q _ hp _ => rolElem_eq x.t.width_pos hp q
  case fsh => exact intOp_answers fshElem hx hint h fun p q c hp hq => fshElem_eq hp hq c

/-- Settles O9: the logic instructions are the operators of the whole operand's bit vector; a count or reversal of an element is that of its bits. -/
theorem bitMeaning : Obligations.BitMeaning := by
  intro s x d a b hx
  refine ⟨?logic, fun hint => ?counts⟩
  case logic =>
    simp only [List.forall_mem_cons, List.not_mem_nil, false_implies, implies_true, and_true, BitVec.toNat_and, BitVec.toNat_or, BitVec.toNat_xor,
      BitVec.toNat_not, toNat_ofNat_opA, toNat_ofNat_opB]
    exact ⟨laneOp_answers hx rfl, laneOp_answers hx rfl, laneOp_answers hx rfl, laneOp_answers hx rfl⟩
  case counts =>
    simp only [List.forall_mem_cons, List.not_mem_nil, false_implies, implies_true, and_true]
    refine ⟨fun h => ?clz, fun h => ?popc, fun h => ?brev⟩
    case clz => exact countOp_answers clzN hx hint h fun p hp => clzN_eq hp
    case popc => exact countOp_answers popN hx hint h fun p _ => popN_eq _ p
    case brev => exact countOp_answers revN hx hint h fun p _ => revN_eq _ p

/-! ## ADDC -/

/-- The guard of a lane is its predicate's value, inverted under ginv (R35). -/
theorem getLsbD_guardMask (wp : Warp) (mode : Word) {l : Nat} (hl : l < 32) :
    (guardMask wp mode).getLsbD l = ((predMask wp (modeGp mode)).getLsbD l != modeGinv mode) := by
  unfold guardMask
  cases h : modeGinv mode <;> simp [hl]

@[simp] theorem predMask_seven (wp : Warp) : predMask wp 7 = allLanes := rfl

theorem getLsbD_allLanes {l : Nat} (hl : l < 32) : allLanes.getLsbD l = true := by
  rw [show allLanes = BitVec.allOnes 32 from rfl, BitVec.getLsbD_allOnes, decide_eq_true hl]

/-- The carry-in is the lane's predicate gp, inverted under ginv. -/
theorem addcSum_eq (x : Ctx) (a b : Reg) {l : Nat} (hl : l < 32) : addcSum x a b l =
    (srcA x a l).toNat + (srcB x b l).toNat + if ((predMask x.wp (modeGp x.mode)).getLsbD l != modeGinv x.mode) = true then 1 else 0 := by
  rw [addcSum, getLsbD_guardMask _ _ hl]

/-- Settles O11: with the guard's mask read as the carry-in, ADDC's 33-bit sum is R70's; p7 reads 1 in every lane whatever is written. -/
theorem carryAdd : Obligations.CarryAdd := by
  intro s x d a b hx h
  refine ⟨run_retire_answers (r := fun l => w32 (addcSum x a b l)) hx ?_ h, fun l hl => addcSum_eq x a b hl,
    fun hgp => ⟨fun l hl => ?_, fun l hl => getLsbD_allLanes hl⟩⟩
  · dsimp only
    rw [check_of_issues h]
    rfl
  · rw [addcSum_eq x a b hl, hgp, predMask_seven, getLsbD_allLanes hl]
    cases modeGinv x.mode <;> rfl

end Sys2Proof.Machine

namespace Sys2Proof

open Laws

/-- The word of an instruction decodes to it, and a step of the machine has no word. -/
theorem decode_of_encode (i : Instr) : RoundTrip.Statement i := by
  cases i with
  | ill => exact RoundTrip.ill
  | nop => exact RoundTrip.nop
  | bra => exact RoundTrip.bra _
  | sbra => exact RoundTrip.sbra _ _
  | brx => exact RoundTrip.brx _
  | call => exact RoundTrip.call _ _
  | callx => exact RoundTrip.callx _ _
  | ret => exact RoundTrip.ret _
  | join => exact RoundTrip.join _
  | meet => exact RoundTrip.meet
  | switch => exact RoundTrip.switch _ _
  | wsync => exact RoundTrip.wsync _
  | exit => exact RoundTrip.exit
  | trap => exact RoundTrip.trap _
  | yield => exact RoundTrip.yield _
  | exec => exact RoundTrip.exec _
  | mov => exact RoundTrip.mov _ _
  | movi => exact RoundTrip.movi _ _
  | movh => exact RoundTrip.movh _ _
  | add => exact RoundTrip.add _ _ _
  | sub => exact RoundTrip.sub _ _ _
  | mul => exact RoundTrip.mul _ _ _
  | mulh => exact RoundTrip.mulh _ _ _
  | mad => exact RoundTrip.mad _ _ _
  | neg => exact RoundTrip.neg _ _
  | abs => exact RoundTrip.abs _ _
  | min => exact RoundTrip.min _ _ _
  | max => exact RoundTrip.max _ _ _
  | div => exact RoundTrip.div _ _ _
  | rem => exact RoundTrip.rem _ _ _
  | clamp => exact RoundTrip.clamp _ _ _
  | sel => exact RoundTrip.sel _ _ _
  | and => exact RoundTrip.and _ _ _
  | or => exact RoundTrip.or _ _ _
  | xor => exact RoundTrip.xor _ _ _
  | not => exact RoundTrip.not _ _
  | shl => exact RoundTrip.shl _ _ _
  | shr => exact RoundTrip.shr _ _ _
  | sar => exact RoundTrip.sar _ _ _
  | rol => exact RoundTrip.rol _ _ _
  | fsh => exact RoundTrip.fsh _ _ _
  | clz => exact RoundTrip.clz _ _
  | popc => exact RoundTrip.popc _ _
  | brev => exact RoundTrip.brev _ _
  | bfx => exact RoundTrip.bfx _ _ _
  | bfi => exact RoundTrip.bfi _ _ _
  | cmp => exact RoundTrip.cmp _ _ _ _
  | plog => exact RoundTrip.plog _ _ _ _
  | cvt => exact RoundTrip.cvt _ _ _ _
  | rnd => exact RoundTrip.rnd _ _
  | rcp => exact RoundTrip.rcp _ _
  | rsq => exact RoundTrip.rsq _ _
  | sqrt => exact RoundTrip.sqrt _ _
  | ex2 => exact RoundTrip.ex2 _ _
  | lg2 => exact RoundTrip.lg2 _ _
  | sin => exact RoundTrip.sin _ _
  | cos => exact RoundTrip.cos _ _
  | tanh => exact RoundTrip.tanh _ _
  | fcls => exact RoundTrip.fcls _ _
  | addc => exact RoundTrip.addc _ _ _
  | mode => exact RoundTrip.mode _ _
  | modef => exact RoundTrip.modef _ _
  | vote => exact RoundTrip.vote _ _ _
  | pickIdx => exact RoundTrip.pickIdx _ _ _
  | pickUp => exact RoundTrip.pickUp _ _ _
  | pickDn => exact RoundTrip.pickDn _ _ _
  | pickXor => exact RoundTrip.pickXor _ _ _
  | scan => exact RoundTrip.scan _ _ _
  | scanx => exact RoundTrip.scanx _ _ _
  | redx => exact RoundTrip.redx _ _ _
  | matchEq => exact RoundTrip.matchEq _ _
  | v2s => exact RoundTrip.v2s _ _ _
  | vmovx => exact RoundTrip.vmovx _ _ _
  | vstx => exact RoundTrip.vstx _ _ _
  | vgrow => exact RoundTrip.vgrow _ _
  | vshrink => exact RoundTrip.vshrink _ _
  | spawn => exact RoundTrip.spawn _ _ _
  | grid => exact RoundTrip.grid _
  | smov => exact RoundTrip.smov _ _
  | smovi => exact RoundTrip.smovi _ _
  | smovh => exact RoundTrip.smovh _ _
  | sadd => exact RoundTrip.sadd _ _ _
  | ssub => exact RoundTrip.ssub _ _ _
  | smul => exact RoundTrip.smul _ _ _
  | smulh => exact RoundTrip.smulh _ _ _
  | sand => exact RoundTrip.sand _ _ _
  | sor => exact RoundTrip.sor _ _ _
  | sxor => exact RoundTrip.sxor _ _ _
  | sshl => exact RoundTrip.sshl _ _ _
  | sshr => exact RoundTrip.sshr _ _ _
  | ssar => exact RoundTrip.ssar _ _ _
  | sseq => exact RoundTrip.sseq _ _ _
  | sslt => exact RoundTrip.sslt _ _ _
  | ssltn => exact RoundTrip.ssltn _ _ _
  | ld8 => exact RoundTrip.ld8 _ _ _
  | ld16 => exact RoundTrip.ld16 _ _ _
  | ld32 => exact RoundTrip.ld32 _ _ _
  | ld64 => exact RoundTrip.ld64 _ _ _
  | ld128 => exact RoundTrip.ld128 _ _ _
  | st8 => exact RoundTrip.st8 _ _ _
  | st16 => exact RoundTrip.st16 _ _ _
  | st32 => exact RoundTrip.st32 _ _ _
  | st64 => exact RoundTrip.st64 _ _ _
  | st128 => exact RoundTrip.st128 _ _ _
  | lds32 => exact RoundTrip.lds32 _ _ _
  | lds64 => exact RoundTrip.lds64 _ _ _
  | lds128 => exact RoundTrip.lds128 _ _ _
  | sts32 => exact RoundTrip.sts32 _ _ _
  | sts64 => exact RoundTrip.sts64 _ _ _
  | sts128 => exact RoundTrip.sts128 _ _ _
  | sld => exact RoundTrip.sld _ _ _
  | sst => exact RoundTrip.sst _ _ _
  | ldw => exact RoundTrip.ldw _ _ _
  | pref => exact RoundTrip.pref _ _ _
  | fetchAdd => exact RoundTrip.fetchAdd _ _ _
  | fetchMin => exact RoundTrip.fetchMin _ _ _
  | fetchMax => exact RoundTrip.fetchMax _ _ _
  | fetchAnd => exact RoundTrip.fetchAnd _ _ _
  | fetchOr => exact RoundTrip.fetchOr _ _ _
  | fetchXor => exact RoundTrip.fetchXor _ _ _
  | fetchXchg => exact RoundTrip.fetchXchg _ _ _
  | cas => exact RoundTrip.cas _ _ _
  | red => exact RoundTrip.red _ _ _
  | cpy => exact RoundTrip.cpy _ _
  | cpyo => exact RoundTrip.cpyo _ _
  | binit => exact RoundTrip.binit _ _
  | barv => exact RoundTrip.barv _ _
  | bexp => exact RoundTrip.bexp _ _
  | bwait => exact RoundTrip.bwait _ _ _
  | bwaity => exact RoundTrip.bwaity _ _ _
  | bwaitt => exact RoundTrip.bwaitt _ _ _
  | watch => exact RoundTrip.watch _ _ _
  | wsleep => exact RoundTrip.wsleep _ _
  | fence => exact RoundTrip.fence _
  | rel => exact RoundTrip.rel _
  | acq => exact RoundTrip.acq _
  | waitc => exact RoundTrip.waitc _ _
  | qfence => exact RoundTrip.qfence _
  | pack => exact RoundTrip.pack _ _ _
  | unpack => exact RoundTrip.unpack _ _ _
  | mldb => exact RoundTrip.mldb _
  | mmac => exact RoundTrip.mmac _ _
  | mrd => exact RoundTrip.mrd _ _ _
  | mzero => exact RoundTrip.mzero _
  | manch => exact RoundTrip.manch _ _
  | epi => exact RoundTrip.epi _
  | mfence => exact RoundTrip.mfence _
  | mtest => exact RoundTrip.mtest
  | mstat => exact RoundTrip.mstat _ _
  | gath => exact RoundTrip.gath _ _
  | pool => exact RoundTrip.pool _ _
  | mcred => exact RoundTrip.mcred _ _
  | mcst => exact RoundTrip.mcst _ _
  | agq => exact RoundTrip.agq _ _
  | wbcast => exact RoundTrip.wbcast _ _
  | dgst => exact RoundTrip.dgst _ _
  | topen => exact RoundTrip.topen _ _
  | tcommit => exact RoundTrip.tcommit _ _
  | gate => exact RoundTrip.gate _ _
  | gret => exact RoundTrip.gret
  | treeq => exact RoundTrip.treeq _ _
  | scrub => exact RoundTrip.scrub _ _ _
  | csrr => exact RoundTrip.csrr _ _
  | csrw => exact RoundTrip.csrw _ _ _
  | csrs => exact RoundTrip.csrs _ _ _
  | csrc => exact RoundTrip.csrc _ _ _
  | tret => exact RoundTrip.tret
  | wfi => exact RoundTrip.wfi
  | sipi => exact RoundTrip.sipi _ _
  | tlbiAll => exact RoundTrip.tlbiAll
  | tlbiDom => exact RoundTrip.tlbiDom _
  | tlbiVa => exact RoundTrip.tlbiVa _ _
  | tlbiVaall => exact RoundTrip.tlbiVaall _
  | dslw => exact RoundTrip.dslw _ _
  | dpre => exact RoundTrip.dpre _ _ _
  | ctxs => exact RoundTrip.ctxs _ _
  | ctxl => exact RoundTrip.ctxl _ _
  | wswap => exact RoundTrip.wswap _ _
  | hgmb => exact RoundTrip.hgmb _ _
  | snap => exact RoundTrip.snap _
  | brk => exact RoundTrip.brk _
  | _ => exact fun _ h => nomatch h

theorem cond_op (o a b : BitVec 8) (c : BitVec 5) (p : BitVec 3) : (o ++ (c ++ p) ++ a ++ b : BitVec 32).extractLsb' 24 8 = o := word_op ..
theorem part_op (o d a : BitVec 8) (p : BitVec 3) (t : BitVec 5) : (o ++ d ++ a ++ (p ++ t) : BitVec 32).extractLsb' 24 8 = o := word_op ..

theorem encode_of_decodeTlbi {w : Word} {i : Instr} {kind : Nat} (h : decodeTlbi kind w = .ok i) :
    ∃ v, encode i = some v ∧ v.extractLsb' 24 8 = 0xC7 := by
  unfold decodeTlbi at h
  split at h <;> cases h <;> exact ⟨_, rfl, word_op ..⟩

/-- Whatever an opcode decodes to has a word of that opcode: of the listed opcodes TLBI, PLOG and MRD refuse some words, the rest take all. -/
theorem encode_of_decodeOp {w : Word} {i : Instr} {op : Nat} (hop : op < 256) (h : decodeOp op w = .ok i) :
    ∃ v, encode i = some v ∧ v.extractLsb' 24 8 = BitVec.ofNat 8 op := by
  rcases eq_or_ne op 0xC7 with rfl | htlbi
  · exact encode_of_decodeTlbi h
  rcases eq_or_ne op 0x2F with rfl | hplog
  · change (if w.getLsbD 23 then _ else _) = Except.ok i at h
    split at h <;> cases h
    exact ⟨_, rfl, word_op ..⟩
  rcases eq_or_ne op 0x94 with rfl | hmrd
  · change (if _ then _ else _) = Except.ok i at h
    split at h <;> cases h
    exact ⟨_, rfl, word_op ..⟩
  interval_cases op
  all_goals first | contradiction | (cases h; exact ⟨_, rfl, by simp only [word_op, half_op, far_op, cond_op, part_op]⟩)

end Sys2Proof

namespace Sys2Proof.Machine

/-- Settles O4: each instruction's word decodes to it, so the word that stands for what another word decodes to decodes alike. -/
theorem roundTrip : Obligations.RoundTrip := by
  refine ⟨decode_of_encode, fun w i h => ?_⟩
  obtain ⟨v, hv, hop⟩ := encode_of_decodeOp (BitVec.isLt _) h
  exact ⟨v, hv, decode_of_encode i v hv, by rw [hop, BitVec.ofNat_toNat, BitVec.setWidth_eq]⟩

end Sys2Proof.Machine

/-! SUPPORT. What the lane, scalar and cross-lane instructions answer where they issue normally: the instruction's body passes its checks and retires in
the state that its own effect leaves (R40, R84, R146). -/

namespace Sys2Proof.Machine

open Sys2Proof.Safety

/-! ## Bodies that check and retire -/

/-- A body that checks its form and retires in a state answers that state. -/
theorem check_retire_answers {s : State} {x : Ctx} {body : Ctx → Except Stop State} {f g : Form} {t : State} {r : Nat → Word} (hx : ctxOf s = some x)
    (h : Issues x f) (hb : body x = (do check x f; return retire x g t r)) : Answers (run s body) x t (nextSlot x.gn.pc) := by
  rw [run, hx]
  simp only [hb, check_of_issues h]
  exact retire_answers g t r h.running

/-- A per-lane instruction of any form writes its destination in the lanes it acts in (R40). -/
theorem laneOp_answers_form {s : State} {x : Ctx} {body : Ctx → Except Stop State} {f : Form} {d : Reg} {n : Nat} {r : Nat → Nat} (hx : ctxOf s = some x)
    (hb : body x = laneOp x f d n r) (h : Issues x f) : Answers (run s body) x (x.setWarp (x.wp.dst (f.lanes x) d n r)) (nextSlot x.gn.pc) :=
  check_retire_answers hx h hb

/-- A scalar instruction writes its destination once (R84). -/
theorem scalarOp_answers {s : State} {x : Ctx} {body : Ctx → Except Stop State} {f : Form} {d : Reg} {r : Nat} (hx : ctxOf s = some x)
    (hb : body x = scalarOp x f d r) (h : Issues x f) : Answers (run s body) x (x.setWarp (x.wp.dstS d x.width r)) (nextSlot x.gn.pc) :=
  check_retire_answers hx h hb

/-! ## The lane ALU -/

/-- Settles O12: each row is an element-wise body over its own form. -/
theorem elementResults : Obligations.ElementResults := by
  intro s x d a b hx
  simp only [elementRows, List.forall_mem_cons, List.not_mem_nil, false_implies, implies_true, and_true]
  repeat' apply And.intro
  all_goals exact fun h => laneOp_answers hx rfl h

/-- Settles O13: each row is a lane body over its own form. -/
theorem operandResults : Obligations.OperandResults := by
  intro s x d a b n op hx
  simp only [operandRows, List.forall_mem_cons, List.not_mem_nil, false_implies, implies_true, and_true]
  repeat' apply And.intro
  all_goals exact fun h => laneOp_answers_form hx rfl h

/-- A conversion whose source type exists has the form that names the type. -/
theorem cvt_answers {s : State} {x : Ctx} {d a : Reg} {part : BitVec 3} {t : BitVec 5} {ts : EType} (hx : ctxOf s = some x) (hts : etypeOf t.toNat = some ts)
    (h : Issues x { op := 0x30, classes := Reg.vz d && decide (part.toNat < cvtParts ts x.t), a := a, aw := ts.regs, aLane := !ts.is64, res := !x.t.is64,
                    more := if ts.elems < x.t.elems then [(d, x.t.regs)] else [], writes := [(d, x.t.regs)], lat := if ts.is64 || x.t.is64 then 10 else 5 }) :
    Answers (exec (.cvt d a part t) s) x
      (x.setWarp (x.wp.dst x.active d x.t.regs fun l =>
        cvtOp ts x.t x.fm part.toNat (if ts.is64 then (x.rd64 l a).toNat else (srcA x a l).toNat) (opD x d l))) (nextSlot x.gn.pc) := by
  refine check_retire_answers (g := ?g) (r := ?r) hx h ?body
  case body =>
    simp only [hts, Option.getD_some, Option.isSome_some, Bool.and_true]
    rfl

/-- Settles O14. -/
theorem modeAndConversion : Obligations.ModeAndConversion := by
  refine ⟨⟨fun s x d a hx h => check_retire_answers hx h rfl, fun s x f n m hx hm h => ?modef⟩, fun s x d a part t ts hx hts h => cvt_answers hx hts h⟩
  case modef =>
    refine check_retire_answers (r := fun _ => 0) (g := { op := 0x3D, guard := false, once := true }) hx h ?_
    simp only [hm, Option.isSome_some, Option.getD_some]

/-- Settles O15: each body checks its form and retires with the predicate, mask or count written. -/
theorem predicateResults : Obligations.PredicateResults :=
  ⟨fun _ _ _ _ _ hx => ⟨fun _ h => check_retire_answers hx h rfl, fun _ h => check_retire_answers hx h rfl⟩,
    fun _ _ _ _ _ hx h => check_retire_answers hx h rfl⟩

/-- Settles O16: each row is a scalar body over its own form; SMOVH writes one register whatever the type. -/
theorem scalarResults : Obligations.ScalarResults := by
  refine ⟨fun s x d a b n hx => ?rows, fun s x d n hx h => check_retire_answers hx h rfl⟩
  case rows =>
    simp only [scalarRows, List.forall_mem_cons, List.not_mem_nil, false_implies, implies_true, and_true]
    repeat' apply And.intro
    all_goals exact fun h => scalarOp_answers hx rfl h

/-! ## Lanes talking to lanes, and registers by number -/

theorem needClean_none : needClean none = .ok () := rfl

/-- A shuffle whose taken values are clean writes value and guard predicate (R148). -/
theorem pickOp_answers {s : State} {x : Ctx} (kind op : Nat) {d a b : Reg} (hx : ctxOf s = some x)
    (h : Issues x { laneForm x op (Reg.vz d) a x.width d x.width with
      b := b, bw := 1, bLane := true, ownPoison := true, writes := [(d, x.width), (predReg (modeGp x.mode), 1)],
      from_ := some ((List.range 32).map fun l => (pickSource x kind (srcB x b l).toNat l).getD l), noEdge := true,
      early := if x.asel = 3 ∧ !x.blatch then regCodes b 1 else [] })
    (hp : takenPoison x x.active (fun l => (pickSource x kind (srcB x b l).toNat l).getD l) a x.width = none) :
    Answers (pickOp kind op d a b s) x
      { (x.setWarp ((x.wp.dst x.active d x.width fun l => pickValue x a l ((pickSource x kind (srcB x b l).toNat l).getD l)).predIn x.active (modeGp x.mode)
        fun l => (pickSource x kind (srcB x b l).toNat l).isSome != modeGinv x.mode)) with free := x.s.free + 32 } (nextSlot x.gn.pc) := by
  refine check_retire_answers (g := ?g) (r := ?r) hx h ?body
  case body =>
    simp only [hp, needClean_none]
    rfl

/-- A neighbour select that stays in the gang, or none, takes the operand of the source lane. -/
theorem pickValue_eq_opA {x : Ctx} (a : Reg) (l : Nat) {src : Nat} (h : x.asel = 0 ∨ x.asel = 3 ∨ neighbourOut x (x.asel == 1) src = false) :
    pickValue x a l src = opA x a src := by
  rw [pickValue, if_neg]
  rcases h with h | h | h <;> simp [h]

/-- Settles O17: one frame serves the four shuffles; REDX retires with the combined value, V2S once the lane it takes is clean. -/
theorem laneExchange : Obligations.LaneExchange := by
  refine ⟨fun s x d a b hx => ?shuffles, fun s x d a b hx => ⟨fun op h => check_retire_answers hx h rfl, fun h hh hl => ?v2s⟩⟩
  case shuffles =>
    simp only [List.forall_mem_cons, List.not_mem_nil, false_implies, implies_true, and_true]
    refine ⟨fun h hp => ⟨pickOp_answers 0 0x41 hx h hp, ?_⟩, fun h hp => ⟨pickOp_answers 1 0x42 hx h hp, ?_⟩,
      fun h hp => ⟨pickOp_answers 2 0x43 hx h hp, ?_⟩, fun h hp => ⟨pickOp_answers 3 0x44 hx h hp, ?_⟩⟩
    all_goals exact fun l hl => pickValue_eq_opA a l hl
  case v2s =>
    refine run_retire_answers (r := fun _ => 0) hx ?_ h
    dsimp only
    rw [check_of_issues h, hh, needClean_none]
    generalize (if (x.rd 0 b).toNat ≤ 31 then (x.rd 0 b).toNat else firstLane x.active) = src at hl ⊢
    cases hlive : decide (src < 32) && x.active.getLsbD src
    · rfl
    · rw [hl hlive]
      rfl

/-- Settles O18. -/
theorem indexedRegisters : Obligations.IndexedRegisters := by
  refine fun s x d a b hx => ⟨fun h hh hi => ?vmovx, fun h => check_retire_answers hx h rfl⟩
  case vmovx =>
    refine check_retire_answers (g := ?g) (r := ?r) hx h ?body
    case body =>
      simp only [hh, hi, needClean_none]
      rfl

end Sys2Proof.Machine

/-! SUPPORT. Integer elements as numbers: the value of an element lies between the type's least and greatest, a value in that range is the value of its
own low bits, and the low bits depend on the value modulo 2^w alone (R51, R62 to R64). -/

namespace Sys2Proof.Machine

/-! ## Values and low bits -/

theorem intMin_eq_of_signed {t : EType} (h : t.isSigned = true) : intMin t = -((2 ^ (t.width - 1) : Nat) : Int) := if_pos h
theorem intMax_eq_of_signed {t : EType} (h : t.isSigned = true) : intMax t = ((2 ^ (t.width - 1) : Nat) : Int) - 1 := if_pos h
theorem intMin_eq_of_unsigned {t : EType} (h : t.isSigned = false) : intMin t = 0 := by simp [intMin, h]
theorem intMax_eq_of_unsigned {t : EType} (h : t.isSigned = false) : intMax t = ((2 ^ t.width : Nat) : Int) - 1 := by simp [intMax, h]

theorem two_pow_width (t : EType) : 2 ^ t.width = 2 * 2 ^ (t.width - 1) := by
  rw [← pow_succ', Nat.sub_add_cancel t.width_pos]

theorem intMin_le_intMax (t : EType) : intMin t ≤ intMax t := by
  have := Nat.two_pow_pos (t.width - 1)
  have := Nat.two_pow_pos t.width
  cases h : t.isSigned
  · rw [intMin_eq_of_unsigned h, intMax_eq_of_unsigned h]; omega
  · rw [intMin_eq_of_signed h, intMax_eq_of_signed h]; omega

/-- The value of an element is its number modulo 2^w. -/
theorem intValue_emod (t : EType) (x : Nat) : intValue t x % ((2 ^ t.width : Nat) : Int) = (x : Int) % ((2 ^ t.width : Nat) : Int) := by
  unfold intValue sextN
  split
  · dsimp only
    split
    · push_cast; exact Int.emod_emod_of_dvd _ dvd_rfl
    · push_cast; rw [Int.sub_emod_right, Int.emod_emod_of_dvd _ dvd_rfl]
  · push_cast; exact Int.emod_emod_of_dvd _ dvd_rfl

theorem intValue_bounds (t : EType) (x : Nat) : intMin t ≤ intValue t x ∧ intValue t x ≤ intMax t := by
  have hlt := Nat.mod_lt x (Nat.two_pow_pos t.width)
  have hw := two_pow_width t
  cases h : t.isSigned
  · simp only [intMin_eq_of_unsigned h, intMax_eq_of_unsigned h, intValue, h, Bool.false_eq_true, if_false]; omega
  · rw [intMin_eq_of_signed h, intMax_eq_of_signed h, intValue, if_pos h]
    unfold sextN
    have hc : ((2 : Int) ^ t.width) = ((2 ^ t.width : Nat) : Int) := by push_cast; rfl
    dsimp only
    rw [hc]
    split <;> omega

/-- Two values in range that agree modulo 2^w are the same. -/
theorem eq_of_emod_eq {t : EType} {i j : Int} (hi : intMin t ≤ i ∧ i ≤ intMax t) (hj : intMin t ≤ j ∧ j ≤ intMax t)
    (h : i % ((2 ^ t.width : Nat) : Int) = j % ((2 ^ t.width : Nat) : Int)) : i = j := by
  obtain ⟨k, hk⟩ := Int.ModEq.dvd h.symm
  have hw := two_pow_width t
  have hspan : intMax t - intMin t < ((2 ^ t.width : Nat) : Int) := by
    cases hs : t.isSigned
    · rw [intMin_eq_of_unsigned hs, intMax_eq_of_unsigned hs]; omega
    · rw [intMin_eq_of_signed hs, intMax_eq_of_signed hs]; omega
  have hk0 : k = 0 := by
    rcases lt_trichotomy k 0 with hneg | hzero | hpos
    · nlinarith
    · exact hzero
    · nlinarith
  rw [hk0, mul_zero] at hk
  omega

theorem wrapN_cast (i : Int) (w : Nat) : ((wrapN i w : Nat) : Int) = i % ((2 ^ w : Nat) : Int) :=
  Int.toNat_of_nonneg (Int.emod_nonneg _ (by positivity))

theorem wrapN_congr {i j : Int} {w : Nat} (h : i % ((2 ^ w : Nat) : Int) = j % ((2 ^ w : Nat) : Int)) : wrapN i w = wrapN j w := by
  rw [wrapN, wrapN, h]

theorem wrapN_natCast (n w : Nat) : wrapN (n : Int) w = n % 2 ^ w := by
  rw [wrapN, ← Int.natCast_mod, Int.toNat_natCast]

/-- A value in range is the value of its own low bits. -/
theorem intValue_wrapN {t : EType} {i : Int} (h : intMin t ≤ i ∧ i ≤ intMax t) : intValue t (wrapN i t.width) = i := by
  refine eq_of_emod_eq (intValue_bounds t _) h ?_
  rw [intValue_emod, wrapN_cast, Int.emod_emod_of_dvd _ dvd_rfl]

theorem intValue_ne_zero {t : EType} {y : Nat} (hy : y < 2 ^ t.width) (h : y ≠ 0) : intValue t y ≠ 0 := by
  intro hv
  have := intValue_emod t y
  rw [hv, Int.zero_emod, ← Int.natCast_mod, Nat.mod_eq_of_lt hy] at this
  omega

theorem zero_in_range (t : EType) : intMin t ≤ 0 ∧ 0 ≤ intMax t := by
  have := Nat.two_pow_pos (t.width - 1)
  have := Nat.two_pow_pos t.width
  cases h : t.isSigned
  · rw [intMin_eq_of_unsigned h, intMax_eq_of_unsigned h]; omega
  · rw [intMin_eq_of_signed h, intMax_eq_of_signed h]; omega

theorem intValue_zero (t : EType) : intValue t 0 = 0 := eq_of_emod_eq (intValue_bounds t 0) (zero_in_range t) (intValue_emod t 0)

/-! ## Results -/

/-- Without sat a result is its value's low bits. -/
theorem intResult_wrap (t : EType) (i : Int) : intResult t false i = wrapN i t.width := rfl

theorem satInt_eq (t : EType) (i : Int) : satInt t i = max (intMin t) (min i (intMax t)) := by
  have := intMin_le_intMax t
  unfold satInt
  split
  · omega
  · split <;> omega

/-- With sat a result is the nearest value of the type. -/
theorem intValue_intResult_sat (t : EType) (i : Int) : intValue t (intResult t true i) = max (intMin t) (min i (intMax t)) := by
  have := intMin_le_intMax t
  rw [intResult, if_pos rfl, satInt_eq, intValue_wrapN]
  omega

/-- A result in range is what it is, saturating or not. -/
theorem intValue_intResult {t : EType} (sat : Bool) {i : Int} (h : intMin t ≤ i ∧ i ≤ intMax t) : intValue t (intResult t sat i) = i := by
  cases sat
  · exact intValue_wrapN h
  · rw [intValue_intResult_sat]; omega

/-- Without sat the low bits of a value are those of any number that agrees with it modulo 2^w. -/
theorem intResult_eq_mod {t : EType} {i : Int} {n : Nat} (h : i ≡ (n : Int) [ZMOD ((2 ^ t.width : Nat) : Int)]) : intResult t false i = n % 2 ^ t.width := by
  rw [intResult_wrap, wrapN_congr h, wrapN_natCast]

theorem intValue_modEq (t : EType) (x : Nat) : intValue t x ≡ (x : Int) [ZMOD ((2 ^ t.width : Nat) : Int)] := intValue_emod t x

/-! ## Arithmetic that wraps -/

section Wrap

variable {t : EType} {m : FMode} (x y c : Nat) (hint : t.isInt = true) (hsat : m.sat = false)
include hint hsat

theorem addElem_wraps : addElem t m x y = (x + y) % 2 ^ t.width := by
  rw [addElem, if_pos hint, hsat]
  exact intResult_eq_mod (by push_cast; exact (intValue_modEq t x).add (intValue_modEq t y))

theorem subElem_wraps (hy : y < 2 ^ t.width) : subElem t m x y = (x + 2 ^ t.width - y) % 2 ^ t.width := by
  rw [subElem, if_pos hint, hsat]
  refine intResult_eq_mod (((intValue_modEq t x).sub (intValue_modEq t y)).trans ?_)
  rw [show ((x + 2 ^ t.width - y : Nat) : Int) = (x : Int) - y + ((2 ^ t.width : Nat) : Int) by omega]
  exact (Int.add_modEq_right).symm

theorem mulElem_wraps : mulElem t m x y = x * y % 2 ^ t.width := by
  rw [mulElem, if_pos hint, hsat]
  exact intResult_eq_mod (by push_cast; exact (intValue_modEq t x).mul (intValue_modEq t y))

theorem madElem_wraps : madElem t m x y c = (x * y + c) % 2 ^ t.width := by
  rw [madElem, if_pos hint, hsat]
  exact intResult_eq_mod (by push_cast; exact ((intValue_modEq t x).mul (intValue_modEq t y)).add (intValue_modEq t c))

theorem negElem_wraps (hx : x < 2 ^ t.width) : negElem t m x = (2 ^ t.width - x) % 2 ^ t.width := by
  rw [negElem, if_pos hint, hsat]
  refine intResult_eq_mod ((intValue_modEq t x).neg.trans ?_)
  rw [show ((2 ^ t.width - x : Nat) : Int) = -(x : Int) + ((2 ^ t.width : Nat) : Int) by omega]
  exact (Int.add_modEq_right).symm

end Wrap

/-! ## The high product, quotient and remainder -/

/-- The product of two values lies where its high half is a value of the type. -/
theorem mul_ediv_in_range (t : EType) (x y : Nat) :
    intMin t ≤ intValue t x * intValue t y / ((2 ^ t.width : Nat) : Int) ∧ intValue t x * intValue t y / ((2 ^ t.width : Nat) : Int) ≤ intMax t := by
  have hx := intValue_bounds t x
  have hy := intValue_bounds t y
  have hw : ((2 ^ t.width : Nat) : Int) = 2 * ((2 ^ (t.width - 1) : Nat) : Int) := by exact_mod_cast two_pow_width t
  have hpos : (0 : Int) < ((2 ^ (t.width - 1) : Nat) : Int) := by positivity
  have hposw : (0 : Int) < ((2 ^ t.width : Nat) : Int) := by positivity
  cases hs : t.isSigned
  · rw [intMin_eq_of_unsigned hs, intMax_eq_of_unsigned hs] at *
    constructor
    · exact Int.ediv_nonneg (mul_nonneg hx.1 hy.1) hposw.le
    · refine Int.le_sub_one_of_lt (Int.ediv_lt_of_lt_mul hposw ?_)
      nlinarith
  · rw [intMin_eq_of_signed hs, intMax_eq_of_signed hs] at *
    generalize intValue t x = p at *
    generalize intValue t y = q at *
    constructor
    · refine (Int.le_ediv_iff_mul_le hposw).mpr ?_
      rw [hw]
      nlinarith
    · refine Int.le_sub_one_of_lt (Int.ediv_lt_of_lt_mul hposw ?_)
      rw [hw]
      nlinarith

theorem mulhElem_spec (t : EType) (x y : Nat) :
    intValue t x * intValue t y = intValue t (mulhElem t x y) * 2 ^ t.width + (x * y % 2 ^ t.width : Nat) := by
  have hlow : ((x * y % 2 ^ t.width : Nat) : Int) = intValue t x * intValue t y % ((2 ^ t.width : Nat) : Int) := by
    rw [Int.natCast_mod, Nat.cast_mul]
    exact ((intValue_modEq t x).mul (intValue_modEq t y)).symm
  rw [mulhElem, intValue_wrapN (mul_ediv_in_range t x y), hlow]
  have := Int.ediv_mul_add_emod (intValue t x * intValue t y) ((2 ^ t.width : Nat) : Int)
  push_cast at this ⊢
  exact this.symm

/-- The quotient toward zero is a value of the type, the least value over -1 apart. -/
theorem tdiv_in_range {t : EType} {a b : Int} (ha : intMin t ≤ a ∧ a ≤ intMax t) (hb : intMin t ≤ b ∧ b ≤ intMax t) (h0 : b ≠ 0)
    (h : ¬ (a = intMin t ∧ b = -1)) : intMin t ≤ a.tdiv b ∧ a.tdiv b ≤ intMax t := by
  have hz := zero_in_range t
  cases hs : t.isSigned
  · rw [intMin_eq_of_unsigned hs, intMax_eq_of_unsigned hs] at *
    have := Int.tdiv_nonneg ha.1 hb.1
    have := Int.natAbs_tdiv_le_natAbs a b
    omega
  · rw [intMin_eq_of_signed hs, intMax_eq_of_signed hs] at *
    rcases eq_or_ne b (-1) with rfl | hneg
    · rw [Int.tdiv_neg, Int.tdiv_one]
      omega
    · rcases eq_or_ne b 1 with rfl | hone
      · rwa [Int.tdiv_one]
      · have hhalf : (a.tdiv b).natAbs ≤ a.natAbs / 2 := by
          rw [Int.natAbs_tdiv]
          exact Nat.div_le_div_left (by omega) (by decide)
        omega

/-- A remainder is of a value's own size at most. -/
theorem tmod_in_range {t : EType} {a b : Int} (ha : intMin t ≤ a ∧ a ≤ intMax t) : intMin t ≤ a.tmod b ∧ a.tmod b ≤ intMax t := by
  have hz := zero_in_range t
  have hle : (a.tmod b).natAbs ≤ a.natAbs := by rw [Int.natAbs_tmod]; exact Nat.mod_le _ _
  rcases le_total 0 a with h | h
  · have := Int.tmod_nonneg b h
    omega
  · have := Int.tmod_nonneg b (neg_nonneg.mpr h)
    rw [Int.neg_tmod] at this
    omega

section Divide

variable {t : EType} {m : FMode} {x y : Nat} (hint : t.isInt = true)
include hint

theorem divElem_zero : divElem t m x 0 = 2 ^ t.width - 1 := by
  rw [divElem, if_pos hint]
  exact if_pos (intValue_zero t)

theorem remElem_zero : remElem t m x 0 = x := by
  rw [remElem, if_pos hint]
  exact if_pos (intValue_zero t)

theorem divElem_of_ne (h : intValue t y ≠ 0) : divElem t m x y = intResult t m.sat ((intValue t x).tdiv (intValue t y)) := by
  rw [divElem, if_pos hint]
  exact if_neg h

theorem intValue_remElem (h : intValue t y ≠ 0) : intValue t (remElem t m x y) = (intValue t x).tmod (intValue t y) := by
  rw [remElem, if_pos hint]
  simp only [h, if_false]
  exact intValue_wrapN (tmod_in_range (intValue_bounds t x))

/-- Quotient and remainder make up the dividend; the remainder is below the divisor and has the dividend's sign. -/
theorem div_rem_spec (hy : intValue t y ≠ 0) (h : ¬ (intValue t x = intMin t ∧ intValue t y = -1)) :
    intValue t x = intValue t y * intValue t (divElem t m x y) + intValue t (remElem t m x y) ∧
    (intValue t (remElem t m x y)).natAbs < (intValue t y).natAbs ∧
    (intValue t (remElem t m x y) ≠ 0 → (intValue t (remElem t m x y) < 0 ↔ intValue t x < 0)) := by
  have hq : intValue t (divElem t m x y) = (intValue t x).tdiv (intValue t y) := by
    rw [divElem_of_ne hint hy]
    exact intValue_intResult m.sat (tdiv_in_range (intValue_bounds t x) (intValue_bounds t y) hy h)
  rw [hq, intValue_remElem hint hy]
  generalize intValue t x = p at *
  generalize intValue t y = q at *
  refine ⟨(Int.mul_tdiv_add_tmod p q).symm, ?_, fun hr => ?_⟩
  · rw [Int.natAbs_tmod]
    exact Nat.mod_lt _ (by omega)
  · rcases le_or_gt 0 p with hp | hp
    · have := Int.tmod_nonneg q hp
      omega
    · have := Int.tmod_nonneg q (neg_nonneg.mpr hp.le)
      rw [Int.neg_tmod] at this
      omega

/-- The least value over -1: no remainder, and a quotient one past the greatest value, which wraps or saturates. -/
theorem div_rem_overflow (hx : intValue t x = intMin t) (hy : intValue t y = -1) :
    remElem t m x y = 0 ∧ intValue t (divElem t m x y) = if m.sat then intMax t else intMin t := by
  have hs : t.isSigned = true := by
    by_contra hs
    have := (intValue_bounds t y).1
    rw [intMin_eq_of_unsigned (by simpa using hs)] at this
    omega
  have hy0 : intValue t y ≠ 0 := by omega
  have hmin := intMin_eq_of_signed hs
  have hmax := intMax_eq_of_signed hs
  constructor
  · rw [remElem, if_pos hint]
    simp [hy, Int.tmod_neg, wrapN]
  · rw [divElem_of_ne hint hy0, hx, hy, Int.tdiv_neg, Int.tdiv_one]
    cases m.sat
    · refine eq_of_emod_eq (intValue_bounds t _) ⟨le_rfl, intMin_le_intMax t⟩ ?_
      rw [intResult_wrap, intValue_emod, wrapN_cast, Int.emod_emod_of_dvd _ dvd_rfl]
      have hw := two_pow_width t
      exact Int.modEq_iff_dvd.mpr ⟨-1, by simp only [Bool.false_eq_true, if_false, hmin]; omega⟩
    · have := Nat.two_pow_pos (t.width - 1)
      rw [intValue_intResult_sat, if_pos rfl, hmin, hmax]
      omega

end Divide

/-! ## Minimum and maximum -/

theorem intValue_minMax {t : EType} (hint : t.isInt = true) (m : FMode) (x y : Nat) :
    intValue t (minMax false t m x y) = min (intValue t x) (intValue t y) ∧ intValue t (minMax true t m x y) = max (intValue t x) (intValue t y) := by
  simp only [minMax, hint, if_true, Bool.false_eq_true, if_false, decide_eq_true_eq]
  constructor <;> split <;> omega

/-- Settles O10. -/
theorem integerMeaning : Obligations.IntegerMeaning := by
  intro t m x y c hint hx hy hc
  refine ⟨fun hs => ?wrap, fun hs => ?sat, ?high, ?zero, fun h0 h => ?divide, fun h1 h2 => ?overflow, intValue_minMax hint m x y⟩
  case wrap =>
    exact ⟨addElem_wraps x y hint hs, subElem_wraps x y hint hs hy, mulElem_wraps x y hint hs, madElem_wraps x y c hint hs, negElem_wraps x hint hs hx⟩
  case sat =>
    simp only [addElem, subElem, mulElem, madElem, negElem, absElem, hint, hs, if_true, intValue_intResult_sat, and_self]
  case high => exact mulhElem_spec t x y
  case zero => rintro rfl; exact ⟨divElem_zero hint, remElem_zero hint⟩
  case divide => exact div_rem_spec hint (intValue_ne_zero hy h0) h
  case overflow => exact div_rem_overflow hint h1 h2

end Sys2Proof.Machine

/-! SUPPORT. Lane masks and the lists of their lanes (R25, R35): membership, single bits, the mask of a predicate, the lowest lane. -/

namespace Sys2Proof.Machine

theorem lt_of_getLsbD {m : Mask} {l : Nat} (h : m.getLsbD l = true) : l < 32 := by
  by_contra hl
  rw [BitVec.getLsbD_of_ge m l (by omega)] at h
  cases h

@[simp] theorem mem_lanesOf {m : Mask} {l : Nat} : l ∈ lanesOf m ↔ m.getLsbD l = true := by
  simp only [lanesOf, List.mem_filter, List.mem_range, and_iff_right_iff_imp]
  exact lt_of_getLsbD

theorem lt_of_mem_lanesOf {m : Mask} {l : Nat} (h : l ∈ lanesOf m) : l < 32 := lt_of_getLsbD (mem_lanesOf.mp h)

theorem nodup_lanesOf (m : Mask) : (lanesOf m).Nodup := List.Nodup.filter _ List.nodup_range

theorem pairwise_lanesOf (m : Mask) : (lanesOf m).Pairwise (· < ·) := List.Pairwise.filter _ List.pairwise_lt_range

/-- Two masks are equal when they have the same lanes. -/
theorem mask_ext {m n : Mask} (h : ∀ l, m.getLsbD l = n.getLsbD l) : m = n := BitVec.eq_of_getLsbD_eq fun i _ => h i

theorem lanesOf_eq_nil {m : Mask} : lanesOf m = [] ↔ m = 0 := by
  rw [List.eq_nil_iff_forall_not_mem]
  constructor
  · intro h
    refine mask_ext fun l => ?_
    have := h l
    rw [mem_lanesOf] at this
    simpa using this
  · rintro rfl l
    simp

@[simp] theorem lanesOf_zero : lanesOf 0 = [] := lanesOf_eq_nil.mpr rfl

theorem exists_lane_of_ne {m : Mask} (h : m ≠ 0) : ∃ l, l ∈ lanesOf m := List.exists_mem_of_ne_nil _ fun h0 => h (lanesOf_eq_nil.mp h0)

/-- The lowest lane of a mask that has one. -/
theorem firstLane_mem {m : Mask} (h : m ≠ 0) : firstLane m ∈ lanesOf m := by
  cases hl : lanesOf m with
  | nil => exact absurd (lanesOf_eq_nil.mp hl) h
  | cons a as => simp [firstLane, hl]

theorem firstLane_le {m : Mask} {l : Nat} (h : l ∈ lanesOf m) : firstLane m ≤ l := by
  have hp := pairwise_lanesOf m
  cases hl : lanesOf m with
  | nil => simp [hl] at h
  | cons a as =>
    rw [hl] at h hp
    rcases List.mem_cons.mp h with rfl | h
    · simp [firstLane, hl]
    · simpa [firstLane, hl] using Nat.le_of_lt (List.rel_of_pairwise_cons hp h)

/-! ## Masks of predicates and single bits -/

/-- The sum of the powers of two below n that a predicate takes. -/
theorem testBit_sum_two_pow (p : Nat → Bool) (n : Nat) :
    (List.range n).foldl (fun acc l => if p l then acc + 2 ^ l else acc) 0 < 2 ^ n ∧
    ∀ i, ((List.range n).foldl (fun acc l => if p l then acc + 2 ^ l else acc) 0).testBit i = (decide (i < n) && p i) := by
  induction n with
  | zero => simp
  | succ n ih =>
    obtain ⟨hlt, hbit⟩ := ih
    rw [List.range_succ, List.foldl_append, List.foldl_cons, List.foldl_nil]
    generalize (List.range n).foldl (fun acc l => if p l then acc + 2 ^ l else acc) 0 = v at hlt hbit
    have hpow : (2 : Nat) ^ (n + 1) = 2 ^ n + 2 ^ n := by rw [pow_succ]; omega
    cases hp : p n
    · refine ⟨by simp; omega, fun i => ?_⟩
      by_cases hi : i = n
      · simp [hi, hp, hbit]
      · simp only [Bool.false_eq_true, if_false, hbit]
        congr 1
        exact decide_eq_decide.mpr (by omega)
    · refine ⟨by simp; omega, fun i => ?_⟩
      rw [if_pos rfl, Nat.add_comm]
      rcases Nat.lt_trichotomy i n with hi | rfl | hi
      · rw [Nat.testBit_two_pow_add_gt hi, hbit]
        simp [hi, Nat.lt_succ_of_lt hi]
      · rw [Nat.testBit_two_pow_add_eq, hbit]
        simp [hp]
      · have hsum : 2 ^ n + v < 2 ^ i := lt_of_lt_of_le (by omega) (Nat.pow_le_pow_right (by omega) (Nat.succ_le_of_lt hi))
        rw [Nat.testBit_eq_false_of_lt hsum]
        simp; omega

@[simp] theorem getLsbD_maskOf (p : Nat → Bool) (l : Nat) : (maskOf p).getLsbD l = (decide (l < 32) && p l) := by
  rw [maskOf, BitVec.getLsbD_ofNat, (testBit_sum_two_pow p 32).2]
  cases decide (l < 32) <;> simp

@[simp] theorem getLsbD_laneWhere (m : Mask) (p : Nat → Bool) (l : Nat) : (laneWhere m p).getLsbD l = (m.getLsbD l && p l) := by
  rw [laneWhere, getLsbD_maskOf]
  cases h : m.getLsbD l
  · simp
  · simp [lt_of_getLsbD h]

theorem getLsbD_bitMask {i : Nat} (hi : i < 32) (l : Nat) : (bitMask l).getLsbD i = decide (l = i) := by
  rw [bitMask, BitVec.getLsbD_ofNat, Nat.testBit_two_pow]
  simp [hi]

theorem laneWhere_eq_zero {m : Mask} {p : Nat → Bool} : laneWhere m p = 0 ↔ ∀ l ∈ lanesOf m, p l = false := by
  constructor
  · intro h l hl
    have hb := congrArg (fun v : Mask => v.getLsbD l) h
    simpa [mem_lanesOf.mp hl] using hb
  · intro h
    refine mask_ext fun l => ?_
    cases hm : m.getLsbD l
    · simp [hm]
    · simp [hm, h l (mem_lanesOf.mpr hm)]

theorem laneWhere_congr {m : Mask} {p q : Nat → Bool} (h : ∀ l ∈ lanesOf m, p l = q l) : laneWhere m p = laneWhere m q := by
  refine mask_ext fun l => ?_
  cases hm : m.getLsbD l
  · simp [hm]
  · simp [hm, h l (mem_lanesOf.mpr hm)]

/-- The mask of a list of lanes. -/
theorem getLsbD_foldl_bitMask (ls : List Nat) (m : Mask) {i : Nat} (hi : i < 32) :
    (ls.foldl (fun m l => m ||| bitMask l) m).getLsbD i = (m.getLsbD i || ls.contains i) := by
  induction ls generalizing m with
  | nil => simp
  | cons l ls ih =>
    rw [List.foldl_cons, ih, BitVec.getLsbD_or, getLsbD_bitMask hi, Bool.or_assoc, List.contains_cons]
    congr 2
    rw [Bool.beq_eq_decide_eq]
    exact decide_eq_decide.mpr eq_comm

/-- The lanes of a mask put together are the mask. -/
theorem foldl_bitMask_of_mem {ls : List Nat} {m : Mask} (h : ∀ l < 32, l ∈ ls ↔ m.getLsbD l = true) :
    ls.foldl (fun m l => m ||| bitMask l) 0 = m := by
  refine BitVec.eq_of_getLsbD_eq fun i hi => ?_
  rw [getLsbD_foldl_bitMask ls 0 hi, Bool.eq_iff_iff]
  simpa using h i hi

end Sys2Proof.Machine

/-! SUPPORT. What the control instructions answer where they issue normally (R54 to R59, R138 to R145): a body that checks its form is its own effect, and
a gang that moves keeps all but what every issue updates. -/

namespace Sys2Proof.Machine

open Sys2Proof.Safety

/-! ## Bodies that check and then act -/

/-- A check that passes lets its body go on. -/
@[simp] theorem except_ok_bind {ε α β : Type} (a : α) (f : α → Except ε β) : (Except.ok a >>= f) = f a := rfl

/-- A body that checks its form and then answers a state. -/
theorem run_checked {s : State} {x : Ctx} {body : Ctx → Except Stop State} {f : Form} {t : State} (hx : ctxOf s = some x) (h : Issues x f)
    (hb : body x = (do check x f; return t)) : run s body = .next t := by
  rw [run, hx]
  simp only [hb, check_of_issues h]
  rfl

/-- A body that checks its form and retires at a program counter answers there. -/
theorem run_checked_retireTo {s : State} {x : Ctx} {body : Ctx → Except Stop State} {f g : Form} {t : State} {pc : DWord} {r : Nat → Word} {extra : Nat}
    (hx : ctxOf s = some x) (h : Issues x f) (hb : body x = (do check x f; return retireTo x g t pc r extra)) : Answers (run s body) x t pc :=
  ⟨_, run_checked hx h hb, retireTo_advanced x g t pc r extra h.running⟩

/-- A body that checks its form and then stops. -/
theorem run_stopped {s : State} {x : Ctx} {body : Ctx → Except Stop State} {e : Stop} (hx : ctxOf s = some x) (hb : body x = .error e) :
    run s body = settle x (.error e) := by
  rw [run, hx]
  simp only [hb]

/-! ## What retiring leaves of the gang and its warp -/

/-- The gang's update at a retirement. -/
def Gang.retired (gn : Gang) (x : Ctx) (f : Form) (extra : Nat) (pc : DWord) : Gang :=
  { gn.issued x f extra with pc := pc, inBundle := decide (slotNo pc ≠ 0) }

theorem retireTo_running {x : Ctx} (h : x.gn.stepping = false) (f : Form) (s : State) (pc : DWord) (r : Nat → Word) (extra : Nat) :
    retireTo x f s pc r extra = issueUpdates x f s (x.yieldBit || decide (0 < extra)) (fun wp => wp.issuedBy x f r) (fun gn => gn.retired x f extra pc) := by
  simp [retireTo, h, issueUpdates, Gang.retired]

/-- The gangs of the issuing warp after the updates of an issue. -/
theorem warpAt_issueUpdates (x : Ctx) (f : Form) (s : State) (y : Bool) (fw : Warp → Warp) (fg : Gang → Gang) :
    warpAt (issueUpdates x f s y fw fg) x.k x.w = (warpAt s x.k x.w).map fun wp => { fw wp with gangs := AMap.modify (fw wp).gangs x.g fg } := by
  have hw : warpAt (s.modCore x.k fun c => c.issuedBy x f y) x.k x.w = warpAt s x.k x.w := warpAt_modCore s x.k _ x.w (issuedBy_warps _ _ _ _)
  simp only [issueUpdates, State.modGang, warpAt_modWarp, hw, Option.map_map]
  cases warpAt s x.k x.w <;> simp

theorem gangAt_retireTo {x : Ctx} (h : x.gn.stepping = false) (f : Form) (s : State) (pc : DWord) (r : Nat → Word) (extra : Nat) :
    gangAt (retireTo x f s pc r extra) x.k x.w x.g = (gangAt s x.k x.w x.g).map fun gn => gn.retired x f extra pc := by
  rw [retireTo_running h, gangAt, warpAt_issueUpdates, gangAt]
  cases warpAt s x.k x.w with
  | none => rfl
  | some wp => simp [AMap.get?_modify, (warp_issuedBy wp x f r).1]

/-- A greedy hold that an issue ends is gone (R19). -/
theorem issuedBy_greedy (c : Core) (x : Ctx) (f : Form) : AMap.get? (c.issuedBy x f true).greedy (x.w / 16) ≠ some x.w := by
  simp only [Core.issuedBy, Bool.true_and, decide_eq_true_eq]
  split
  · simp [AMap.get?_del]
  · assumption

theorem greedy_retireTo {x : Ctx} (h : x.gn.stepping = false) (f : Form) (s : State) (pc : DWord) (r : Nat → Word) (extra : Nat) :
    (coreAt (retireTo x f s pc r extra) x.k).greedy = ((coreAt s x.k).issuedBy x f (x.yieldBit || decide (0 < extra))).greedy := by
  simp [retireTo_running h, issueUpdates, State.modGang, State.modWarp]

/-! ## NOP, SBRA, YIELD, JOIN and EXEC -/

/-- A gang that yields for `extra` cycles is stalled for as many at least (R59). -/
theorem retired_yields (gn : Gang) (x : Ctx) (f : Form) {extra : Nat} (h : 0 < extra) (pc : DWord) :
    (gn.retired x f extra pc).status = .stalled ∧ (gn.retired x f extra pc).yielded = true ∧ extra ≤ (gn.retired x f extra pc).stall := by
  simp only [Gang.retired, Gang.issued]
  refine ⟨if_neg (by omega), by simp [h], by omega⟩

/-- YIELD (R59). -/
theorem yield_answers {s : State} {x : Ctx} (hx : ctxOf s = some x) (n : BitVec 16) (h : Issues x (ctlForm 0x0E)) :
    ∃ t, exec (.yield n) s = .next t ∧ Advanced x x.s t (nextSlot x.gn.pc) ∧
      (∀ gn, gangAt t x.k x.w x.g = some gn → gn.status = .stalled ∧ gn.yielded = true ∧ max 1 n.toNat ≤ gn.stall) ∧
      AMap.get? (coreAt t x.k).greedy (x.w / 16) ≠ some x.w := by
  have hpos : 0 < max 1 n.toNat := by omega
  refine ⟨_, run_checked (f := ctlForm 0x0E) hx h rfl, retireTo_advanced x _ _ _ _ _ h.running, fun gn hg => ?gang, ?greedy⟩
  case gang =>
    rw [gangAt_retireTo h.running] at hg
    obtain ⟨g0, -, rfl⟩ := Option.map_eq_some_iff.mp hg
    exact retired_yields g0 x _ hpos _
  case greedy =>
    rw [greedy_retireTo h.running, decide_eq_true hpos, Bool.or_true]
    exact issuedBy_greedy _ x _

/-- JOIN pushes its entry while fewer than 16 stand (R141). -/
theorem join_answers {s : State} {x : Ctx} (hx : ctxOf s = some x) (off : BitVec 16) (h : Issues x (ctlForm 0x08)) (hd : x.gn.stack.length < 16) :
    Answers (exec (.join off) s) x
      (x.setWarp { x.wp with tag := x.wp.tag + 1, gangs := AMap.put x.wp.gangs x.g { x.gn with
        stack := { rejoin := relTarget x.gn.pc off.toInt, mask := x.gn.mask, tag := x.wp.tag } :: x.gn.stack } }) (nextSlot x.gn.pc) := by
  refine check_retire_answers (g := ?g) (r := ?r) hx h ?body
  case body =>
    simp only [need, hd, decide_true, if_true]
    rfl

/-- Settles O19: each body checks its form and retires; YIELD's gang stalls and its warp's greedy hold ends. -/
theorem simpleControl : Obligations.SimpleControl := by
  refine ⟨fun s x hx => ⟨fun h => check_retire_answers hx h rfl, fun c off h => run_checked_retireTo hx h rfl, fun n h => yield_answers hx n h⟩,
    fun s x hx => ⟨fun off h hd => join_answers hx off h hd, fun a h => ⟨fun h0 => ?all, fun e rest hs h0 => ?some⟩⟩⟩
  case all =>
    refine check_retire_answers (g := ?g) (r := ?r) hx h ?body
    case body =>
      dsimp only
      rewrite [if_pos]
      · rfl
      · exact h0
  case some =>
    refine check_retire_answers (g := ?g2) (r := ?r2) hx h ?body
    case body =>
      dsimp only
      rewrite [if_neg, hs]
      · rfl
      · exact h0

/-! ## Per-lane transfers and traps -/

/-- Settles O20: each body passes its checks, those of its targets among them, and answers the transfer. -/
theorem laneTransfers : Obligations.LaneTransfers := by
  refine fun s x d a hx => ⟨fun off h => run_checked hx h rfl, fun off h => run_checked hx h rfl, fun h ht => run_checked hx h ?brx,
    fun h ht => run_checked hx h ?callx, fun h ht => run_checked hx h ?ret⟩
  all_goals
    simp only [ht]
    rfl

end Sys2Proof.Machine

/-! SUPPORT. How a transfer gathers its destinations and moves or divides the gang (R138, R145), and what the rejoining and trapping instructions answer. -/

namespace Sys2Proof.Machine

open Sys2Proof.Safety

/-! ## Gathering destinations -/

/-- A lane joins the destination that it shares, or brings one of its own. -/
def gatherDst (dest : Nat → DWord) (ds : List Dst) (l : Nat) : List Dst :=
  if ds.any (fun (a, _) => decide (a = dest l)) then ds.map fun (a, q) => if a = dest l then (a, q ||| bitMask l) else (a, q)
  else ds ++ [(dest l, bitMask l)]

theorem destsOf_eq (m : Mask) (dest : Nat → DWord) : destsOf m dest = (lanesOf m).foldl (gatherDst dest) [] := rfl

/-- Destinations gathered from lanes: each target of a lane stands once, with the lanes that take it. -/
structure Gathered (dest : Nat → DWord) (ls : List Nat) (ds : List Dst) : Prop where
  nodup : (ds.map Prod.fst).Nodup
  target : ∀ a, a ∈ ds.map Prod.fst ↔ ∃ l ∈ ls, dest l = a
  lanes : ∀ p ∈ ds, ∀ i < 32, p.2.getLsbD i = true ↔ i ∈ ls ∧ dest i = p.1

theorem gathered_nil (dest : Nat → DWord) : Gathered dest [] [] := ⟨List.nodup_nil, by simp, by simp⟩

/-- A lane more. -/
theorem Gathered.snoc {dest : Nat → DWord} {ls : List Nat} {ds : List Dst} (h : Gathered dest ls ds) (l : Nat) :
    Gathered dest (ls ++ [l]) (gatherDst dest ds l) := by
  have hany : (ds.any fun (a, _) => decide (a = dest l)) = true ↔ dest l ∈ ds.map Prod.fst := by
    simp only [List.any_eq_true, List.mem_map, decide_eq_true_eq]
  by_cases hm : dest l ∈ ds.map Prod.fst
  · rw [gatherDst, if_pos (hany.mpr hm)]
    have hfst : (ds.map fun (a, q) => if a = dest l then (a, q ||| bitMask l) else (a, q)).map Prod.fst = ds.map Prod.fst := by
      rw [List.map_map]
      exact List.map_congr_left fun p _ => by simp only [Function.comp]; split <;> rfl
    refine ⟨by rw [hfst]; exact h.nodup, fun a => ?target, ?lanes⟩
    case target =>
      rw [hfst, h.target]
      obtain ⟨l', hl', hd⟩ := (h.target _).mp hm
      constructor
      · rintro ⟨j, hj, rfl⟩; exact ⟨j, by simp [hj], rfl⟩
      · rintro ⟨j, hj, rfl⟩
        rcases List.mem_append.mp hj with hj | hj
        · exact ⟨j, hj, rfl⟩
        · obtain rfl := List.mem_singleton.mp hj
          exact ⟨l', hl', hd⟩
    case lanes =>
      intro p hp i hi
      obtain ⟨⟨a, q⟩, hq, rfl⟩ := List.mem_map.mp hp
      have hq' := h.lanes _ hq i hi
      by_cases ha : a = dest l
      · simp only [ha, if_true, BitVec.getLsbD_or, getLsbD_bitMask hi, Bool.or_eq_true, decide_eq_true_eq, List.mem_append, List.mem_singleton] at hq' ⊢
        rw [hq']
        constructor
        · rintro (⟨h1, h2⟩ | rfl)
          · exact ⟨.inl h1, h2⟩
          · exact ⟨.inr rfl, rfl⟩
        · rintro ⟨h1 | rfl, h2⟩
          · exact .inl ⟨h1, h2⟩
          · exact .inr rfl
      · simp only [ha, if_false, List.mem_append, List.mem_singleton]
        rw [hq']
        constructor
        · rintro ⟨h1, h2⟩; exact ⟨.inl h1, h2⟩
        · rintro ⟨h1 | rfl, h2⟩
          · exact ⟨h1, h2⟩
          · exact absurd h2.symm ha
  · rw [gatherDst, if_neg fun hc => hm (hany.mp hc)]
    refine ⟨?nodup, fun a => ?target, ?lanes⟩
    case nodup =>
      rw [List.map_append, List.nodup_append]
      refine ⟨h.nodup, List.nodup_singleton _, ?_⟩
      rintro a ha b hb rfl
      simp only [List.map_cons, List.map_nil, List.mem_singleton] at hb
      exact hm (hb ▸ ha)
    case target =>
      rw [List.map_append, List.mem_append, h.target]
      simp only [List.map_cons, List.map_nil, List.mem_singleton, List.mem_append]
      constructor
      · rintro (⟨j, hj, rfl⟩ | rfl)
        · exact ⟨j, .inl hj, rfl⟩
        · exact ⟨l, .inr rfl, rfl⟩
      · rintro ⟨j, hj | rfl, rfl⟩
        · exact .inl ⟨j, hj, rfl⟩
        · exact .inr rfl
    case lanes =>
      intro p hp i hi
      rcases List.mem_append.mp hp with hp | hp
      · rw [h.lanes p hp i hi]
        have hne : dest l ≠ p.1 := fun hc => hm (hc ▸ List.mem_map_of_mem hp)
        constructor
        · rintro ⟨h1, h2⟩; exact ⟨by simp [h1], h2⟩
        · rintro ⟨h1, h2⟩
          rcases List.mem_append.mp h1 with h1 | h1
          · exact ⟨h1, h2⟩
          · obtain rfl := List.mem_singleton.mp h1
            exact absurd h2 hne
      · obtain rfl := List.mem_singleton.mp hp
        rw [getLsbD_bitMask hi, decide_eq_true_eq]
        constructor
        · rintro rfl; exact ⟨by simp, rfl⟩
        · rintro ⟨h1, h2⟩
          rcases List.mem_append.mp h1 with h1 | h1
          · exact absurd ((h.target _).mpr ⟨i, h1, h2⟩) hm
          · exact (List.mem_singleton.mp h1).symm

theorem Gathered.foldl {dest : Nat → DWord} {done : List Nat} {ds : List Dst} (h : Gathered dest done ds) (ls : List Nat) :
    Gathered dest (done ++ ls) (ls.foldl (gatherDst dest) ds) := by
  induction ls generalizing done ds with
  | nil => simpa using h
  | cons l ls ih => simpa using ih (h.snoc l)

theorem gathered_destsOf (m : Mask) (dest : Nat → DWord) : Gathered dest (lanesOf m) (destsOf m dest) := by
  simpa [destsOf_eq] using (gathered_nil dest).foldl (lanesOf m)

/-- Lanes that all take one target. -/
theorem Gathered.eq_single {dest : Nat → DWord} {ls : List Nat} {ds : List Dst} {a : DWord} {m : Mask} (h : Gathered dest ls ds) (hne : ls ≠ [])
    (ha : ∀ l ∈ ls, dest l = a) (hm : ∀ i < 32, m.getLsbD i = true ↔ i ∈ ls) : ds = [(a, m)] := by
  have hkey : ∀ b ∈ ds.map Prod.fst, b = a := fun b hb => by
    obtain ⟨l, hl, rfl⟩ := (h.target b).mp hb
    exact ha l hl
  have hmask : ∀ p ∈ ds, p = (a, m) := fun p hp => by
    have hpa := hkey _ (List.mem_map_of_mem hp)
    refine Prod.ext hpa (BitVec.eq_of_getLsbD_eq fun i hi => ?_)
    rw [Bool.eq_iff_iff, h.lanes p hp i hi, hm i hi, hpa]
    exact ⟨And.left, fun hl => ⟨hl, ha i hl⟩⟩
  obtain ⟨l, hl⟩ := List.exists_mem_of_ne_nil _ hne
  have hin : a ∈ ds.map Prod.fst := (h.target a).mpr ⟨l, hl, ha l hl⟩
  match ds, h.nodup, hin, hmask with
  | [p], _, _, hmask => rw [hmask p (by simp)]
  | p :: q :: r, hn, _, hmask =>
    rw [hmask p (by simp), hmask q (by simp)] at hn
    simp at hn

/-- Lanes that take two targets, each one. -/
theorem Gathered.eq_pair {dest : Nat → DWord} {ls : List Nat} {ds : List Dst} {a b : DWord} {m n : Mask} (h : Gathered dest ls ds) (hab : a ≠ b)
    (hkey : ∀ l ∈ ls, dest l = a ∨ dest l = b) (ha : ∃ l ∈ ls, dest l = a) (hb : ∃ l ∈ ls, dest l = b)
    (hm : ∀ i < 32, m.getLsbD i = true ↔ i ∈ ls ∧ dest i = a) (hn : ∀ i < 32, n.getLsbD i = true ↔ i ∈ ls ∧ dest i = b) :
    ds = [(a, m), (b, n)] ∨ ds = [(b, n), (a, m)] := by
  have hp : ∀ p ∈ ds, p = (a, m) ∨ p = (b, n) := fun p hp => by
    obtain ⟨l, hl, hpl⟩ := (h.target p.1).mp (List.mem_map_of_mem hp)
    rcases hkey l hl with hd | hd
    · refine .inl (Prod.ext (hpl.symm.trans hd) (BitVec.eq_of_getLsbD_eq fun i hi => ?_))
      rw [Bool.eq_iff_iff, h.lanes p hp i hi, hm i hi, ← hpl, hd]
    · refine .inr (Prod.ext (hpl.symm.trans hd) (BitVec.eq_of_getLsbD_eq fun i hi => ?_))
      rw [Bool.eq_iff_iff, h.lanes p hp i hi, hn i hi, ← hpl, hd]
  have ha' := (h.target a).mpr ha
  have hb' := (h.target b).mpr hb
  have hnd := h.nodup
  match ds with
  | [] => simp at ha'
  | [p] =>
    simp only [List.map_cons, List.map_nil, List.mem_singleton] at ha' hb'
    exact absurd (ha'.trans hb'.symm) hab
  | [p, q] =>
    rcases hp p (by simp) with rfl | rfl <;> rcases hp q (by simp) with rfl | rfl
    · simp at hnd
    · exact .inl rfl
    · exact .inr rfl
    · simp at hnd
  | p :: q :: r :: t =>
    rcases hp p (by simp) with rfl | rfl <;> rcases hp q (by simp) with rfl | rfl <;> rcases hp r (by simp) with rfl | rfl <;> simp at hnd

/-! ## Transfers (R138) -/

theorem getLsbD_active (x : Ctx) (l : Nat) : x.active.getLsbD l = (x.gn.mask.getLsbD l && (guardMask x.wp x.mode).getLsbD l) := by
  rw [Ctx.active, BitVec.getLsbD_and]

theorem mask_of_active {x : Ctx} {l : Nat} (h : x.active.getLsbD l = true) : x.gn.mask.getLsbD l = true := by
  rw [getLsbD_active, Bool.and_eq_true] at h
  exact h.1

/-- Lanes of one target take it whole. -/
theorem laneTransfer_single {x : Ctx} {f : Form} {s : State} {target : Nat → DWord} {a : DWord} (hm : x.gn.mask ≠ 0)
    (ha : ∀ l ∈ lanesOf x.gn.mask, (if x.active.getLsbD l then target l else nextSlot x.gn.pc) = a) : laneTransfer x f s target = retireTo x f s a := by
  rw [laneTransfer, (gathered_destsOf x.gn.mask _).eq_single (m := x.gn.mask) (fun h => hm (lanesOf_eq_nil.mp h)) ha fun i _ => mem_lanesOf.symm]
  rfl

/-- Two destinations of different addresses, by address. -/
theorem sortDsts_pair {p q : Dst} (h : p.1.toNat < q.1.toNat) : sortDsts [p, q] = [p, q] ∧ sortDsts [q, p] = [p, q] := by
  simp [sortDsts, insertDst, h, Nat.not_lt.mpr (Nat.le_of_lt h)]

/-- A gang of which some lanes take a target elsewhere divides in two, by address. -/
theorem sortDsts_divided {x : Ctx} {dest : DWord} (h0 : x.active ≠ 0) (hall : x.active ≠ x.gn.mask) (hd : dest ≠ nextSlot x.gn.pc) :
    sortDsts (destsOf x.gn.mask fun l => if x.active.getLsbD l then dest else nextSlot x.gn.pc) =
      if dest.toNat < (nextSlot x.gn.pc).toNat then [(dest, x.active), (nextSlot x.gn.pc, x.gn.mask &&& ~~~x.active)]
      else [(nextSlot x.gn.pc, x.gn.mask &&& ~~~x.active), (dest, x.active)] := by
  have hsub : ∀ l, x.active.getLsbD l = true → l ∈ lanesOf x.gn.mask := fun l hl => mem_lanesOf.mpr (mask_of_active hl)
  have hgone : ∃ l ∈ lanesOf x.gn.mask, x.active.getLsbD l = false := by
    by_contra hc
    refine hall (mask_ext fun l => ?_)
    cases hl : x.gn.mask.getLsbD l
    · rw [getLsbD_active, hl, Bool.false_and]
    · by_contra hf
      exact hc ⟨l, mem_lanesOf.mpr hl, by simpa using hf⟩
  obtain ⟨i, hi⟩ := exists_lane_of_ne h0
  obtain ⟨j, hj, hja⟩ := hgone
  rw [mem_lanesOf] at hi
  have hpair := (gathered_destsOf x.gn.mask fun l => if x.active.getLsbD l then dest else nextSlot x.gn.pc).eq_pair (m := x.active)
    (n := x.gn.mask &&& ~~~x.active) hd (fun l _ => by split <;> simp) ⟨i, hsub i hi, if_pos hi⟩ ⟨j, hj, if_neg (by simp [hja])⟩
    (fun l hl => ?act) (fun l hl => ?rest)
  case act =>
    cases ha : x.active.getLsbD l
    · simp [Ne.symm hd]
    · simp [mask_of_active ha]
  case rest =>
    rw [mem_lanesOf, BitVec.getLsbD_and, BitVec.getLsbD_not, decide_eq_true hl]
    cases ha : x.active.getLsbD l
    · simp [-BitVec.getLsbD_eq_getElem]
    · simp [hd]
  rcases Nat.lt_or_gt_of_ne (fun h => hd (BitVec.eq_of_toNat_eq h)) with hlt | hlt
  · rw [if_pos hlt]
    obtain ⟨h1, h2⟩ := sortDsts_pair (p := (dest, x.active)) (q := (nextSlot x.gn.pc, x.gn.mask &&& ~~~x.active)) hlt
    rcases hpair with h | h <;> rw [h]
    · exact h1
    · exact h2
  · rw [if_neg (by omega)]
    obtain ⟨h1, h2⟩ := sortDsts_pair (p := (nextSlot x.gn.pc, x.gn.mask &&& ~~~x.active)) (q := (dest, x.active)) hlt
    rcases hpair with h | h <;> rw [h]
    · exact h2
    · exact h1

/-- Entries that are free. -/
theorem freeEntries_congr {wp wp' : Warp} (h : ∀ g, (AMap.get? wp'.gangs g).isNone = (AMap.get? wp.gangs g).isNone) : freeEntries wp' = freeEntries wp := by
  simp only [freeEntries, h]

theorem get?_of_freeEntries {wp : Warp} {e : Nat} (h : (freeEntries wp).head? = some e) : AMap.get? wp.gangs e = none := by
  have := List.mem_of_mem_head? h
  rw [freeEntries, List.mem_filter] at this
  simpa using this.2

/-- A transfer of two destinations with a free entry: the first keeps the gang's entry, the second takes the free one. -/
theorem transfer_pair {wp : Warp} {g e : Nat} {gn : Gang} {p q : Dst} (hg : AMap.get? wp.gangs g = some gn) (he : (freeEntries wp).head? = some e) :
    (AMap.get? (wp.transfer g false [p, q]).gangs g).map (fun gn => (gn.pc, gn.mask)) = some p ∧
    (AMap.get? (wp.transfer g false [p, q]).gangs e).map (fun gn => (gn.pc, gn.mask, gn.mode)) = some (q.1, q.2, gn.mode) := by
  have hne : e ≠ g := fun h => by simp [← h, get?_of_freeEntries he] at hg
  cases hf : freeEntries wp with
  | nil => simp [hf] at he
  | cons e' es =>
    rw [hf, List.head?_cons, Option.some.injEq] at he
    subst he
    simp [Warp.transfer, hg, hf, AMap.get?_put, hne, childGang]

/-- Dividing the gang of the cursor. -/
theorem transferTo_pair {s : State} {x : Ctx} (hx : ctxOf s = some x) (hr : x.gn.stepping = false) (f : Form) {e : Nat} (hl : modeLstep x.mode = false)
    (he : (freeEntries x.wp).head? = some e) (p q : Dst) :
    (gangAt (transferTo x f x.s [p, q]) x.k x.w x.g).map (fun gn => (gn.pc, gn.mask)) = some p ∧
    (gangAt (transferTo x f x.s [p, q]) x.k x.w e).map (fun gn => (gn.pc, gn.mask, gn.mode)) = some (q.1, q.2, x.gn.mode) := by
  obtain ⟨hs, -, -, -, -, hw, hg⟩ := ctxOf_some hx
  rw [← hs] at hw hg
  rw [gangAt, hw, Option.bind_some] at hg
  simp only [transferTo, noStep_of_running hr, endStep_of_running hr, hl, retireTo_running hr, gangAt, warpAt_modWarp, warpAt_issueUpdates, hw,
    Option.map_some, if_true, Option.bind_some]
  refine transfer_pair (gn := x.gn.retired x f 0 x.gn.pc) ?_ ?_
  · simp [AMap.get?_modify, (warp_issuedBy x.wp x f _).1, hg]
  · rw [freeEntries_congr (wp := x.wp) fun g => by simp [AMap.get?_modify, (warp_issuedBy x.wp x f _).1], he]

/-- Settles O21: the destinations of the lanes gather to one or two, and the gang moves or divides. -/
theorem transferMoves : Obligations.TransferMoves := by
  refine fun s x f dest hx hr hm => ⟨fun hall => ?whole, fun h0 => ?stay, fun h0 hall hd hl e he => ?divide⟩
  case whole =>
    rw [laneTransfer_single hm fun l hl => if_pos (hall ▸ mem_lanesOf.mp hl)]
    exact retireTo_advanced x f x.s _ _ 0 hr
  case stay =>
    rw [laneTransfer_single hm fun l _ => if_neg (by simp [h0])]
    exact retireTo_advanced x f x.s _ _ 0 hr
  case divide =>
    simp only [laneTransfer, sortDsts_divided h0 hall hd]
    split
    · exact transferTo_pair hx hr f hl he _ _
    · exact transferTo_pair hx hr f hl he _ _

end Sys2Proof.Machine

/-! SUPPORT. What the rejoining and trapping instructions and SWITCH answer where they issue normally (R54, R57, R58, R142, R144, R145). -/

namespace Sys2Proof.Machine

open Sys2Proof.Safety

/-! ## MEET, WSYNC and EXIT -/

/-- MEET away from its rejoin address, or with an empty stack, goes on (R142). -/
theorem meet_passes {s : State} {x : Ctx} (hx : ctxOf s = some x) (h : Issues x (ctlForm 0x09))
    (haway : ∀ e rest, x.gn.stack = e :: rest → e.rejoin ≠ x.gn.pc) : Answers (exec .meet s) x x.s (nextSlot x.gn.pc) := by
  refine check_retire_answers (g := ctlForm 0x09) (r := fun _ => 0) hx h ?_
  cases hst : x.gn.stack with
  | nil => rfl
  | cons e rest => simp only [haway e rest hst, ne_eq, not_false_eq_true, if_true]

/-- MEET at its rejoin address: a pending destination of this depth is served; else the gangs leave when no sibling is out; else this one parks (R142). -/
theorem meet_meets {s : State} {x : Ctx} {e : StackEntry} {rest : List StackEntry} (hx : ctxOf s = some x) (h : Issues x (ctlForm 0x09))
    (hst : x.gn.stack = e :: rest) (he : e.rejoin = x.gn.pc) :
    let here := (retireTo x (ctlForm 0x09) x.s x.gn.pc).modWarp x.k x.w fun wp => wp.clearLatch x.gn.mask
    let together := if x.wp.meetLimit = 0 then [x.g] else x.g :: parkedThere x.wp x.gn.pc e.tag
    exec .meet s = .next (
      if x.gn.pending.head?.any fun r => decide (r.depth = x.gn.stack.length) then afterGangs (here.modGang x.k x.w x.g Gang.serve) x.k x.w
      else if !siblingOut x.wp x.g x.gn.pc e.tag || decide (x.wp.meetLimit = 0) then
        afterGangs (((here.modGang x.k x.w x.g fun gn => { gn with status := .parked 0 }).modWarp x.k x.w fun wp =>
            if x.wp.meetLimit = 0 then wp else wp.mergeParked x.gn.pc e.tag).modWarp x.k x.w fun wp =>
              wp.leaveMeet (together.filter fun i => (AMap.get? wp.gangs i).isSome)) x.k x.w
      else afterGangs ((here.modGang x.k x.w x.g fun gn => { gn with status := .parked x.wp.meetLimit }).modWarp x.k x.w
        fun wp => wp.mergeParked x.gn.pc e.tag) x.k x.w) := by
  refine run_checked hx h ?_
  simp only [hst, he, ne_eq, not_true_eq_false, if_false, noStep_of_running h.running, endStep_of_running h.running]
  split
  · rfl
  · split <;> rfl

/-- WSYNC waits where no destination is pending and no lane is held in the warp (R144). -/
theorem wsync_waits {s : State} {x : Ctx} (hx : ctxOf s = some x) (n : BitVec 16) (h : Issues x (ctlForm 0x0B))
    (hall : ∀ p ∈ x.wp.gangs, p.2.pending = [] ∧ ∀ e ∈ p.2.stack, e.held = 0) :
    exec (.wsync n) s = .next (settleSync (beginWait x (ctlForm 0x0B) x.s (.wsync n)) x.k x.w) := by
  refine run_checked hx h ?_
  have h1 : (x.wp.gangs.all fun (_, h) => h.pending.isEmpty) = true := List.all_eq_true.mpr fun p hp => List.isEmpty_iff.mpr (hall p hp).1
  have h2 : (x.wp.gangs.all fun (_, h) => h.stack.all fun e => decide (e.held = 0)) = true :=
    List.all_eq_true.mpr fun p hp => List.all_eq_true.mpr fun e he => decide_eq_true ((hall p hp).2 e he)
  simp only [need, h1, h2, if_true]
  rfl

/-- Settles O22: MEET by its cases, WSYNC and EXIT by their checks. -/
theorem warpRejoins : Obligations.WarpRejoins := by
  refine ⟨fun s x hx h => ⟨fun haway => meet_passes hx h haway, fun e rest hst he => ⟨fun r rs hp hd => ?serve, fun hp hout => ?leave, fun hp hout hlim => ?park⟩⟩,
    fun s x hx => ⟨fun n h hall => wsync_waits hx n h hall, fun h => ?exit⟩⟩
  case serve =>
    rw [meet_meets hx h hst he]
    simp [hp, hd]
  case leave =>
    have hl : (!siblingOut x.wp x.g x.gn.pc e.tag || decide (x.wp.meetLimit = 0)) = true := by rcases hout with h | h <;> simp [h]
    rw [meet_meets hx h hst he]
    simp only [hp, List.head?_nil, Option.any_none, Bool.false_eq_true, if_false, hl, if_true]
  case park =>
    rw [meet_meets hx h hst he]
    simp only [hp, List.head?_nil, Option.any_none, Bool.false_eq_true, if_false, hout, hlim, Bool.not_true, decide_false, Bool.or_self]
  case exit =>
    refine run_checked hx h ?_
    simp only [noStep_of_running h.running, endStep_of_running h.running]

/-! ## ILL, TRAP and BRK -/

/-- A word that is no instruction: every profile refuses opcode 0 (R54). -/
theorem check_ill {x : Ctx} (h : bitsW x.s.ctl 31 30 < 2) : check x (ctlForm 0x00) = trapOf 0x01 := by
  have hp : profileFault x.k (ctlForm 0x00).op = some 0x01 := by simp [profileFault, ctlForm]
  simp only [check, need, h, decide_true, if_true, hp]
  rfl

/-- TRAP with a lane active completes and takes its trap (R58). -/
theorem trap_traps {s : State} {x : Ctx} (hx : ctxOf s = some x) (n : BitVec 16) (h : Issues x { op := 0x0D }) (ha : x.active ≠ 0) :
    exec (.trap n) s = .next (trapAfter x (retire x.noStep { op := 0x0D } x.s) { cause := 0x12, n := n, lanes := some x.active }) := by
  refine run_checked hx h ?_
  simp only [ha, if_false]

/-- BRK traps at its own slot, or stops its gang there where it is routed to the debug port (R308, R415). -/
theorem brk_stops {s : State} {x : Ctx} (hx : ctxOf s = some x) (n : BitVec 16) (h : Issues x { op := 0xCF, guard := false, once := true }) :
    exec (.brk n) s = .next (if brkRouted x.s x.k then
        (retireTo x { op := 0xCF, guard := false, once := true } { x.s with debugNotices := x.s.debugNotices ++ [(x.k, x.w, x.g)] } x.gn.pc).modGang x.k x.w x.g
          fun gn => { gn with dbgHalt := true }
      else dropAllRefusals (takeTrap x { cause := 0x13, n := n }) x.k) := by
  cases hr : brkRouted x.s x.k
  · refine run_stopped (e := .trap { cause := 0x13, n := n }) hx ?_
    simp only [check_of_issues h, hr]
    rfl
  · refine run_checked hx h ?_
    simp only [hr, if_true, noStep_of_running h.running, h.running, Bool.false_eq_true, if_false]

/-- Settles O24. -/
theorem trapInstructions : Obligations.TrapInstructions := by
  refine fun s x hx => ⟨fun hf => run_stopped (e := .trap { cause := 0x01 }) hx ?ill, fun n h ha => trap_traps hx n h ha, fun n h ha => ?pass,
    fun n h => brk_stops hx n h⟩
  case ill =>
    rw [check_ill hf]
    rfl
  case pass =>
    refine check_retire_answers (g := { op := 0x0D }) (r := fun _ => 0) hx h ?_
    simp only [ha, if_true]

end Sys2Proof.Machine

/-! SUPPORT. SWITCH (R145): its table's bundles are fetched, then its checks pass, and each lane goes to its case. -/

namespace Sys2Proof.Machine

open Sys2Proof.Safety

/-- A check that no lane fails. -/
theorem need_laneWhere {m : Mask} {p : Nat → Bool} (t : Trap) (h : ∀ l ∈ lanesOf m, p l = false) : need (decide (laneWhere m p = 0)) t = .ok () := by
  rw [laneWhere_eq_zero.mpr h]
  rfl

/-- A branch for the lanes that pass, where none does. -/
theorem ite_laneWhere {α : Type} {m : Mask} {p : Nat → Bool} (a b : α) (h : ∀ l ∈ lanesOf m, p l = false) :
    (if laneWhere m p ≠ 0 then a else b) = b := if_neg (not_not.mpr (laneWhere_eq_zero.mpr h))

/-- A gang stands in its core's warps. -/
theorem gangAt_congr {s t : State} {k : Nat} (h : (coreAt t k).warps = (coreAt s k).warps) (w g : Nat) : gangAt t k w g = gangAt s k w g := by
  simp only [gangAt, warpAt, h]

/-- Every entry that a lane needs is translated and executable. -/
theorem checkTable_ok {x : Ctx} {lanes : Mask} {addr : Nat → DWord} (h : ∀ l ∈ lanesOf lanes, ∃ e, tlbLook x.c x.did (addr l) = .hit e ∧ e.x = true) :
    checkTable x lanes addr = .ok () := by
  unfold checkTable
  dsimp only
  rw [ite_laneWhere, ite_laneWhere]
  · rfl
  all_goals
    intro l hl
    obtain ⟨e, he, hx⟩ := h l hl
    simp [he, hx]

/-- Every target that a lane takes is translated and executable. -/
theorem checkCases_ok {x : Ctx} {lanes : Mask} {target : Nat → DWord} (h : ∀ l ∈ lanesOf lanes, ∃ e, tlbLook x.c x.did (target l) = .hit e ∧ e.x = true) :
    checkCases x lanes target = .ok () := by
  unfold checkCases
  dsimp only
  rw [ite_laneWhere, need_laneWhere, need_laneWhere]
  · rfl
  all_goals
    intro l hl
    obtain ⟨e, he, hx⟩ := h l hl
    simp [he, hx]

theorem checkFrames_ok {x : Ctx} {lanes : Mask} {addr : Nat → DWord}
    (h : ∀ l ∈ lanesOf lanes, bitsW (switchWord x (addr l) (bundleOf (addr l))) 31 30 = 2) : checkFrames x lanes addr = .ok () :=
  need_laneWhere _ fun l hl => by simp [h l hl]

theorem mem_tableKeys {did : BitVec 16} {lanes : Mask} {addr : Nat → DWord} {k : Nat} :
    k ∈ (tableBundles lanes addr).map (tableKey did) ↔ ∃ l ∈ lanesOf lanes, tableKey did (bundleOf (addr l)).toNat = k := by
  simp only [tableBundles, List.mem_map, List.mem_eraseDups]
  constructor
  · rintro ⟨b, ⟨l, hl, rfl⟩, rfl⟩; exact ⟨l, hl, rfl⟩
  · rintro ⟨l, hl, rfl⟩; exact ⟨_, ⟨l, hl, rfl⟩, rfl⟩

/-- The fetch is over when every bundle that a lane needs is in. -/
theorem fetchTable_done {x : Ctx} {lanes : Mask} {addr : Nat → DWord}
    (h : ∀ l ∈ lanesOf lanes, AMap.get? x.c.tables (tableKey x.did (bundleOf (addr l)).toNat) = some 0) : fetchTable x lanes addr = none := by
  have h0 : ∀ k ∈ (tableBundles lanes addr).map (tableKey x.did), AMap.get? x.c.tables k = some 0 := fun k hk => by
    obtain ⟨l, hl, rfl⟩ := mem_tableKeys.mp hk
    exact h l hl
  refine if_pos ?_
  rw [Bool.and_eq_true, List.isEmpty_iff, List.filter_eq_nil_iff, List.all_eq_true]
  exact ⟨fun k hk => by simp [h0 k hk], fun k hk => by simp [AMap.getD, h0 k hk]⟩

/-- Until then the gang is held at the instruction. -/
theorem fetchTable_held {s : State} {x : Ctx} {lanes : Mask} {addr : Nat → DWord} (hx : ctxOf s = some x)
    (h : ∃ l ∈ lanesOf lanes, AMap.get? x.c.tables (tableKey x.did (bundleOf (addr l)).toNat) ≠ some 0) :
    ∃ t, fetchTable x lanes addr = some t ∧ t.mem = s.mem ∧
      (gangAt t x.k x.w x.g).map (fun gn => (gn.status, gn.pc, gn.mask)) = some (.held .tableFetch, x.gn.pc, x.gn.mask) := by
  obtain ⟨l, hl, hne⟩ := h
  obtain ⟨hs, -, -, -, -, -, hg⟩ := ctxOf_some hx
  have hk := (mem_tableKeys (did := x.did) (addr := addr)).mpr ⟨l, hl, rfl⟩
  refine ⟨_, if_neg fun hc => hne ?_, by simp [hs], ?_⟩
  · rw [Bool.and_eq_true, List.isEmpty_iff, List.filter_eq_nil_iff, List.all_eq_true] at hc
    have h1 := hc.1 _ hk
    have h2 := hc.2 _ hk
    rw [decide_eq_true_eq, AMap.getD] at h2
    revert h1 h2
    cases AMap.get? x.c.tables (tableKey x.did (bundleOf (addr l)).toNat) <;> simp
  · rw [gangAt_modGang, gangAt_congr (s := x.s), hs, hg]
    · rfl
    · simp [coreAt, State.modCore, State.setCore, AMap.getD]

/-! ## The cases -/

theorem switchIndex_le (x : Ctx) (d : Reg) (n l : Nat) : switchIndex x d n l ≤ n := by
  unfold switchIndex
  split
  · next h =>
    rw [Bool.and_eq_true, decide_eq_true_eq] at h
    exact Nat.le_of_lt h.2
  · exact le_rfl

/-- Lanes in case order. -/
def caseOrder (mask : Mask) (n : Nat) (idx : Nat → Nat) : List Nat := (List.range (n + 1)).flatMap fun i => (lanesOf mask).filter fun l => decide (idx l = i)

theorem switchDsts_eq (mask : Mask) (n : Nat) (idx : Nat → Nat) (target : Nat → DWord) :
    switchDsts mask n idx target = (caseOrder mask n idx).foldl (gatherDst fun l => slot0 (target l)) [] := rfl

theorem mem_caseOrder {mask : Mask} {n : Nat} {idx : Nat → Nat} (h : ∀ l, idx l ≤ n) {l : Nat} : l ∈ caseOrder mask n idx ↔ l ∈ lanesOf mask := by
  simp only [caseOrder, List.mem_flatMap, List.mem_range, List.mem_filter, decide_eq_true_eq]
  exact ⟨fun ⟨_, _, hl, _⟩ => hl, fun hl => ⟨idx l, Nat.lt_succ_of_le (h l), hl, rfl⟩⟩

/-- Lanes of one target go to it together. -/
theorem switchDsts_single {mask : Mask} {n : Nat} {idx : Nat → Nat} {target : Nat → DWord} (hm : mask ≠ 0) (hi : ∀ l, idx l ≤ n)
    (ht : ∀ l ∈ lanesOf mask, target l = target (firstLane mask)) : switchDsts mask n idx target = [(slot0 (target (firstLane mask)), mask)] := by
  have hg : Gathered (fun l => slot0 (target l)) (caseOrder mask n idx) (switchDsts mask n idx target) := by
    simpa [switchDsts_eq] using (gathered_nil fun l => slot0 (target l)).foldl (caseOrder mask n idx)
  refine hg.eq_single ?_ (fun l hl => ?_) fun i _ => ?_
  · exact List.ne_nil_of_mem ((mem_caseOrder hi).mpr (firstLane_mem hm))
  · rw [ht l ((mem_caseOrder hi).mp hl)]
  · rw [mem_caseOrder hi, mem_lanesOf]

/-- Settles O23. -/
theorem switchTransfers : Obligations.SwitchTransfers := by
  intro s x d n hx f lanes addr target h htab
  refine ⟨fun hwait => ?held, fun hready => ?go⟩
  case held =>
    obtain ⟨t, ht, hmem, hgang⟩ := fetchTable_held hx hwait
    refine ⟨t, run_checked hx h ?_, hmem, hgang⟩
    simp only [lanes, addr] at ht htab
    simp only [checkTable_ok htab, ht]
    rfl
  case go =>
    have hbody : exec (.switch d n) s = .next (if x.gn.mask = 0 then retireTo x f x.s (slot0 (target 0))
        else transferTo x f x.s (switchDsts x.gn.mask n.toNat (switchIndex x d n.toNat) target)) := by
      refine run_checked hx h ?_
      have h1 := fetchTable_done fun l hl => (hready l hl).1
      have h2 := checkFrames_ok fun l hl => (hready l hl).2.1
      have h3 := checkCases_ok fun l hl => (hready l hl).2.2
      simp only [lanes, addr, target] at h1 h2 h3 htab
      simp only [checkTable_ok htab, h1, h2, h3]
      by_cases hm : x.gn.mask = 0
      · simp only [hm, if_true]
        rfl
      · simp only [hm, if_false]
        rfl
    refine ⟨fun hm => ⟨_, hbody.trans (by rw [if_pos hm]), retireTo_advanced x f x.s _ _ 0 h.running⟩,
      fun hm => ⟨hbody.trans (by rw [if_neg hm]), fun ht => switchDsts_single hm (fun l => switchIndex_le x d n.toNat l) ht⟩⟩

end Sys2Proof.Machine

/-! SUPPORT. What VGROW, VSHRINK, SPAWN and GRID answer where they issue normally (R106 to R109, R154 to R158). -/

namespace Sys2Proof.Machine

open Sys2Proof.Safety

/-- A body that checks its form and then begins to wait where it stands. -/
theorem run_checked_waits {s : State} {x : Ctx} {body : Ctx → Except Stop State} {f g : Form} {c : WaitCause} (hx : ctxOf s = some x) (h : Issues x f)
    (hb : body x = (do check x f; return beginWait x g x.s c)) : Waits (run s body) x x.s c := by
  rw [run_checked hx h hb]
  exact beginWait_waits g x.s c (pc_of_ctx hx rfl)

/-! ## VGROW and VSHRINK -/

/-- The form of VGROW. -/
def vgrowForm (d : Reg) (n : BitVec 16) : Form :=
  { op := 0x4C, classes := Reg.sz d && decide (n.toNat ≤ 15), guard := false, once := true, writes := [(d, 1)] }

section
variable {s : State} {x : Ctx} {d : Reg} {n : BitVec 16} {i : Nat} {sl : Slot} (hx : ctxOf s = some x) (hf : x.wp.frames = [])
  (hs : slotOf x.c x.wp.did = some (i, sl)) (h : Issues x (vgrowForm d n)) (hn : x.wp.blocks + n.toNat ≤ 16)
  (hg : growNeed x.wp n.toNat ≤ sl.granules - sl.reserve - granulesFor x.wp.blocks)
include hx hf hs h hn hg

/-- VGROW is granted at once. -/
theorem vgrow_answers (hopen : growNeed x.wp n.toNat = 0 ∨ growNeed x.wp n.toNat ≤ openGranules x.c sl (x.w / 16) ∧
      ((quadWarps x.c (x.w / 16) x.wp.did).any fun p => decide (p.2.age < x.wp.age) && p.2.growing.isSome) = false) :
    Answers (exec (.vgrow d n) s) x (x.setWarp { x.wp.dstS d 1 (x.wp.blocks + n.toNat) with blocks := x.wp.blocks + n.toNat }) (nextSlot x.gn.pc) := by
  refine check_retire_answers (g := vgrowForm d n) (r := fun _ => 0) hx h ?_
  simp only [hf, List.isEmpty_nil, need, hn, hs, hg, decide_true, if_true]
  rcases hopen with h0 | ⟨h1, h2⟩
  · simp only [h0, decide_true, Bool.true_or, if_true]
    rfl
  · simp only [h1, h2, decide_true, Bool.not_false, Bool.and_self, Bool.or_true, if_true]
    rfl

/-- VGROW waits for granules, or behind an older request. -/
theorem vgrow_waits (h0 : growNeed x.wp n.toNat ≠ 0) (hshut : openGranules x.c sl (x.w / 16) < growNeed x.wp n.toNat ∨
      ((quadWarps x.c (x.w / 16) x.wp.did).any fun p => decide (p.2.age < x.wp.age) && p.2.growing.isSome) = true) :
    Waits (exec (.vgrow d n) s) x x.s (.vgrow n.toNat d) := by
  refine run_checked_waits (g := vgrowForm d n) hx h ?_
  simp only [hf, List.isEmpty_nil, need, hn, hs, hg, decide_true, if_true, h0, decide_false, Bool.false_or]
  rcases hshut with h1 | h2
  · simp only [Nat.not_le.mpr h1, decide_false, Bool.false_and, Bool.false_eq_true, if_false]
    rfl
  · simp only [h2, Bool.not_true, Bool.and_false, Bool.false_eq_true, if_false]
    rfl

end

/-- Settles O25. -/
theorem registerBlocks : Obligations.RegisterBlocks := by
  intro s x d n hx hf
  refine ⟨fun i sl hs => ?grow, ?shrink⟩
  case grow =>
    intro f g older h hn hg
    exact ⟨fun ho => vgrow_answers hx hf hs h hn hg ho, fun h0 hc => vgrow_waits hx hf hs h hn hg h0 hc⟩
  case shrink =>
    intro f left h hl
    refine run_checked hx h ?_
    simp only [left] at hl
    simp only [hf, List.isEmpty_nil, need, if_true, hl, Bool.false_eq_true, if_false]
    rfl

/-! ## SPAWN and GRID -/

/-- The form of SPAWN. -/
def spawnForm (d a b : Reg) : Form :=
  { op := 0x4E, classes := Reg.addrPair d, a := a, b := b, aw := 1, bw := 1, aLane := true, bLane := true, more := [(d, 2)] }

/-- SPAWN with its targets valid and nothing to release: its lanes enter bins, and it goes on when none is left (R156). -/
theorem spawn_enters {s : State} {x : Ctx} {d a b : Reg} (hx : ctxOf s = some x) (h : Issues x (spawnForm d a b)) (ha : x.active ≠ 0)
    (hfresh : x.gn.spawnLeft = none) (ht : checkTargets x x.did x.active (fun l => x.rd64 l d) false = .ok ()) (hd : launchDrain x 2 = none)
    (hh : treeHeld x.s x.wp.tree = false) :
    let r := enterLanes (addTree (publishWrites x.s x.k x.did 2) x.wp.tree (popCount x.active)) x.k x.did x.wp.tree (fun l => x.rd64 l d)
      (fun l => (srcA x a l, srcB x b l)) (lanesOf x.active)
    let kept := r.1.modCore x.k fun c => { c with bins := c.bins.filter fun q => !q.2.threads.isEmpty }
    exec (.spawn d a b) s = .next (if r.2.isEmpty then retire x (spawnForm d a b) (kept.modGang x.k x.w x.g fun gn => { gn with spawnLeft := none })
      else kept.modGang x.k x.w x.g fun gn => { gn with status := .held .spawnBin, spawnLeft := some (maskOf fun l => r.2.contains l) }) := by
  refine run_checked hx h ?_
  simp only [ha, if_false, hfresh, Option.isNone_none, if_true, ht, hd, hh, Bool.true_and, Bool.false_eq_true, Option.getD_none]
  split <;> rfl

/-- GRID with a descriptor that may be launched and nothing to release hands its grid to the dispatcher (R157). -/
theorem grid_hands {s : State} {x : Ctx} {a : Reg} {dsc : Desc} (hx : ctxOf s = some x)
    (h : Issues x { op := 0x4F, classes := groupReg a 58, guard := false, once := true, more := groupReads a 6 })
    (hgx : bitsW (groupWord x a 2) 15 0 ≠ 0) (hgy : bitsW (groupWord x a 2) 31 16 ≠ 0) (hgz : bitsW (groupWord x a 3) 15 0 ≠ 0)
    (hz : bitsW (groupWord x a 3) 31 16 = 0) (hd : gridDesc x (pairW (groupWord x a 0) (groupWord x a 1)) = .ok dsc)
    (hr : launchRefused x.s x.part x.did dsc = none) (hl : launchDrain x 3 = none) (hh : treeHeld x.s x.wp.tree = false) :
    let w := groupWord x a
    let s' := addTree (publishWrites x.s x.k x.did 3) x.wp.tree ((bitsW (w 2) 15 0 * bitsW (w 2) 31 16 * bitsW (w 3) 15 0 : Nat) : Int)
    let prio := match x.wp.tree.bind fun t => AMap.get? s'.trees t with | some tr => tr.prio | none => 0
    let grid : Grid := { id := (partAt s' x.part).nextGrid, tree := x.wp.tree, did := x.did, desc := dsc, gx := bitsW (w 2) 15 0, gy := bitsW (w 2) 31 16,
                         gz := bitsW (w 3) 15 0, arga := w 4, argb := w 5, prio := prio, slice := coreSlice x.k, came := partClk s' x.k }
    Answers (exec (.grid a) s) x (s'.modPart x.part fun pt => { pt with grids := insertGrid grid pt.grids, nextGrid := pt.nextGrid + 1 }) (nextSlot x.gn.pc) := by
  refine check_retire_answers (g := ?g) (r := ?r) hx h ?body
  case body =>
    simp only [need, hgx, hgy, hgz, hz, hd, hr, hl, hh, ne_eq, not_false_eq_true, decide_true, Bool.and_self, if_true, Bool.false_eq_true, if_false, except_ok_bind]
    rfl

/-- Settles O26. -/
theorem workSpawning : Obligations.WorkSpawning := by
  intro s x d a b hx
  refine ⟨?spawn, ?grid⟩
  case spawn =>
    intro f h
    refine ⟨fun ha => ?none, fun ha hfresh ht hd hh => ?some⟩
    case none =>
      refine check_retire_answers (g := f) (r := fun _ => 0) hx h ?_
      simp only [ha, if_true]
      rfl
    case some =>
      intro s' r kept
      have hs : exec (.spawn d a b) s = .next (if r.2.isEmpty then retire x f (kept.modGang x.k x.w x.g fun gn => { gn with spawnLeft := none })
          else kept.modGang x.k x.w x.g fun gn => { gn with status := .held .spawnBin, spawnLeft := some (maskOf fun l => r.2.contains l) }) :=
        spawn_enters hx h ha hfresh ht hd hh
      refine ⟨fun hr => ⟨_, ?_, retireTo_advanced x f _ _ (fun _ => 0) 0 h.running⟩, fun hr => ?_⟩
      · rw [hs, hr]
        rfl
      · rw [hs, if_neg fun hc => hr (List.isEmpty_iff.mp hc)]
  case grid =>
    intro w gx gy gz h hgx hgy hgz hz dsc hd hr hl hh
    exact grid_hands hx h hgx hgy hgz hz hd hr hl hh

end Sys2Proof.Machine

/-! SUPPORT. What the loads, stores, scratchpad accesses and atomics answer once their checks pass (R86 to R91, R179 to R190), and what an access that goes
to the path leaves (R88, R217, R229). -/

namespace Sys2Proof.Machine

open Sys2Proof.Safety

/-! ## Going to the path -/

theorem needCount_ok {x : Ctx} {c : Counter} (h : x.wp.count c < 63) : needCount x c = .ok () := by
  simp [needCount, h]

/-- An access that goes: its counter, its homes and the combining buffer let it. -/
theorem goes_eqs {x : Ctx} {c : Counter} {lanes : List LaneAcc} {same : CombineEntry → Bool} (h : Goes x c lanes same) :
    needCount x c = .ok () ∧ hostHeld x (lanes.map fun la => la.pa) = false ∧ flushFor x (rangesOf lanes) same = none :=
  ⟨needCount_ok h.counter, h.home, h.buffer⟩

/-- A body whose access has been put on the path, its gang at the instruction. -/
theorem run_sent {s : State} {x : Ctx} {body : Ctx → Except Stop State} {f : Form} {t : State} {hit : Option Nat} (hx : ctxOf s = some x)
    (h : Issues x f) (hpc : ∀ gn, gangAt t x.k x.w x.g = some gn → gn.pc = x.gn.pc) (hb : body x = .ok (retireAccess x f t hit)) : Sent (run s body) x t hit := by
  have hrun : run s body = .next (retireAccess x f t hit) := by
    rw [run, hx]
    simp only [hb]
    rfl
  rw [hrun]
  refine ⟨fun h0 => ?_, fun n h0 => ?_⟩
  · rw [h0]
    exact retire_answers f t _ h.running
  · rw [h0]
    exact beginWait_waits f t _ hpc

/-- The same of an access that leaves the gang as it was. -/
theorem run_checked_sent {s : State} {x : Ctx} {body : Ctx → Except Stop State} {f : Form} {t : State} {hit : Option Nat} (hx : ctxOf s = some x)
    (h : Issues x f) (hg : gangAt t x.k x.w x.g = gangAt x.s x.k x.w x.g) (hb : body x = .ok (retireAccess x f t hit)) : Sent (run s body) x t hit :=
  run_sent hx h (pc_of_ctx hx hg) hb

/-- A body that passes its checks of an access and retires. -/
theorem run_checkedMem_answers {s : State} {x : Ctx} {body : Ctx → Except Stop State} {f : Form} {t : State} {r : Nat → Word} (hx : ctxOf s = some x)
    (h : Issues x f) (hb : body x = .ok (retire x f t r)) : Answers (run s body) x t (nextSlot x.gn.pc) := by
  have hrun : run s body = .next (retire x f t r) := by
    rw [run, hx]
    simp only [hb]
    rfl
  rw [hrun]
  exact retire_answers f t r h.running

/-! ## Loads -/

/-- The form of a per-lane load. -/
abbrev loadForm (op n : Nat) (d a : Reg) : Form := { op := op, classes := Reg.addrPair a && Reg.vz d, more := [(a, 2)], writes := [(d, n)] }

theorem vectorLoad_idle {s : State} {x : Ctx} {op size n : Nat} {kind : AccKind} {kd : Nat → Option Nat} {d a : Reg} {off : BitVec 8} (hx : ctxOf s = some x)
    (h : Issues x (loadForm op n d a)) (ha : x.active = 0) : Answers (vectorLoad op size n kind kd d a off s) x x.s (nextSlot x.gn.pc) := by
  refine run_checkedMem_answers (f := loadForm op n d a) (r := fun _ => 0) hx h ?_
  dsimp only
  rw [checkMem_of_issues h, if_pos ha]
  rfl

theorem vectorLoad_sent {s : State} {x : Ctx} {op size n : Nat} {kind : AccKind} {kd : Nat → Option Nat} {d a : Reg} {off : BitVec 8} (hx : ctxOf s = some x)
    (h : Issues x (loadForm op n d a)) (ha : x.active ≠ 0) :
    let va := effAddr x a off size
    let lanes := (lanesOf x.active).map fun l => { lane := l, pa := keyFor x (va l), va := va l, size := size : LaneAcc }
    let l1 := decide (kind = .load)
    let hit := watchHit x false 0 ((lanesOf x.active).map fun l => ((va l).toNat, size))
    checkAccess x { size := size, write := false, kindDetail := kd } false x.active va (fun _ => false) (fun k => l1 && hitsL1 x k) = .ok () →
    Goes x .lc lanes (fun _ => false) →
    Sent (vectorLoad op size n kind kd d a off s) x (startLoad x kind (destFor d n x.t.isSigned) lanes l1 hit) hit := by
  intro va lanes l1 hit hacc hgo
  obtain ⟨hc, hh, hb⟩ := goes_eqs hgo
  refine run_checked_sent hx h (startLoad_gangs _ _ _ _ _ _ _ _ _) ?_
  dsimp only
  rw [checkMem_of_issues h, if_neg ha, hacc, hc, hh, hb]
  rfl

/-- The parts of a load stand for its lines. -/
theorem loadParts_lines (x : Ctx) (lanes : List LaneAcc) (l1 : Bool) :
    ((linesOf lanes).map fun (ln, qs) => loadPart x l1 ln qs).map LinePart.line = risingNat (lanes.map fun la => la.pa / 128) := by
  simp only [linesOf, List.map_map]
  exact List.map_id' _

/-- A counted access at the path's end: one access more, with the next number, and one more in its counter. -/
theorem counted_push {t : State} {k w : Nat} {wp : Warp} (c : Counter) (ac : Access) (hw : warpAt t k w = some wp) :
    (pushAccess (t.modWarp k w fun wp => wp.countUp c) k ac).mem = t.mem ∧
    warpAt (pushAccess (t.modWarp k w fun wp => wp.countUp c) k ac) k w = some (wp.countUp c) ∧
    ∃ ac', (coreAt (pushAccess (t.modWarp k w fun wp => wp.countUp c) k ac) k).inflight = (coreAt t k).inflight ++ [ac'] ∧
      ac'.id = (coreAt t k).nextId ∧ (coreAt (pushAccess (t.modWarp k w fun wp => wp.countUp c) k ac) k).nextId = (coreAt t k).nextId + 1 ∧
      ac'.kind = ac.kind ∧ ac'.dest = ac.dest ∧ ac'.did = ac.did ∧ ac'.parts.map LinePart.line = ac.parts.map LinePart.line := by
  have hcore : coreAt (t.modWarp k w fun wp => wp.countUp c) k =
      { coreAt t k with warps := AMap.modify (coreAt t k).warps w fun wp => wp.countUp c } := coreAt_modCore _ _ _
  obtain ⟨ps, ls, hin, hps, hid, hmem, hwarps⟩ := pushAccess_inflight (t.modWarp k w fun wp => wp.countUp c) k ac
  rw [hcore] at hin hid hwarps
  refine ⟨hmem, ?_, _, hin, rfl, hid, rfl, rfl, rfl, ?_⟩
  · rw [warpAt] at hw ⊢
    rw [hwarps]
    simp [AMap.get?_modify, hw]
  · rw [hps, tagParts_lines]

theorem countUp_counts (wp : Warp) (c : Counter) : (wp.countUp c).vregs = wp.vregs ∧ (wp.countUp c).sregs = wp.sregs := by cases c <;> exact ⟨rfl, rfl⟩

/-- What a load on the path leaves (R88, R217). -/
theorem startLoad_spec {s : State} {x : Ctx} (hx : ctxOf s = some x) (dest : Dest) (lanes : List LaneAcc) (l1 : Bool) (hit : Option Nat) :
    let t := startLoad x .load dest lanes l1 hit
    t.mem = s.mem ∧ (warpAt t x.k x.w).map (fun wp => (wp.lc, wp.sc, wp.ec, wp.vregs, wp.sregs)) = some (x.wp.lc + 1, x.wp.sc, x.wp.ec, x.wp.vregs, x.wp.sregs) ∧
    ∃ ac, (coreAt t x.k).inflight = x.c.inflight ++ [ac] ∧ ac.id = x.c.nextId ∧ (coreAt t x.k).nextId = x.c.nextId + 1 ∧
      ac.kind = .load ∧ ac.dest = dest ∧ ac.did = x.did ∧ ac.parts.map LinePart.line = risingNat (lanes.map fun la => la.pa / 128) := by
  obtain ⟨hs, -, -, -, hc, hw, -⟩ := ctxOf_some hx
  obtain ⟨hm1, hm2⟩ := markRead_cores x.s x.wp.tree (lanes.map fun la => la.pa)
  let read := markRead x.s x.wp.tree (lanes.map fun la => la.pa)
  let parts := (linesOf lanes).map fun (ln, qs) => loadPart x l1 ln qs
  let touch := fun c : Core => parts.foldl (fun c p => if p.hits.isEmpty then c else l1Touch c x.did p.line) c
  have hread : coreAt read x.k = x.c := by rw [hc, ← hs, coreAt, coreAt, hm1]
  have htouch : coreAt (read.modCore x.k touch) x.k = touch x.c := by rw [coreAt_modCore, hread]
  obtain ⟨h1, h2, h3, -⟩ := foldl_touch x.did parts x.c
  have hwt : warpAt (read.modCore x.k touch) x.k x.w = some x.wp := by
    rw [warpAt, htouch, h1, hc]
    exact hw
  obtain ⟨hmem, hwp, ac, hin, hid, hnext, hk, hd, hdid, hl⟩ := counted_push .lc
    { id := 0, w := x.w, g := x.g, warpAge := x.wp.age, did := x.did, kind := .load, dest := dest, mode := x.mode, lanes := lanes, parts := parts, watch := hit } hwt
  rw [htouch] at hin hid hnext
  refine ⟨hmem.trans (hm2.trans (congrArg State.mem hs)), ?_, ac, hin.trans (by rw [h2]), hid.trans h3, hnext.trans (by rw [h3]), hk, hd, hdid,
    hl.trans (loadParts_lines x lanes l1)⟩
  exact (congrArg _ hwp).trans rfl

/-- The loads' rows issue (R86, R183). -/
theorem loads_issue (s : State) (x : Ctx) (d a : Reg) (off : BitVec 8) (hx : ctxOf s = some x) : ∀ r ∈ loadRows d a off,
    let size := r.2.2.1
    let va := effAddr x a off size
    let lanes := (lanesOf x.active).map fun l => { lane := l, pa := keyFor x (va l), va := va l, size := size : LaneAcc }
    let l1 := decide (r.2.2.2.2.1 = .load)
    let hit := watchHit x false 0 ((lanesOf x.active).map fun l => ((va l).toNat, size))
    Issues x { op := r.2.1, classes := Reg.addrPair a && Reg.vz d, more := [(a, 2)], writes := [(d, r.2.2.2.1)] } →
    (x.active = 0 → Answers (exec r.1 s) x x.s (nextSlot x.gn.pc)) ∧
    (x.active ≠ 0 →
      checkAccess x { size := size, write := false, kindDetail := r.2.2.2.2.2 } false x.active va (fun _ => false) (fun k => l1 && hitsL1 x k) = .ok () →
      Goes x .lc lanes (fun _ => false) →
      Sent (exec r.1 s) x (startLoad x r.2.2.2.2.1 (destFor d r.2.2.2.1 x.t.isSigned) lanes l1 hit) hit) := by
  simp only [loadRows, List.forall_mem_cons, List.not_mem_nil, false_implies, implies_true, and_true]
  repeat' apply And.intro
  all_goals exact fun h => ⟨fun ha => vectorLoad_idle hx h ha, fun ha hacc hgo => vectorLoad_sent hx h ha hacc hgo⟩

/-! ## Stores -/

/-- The form of a per-lane store. -/
abbrev storeForm (op n : Nat) (ok : Bool) (d a : Reg) : Form := { op := op, classes := Reg.addrPair a && ok, more := [(a, 2), (d, n)] }

theorem vectorStore_idle {s : State} {x : Ctx} {op size n : Nat} {dOk : Reg → Bool} {d a : Reg} {off : BitVec 8} (hx : ctxOf s = some x)
    (h : Issues x (storeForm op n (dOk d) d a)) (ha : x.active = 0) : Answers (vectorStore op size n dOk d a off s) x x.s (nextSlot x.gn.pc) := by
  refine run_checkedMem_answers (f := storeForm op n (dOk d) d a) (r := fun _ => 0) hx h ?_
  dsimp only
  rw [checkMem_of_issues h, except_ok_bind, if_pos ha]
  rfl

theorem vectorStore_sent {s : State} {x : Ctx} {op size n : Nat} {dOk : Reg → Bool} {d a : Reg} {off : BitVec 8} (hx : ctxOf s = some x)
    (h : Issues x (storeForm op n (dOk d) d a)) (ha : x.active ≠ 0) :
    let va := effAddr x a off size
    let lanes := (lanesOf x.active).map fun l => { lane := l, pa := keyFor x (va l), size := size, val := BitVec.ofNat 128 (storeData x d size l) : LaneAcc }
    let hit := watchHit x false 1 ((lanesOf x.active).map fun l => ((va l).toNat, size))
    checkAccess x { size := size, write := true } false x.active va (coversLine lanes) (fun _ => false) = .ok () →
    Goes x .sc lanes (fun _ => false) → Sent (vectorStore op size n dOk d a off s) x (startStore x lanes hit) hit := by
  intro va lanes hit hacc hgo
  obtain ⟨hc, hh, hb⟩ := goes_eqs hgo
  refine run_checked_sent hx h (startStore_gangs _ _ _ _ _ _) ?_
  dsimp only
  rw [checkMem_of_issues h, except_ok_bind, if_neg ha, hacc, hc, hh, hb]
  rfl

/-- What a store on the path leaves (R88, R216, R217). -/
theorem startStore_spec {s : State} {x : Ctx} (hx : ctxOf s = some x) (lanes : List LaneAcc) (hit : Option Nat) :
    let t := startStore x lanes hit
    t.mem = s.mem ∧ (warpAt t x.k x.w).map (fun wp => (wp.lc, wp.sc, wp.ec, wp.vregs, wp.sregs)) = some (x.wp.lc, x.wp.sc + 1, x.wp.ec, x.wp.vregs, x.wp.sregs) ∧
    (coreAt t x.k).inflight.length = x.c.inflight.length + 1 ∧
    ∃ ac, (coreAt t x.k).inflight.getLast? = some ac ∧ ac.id = x.c.nextId ∧ ac.kind = .store ∧ ac.did = x.did ∧
      ac.parts.map LinePart.line = risingNat (lanes.map fun la => la.pa / 128) := by
  obtain ⟨hs, -, -, -, hc, hw, -⟩ := ctxOf_some hx
  let store := fun c : Core => lanes.foldl (fun c la => storeLane c x.did la) (overtake c x.w x.wp.age lanes)
  let marked := if x.world then markTensors (x.s.modCore x.k store) (lanes.map fun la => la.pa) else x.s.modCore x.k store
  have hcores : marked.cores = (x.s.modCore x.k store).cores ∧ marked.mem = s.mem := by
    simp only [marked]
    split
    · obtain ⟨h1, h2⟩ := markTensors_keeps (lanes.map fun la => la.pa) (x.s.modCore x.k store)
      exact ⟨h1, h2.trans (hs ▸ rfl)⟩
    · exact ⟨rfl, hs ▸ rfl⟩
  have hcore : coreAt marked x.k = store x.c := by
    rw [coreAt, hcores.1, hc, ← hs]
    exact coreAt_modCore _ _ _
  obtain ⟨h1, h2, h3⟩ := foldl_storeLane x.did lanes (overtake x.c x.w x.wp.age lanes)
  have hlen : (store x.c).inflight.length = x.c.inflight.length := h3.trans (by simp [overtake, mapIf])
  have hwt : warpAt marked x.k x.w = some x.wp := by
    rw [warpAt, hcore, h1, ← hw, hc]
    rfl
  obtain ⟨hmem, hwp, ac, hin, hid, -, hk, -, hdid, hl⟩ := counted_push .sc
    { id := 0, w := x.w, g := x.g, warpAge := x.wp.age, did := x.did, kind := .store, mode := x.mode, lanes := lanes,
      parts := (linesOf lanes).map fun (ln, qs) => { line := ln, sectors := qs : LinePart }, watch := hit } hwt
  rw [hcore] at hin hid
  refine ⟨hmem.trans hcores.2, (congrArg _ hwp).trans rfl, ?_, ac, ?_, hid.trans h2, hk, hdid, hl.trans ?_⟩
  · exact (congrArg List.length hin).trans (by rw [List.length_append, hlen]; rfl)
  · exact (congrArg List.getLast? hin).trans (by simp)
  · simp only [linesOf, List.map_map]
    exact List.map_id' _

/-- Settles O27. -/
theorem loadsIssue : Obligations.LoadsIssue :=
  ⟨fun s x d a off hx => loads_issue s x d a off hx, fun _ _ dest lanes l1 hit hx => ⟨startLoad_spec hx dest lanes l1 hit, startStore_spec hx lanes hit⟩⟩

/-- Settles O28. -/
theorem storesIssue : Obligations.StoresIssue := by
  intro s x d a off hx
  simp only [storeRows, List.forall_mem_cons, List.not_mem_nil, false_implies, implies_true, and_true]
  refine ⟨fun h => ⟨fun ha => ?_, fun ha hacc hgo => ?_⟩, fun h => ⟨fun ha => ?_, fun ha hacc hgo => ?_⟩, fun h => ⟨fun ha => ?_, fun ha hacc hgo => ?_⟩,
    fun h => ⟨fun ha => ?_, fun ha hacc hgo => ?_⟩, fun h => ⟨fun ha => ?_, fun ha hacc hgo => ?_⟩⟩
  · exact vectorStore_idle (dOk := Reg.any) hx h ha
  · exact vectorStore_sent (dOk := Reg.any) hx h ha hacc hgo
  · exact vectorStore_idle (dOk := Reg.any) hx h ha
  · exact vectorStore_sent (dOk := Reg.any) hx h ha hacc hgo
  · exact vectorStore_idle (dOk := Reg.any) hx h ha
  · exact vectorStore_sent (dOk := Reg.any) hx h ha hacc hgo
  · exact vectorStore_idle (dOk := fun r => Reg.vz r || Reg.isS r) hx h ha
  · exact vectorStore_sent (dOk := fun r => Reg.vz r || Reg.isS r) hx h ha hacc hgo
  · exact vectorStore_idle (dOk := Reg.vz) hx h ha
  · exact vectorStore_sent (dOk := Reg.vz) hx h ha hacc hgo

end Sys2Proof.Machine

/-! SUPPORT. SLD, SST, PREF, the scratchpad accesses and the atomics (R91, R179 to R190). -/

namespace Sys2Proof.Machine

open Sys2Proof.Safety

/-! ## Scalar accesses (R91) -/

/-- The forms of SLD and SST. -/
abbrev sldForm (x : Ctx) (d a : Reg) : Form :=
  { op := 0x70, classes := Reg.spair a && Reg.sz d, more := [(a, 2)], writes := [(d, x.width)], guard := false, once := true }
abbrev sstForm (x : Ctx) (d a : Reg) : Form :=
  { op := 0x71, classes := Reg.spair a && Reg.sz d, more := [(a, 2), (d, x.width)], guard := false, once := true }

theorem sld_sent {s : State} {x : Ctx} {d a : Reg} {off : BitVec 8} (hx : ctxOf s = some x) (h : Issues x (sldForm x d a)) :
    let va := scalarAddr x a off
    let lanes : List LaneAcc := [{ lane := 0, pa := keyFor x va, va := va, size := 4 * x.width }]
    let hit := watchHit x false 0 [(va.toNat, 4 * x.width)]
    checkAccess x { size := 4 * x.width, write := false } true 1 (fun _ => va) (fun _ => false) (hitsL1 x) = .ok () → Goes x .lc lanes (fun _ => false) →
    Sent (exec (.sld d a off) s) x (startLoad x .load (destFor d x.width false) lanes true hit) hit := by
  intro va lanes hit hacc hgo
  obtain ⟨hc, hh, hb⟩ := goes_eqs hgo
  refine run_checked_sent hx h (startLoad_gangs _ _ _ _ _ _ _ _ _) ?_
  dsimp only
  rw [checkMem_of_issues h, except_ok_bind, hacc, hc, hh, hb]
  rfl

theorem sst_sent {s : State} {x : Ctx} {d a : Reg} {off : BitVec 8} (hx : ctxOf s = some x) (h : Issues x (sstForm x d a)) :
    let va := scalarAddr x a off
    let lanes : List LaneAcc := [{ lane := 0, pa := keyFor x va, size := 4 * x.width, val := BitVec.ofNat 128 (x.scal d) }]
    let hit := watchHit x false 1 [(va.toNat, 4 * x.width)]
    checkAccess x { size := 4 * x.width, write := true } true 1 (fun _ => va) (coversLine lanes) (fun _ => false) = .ok () → Goes x .sc lanes (fun _ => false) →
    Sent (exec (.sst d a off) s) x (startStore x lanes hit) hit := by
  intro va lanes hit hacc hgo
  obtain ⟨hc, hh, hb⟩ := goes_eqs hgo
  refine run_checked_sent hx h (startStore_gangs _ _ _ _ _ _) ?_
  dsimp only
  rw [checkMem_of_issues h, except_ok_bind, hacc, hc, hh, hb]
  rfl

/-! ## Prefetch (R184) -/

/-- The form of PREF. -/
abbrev prefForm (h : BitVec 8) (a : Reg) : Form := { op := 0x73, classes := Reg.addrPair a && decide (h.toNat < 2), more := [(a, 2)] }

/-- What PREF asks for where every lane's line passes. -/
def prefMisses (x : Ctx) (a : Reg) (off : BitVec 8) : List LaneAcc :=
  ((risingNat ((lanesOf x.active).map fun l => keyFor x (prefAddr x a off l) / 128)).flatMap fun ln =>
    (List.range 4).map fun q => { lane := 0, pa := 128 * ln + 32 * q, size := 32 : LaneAcc }).filter fun la => !hitsL1 x la.pa

/-- PREF whose lines pass: it sends what is not in the L1, or only goes on. -/
theorem pref_runs {s : State} {x : Ctx} {h : BitVec 8} {a : Reg} {off : BitVec 8} (hx : ctxOf s = some x) (hi : Issues x (prefForm h a))
    (hok : ∀ l ∈ lanesOf x.active, prefOk x (prefAddr x a off l) = true)
    (hm : laneWhere x.active (fun l => decide (tlbLook x.c x.did (prefAddr x a off l) = .miss)) = 0) :
    exec (.pref h a off) s = .next (
      if h ≠ 0 || (prefMisses x a off).isEmpty || decide (wayMask x.k x.c x.did = 0) then retire x (prefForm h a) x.s
      else retire x (prefForm h a) (startLoad x .pref .none (prefMisses x a off) true none)) := by
  have hall : (lanesOf x.active).filter (fun l => prefOk x (prefAddr x a off l)) = lanesOf x.active := List.filter_eq_self.mpr hok
  have hnone : (lanesOf x.active).filter (fun l => !prefOk x (prefAddr x a off l)) = [] := List.filter_eq_nil_iff.mpr fun l hl => by simp [hok l hl]
  refine run_checked hx hi ?_
  simp only [hm, ne_eq, not_true_eq_false, if_false, hall, hnone, List.foldl_nil]
  rw [apply_ite pure]
  rfl

/-- Settles O29. -/
theorem scalarAccessIssue : Obligations.ScalarAccessIssue := by
  intro s x d a off hx
  refine ⟨⟨fun h hacc hgo => sld_sent hx h hacc hgo, fun h hacc hgo => sst_sent hx h hacc hgo⟩, fun h hi hok hm => ⟨fun hn => ?quiet, fun h0 hne hw => ?asks⟩⟩
  case quiet =>
    rw [pref_runs hx hi hok hm, if_pos]
    · exact retire_answers _ _ _ hi.running
    · rcases hn with hn | hn
      · rw [decide_eq_true hn, Bool.true_or, Bool.true_or]
      · rw [show prefMisses x a off = [] from hn]
        simp
  case asks =>
    have hne' : (prefMisses x a off).isEmpty = false := by
      rw [Bool.eq_false_iff]
      exact fun hc => hne (List.isEmpty_iff.mp hc)
    rw [pref_runs hx hi hok hm, if_neg]
    · exact retire_answers _ _ _ hi.running
    · simp [h0, hne', hw]

/-! ## Scratchpad accesses (R179 to R182) -/

section
variable {x : Ctx} {size : Nat} {ea : Nat → Nat}
  (hea : ∀ l ∈ lanesOf x.active, ea l % size = 0 ∧ viewOk x.k x.c x.wp.view (ea l) size = true ∧ viewScrubbing x.c x.wp.view (ea l) size = false)
include hea

/-- The checks of R180 pass. -/
theorem checkScratch_ok : checkScratch x size ea = .ok () := by
  have hs : (lanesOf x.active).any (fun l => viewScrubbing x.c x.wp.view (ea l) size) = false :=
    List.any_eq_false.mpr fun l hl => by simp [(hea l hl).2.2]
  unfold checkScratch
  dsimp only
  rw [need_laneWhere _ fun l hl => by simp [(hea l hl).1], need_laneWhere _ fun l hl => by simp [(hea l hl).2.1], hs]
  rfl

end

/-- The form of a scratchpad load and of a store. -/
abbrev ldsForm (op n : Nat) (d a : Reg) : Form := { op := op, classes := Reg.vz d, more := [(a, 1)], writes := [(d, n)] }
abbrev stsForm (op n : Nat) (ok : Bool) (d a : Reg) : Form := { op := op, classes := ok, more := [(a, 1), (d, n)] }

section
variable {s : State} {x : Ctx} {op size n : Nat} {d a : Reg} {off : BitVec 8} (hx : ctxOf s = some x)
  (hea : ∀ l ∈ lanesOf x.active, scratchEa x a off size l % size = 0 ∧ viewOk x.k x.c x.wp.view (scratchEa x a off size l) size = true ∧
    viewScrubbing x.c x.wp.view (scratchEa x a off size l) size = false)
include hx hea

/-- A scratchpad load reads at issue, to land later. -/
theorem scratchLoad_answers (h : Issues x (ldsForm op n d a)) (hw : watchHit x true 0 ((lanesOf x.active).map fun l => (scratchEa x a off size l, size)) = none) :
    Answers (scratchLoad op size n d a off s) x (if x.active = 0 then x.s else pushAccess x.s x.k
      { id := 0, w := x.w, g := x.g, warpAge := x.wp.age, did := x.did, kind := .lds, dest := destFor d n false, mode := x.mode,
        lanes := (lanesOf x.active).map fun l =>
          { lane := l, pa := x.wp.view.at (scratchEa x a off size l), size := size,
            val := BitVec.ofNat 128 (scratchNat x.c (x.wp.view.at (scratchEa x a off size l)) size), done := true,
            poison := scratchBad x.c (x.wp.view.at (scratchEa x a off size l)) size : LaneAcc } }) (nextSlot x.gn.pc) := by
  refine run_checkedMem_answers (f := ldsForm op n d a) (r := fun _ => 0) hx h ?_
  dsimp only
  rw [checkMem_of_issues h, except_ok_bind, checkScratch_ok hea, hw]
  by_cases h0 : x.active = 0
  · rw [if_pos h0, if_pos h0]
    rfl
  · rw [if_neg h0, if_neg h0]
    rfl

/-- A scratchpad store is performed at issue. -/
theorem scratchStore_answers {dOk : Reg → Bool} (h : Issues x (stsForm op n (dOk d) d a))
    (hw : watchHit x true 1 ((lanesOf x.active).map fun l => (scratchEa x a off size l, size)) = none) :
    Answers (scratchStore op size n dOk d a off s) x (if x.active = 0 then x.s else x.s.modCore x.k fun c =>
      (lanesOf x.active).foldl (fun c l => scratchPutNat c (x.wp.view.at (scratchEa x a off size l)) size (storeData x d size l)) c) (nextSlot x.gn.pc) := by
  refine run_checkedMem_answers (f := stsForm op n (dOk d) d a) (r := fun _ => 0) hx h ?_
  dsimp only
  rw [checkMem_of_issues h, except_ok_bind, checkScratch_ok hea, hw]
  by_cases h0 : x.active = 0
  · rw [if_pos h0, if_pos h0]
    rfl
  · rw [if_neg h0, if_neg h0]
    rfl

end

/-- Settles O30. -/
theorem scratchpadAccesses : Obligations.ScratchpadAccesses := by
  intro s x d a off hx size n ea at_ hea
  refine ⟨?loads, ?stores⟩
  case loads =>
    simp only [List.forall_mem_cons, List.not_mem_nil, false_implies, implies_true, and_true]
    repeat' apply And.intro
    all_goals
      rintro ⟨rfl, rfl⟩ h hw
      exact scratchLoad_answers hx hea h hw
  case stores =>
    simp only [List.forall_mem_cons, List.not_mem_nil, false_implies, implies_true, and_true]
    refine ⟨?_, ?_, ?_⟩
    · rintro rfl rfl h hw
      exact scratchStore_answers (dOk := Reg.any) hx hea h hw
    · rintro rfl rfl h hw
      exact scratchStore_answers (dOk := fun r => Reg.vz r || Reg.isS r) hx hea h hw
    · rintro rfl rfl h hw
      exact scratchStore_answers (dOk := Reg.vz) hx hea h hw

/-! ## Atomics (R185 to R190) -/

/-- The form of a returning atomic. -/
abbrev fetchForm (x : Ctx) (op : Nat) (cas : Bool) (d a b : Reg) : Form :=
  { atomForm x op (if cas then Reg.isV d else Reg.vz d) a b with
    writes := [(d, x.width)], more := if cas then (atomForm x op (if cas then Reg.isV d else Reg.vz d) a b).more ++ [(d, x.width)] else (atomForm x op (if cas then Reg.isV d else Reg.vz d) a b).more }

/-- A returning atomic whose access may go stands on the path. -/
theorem fetchOp_sent {s : State} {x : Ctx} {op : Nat} {aop : AtomOp} {d a b : Reg} (hx : ctxOf s = some x) (ha : x.active ≠ 0) (hc : checkAtomic x a = .ok ())
    (h : Issues x (fetchForm x op (decide (aop = .cas)) d a b)) :
    let lanes := atomLanes x a b fun l => if decide (aop = .cas) then opD x d l else 0
    let hit := atomHit x a
    Goes x .lc lanes (fun _ => false) →
    Sent (fetchOp op aop d a b s) x (pushAccess ((x.s.modCore x.k fun c =>
        overtake (l1Drop c (some x.did) (lanes.map fun la => la.pa / 32).contains) x.w x.wp.age lanes).modWarp x.k x.w fun wp => wp.countUp .lc) x.k
      { id := 0, w := x.w, g := x.g, warpAge := x.wp.age, did := x.did, kind := .atomic aop, dest := destFor d x.width false, mode := x.mode,
        lanes := lanes, watch := hit }) hit := by
  intro lanes hit hgo
  obtain ⟨hn, hh, hb⟩ := goes_eqs hgo
  refine run_checked_sent hx h ?gang ?body
  case gang =>
    rw [pushAccess_gangs, gangAt_modWarp (fun wp => countUp_gangs wp _), gangAt_modCore rfl]
  case body =>
    dsimp only
    rw [checkMem_of_issues h, except_ok_bind, if_neg ha, hc, hn, hh, hb]
    rfl

/-- Entering the combining buffer keeps the warps. -/
theorem foldl_enterBuffer_warps (x : Ctx) (op : AtomOp) (id : Nat) (lanes : List LaneAcc) (c : Core) :
    (lanes.foldl (enterBuffer x op id) c).warps = c.warps := by
  induction lanes generalizing c with
  | nil => rfl
  | cons la lanes ih =>
    rw [List.foldl_cons, ih, enterBuffer]
    dsimp only
    split <;> rfl

/-- RED whose access may go: under saturation to the path, else into the combining buffer too (R190). -/
theorem red_sent {s : State} {x : Ctx} {op : BitVec 8} {a b : Reg} (hx : ctxOf s = some x) (ha : x.active ≠ 0) (hc : checkAtomic x a = .ok ())
    (h : Issues x (atomForm x 0x7C (decide (op.toNat < 6)) a b)) :
    let lanes := atomLanes x a b fun _ => 0
    let aop := redOp op.toNat
    let hit := atomHit x a
    let sat := modeSat x.mode
    let pushed := pushAccess ((x.s.modCore x.k fun c => overtake c x.w x.wp.age lanes).modWarp x.k x.w fun wp => wp.countUp .sc) x.k
      { id := 0, w := x.w, g := x.g, warpAge := x.wp.age, did := x.did, kind := if sat then .red aop else .gathered, mode := x.mode, lanes := lanes, watch := hit }
    Goes x .sc lanes (fun e => !sat && e.sameKey x aop) → sat = true ∨ bufferUse x.c + newEntries x aop lanes ≤ 64 →
    Sent (exec (.red op a b) s) x (if sat then pushed else pushed.modCore x.k fun c => lanes.foldl (enterBuffer x aop x.c.nextId) c) hit := by
  intro lanes aop hit sat pushed hgo hroom
  obtain ⟨hn, hh, hb⟩ := goes_eqs hgo
  have hgang : gangAt pushed x.k x.w x.g = gangAt x.s x.k x.w x.g := by
    rw [pushAccess_gangs, gangAt_modWarp (fun wp => countUp_gangs wp _), gangAt_modCore rfl]
  have hfull : (!sat && decide (64 < bufferUse x.c + newEntries x aop lanes)) = false := by
    rcases hroom with h | h
    · rw [h]; rfl
    · rw [decide_eq_false (Nat.not_lt.mpr h), Bool.and_false]
  refine run_checked_sent hx h ?gang ?body
  case gang =>
    split
    · exact hgang
    · rw [gangAt_modCore (foldl_enterBuffer_warps x aop _ lanes _), hgang]
  case body =>
    dsimp only
    rw [checkMem_of_issues h, except_ok_bind, if_neg ha, hc, hn, hh, hb, hfull]
    rfl

/-- Settles O31. -/
theorem atomicsIssue : Obligations.AtomicsIssue := by
  intro s x d a b hx ha hc
  refine ⟨?fetch, fun op => ?red⟩
  case fetch =>
    simp only [List.forall_mem_cons, List.not_mem_nil, false_implies, implies_true, and_true]
    repeat' apply And.intro
    all_goals exact fun h hgo => fetchOp_sent hx ha hc h hgo
  case red =>
    intro lanes aop hit ac sent h hgo
    refine ⟨fun hs => ?_, fun hs hroom => ?_⟩
    · have := red_sent hx ha hc h hgo (.inl hs)
      simpa only [hs, if_true] using this
    · have := red_sent hx ha hc h hgo (.inr hroom)
      simpa only [hs, Bool.false_eq_true, if_false] using this

/-! ## The checks of R87 in their order -/

/-- A failed check over lanes. -/
theorem need_fails {m : Mask} {t : Trap} (h : m ≠ 0) : need (decide (m = 0)) t = .error (.trap t) := by
  rw [decide_eq_false h]
  rfl

theorem need_passes {m : Mask} {t : Trap} (h : m = 0) : need (decide (m = 0)) t = .ok () := by
  rw [decide_eq_true h]
  rfl

end Sys2Proof.Machine

/-! SUPPORT. The checks of R87 in their order. -/

namespace Sys2Proof.Machine

open Sys2Proof.Safety

/-- A check over lanes, and what follows it. -/
theorem need_bind {m : Mask} {t : Trap} {α : Type} (k : Unit → Except Stop α) :
    (need (decide (m = 0)) t >>= k) = if m ≠ 0 then .error (.trap t) else k () := by
  by_cases h : m = 0
  · rw [need_passes h, if_neg (not_not.mpr h), except_ok_bind]
  · rw [need_fails h, if_pos h]
    rfl

theorem need_eq {m : Mask} {t : Trap} : need (decide (m = 0)) t = if m ≠ 0 then .error (.trap t) else .ok () := need_bind Except.ok ▸ (bind_pure _).symm

/-- A step of R87: the fault of the lanes that fail it. -/
def accessFault (whole : Bool) (va : Nat → DWord) (bad : Mask) (cause detail : Nat) : Trap :=
  { cause := cause, detail := detail, lanes := if whole then none else some bad, addr := va (firstLane bad) }

section
variable (x : Ctx) (ask : Ask) (whole : Bool) (lanes : Mask) (va : Nat → DWord) (line l1 : Nat → Bool)

/-- The lanes that fail each step: alignment, translation, the page, its owner, a store to the cistern. -/
def askewLanes : Mask := laneWhere lanes fun l => decide ((va l).toNat % ask.size ≠ 0)
def missingLanes : Mask := laneWhere lanes fun l => decide (tlbLook x.c x.did (va l) = .miss)
def thirdStep (l : Nat) : Option Nat := step3 x.s x.c x.part x.did x.wp.tree ask line l1 (va l)
def badLanes : Mask := laneWhere lanes fun l => (thirdStep x ask va line l1 l).isSome
def foreignLanes : Mask := laneWhere lanes fun l => match tlbLook x.c x.did (va l) with | .refused c _ => decide (c = 0x09) | _ => false
def cisternLanes : Mask :=
  laneWhere lanes fun l => match tlbLook x.c x.did (va l) with | .hit e => ask.write && decide (paKind (e.paOf (va l)) = 1) | _ => false

/-- The checks, step by step. -/
theorem checkAccess_eq : checkAccess x ask whole lanes va line l1 =
    if askewLanes ask lanes va ≠ 0 then .error (.trap (accessFault whole va (askewLanes ask lanes va) 0x0A 0))
    else if missingLanes x lanes va ≠ 0 then .error (.miss x.did ((lanesOf (missingLanes x lanes va)).map va))
    else if badLanes x ask lanes va line l1 ≠ 0 then .error (.trap (accessFault whole va (badLanes x ask lanes va line l1) 0x08
      ((thirdStep x ask va line l1 (firstLane (badLanes x ask lanes va line l1))).getD 0)))
    else if foreignLanes x lanes va ≠ 0 then .error (.trap (accessFault whole va (foreignLanes x lanes va) 0x09 2))
    else if cisternLanes x ask lanes va ≠ 0 then .error (.trap (accessFault whole va (cisternLanes x ask lanes va) 0x10 0))
    else .ok () := by
  have hc : cisternLanes x ask lanes va = laneWhere lanes fun l => ask.write && (match entryFor x.c x.did (va l) with
      | some e => decide (paKind (e.paOf (va l)) = 1)
      | none => false) := laneWhere_congr fun l _ => by
    unfold entryFor
    cases tlbLook x.c x.did (va l) <;> simp
  have hdo : checkAccess x ask whole lanes va line l1 =
      (need (decide (askewLanes ask lanes va = 0)) (accessFault whole va (askewLanes ask lanes va) 0x0A 0) >>= fun _ =>
        if missingLanes x lanes va ≠ 0 then .error (.miss x.did ((lanesOf (missingLanes x lanes va)).map va))
        else need (decide (badLanes x ask lanes va line l1 = 0)) (accessFault whole va (badLanes x ask lanes va line l1) 0x08
            ((thirdStep x ask va line l1 (firstLane (badLanes x ask lanes va line l1))).getD 0)) >>= fun _ =>
          need (decide (foreignLanes x lanes va = 0)) (accessFault whole va (foreignLanes x lanes va) 0x09 2) >>= fun _ =>
            need (decide (cisternLanes x ask lanes va = 0)) (accessFault whole va (cisternLanes x ask lanes va) 0x10 0)) := by
    rw [hc]
    rfl
  rw [hdo, need_bind, need_bind, need_bind, need_eq]

theorem step3_notCanonical {va : DWord} (h : canonical va = false) : step3 x.s x.c x.part x.did x.wp.tree ask line l1 va = some 9 := by
  simp [step3, tlbLook, h]

theorem step3_refused {va : DWord} {d : Nat} (h : tlbLook x.c x.did va = .refused 0x08 d) : step3 x.s x.c x.part x.did x.wp.tree ask line l1 va = some d := by
  simp [step3, h]

/-- On a page that an entry translates, a store needs the page writable or of a cistern kind (R87 step 3). -/
theorem step3_hit {va : DWord} {e : TlbEntry} (h : tlbLook x.c x.did va = .hit e)
    (hk : ask.kindDetail (paKind (boundKey x.s x.part x.wp.tree (e.paOf va))) = none) (hw : worldOf x.c x.did = false) :
    step3 x.s x.c x.part x.did x.wp.tree ask line l1 va =
      if ask.write ∧ e.w = false ∧ paKind (boundKey x.s x.part x.wp.tree (e.paOf va)) ≠ 1 then some 1 else none := by
  simp only [step3, h, leafFault, hk, hw, Bool.not_false, if_true]
  refine if_congr ?_ rfl rfl
  simp [and_assoc]

end

/-- Settles O32. -/
theorem accessChecks : Obligations.AccessChecks := by
  intro x ask whole lanes va line l1 go stop third askew missing bad foreign cistern
  have hgo := checkAccess_eq x ask whole lanes va line l1
  refine ⟨fun h => hgo.trans (if_pos h), fun h => ?aligned, fun l => ⟨fun hc => step3_notCanonical x ask line l1 hc,
    fun d hd => step3_refused x ask line l1 hd, fun e he hk hw => step3_hit x ask line l1 he hk hw⟩⟩
  replace hgo := hgo.trans (if_neg (not_not.mpr h))
  refine ⟨fun hm => hgo.trans (if_pos hm), fun hm => ?there⟩
  replace hgo := hgo.trans (if_neg (not_not.mpr hm))
  refine ⟨fun d hb hd => (hgo.trans (if_pos hb)).trans ?detail, fun hb => ?pages⟩
  case detail =>
    rw [show thirdStep x ask va line l1 (firstLane (badLanes x ask lanes va line l1)) = some d from hd]
    rfl
  replace hgo := hgo.trans (if_neg (not_not.mpr hb))
  refine ⟨fun hf => hgo.trans (if_pos hf), fun hf => ?owners⟩
  replace hgo := hgo.trans (if_neg (not_not.mpr hf))
  exact ⟨fun hc => hgo.trans (if_pos hc), fun hc => hgo.trans (if_neg (not_not.mpr hc))⟩

end Sys2Proof.Machine

/-! SUPPORT. Barrier objects, their instructions and waits (R196 to R200), and watching a line (R202, R203). -/

namespace Sys2Proof.Machine

open Sys2Proof.Safety

/-! ## Objects -/

theorem checkObject_ok {x : Ctx} {r : Reg} {valid : Bool} {o : Nat} (h : ObjectAt x r valid o) : checkObject x (x.rd 0 r) valid = .ok o := by
  have hv : (!valid || (barAt x.c o).valid) = true := by
    cases hb : valid
    · rfl
    · rw [h.sound hb]; rfl
  rw [h.place] at hv ⊢
  simp only [checkObject, need, h.range, h.aligned, h.view, h.ready, hv, decide_true, Bool.and_self, if_true, Bool.false_eq_true, if_false, except_ok_bind]
  rfl

/-- The fields of an object are within their bits. -/
structure BarObj.Fits (b : BarObj) : Prop where
  phase : b.phase < 2 ^ 16
  expected : b.expected < 2 ^ 16
  arrivals : b.arrivals < 2 ^ 16
  zero : b.zero < 2 ^ 14
  bexp : b.bexp < 2 ^ 32
  landed : b.landed < 2 ^ 32

/-- An object stored at its place reads back as it was. -/
theorem barAt_putBar (c : Core) (o : Nat) {b : BarObj} (h : b.Fits) : barAt (putBar c o b) o = b := by
  obtain ⟨h1, h2, h3, h4, h5, h6⟩ := h
  have hlt : b.bits < 2 ^ (8 * 16) := by
    simp only [BarObj.bits]
    split <;> split <;> omega
  have hv : scratchNat (putBar c o b) o 16 = b.bits := by
    simp only [scratchNat, putBar, scratchPutNat, scratchPut, cellsNat_cellsWrite]
    exact Nat.mod_eq_of_lt hlt
  obtain ⟨phase, expected, arrivals, error, excess, zeros, bexp, landed⟩ := b
  simp only [barAt, hv, BarObj.bits, bitsN, BarObj.mk.injEq]
  dsimp only at h1 h2 h3 h4 h5 h6
  cases error <;> cases excess <;> simp <;> omega

theorem BarObj.Fits.next {b : BarObj} (h : b.Fits) : b.next.Fits :=
  ⟨Nat.mod_lt _ (by norm_num), h.expected, by simp [BarObj.next], h.zero, by simp [BarObj.next], by simp [BarObj.next]⟩

/-! ## BINIT, BARV and BEXP -/

/-- Settles O33. -/
theorem barrierArrivals : Obligations.BarrierArrivals := by
  intro s x d a b o hx
  refine ⟨fun h ho h1 h2 hw => ?binit, ?barv, ?bexp⟩
  case binit =>
    refine check_retire_answers (g := ?g) (r := ?r) hx h ?body
    case body =>
      simp only [checkObject_ok ho, except_ok_bind, need, h1, h2, hw, List.isEmpty_nil, decide_true, Bool.and_self, if_true]
      rfl
  case barv =>
    intro f ob h ho hle
    refine run_checked hx h ?_
    simp only [ob] at hle
    simp only [checkObject_ok ho, except_ok_bind, need, hle, decide_true, if_true]
    rfl
  case bexp =>
    intro ob h ho hlt
    refine check_retire_answers (g := ?g2) (r := ?r2) hx h ?body2
    case body2 =>
      simp only [ob] at hlt
      simp only [checkObject_ok ho, except_ok_bind, need, hlt, decide_true, if_true]
      rfl

/-! ## The waits -/

/-- Ending a greedy hold keeps all that an issue keeps. -/
theorem advanced_endGreedy {x : Ctx} {s t : State} {pc : DWord} (h : Advanced x s t pc) : Advanced x s (endGreedy t x.k x.w) pc := by
  have hwarps : (coreAt (endGreedy t x.k x.w) x.k).warps = (coreAt t x.k).warps := by rw [endGreedy, coreAt_modCore]
  have hwarp : ∀ w, warpAt (endGreedy t x.k x.w) x.k w = warpAt t x.k w := fun w => by rw [warpAt, hwarps, warpAt]
  have hgang : ∀ g, gangAt (endGreedy t x.k x.w) x.k x.w g = gangAt t x.k x.w g := fun g => gangAt_congr hwarps _ _
  refine ⟨h.rest, fun k hk => ?_, ?_, fun w hw => ?_, ?_, fun g hg => ?_, ?_, fun gn hg => ?_⟩
  · rw [endGreedy, coreAt_modCore_ne _ _ (Ne.symm hk)]
    exact h.cores k hk
  · rw [← h.core, endGreedy, coreAt_modCore]
    rfl
  · rw [hwarp]; exact h.warps w hw
  · rw [hwarp]; exact h.warp
  · rw [hgang]; exact h.gangs g hg
  · rw [hgang]; exact h.gang
  · rw [hgang] at hg; exact h.pc gn hg

theorem gangAt_endGreedy (t : State) (k w g : Nat) : gangAt (endGreedy t k w) k w g = gangAt t k w g := gangAt_modCore rfl _ _ _

/-- The form of BWAITY. -/
abbrev bwaityForm (d a : Reg) : Form := barForm 0x84 (Reg.unif d && Reg.unif a) [(d, 1), (a, 1)] []

/-- BWAITY at once, or waiting; the greedy hold ends in both (R200). -/
theorem bwaity_runs {s : State} {x : Ctx} {d a : Reg} {off : BitVec 8} {o : Nat} (hx : ctxOf s = some x)
    (h : Issues x (bwaityForm d a)) (ho : ObjectAt x d true o) :
    ((barAt x.c o).phase ≠ bitsW (x.rd 0 a) 15 0 → Answers (exec (.bwaity d a off) s) x x.s (relTarget x.gn.pc off.toInt)) ∧
    ((barAt x.c o).phase = bitsW (x.rd 0 a) 15 0 → Waits (exec (.bwaity d a off) s) x x.s
      (.barrier o (BitVec.ofNat 16 (bitsW (x.rd 0 a) 15 0)) (.bwaity (relTarget x.gn.pc off.toInt)) none)) := by
  refine ⟨fun hp => ?other, fun hp => ?same⟩
  case other =>
    refine ⟨_, run_checked (t := endGreedy (retireTo x (bwaityForm d a) x.s _) x.k x.w) hx h ?_, advanced_endGreedy (retireTo_advanced x (bwaityForm d a) x.s _ _ 0 h.running)⟩
    simp only [checkObject_ok ho, except_ok_bind, ne_eq, hp, not_false_eq_true, if_true]
  case same =>
    obtain ⟨t, ht, hadv, hst⟩ := beginWait_waits (x := x) (bwaityForm d a) x.s
      (.barrier o (BitVec.ofNat 16 (bitsW (x.rd 0 a) 15 0)) (.bwaity (relTarget x.gn.pc off.toInt)) none) (pc_of_ctx hx rfl)
    cases ht
    refine ⟨_, run_checked (t := endGreedy (beginWait x (bwaityForm d a) x.s _) x.k x.w) hx h ?_, advanced_endGreedy hadv, fun gn hg => hst gn (by rwa [gangAt_endGreedy] at hg)⟩
    simp only [checkObject_ok ho, except_ok_bind, ne_eq, hp, not_true_eq_false, if_false]

/-- BWAIT at once, or waiting (R200). -/
theorem bwait_runs {s : State} {x : Ctx} {d a b : Reg} {o : Nat} (hx : ctxOf s = some x)
    (h : Issues x (barForm 0x83 (Reg.sz d && Reg.unif a && Reg.unif b) [(a, 1), (b, 1)] [(d, 1)])) (ho : ObjectAt x a true o) :
    ((barAt x.c o).phase ≠ bitsW (x.rd 0 b) 15 0 → Answers (exec (.bwait d a b) s) x (x.setWarp (x.wp.dstS d 1 (barAt x.c o).flags)) (nextSlot x.gn.pc)) ∧
    ((barAt x.c o).phase = bitsW (x.rd 0 b) 15 0 → Waits (exec (.bwait d a b) s) x x.s
      (.barrier o (BitVec.ofNat 16 (bitsW (x.rd 0 b) 15 0)) (.bwait d) none)) := by
  refine ⟨fun hp => check_retire_answers (g := ?g) (r := fun _ => 0) hx h ?other, fun hp => run_checked_waits (g := ?g2) hx h ?same⟩
  case other =>
    simp only [checkObject_ok ho, except_ok_bind, ne_eq, hp, not_false_eq_true, if_true]
    rfl
  case same =>
    simp only [checkObject_ok ho, except_ok_bind, ne_eq, hp, not_true_eq_false, if_false]
    rfl

/-- BWAITT at once, or with limit 0 at once with bit 16, or waiting for its limit (R200). -/
theorem bwaitt_runs {s : State} {x : Ctx} {d a b : Reg} {o : Nat} (hx : ctxOf s = some x)
    (h : Issues x (barForm 0x85 (Reg.sz d && Reg.unif a && Reg.spair b) [(a, 1), (b, 2)] [(d, 1)])) (ho : ObjectAt x a true o) :
    let p := bitsW (loW (x.rd64 0 b)) 15 0
    let limit := (hiW (x.rd64 0 b)).toNat
    ((barAt x.c o).phase ≠ p → Answers (exec (.bwaitt d a b) s) x (x.setWarp (x.wp.dstS d 1 (barAt x.c o).flags)) (nextSlot x.gn.pc)) ∧
    ((barAt x.c o).phase = p → limit = 0 →
      Answers (exec (.bwaitt d a b) s) x (x.setWarp (x.wp.dstS d 1 ((barAt x.c o).flags + 65536))) (nextSlot x.gn.pc)) ∧
    ((barAt x.c o).phase = p → limit ≠ 0 → Waits (exec (.bwaitt d a b) s) x x.s (.barrier o (BitVec.ofNat 16 p) (.bwaitt d) (some limit))) := by
  intro p limit
  refine ⟨fun hp => check_retire_answers (g := ?g) (r := fun _ => 0) hx h ?other, fun hp hl => check_retire_answers (g := ?g2) (r := fun _ => 0) hx h ?once,
    fun hp hl => run_checked_waits (g := ?g3) hx h ?same⟩
  all_goals simp only [p] at hp
  case other =>
    simp only [checkObject_ok ho, except_ok_bind, ne_eq, hp, not_false_eq_true, if_true]
    rfl
  case once =>
    simp only [limit] at hl
    simp only [checkObject_ok ho, except_ok_bind, ne_eq, hp, not_true_eq_false, if_false, hl, if_true]
    rfl
  case same =>
    simp only [limit] at hl
    simp only [checkObject_ok ho, except_ok_bind, ne_eq, hp, not_true_eq_false, if_false, hl]
    rfl

/-- A limit that has run out: the gang goes on with bit 16 (R200). -/
theorem bwaittTimeout_runs {s : State} {k w g o : Nat} {p : BitVec 16} {d : Reg} {gn : Gang} (hg : gangAt s k w g = some gn) (hr : gn.stepping = false)
    (hs : gn.status = .waiting (.barrier o p (.bwaitt d) (some 0))) :
    ∃ t, exec (.bwaittTimeout k w g) s = .next t ∧ t = wake (s.modWarp k w fun wp => wp.dstS d 1 ((barAt (coreAt s k) o).flags + 65536)) k w g ∧
      (gangAt t k w g).map (fun gn => (gn.pc, gn.status)) = some (nextSlot gn.pc, gn.goOn.status) := by
  refine ⟨_, ?_, rfl, ?_⟩
  · show execBwaittTimeout k w g s = _
    rw [execBwaittTimeout, hg]
    dsimp only
    rw [hs]
    rfl
  · have hw := wake_gang ((gangAt_modWarp (k := k) (w := w) (fun wp => dstS_gangs wp d 1 ((barAt (coreAt s k) o).flags + 65536)) k w g).trans hg) hr
    obtain ⟨gn', hgn', he⟩ := Option.map_eq_some_iff.mp hw
    rw [hgn']
    simp only [Prod.mk.injEq] at he
    simp [he.1, he.2.1]

/-- Settles O34. -/
theorem barrierWaits : Obligations.BarrierWaits := by
  refine ⟨⟨fun s k w g o p d gn hg hr hs => bwaittTimeout_runs hg hr hs, fun s x d a b off o hx =>
    ⟨fun h ho => bwait_runs hx h ho, fun h ho => bwaity_runs hx h ho, fun h ho => bwaitt_runs hx h ho⟩⟩, fun s k o b h1 h2 h3 h4 h5 h6 => ?phase⟩
  case phase =>
    have hf : b.Fits := ⟨h1, h2, h3, h4, h5, h6⟩
    refine ⟨fun hc => ?stored, fun hc => ?completed⟩
    case stored =>
      have ht : tryComplete s k o b = s.modCore k fun c => putBar c o b := by rw [tryComplete, hc]; rfl
      exact ⟨ht, by rw [ht, coreAt_modCore, barAt_putBar _ _ hf]⟩
    case completed =>
      intro ob
      have hob : ob = b.next := barAt_putBar _ _ hf.next
      rw [hob]
      exact ⟨rfl, rfl, rfl, rfl, rfl, rfl, rfl, if_pos hc⟩

end Sys2Proof.Machine

/-! SUPPORT. WATCH, WSLEEP and how a sleep ends (R202, R203). -/

namespace Sys2Proof.Machine

open Sys2Proof.Safety

/-- A gang that goes on and is not being single-stepped changes no more than its own state. -/
theorem wake_running {s : State} {k w g : Nat} {gn : Gang} (hg : gangAt s k w g = some gn) (hr : gn.stepping = false) :
    wake s k w g = s.modGang k w g fun h => Gang.goOn { h with pc := nextSlot gn.pc, inBundle := decide (slotNo (nextSlot gn.pc) ≠ 0) } := by
  simp only [wake, hg, wakeTo, hr, Bool.false_and, Bool.false_eq_true, if_false]

/-- A change of a gang keeps its warp's registers. -/
theorem sregs_modGang (s : State) (k w g : Nat) (f : Gang → Gang) : (warpAt (s.modGang k w g f) k w).map Warp.sregs = (warpAt s k w).map Warp.sregs := by
  rw [State.modGang, warpAt_modWarp]
  cases warpAt s k w <;> simp

/-- A sleep that ends: its monitor is disarmed and the gang goes on (R203). -/
theorem endSleep_gang {s : State} {k w g : Nat} {gn : Gang} {d : Reg} {n : Option Nat} (hg : gangAt s k w g = some gn) (hr : gn.stepping = false)
    (hs : gn.status = .waiting (.sleep d n)) (status : Nat) :
    (gangAt (endSleep s { core := k, w := w, g := g } status) k w g).map (fun gn => (gn.pc, gn.status, gn.monitor)) = some (nextSlot gn.pc, gn.goOn.status, none) ∧
    (warpAt (endSleep s { core := k, w := w, g := g } status) k w).map Warp.sregs = (warpAt s k w).map fun wp => (wp.dstS d 1 status).sregs := by
  have hmon : gangAt ((s.modGang k w g fun gn => { gn with monitor := none }).modWarp k w fun wp => wp.dstS d 1 status) k w g = some { gn with monitor := none } := by
    rw [gangAt_modWarp (fun wp => dstS_gangs wp d 1 status), gangAt_modGang, hg]
    rfl
  have hend : endSleep s { core := k, w := w, g := g } status =
      wake ((s.modGang k w g fun gn => { gn with monitor := none }).modWarp k w fun wp => wp.dstS d 1 status) k w g := by
    simp only [endSleep, hg, hs]
  refine ⟨?_, ?_⟩
  · rw [hend, wake_gang hmon hr]
    rfl
  · rw [hend, wake_running hmon hr, sregs_modGang, warpAt_modWarp, State.modGang, warpAt_modWarp, Option.map_map, Option.map_map]
    congr 1
    funext wp
    simp only [Function.comp, if_true]
    cases d <;> rfl

/-- The form of WSLEEP. -/
abbrev wsleepForm (d a : Reg) : Form := { op := 0x87, classes := Reg.sz d && Reg.unif a, more := [(a, 1)], writes := [(d, 1)], guard := false, once := true }

/-- WSLEEP answers by the state of its monitor (R203). -/
theorem wsleep_runs {s : State} {x : Ctx} {d a : Reg} (hx : ctxOf s = some x)
    (h : Issues x (wsleepForm d a)) :
    let done := fun (n : Nat) => (x.setWarp (x.wp.dstS d 1 n)).modGang x.k x.w x.g fun gn => { gn with monitor := none }
    (x.gn.watching.isSome = true → exec (.wsleep d a) s = .next (x.setStatus (.held .register))) ∧
    (x.gn.watching = none → x.gn.monitor = none → Answers (exec (.wsleep d a) s) x (done 3) (nextSlot x.gn.pc)) ∧
    ∀ m, x.gn.watching = none → x.gn.monitor = some m →
      (m.lost = true → Answers (exec (.wsleep d a) s) x (done 4) (nextSlot x.gn.pc)) ∧
      (m.lost = false → m.hit = true → Answers (exec (.wsleep d a) s) x (done 1) (nextSlot x.gn.pc)) ∧
      (m.lost = false → m.hit = false → Waits (exec (.wsleep d a) s) x x.s
        (.sleep d (if (x.rd 0 a).toNat = 0 then none else some (x.rd 0 a).toNat))) := by
  intro done
  refine ⟨fun hw => run_stopped (e := .hold .register) hx ?out, fun hw hm => check_retire_answers (g := wsleepForm d a) (r := fun _ => 0) hx h ?unarmed,
    fun m hw hm => ⟨fun hl => check_retire_answers (g := wsleepForm d a) (r := fun _ => 0) hx h ?lost, fun hl hh => check_retire_answers (g := wsleepForm d a) (r := fun _ => 0) hx h ?hit,
      fun hl hh => run_checked_waits (g := wsleepForm d a) hx h ?sleeps⟩⟩
  case out =>
    simp only [check_of_issues h, except_ok_bind, hw, if_true]
    rfl
  all_goals simp only [hw, hm, Option.isSome_none, Bool.false_eq_true, if_false]
  case unarmed => rfl
  case lost =>
    simp only [hl, if_true]
    rfl
  case hit =>
    simp only [hl, hh, Bool.false_eq_true, if_false, if_true]
    rfl
  case sleeps =>
    simp only [hl, hh, Bool.false_eq_true, if_false]

/-- The form of WATCH. -/
abbrev watchForm (x : Ctx) (d a : Reg) : Form :=
  { op := 0x86, classes := Reg.spair a && Reg.sz d, more := [(a, 2)], writes := [(d, x.width)], guard := false, once := true }

/-- WATCH sends its read and disarms an earlier monitor (R202). -/
theorem watch_sent {s : State} {x : Ctx} {d a : Reg} {off : BitVec 8} (hx : ctxOf s = some x) (h : Issues x (watchForm x d a)) :
    let va := scalarAddr x a off
    let lanes : List LaneAcc := [{ lane := 0, pa := keyFor x va, va := va, size := 4 * x.width }]
    let hit := watchHit x false 0 [(va.toNat, 4 * x.width)]
    checkAccess x { size := 4 * x.width, write := false, kindDetail := fun k => if k = 1 ∨ k = 3 then some 4 else none } true 1 (fun _ => va)
      (fun _ => false) (fun _ => false) = .ok () → Goes x .lc lanes (fun _ => false) →
    Sent (exec (.watch d a off) s) x ((startLoad x .watch (destFor d x.width false) lanes false hit).modGang x.k x.w x.g
      fun gn => { gn with monitor := none, watching := some x.c.nextId }) hit := by
  intro va lanes hit hacc hgo
  obtain ⟨hc, hh, hb⟩ := goes_eqs hgo
  refine run_sent hx h (fun gn hg => ?pc) ?body
  case pc =>
    rw [gangAt_modGang, startLoad_gangs] at hg
    obtain ⟨g0, hg0, rfl⟩ := Option.map_eq_some_iff.mp hg
    exact pc_of_ctx hx rfl g0 hg0
  case body =>
    dsimp only
    rw [checkMem_of_issues h, except_ok_bind, hacc, hc, hh, hb]
    rfl

/-- The home drops a monitor: a sleeper wakes with status 4, any other monitor is lost (R203). -/
theorem monitorDrop_sleeper {s : State} {k w g : Nat} {gn : Gang} {m : Monitor} {d : Reg} {n : Option Nat} (hg : gangAt s k w g = some gn)
    (hm : gn.monitor = some m) (hs : gn.status = .waiting (.sleep d n)) : exec (.monitorDrop k w g) s = .next (endSleep s { core := k, w := w, g := g } 4) := by
  show execMonitorDrop k w g s = _
  simp only [execMonitorDrop, hg, hm, hs]

theorem monitorDrop_awake {s : State} {k w g : Nat} {gn : Gang} {m : Monitor} (hg : gangAt s k w g = some gn) (hm : gn.monitor = some m)
    (hs : ∀ d n, gn.status ≠ .waiting (.sleep d n)) : ∃ t, exec (.monitorDrop k w g) s = .next t ∧
      (gangAt t k w g).map Gang.monitor = some (some { m with lost := true }) ∧ t.mem = s.mem := by
  refine ⟨s.modGang k w g fun gn => { gn with monitor := gn.monitor.map fun m => { m with lost := true } }, ?_, ?_, rfl⟩
  · show execMonitorDrop k w g s = _
    simp only [execMonitorDrop, hg, hm]
  · rw [gangAt_modGang, hg, Option.map_some, Option.map_some, hm]
    rfl

theorem wsleepTimeout_runs {s : State} {k w g : Nat} {gn : Gang} {d : Reg} (hg : gangAt s k w g = some gn) (hs : gn.status = .waiting (.sleep d (some 0))) :
    exec (.wsleepTimeout k w g) s = .next (endSleep s { core := k, w := w, g := g } 2) := by
  show execWsleepTimeout k w g s = _
  simp only [execWsleepTimeout, hg, hs]

/-- Settles O35. -/
theorem watchAndSleep : Obligations.WatchAndSleep := by
  refine ⟨fun s k w g gn hg => ⟨fun m d n hm hs => monitorDrop_sleeper hg hm hs, fun m hm hs => monitorDrop_awake hg hm hs, fun d hs => wsleepTimeout_runs hg hs,
    fun d n status hr hs => ?ends⟩, fun s x d a off hx => ⟨fun h hacc hgo => watch_sent hx h hacc hgo, fun h => wsleep_runs hx h⟩⟩
  case ends =>
    obtain ⟨hgang, hregs⟩ := endSleep_gang hg hr hs status
    refine ⟨hgang, fun r hd => ?_⟩
    subst hd
    cases hw : warpAt s k w with
    | none => simp [gangAt, hw] at hg
    | some wp =>
      rw [hw, Option.map_some] at hregs
      obtain ⟨wp', hwp', hr'⟩ := Option.map_eq_some_iff.mp hregs
      rw [hwp', Option.map_some, Warp.sreg, hr']
      simp [Warp.dstS, Warp.dstN, Warp.setS, AMap.getD_putD]

end Sys2Proof.Machine

/-! SUPPORT. Release, acquire, fences and markers (R92, R205 to R208). -/

namespace Sys2Proof.Machine

open Sys2Proof.Safety

/-! ## What completes a fence -/

section
variable {s : State} {k w g scope mark : Nat} {wp : Warp} {gn : Gang} (hw : warpAt s k w = some wp) (hg : gangAt s k w g = some gn)
include hw hg

/-- The covered writes are done: they are published, and a FENCE goes on to its acquire (R206). -/
theorem relDrainDone_runs {acq : Bool} (hs : gn.status = .waiting (.fence true acq scope mark)) (hr : relReady s k wp.didNow w wp.age scope mark = true) :
    exec (.relDrainDone k w g) s = .next (
      if !acq then wake (publishWrites s k wp.didNow scope) k w g
      else if wp.lc ≠ 0 then (publishWrites s k wp.didNow scope).modGang k w g fun gn => { gn with status := .waiting (.fence false true scope mark) }
      else wake (acquire (publishWrites s k wp.didNow scope) k wp.didNow scope) k w g) := by
  show execRelDrainDone k w g s = _
  simp only [execRelDrainDone, hw, hg, hs, hr, Bool.not_true, Bool.false_eq_true, if_false]
  split
  · rfl
  · split <;> rfl

theorem acqWaitDone_runs (hs : gn.status = .waiting (.fence false true scope mark)) (hl : wp.lc = 0) :
    exec (.acqWaitDone k w g) s = .next (wake (acquire s k wp.didNow scope) k w g) := by
  show execAcqWaitDone k w g s = _
  simp only [execAcqWaitDone, hw, hg, hs, hl, ne_eq, not_true_eq_false, if_false]

end

/-! ## Markers -/

/-- A marker leaves a queue that holds it. -/
def dropMark (k id : Nat) (s : State) (q : EngineQueue) : State :=
  if (queueOf s k q).any fun c => c.isMark k id then s.modQueue k q fun cs => cs.filter fun c => !c.isMark k id else s

/-- Dropping a marker from a queue changes that queue alone. -/
theorem queueOf_dropMark (s : State) (k id : Nat) (p q : EngineQueue) :
    queueOf (dropMark k id s p) k q = if p = q then (queueOf s k q).filter fun c => !c.isMark k id else queueOf s k q := by
  unfold dropMark
  split
  · exact queueOf_modQueue _ _ _ _ _
  · next h =>
    split
    · next hpq =>
      subst hpq
      refine (List.filter_eq_self.mpr fun c hc => ?_).symm
      rw [Bool.not_eq_true, List.any_eq_false] at h
      simpa using h c hc
    · rfl

theorem modQueue_keeps (s : State) (k : Nat) (q : EngineQueue) (f : List Command → List Command) :
    (s.modQueue k q f).mem = s.mem ∧ (s.modQueue k q f).reopen = s.reopen := by cases q <;> exact ⟨rfl, rfl⟩

theorem dropMark_keeps (s : State) (k id : Nat) (q : EngineQueue) : (dropMark k id s q).mem = s.mem ∧ (dropMark k id s q).reopen = s.reopen := by
  unfold dropMark
  split
  · exact modQueue_keeps _ _ _ _
  · exact ⟨rfl, rfl⟩

/-- The markers of a QFENCE leave every queue together (R208). -/
theorem qfenceRelease_runs {s : State} {k id : Nat} (h : ∀ q ∈ allQueues, beforeMark (queueView s k q) k id = false) :
    ∃ t, exec (.qfenceRelease k id) s = .next t ∧ t.mem = s.mem ∧
      t.reopen = s.reopen.map (fun r => { r with mq := r.mq.filter fun c => !c.isMark k id }) ∧
      ∀ q ∈ allQueues, queueOf t k q = (queueOf s k q).filter fun c => !c.isMark k id := by
  have hany : (allQueues.any fun q => beforeMark (queueView s k q) k id) = false := List.any_eq_false.mpr fun q hq => by simp [h q hq]
  refine ⟨allQueues.foldl (dropMark k id) { s with reopen := s.reopen.map fun r => { r with mq := r.mq.filter fun c => !c.isMark k id } }, ?_, ?_, ?_, fun q _ => ?_⟩
  · show execQfenceRelease k id s = _
    rw [execQfenceRelease, hany]
    rfl
  · simp only [allQueues, List.foldl_cons, List.foldl_nil, (dropMark_keeps _ _ _ _).1]
  · simp only [allQueues, List.foldl_cons, List.foldl_nil, (dropMark_keeps _ _ _ _).2]
  · simp only [allQueues, List.foldl_cons, List.foldl_nil, queueOf_dropMark]
    cases q <;> rfl

/-! ## At issue -/

/-- The form of REL, ACQ and FENCE. -/
abbrev fenceForm (op : Nat) (n : BitVec 16) : Form := { op := op, classes := decide (n.toNat < 6), guard := false, once := true }

/-- The gang that begins to wait has the cause that it waits for. -/
theorem beginWait_status {x : Ctx} {f : Form} {s : State} {c : WaitCause} {gn : Gang} (h : gangAt (beginWait x f s c) x.k x.w x.g = some gn) :
    gn.status = .waiting c := by
  rw [beginWait, gangAt_modGang] at h
  obtain ⟨g0, -, rfl⟩ := Option.map_eq_some_iff.mp h
  rfl

section
variable {s : State} {x : Ctx} {n : BitVec 16} (hx : ctxOf s = some x)
include hx

/-- A release that waits for nothing publishes at once. -/
theorem rel_answers (h : Issues x (fenceForm 0x89 n))
    (hr : relReady (flushEntries x.s x.k fun _ => true) x.k x.did x.w x.wp.age n.toNat (coreAt (flushEntries x.s x.k fun _ => true) x.k).nextId = true) :
    Answers (exec (.rel n) s) x (publishWrites (flushEntries x.s x.k fun _ => true) x.k x.did n.toNat) (nextSlot x.gn.pc) := by
  refine check_retire_answers (g := fenceForm 0x89 n) (r := fun _ => 0) hx h ?_
  simp only [if_true, hr, Bool.not_true, Bool.and_false, Bool.false_eq_true, if_false, Bool.not_false]

/-- FENCE with nothing to wait for publishes and then acquires. -/
theorem fence_answers (h : Issues x (fenceForm 0x88 n)) (hl : x.wp.lc = 0)
    (hr : relReady (flushEntries x.s x.k fun _ => true) x.k x.did x.w x.wp.age n.toNat (coreAt (flushEntries x.s x.k fun _ => true) x.k).nextId = true) :
    Answers (exec (.fence n) s) x (acquire (publishWrites (flushEntries x.s x.k fun _ => true) x.k x.did n.toNat) x.k x.did n.toNat) (nextSlot x.gn.pc) := by
  refine check_retire_answers (g := fenceForm 0x88 n) (r := fun _ => 0) hx h ?_
  simp only [if_true, hr, Bool.not_true, Bool.and_false, Bool.false_eq_true, if_false, hl, ne_eq, not_true_eq_false]

/-- A release that must wait waits for the writes that stand now. -/
theorem rel_waits (h : Issues x (fenceForm 0x89 n))
    (hr : relReady (flushEntries x.s x.k fun _ => true) x.k x.did x.w x.wp.age n.toNat (coreAt (flushEntries x.s x.k fun _ => true) x.k).nextId = false) :
    exec (.rel n) s = .next (beginWait x (fenceForm 0x89 n) (flushEntries x.s x.k fun _ => true)
      (.fence true false n.toNat (coreAt (flushEntries x.s x.k fun _ => true) x.k).nextId)) := by
  refine run_checked hx h ?_
  simp only [if_true, hr, Bool.not_false, Bool.and_self]

/-- An acquire with no load outstanding invalidates at once, else it waits. -/
theorem acq_runs (h : Issues x (fenceForm 0x8A n)) :
    (x.wp.lc = 0 → Answers (exec (.acq n) s) x (acquire x.s x.k x.did n.toNat) (nextSlot x.gn.pc)) ∧
    (x.wp.lc ≠ 0 → Waits (exec (.acq n) s) x x.s (.fence false true n.toNat x.c.nextId)) := by
  obtain ⟨hs, -, -, -, hc, -, -⟩ := ctxOf_some hx
  have hnext : (coreAt x.s x.k).nextId = x.c.nextId := by rw [hs, hc]
  refine ⟨fun hl => check_retire_answers (g := fenceForm 0x8A n) (r := fun _ => 0) hx h ?_, fun hl => run_checked_waits (g := fenceForm 0x8A n) hx h ?_⟩
  · simp only [Bool.false_eq_true, if_false, Bool.false_and, Bool.not_true, hl, ne_eq, not_true_eq_false]
  · simp only [Bool.false_eq_true, if_false, Bool.false_and, Bool.not_true, hl, ne_eq, not_false_eq_true, if_true, hnext]

/-- WAITC goes on at or below its bound, else the gang waits (R92). -/
theorem waitc_runs {c : Reg} {ctr : Counter} (hc : waitCounter c = some ctr) (h : Issues x { op := 0x8B, classes := decide (n.toNat < 64), guard := false, once := true }) :
    let s' := if ctr = .sc then flushEntries x.s x.k (fun e => contributed x.c x.w x.wp.age e) else x.s
    (x.wp.count ctr ≤ n.toNat → Answers (exec (.waitc c n) s) x s' (nextSlot x.gn.pc)) ∧
    (n.toNat < x.wp.count ctr → exec (.waitc c n) s =
      .next (s'.modGang x.k x.w x.g fun gn => { gn with status := .waiting .counter, insn := x.s.insn, ctl := x.s.ctl })) := by
  refine ⟨fun hle => check_retire_answers (g := { op := 0x8B, classes := decide (n.toNat < 64), guard := false, once := true }) (r := fun _ => 0) hx h ?_,
    fun hlt => run_checked hx h ?_⟩
  · simp only [hc, Option.isSome_some, Bool.true_and, Option.some.injEq, Option.getD_some, hle, if_true]
  · simp only [hc, Option.isSome_some, Bool.true_and, Option.some.injEq, Option.getD_some, Nat.not_le.mpr hlt, if_false]

/-- QFENCE puts its marker into every queue that it names (R208). -/
theorem qfence_answers (h : Issues x { op := 0x8C, classes := decide (n.toNat < 32), guard := false, once := true })
    (hm : n.toNat &&& queueMask x.c x.did = n.toNat) :
    let mark : Command := { id := x.c.nextId, op := .marker x.c.nextId, core := x.k, w := x.w, warpAge := x.wp.age, did := x.did }
    let s' := (allQueues.filter fun q => n.getLsbD (queueNum q)).foldl (fun s q => s.modQueue x.k q fun cs => cs ++ [mark]) x.s
    Answers (exec (.qfence n) s) x (if n = 0 then s' else s'.modCore x.k fun c => { c with nextId := c.nextId + 1 }) (nextSlot x.gn.pc) := by
  refine check_retire_answers (g := { op := 0x8C, classes := decide (n.toNat < 32), guard := false, once := true }) (r := fun _ => 0) hx h ?_
  simp only [need, hm, decide_true, if_true]
  rfl

end

/-- Settles O36. -/
theorem fences : Obligations.Fences := by
  refine ⟨fun s k w g scope mark wp gn hw hg => ⟨fun acq hs hr => ?release, fun hs hl => acqWaitDone_runs hw hg hs hl⟩, fun s k id h => qfenceRelease_runs h,
    fun s x n hx => ⟨fun c ctr hc h => waitc_runs hx hc h, ⟨fun hr => ⟨fun h => rel_answers hx h hr, fun h hl => fence_answers hx h hl hr⟩,
      fun hr h => ⟨_, rel_waits hx h hr, fun gn hg => beginWait_status hg⟩, fun h => acq_runs hx h⟩, fun h hm => qfence_answers hx h hm⟩⟩
  case release =>
    have hrun := relDrainDone_runs hw hg hs hr
    refine ⟨fun ha => ?_, fun ha hl => ?_, fun ha hl => ?_⟩
    · simpa [ha] using hrun
    · simpa [ha, hl] using hrun
    · simpa [ha, hl] using hrun

end Sys2Proof.Machine

/-! SUPPORT. Commands at issue: copies enter their queue (R190 to R193), pool and collective commands theirs (R290, R291, R295, R299). -/

namespace Sys2Proof.Machine

open Sys2Proof.Safety

/-- A queue that takes the command: it enters, and the gang goes on. -/
theorem enterQueue_ok {x : Ctx} {f : Form} {eq : EngineQueue} {op : EngineOp} {g : List Word} {o : Option Nat} (h : Takes x eq) :
    enterQueue x f eq op g o = .ok (retire x f (queued x eq op g o)) := by
  simp only [enterQueue, needCount_ok (c := .ec) h.count, Nat.not_le.mpr h.room, if_false, except_ok_bind]
  rfl

theorem need_true (t : Trap) : need true t = .ok () := rfl

theorem need_ok {p : Prop} [Decidable p] {t : Trap} (h : p) : need (decide p) t = .ok () := by
  rw [decide_eq_true h]
  rfl

/-! ## Copies -/

/-- The rows of a copy in the scratchpad. -/
def copyRows (c : CopyCmd) : List (Nat × Nat) := (List.range c.rows).map fun i => (c.sp + i * c.sstride, c.len)

/-- The barrier of a copy, checked (R193). -/
def copyBarrier (x : Ctx) (g : List Word) : Except Stop (Option Nat) :=
  if (g.getD 6 0).getLsbD 31 then do
    let o ← checkObject x (w32 (bitsW (g.getD 6 0) 19 0)) true
    need (!(copyRows (copyOf g)).any fun (p, n) => decide (p < bitsW (g.getD 6 0) 19 0 + 16) && decide (bitsW (g.getD 6 0) 19 0 < p + n))
      (barFault (w32 (bitsW (g.getD 6 0) 19 0)))
    return some o
  else return none

theorem copyBarrier_ok {x : Ctx} {g : List Word} {o : Option Nat} (h : CopyFits x g o) : copyBarrier x g = .ok o := by
  have hb := h.barrier
  cases o with
  | none =>
    rw [copyBarrier, hb]
    rfl
  | some obj =>
    obtain ⟨h31, hobj, hapart⟩ := hb
    have hany : ((copyRows (copyOf g)).any fun (p, n) => decide (p < bitsW (g.getD 6 0) 19 0 + 16) && decide (bitsW (g.getD 6 0) 19 0 < p + n)) = false := by
      rw [List.any_eq_false]
      rintro ⟨p, n⟩ hp
      obtain ⟨i, hi, he⟩ := List.mem_map.mp hp
      cases he
      have := hapart i (List.mem_range.mp hi)
      simpa using this
    rw [copyBarrier, if_pos h31, hobj, except_ok_bind, hany]
    rfl

/-- A copy that fits enters its queue, or only flushes where it has no bytes (R193). -/
theorem startCopy_answers {s : State} {x : Ctx} {op : Nat} {eop : EngineOp} {q : BitVec 8} {a : Reg} {o : Option Nat} (hx : ctxOf s = some x)
    (h : Issues x { op := op, classes := decide (q.toNat < 2) && groupReg a 56, guard := false, once := true, more := groupReads a 7 }) :
    let g := (List.range 7).map (groupWord x a)
    let eq : EngineQueue := if q = 0 then .cq0 else .cq1
    CopyFits x g o → Takes x eq →
    ((copyOf g).total = 0 → Answers (startCopy op eop q a s) x (flushEntries x.s x.k fun e => contributed x.c x.w x.wp.age e) (nextSlot x.gn.pc)) ∧
    ((copyOf g).total ≠ 0 →
      rangeCheck x.s x.k x.did x.wp.tree (copyAsk (decide (eop = .cpyo))) (coversWhole ((copyOf g).pieces 0) x.s x.k x.did x.wp.tree)
        (((copyOf g).pieces 0).map fun p => p.va) = .ok →
      Answers (startCopy op eop q a s) x (queued x eq eop g o) (nextSlot x.gn.pc)) := by
  intro g eq hf ht
  have hb := copyBarrier_ok hf
  have hchecks : ∀ k : Option Nat → Except Stop State, (do
      need (decide ((copyOf g).mem.toNat % 16 = 0)) { cause := 0x0A, addr := (copyOf g).mem }
      need (decide ((copyOf g).sp % 16 = 0)) (misaligned (copyOf g).sp)
      need (decide (bitsW (g.getD 2 0) 31 20 = 0)) illegal
      need (decide ((copyOf g).len % 16 = 0)) (misaligned (copyOf g).len)
      need (decide ((copyOf g).mstride % 16 = 0)) (misaligned (g.getD 4 0).toNat)
      need (decide ((copyOf g).sstride % 16 = 0)) (misaligned (copyOf g).sstride)
      need (decide ((copyOf g).rows ≤ 1) || decide ((copyOf g).len ≤ (copyOf g).sstride)) illegal
      need (decide (bitsW (g.getD 5 0) 31 16 = 0) && decide (bitsW (g.getD 6 0) 30 20 = 0)) illegal
      checkRanges x (copyRows (copyOf g))
      let o ← copyBarrier x g
      need ((queueMask x.c x.did).testBit (queueNum eq)) engineFault
      k o) = k o := fun k => by
    obtain ⟨hz1, hz2, hz3⟩ := hf.zeros
    have hrows : (decide ((copyOf g).rows ≤ 1) || decide ((copyOf g).len ≤ (copyOf g).sstride)) = true := by simpa using hf.apart
    simp only [need_ok hf.mem, need_ok hf.sp, need_ok hz1, need_ok hf.len, need_ok hf.mstride, need_ok hf.sstride, hrows, hz2, hz3, decide_true, Bool.and_self,
      need_true, show checkRanges x (copyRows (copyOf g)) = .ok () from hf.rows, hb, ht.mask, except_ok_bind]
  refine ⟨fun h0 => run_checkedMem_answers (f := _) (r := fun _ => 0) hx h ?empty, fun h0 hr => run_checkedMem_answers (f := _) (r := fun _ => 0) hx h ?full⟩
  all_goals
    dsimp only
    rw [check_of_issues h, except_ok_bind]
    refine (hchecks _).trans ?_
  case empty =>
    rw [if_pos h0, needCount_ok (c := .ec) ht.count]
    rfl
  case full =>
    rw [if_neg h0, hr]
    exact enterQueue_ok ht

/-- Settles O37. -/
theorem copiesIssue : Obligations.CopiesIssue := by
  intro s x q a o hx
  simp only [List.forall_mem_cons, List.not_mem_nil, false_implies, implies_true, and_true]
  exact ⟨fun h hf ht => startCopy_answers hx h hf ht, fun h hf ht => startCopy_answers hx h hf ht⟩

end Sys2Proof.Machine

/-! SUPPORT. PACK and UNPACK (R244 to R248). -/

namespace Sys2Proof.Machine

open Sys2Proof.Safety

/-- The forms of PACK, of its microscaling variant, and of UNPACK. -/
abbrev packForm (x : Ctx) (d a b : Reg) : Form :=
  { op := 0x90, classes := Reg.isV d && groupReg a 60 && Reg.unif b, more := [(d, 1), (b, 1)] ++ groupReads a 3, typed := packType x.t }
abbrev packMxForm (x : Ctx) (d a b : Reg) (typed : Bool) : Form :=
  { packForm x d a b with more := (packForm x d a b).more ++ groupReads a (if 4 < x.t.elems then 5 else 4), classes := groupReg a 58, typed := typed }
abbrev unpackForm (x : Ctx) (d a b : Reg) : Form :=
  { op := 0x91, classes := Reg.isV d && groupReg a 60 && Reg.unif b, more := [(b, 1)] ++ groupReads a 3, writes := [(d, 1)], typed := packType x.t }

/-- The bytes of a tile that a row's blocks take, as a watch register sees them. -/
def tileRanges (l : Layout) (r j0 n : Nat) : List (Nat × Nat) :=
  (List.range n).flatMap fun i => (l.strip r (j0 + i), 1) :: (List.range l.width).map fun p => (l.word p r (j0 + i), 4)

/-- What PACK makes of block i of the active lanes' values (R245, R246). -/
def packBlock (x : Ctx) (d a b : Reg) (l : Layout) (i : Nat) : Nat × List Int × Nat :=
  let mx := (x.rd 0 b).getLsbD 15
  let k : Int := if mx then (mxScale x a i : Int) - 127 - (if x.t = .i8 then 6 else 0) else 0
  choosePlane l.width (modeRnd x.mode) (mx && decide (mxScale x a i = 255)) ((List.range 32).map fun n =>
    if x.active.getLsbD n then scaleVal k (elemValue x.t (modeFtz x.mode) (x.rd n d).toNat i) else .num false 0 0)

section
variable {s : State} {x : Ctx} {d a b : Reg} {l : Layout} (hx : ctxOf s = some x) (ha : x.active ≠ 0)
  (hj : bitsW (x.rd 0 b) 31 16 + x.t.elems ≤ bitsW (groupWord x a 2) 31 16)
  (hl : checkLayout x (groupWord x a 0) (groupWord x a 1) (groupWord x a 2) [bitsW (x.rd 0 b) 4 0] = .ok l)
include hx ha hj hl

/-- PACK stores its blocks and adds their status bits to the warp's. -/
theorem pack_answers (h : Issues x (packForm x d a b)) (hmx : (x.rd 0 b).getLsbD 15 = true → Issues x (packMxForm x d a b (mxType x.t)))
    (hz : bitsW (x.rd 0 b) 14 5 = 0) (hw : watchHit x true 1 (tileRanges l (bitsW (x.rd 0 b) 4 0) (bitsW (x.rd 0 b) 31 16) x.t.elems) = none) :
    let r := bitsW (x.rd 0 b) 4 0
    let j0 := bitsW (x.rd 0 b) 31 16
    let store := fun (c : Core) i =>
      (List.range l.width).foldl (fun c p => scratchPutNat c (l.wordAt x.wp.view p r (j0 + i)) 4 (planeWord (packBlock x d a b l i).2.1 p))
        (scratchPutNat c (l.stripAt x.wp.view r (j0 + i)) 1 (packBlock x d a b l i).1)
    let status := (List.range x.t.elems).foldl (fun acc i => acc ||| (packBlock x d a b l i).2.2) 0
    Answers (exec (.pack d a b) s) x ((x.setWarp { x.wp with mstat := x.wp.mstat ||| BitVec.ofNat 6 status }).modCore x.k fun c =>
      (List.range x.t.elems).foldl store c) (nextSlot x.gn.pc) := by
  intro r j0 store status
  have hpos : (decide (bitsW (x.rd 0 b) 14 5 = 0) && decide (bitsW (x.rd 0 b) 31 16 + x.t.elems ≤ bitsW (groupWord x a 2) 31 16)) = true := by
    rw [decide_eq_true hz, decide_eq_true hj]
    rfl
  refine run_checkedMem_answers (f := packForm x d a b) (r := fun _ => 0) hx h ?_
  unfold tileRanges at hw
  dsimp only
  rw [check_of_issues h, except_ok_bind, hpos, need_true, hl]
  by_cases hm : (x.rd 0 b).getLsbD 15 = true
  · rw [if_pos hm, Bool.not_true, Bool.false_or, check_of_issues (hmx hm), except_ok_bind, except_ok_bind, except_ok_bind, if_neg ha, hw]
    rfl
  · rw [if_neg hm, except_ok_bind, except_ok_bind, if_neg ha, hw]
    rfl

/-- UNPACK reads its blocks at issue, to land as a scratchpad load's words do. -/
theorem unpack_answers (h : Issues x (unpackForm x d a b)) (hz : bitsW (x.rd 0 b) 15 5 = 0)
    (hw : watchHit x true 0 (tileRanges l (bitsW (x.rd 0 b) 4 0) (bitsW (x.rd 0 b) 31 16) x.t.elems) = none) :
    let r := bitsW (x.rd 0 b) 4 0
    let j0 := bitsW (x.rd 0 b) 31 16
    let blocks := (List.range x.t.elems).map fun i => tileBlock x.c x.wp.view l r (j0 + i)
    let bad := (List.range x.t.elems).any fun i => blockBad x.c x.wp.view l r (j0 + i)
    let value := fun n => buildElems x.t (fun i => unpackElem x.t x.fm (blocks.getD i (0, [])).1 ((blocks.getD i (0, [])).2.getD n 0)) x.t.elems
    let lanes := (lanesOf x.active).map fun n => { lane := n, pa := 0, size := 4, val := BitVec.ofNat 128 (value n), done := true, poison := if bad then 1 else 0 : LaneAcc }
    Answers (exec (.unpack d a b) s) x (pushAccess x.s x.k
      { id := 0, w := x.w, g := x.g, warpAge := x.wp.age, did := x.did, kind := .lds, dest := destFor d 1 false, mode := x.mode, lanes := lanes }) (nextSlot x.gn.pc) := by
  intro r j0 blocks bad value lanes
  refine run_checkedMem_answers (f := unpackForm x d a b) (r := fun _ => 0) hx h ?_
  unfold tileRanges at hw
  dsimp only
  rw [check_of_issues h, except_ok_bind, need_ok hz, need_ok hj, hl, except_ok_bind, except_ok_bind, except_ok_bind, if_neg ha, hw]
  rfl

end

/-- Settles O38. -/
theorem planeInstructions : Obligations.PlaneInstructions := by
  intro s x d a b l hx ha t j0 r v hit hj hl
  exact ⟨fun h hmx hz hw => pack_answers hx ha hj hl h hmx hz hw, fun h hz hw => unpack_answers hx ha hj hl h hz hw⟩

end Sys2Proof.Machine

/-! SUPPORT. The matrix instructions at issue (R250 to R261): each enters mq under the gang's batch. -/

namespace Sys2Proof.Machine

open Sys2Proof.Safety

/-- A check that stands under a condition, and that passes where the condition holds, lets what follows it run. -/
theorem ite_passing {c : Prop} [Decidable c] {a : Except Stop Unit} {β : Type} {k : Except Stop β} (h : c → a = .ok ()) :
    (if c then (do a; k) else k) = k := by
  split
  next hc => rw [h hc, except_ok_bind]
  next => rfl

section
variable {s : State} {x : Ctx} (hx : ctxOf s = some x) (hb : batchHeld x = false) (ht : Takes x .mq)
include hx

/-- The core of a context is the core that its queue mq stands on. -/
theorem mq_room (ht : Takes x .mq) : x.c.mq.length < 64 := by
  obtain ⟨hs, -, -, -, hc, -⟩ := ctxOf_some hx
  rw [hc, ← hs]
  exact ht.room

include ht in
/-- Where mq takes the operation, it enters under the gang's batch, and the gang goes on. -/
theorem enterMq_ok (f : Form) (op : EngineOp) (g : List Word) (o : Option Nat) (after : Matrix → Matrix) :
    enterMq x f op g o after = .ok (retire x f (queuedMq x op g o after)) := by
  have hmask : need ((queueMask x.c x.did).testBit 2) engineFault = .ok () := by
    rw [show (queueMask x.c x.did).testBit 2 = true from ht.mask]
    rfl
  rw [enterMq, hmask, except_ok_bind, needCount_ok (c := .ec) ht.count, except_ok_bind, if_neg (Nat.not_le.mpr (mq_room hx ht))]
  rfl

omit hx in
include hb in
theorem checkMq_of_issues {f : Form} (h : Issues x f) : checkMq x f = .ok () := by
  rw [checkMq, check_of_issues h, hb]
  rfl

include hb ht in
/-- A matrix instruction whose own checks pass enters mq. -/
theorem enterMq_answers {body : Ctx → Except Stop State} {f : Form} (h : Issues x f) {op : EngineOp} {g : List Word} {o : Option Nat} {after : Matrix → Matrix}
    (hbody : body x = do checkMq x f; enterMq x f op g o after) : Answers (run s body) x (queuedMq x op g o after) (nextSlot x.gn.pc) := by
  refine run_checkedMem_answers (r := fun _ => 0) hx h ?_
  rw [hbody, checkMq_of_issues hb h, except_ok_bind]
  exact enterMq_ok hx ht f op g o after

end

/-- Settles O39. -/
theorem matrixCommands : Obligations.MatrixCommands := by
  intro s x a hx hb ht
  refine ⟨⟨fun l h hl => ?mldb, fun set l h hl hn => ?mmac⟩, fun clr set => ?mrd, fun n h => ?mzero, fun set h hlo hhi => ?manch, ?epi, fun o h ho => ?mfence,
    fun h => ?mtest⟩
  case mldb =>
    refine enterMq_answers (f := mqForm 0x92 (groupReg a 60) (groupReads a 3)) hx hb ht h ?_
    dsimp only at hl ⊢
    rw [hl]
    rfl
  case mmac =>
    refine enterMq_answers (f := mqForm 0x93 (groupReg a 60 && decide (set.toNat < 2)) (groupReads a 3)) hx hb ht h ?_
    dsimp only at hl ⊢
    rw [hl, except_ok_bind, need_ok hn, except_ok_bind]
  case mrd =>
    intro w0 w1 t h h0 h1 ho hst hfit hr
    refine enterMq_answers (f := mqForm 0x94 (groupReg a 62) (groupReads a 2)) hx hb ht h ?_
    dsimp only
    rw [h0, h1, need_ok ho, need_ok hst, need_ok hfit, hr]
    rfl
  case mzero => exact enterMq_answers hx hb ht h rfl
  case manch =>
    refine enterMq_answers (f := mqForm 0x96 _ _) hx hb ht h ?_
    dsimp only
    rw [decide_eq_true hlo, decide_eq_true hhi]
    rfl
  case epi =>
    intro w h hz hrm ht' hsrc hscale hbias
    refine enterMq_answers (f := mqForm 0x97 (groupReg a 58) (groupReads a 5)) hx hb ht h ?_
    have hword : (decide (bitsW w 31 17 = 0) && decide (bitsW w 15 13 < 5) && (outType (bitsW w 12 8)).isSome && decide (bitsW w 2 1 < 3)) = true := by
      rw [decide_eq_true hz, decide_eq_true hrm, ht', decide_eq_true hsrc]
      rfl
    dsimp only
    rw [hword, need_true, except_ok_bind, ite_passing fun hc => ?_, ite_passing hbias]
    obtain ⟨hc0, hc1⟩ := Bool.and_eq_true_iff.mp hc
    exact hscale hc0 (of_decide_eq_true hc1)
  case mfence =>
    refine enterMq_answers (f := mqForm 0x98 (Reg.unif a) [(a, 1)]) hx hb ht h ?_
    dsimp only
    rw [ho, except_ok_bind]
  case mtest => exact enterMq_answers hx hb ht h rfl

end Sys2Proof.Machine

/-! SUPPORT. Commands of the pool and collective engines at issue (R290, R291, R295, R299). -/

namespace Sys2Proof.Machine

open Sys2Proof.Safety

theorem needQueue_ok {x : Ctx} {eq : EngineQueue} (h : Takes x eq) : needQueue x eq = .ok () := by
  rw [needQueue, h.mask]
  rfl

theorem checkGroupWord_ok {x : Ctx} {w : Word} (h4 : statusField w % 4 = 0) (hz : bitsW w 31 28 = 0) : checkGroupWord x w = .ok () := by
  rw [checkGroupWord, need_ok h4, except_ok_bind, need_ok hz]

/-- The illegal forms of a gather's scalars, all excluded (R291). -/
def PoolFits (g : List Word) (gath : Bool) : Prop :=
  let c := poolOf g
  bitsW (g.getD 2 0) 31 20 = 0 ∧ c.k ≠ 0 ∧ c.b ≠ 0 ∧ 1 ≤ c.e ∧ c.e ≤ 4096 ∧ poolFormat (etypeOf (bitsW (g.getD 4 0) 17 13)) = true ∧
    c.pool < (if gath then 1 else 4) ∧ bitsW (g.getD 4 0) 23 22 = 0 ∧ c.rm < 5 ∧ bitsW (g.getD 4 0) 31 27 = 0 ∧ c.stride % 16 = 0 ∧ c.rowBytes ≤ c.stride

theorem need_poolFits {g : List Word} {gath : Bool} {tr : Trap} (h : PoolFits g gath) :
    need (decide (bitsW (g.getD 2 0) 31 20 = 0) && decide ((poolOf g).k ≠ 0) && decide ((poolOf g).b ≠ 0) && decide (1 ≤ (poolOf g).e)
      && decide ((poolOf g).e ≤ 4096) && poolFormat (etypeOf (bitsW (g.getD 4 0) 17 13)) && decide ((poolOf g).pool < if gath then 1 else 4)
      && decide (bitsW (g.getD 4 0) 23 22 = 0) && decide ((poolOf g).rm < 5) && decide (bitsW (g.getD 4 0) 31 27 = 0)
      && decide ((poolOf g).stride % 16 = 0) && decide ((poolOf g).rowBytes ≤ (poolOf g).stride)) tr = .ok () := by
  obtain ⟨h1, h2, h3, h4, h5, h6, h7, h8, h9, h10, h11, h12⟩ := h
  simp only [h1, h2, h3, h4, h5, h6, h7, h8, h9, h10, h11, h12, ne_eq, not_false_eq_true, decide_true, Bool.and_self, need_true]

section
variable {s : State} {x : Ctx} {d a : Reg} {o : Option Nat} (hx : ctxOf s = some x) (ho : barrierWord x (x.rd 0 d) = .ok o)
include hx ho

theorem poolOp_answers {op : Nat} {gath : Bool} :
    let g := (List.range 8).map (groupWord x a)
    let c := poolOf g
    Issues x (engineForm op d a 56 8) → Takes x .pq → PoolFits g gath → c.base.toNat % 16 = 0 → c.list % c.entry = 0 →
    c.out.toNat % (if c.okind then 16 else if gath then 16 else 4) = 0 → (c.okind = false → c.out.toNat < 2 ^ 20) →
    checkRanges x ([(c.list, c.entry * c.entries)] ++ if c.okind then [] else [(c.out.toNat, c.outBytes gath)]) = .ok () →
    (c.okind = true → issueCheck x { size := 16, write := true } (firstLines c.out (c.outBytes gath)) = .ok ()) →
    Answers (poolOp op gath d a s) x (queued x .pq (if gath then .gath else .pool) g o) (nextSlot x.gn.pc) := by
  intro g c h ht hfits hbase hlist hout hspace hranges hpages
  have hokind : (c.okind || decide (c.out.toNat < 2 ^ 20)) = true := by
    cases hk : c.okind
    · exact decide_eq_true (hspace hk)
    · rfl
  refine run_checkedMem_answers (f := engineForm op d a 56 8) (r := fun _ => 0) hx h ?_
  dsimp only
  rw [check_of_issues h, except_ok_bind, need_ok hbase, except_ok_bind, need_ok hlist, except_ok_bind, need_poolFits hfits, except_ok_bind, need_ok hout,
    except_ok_bind, hokind, need_true, except_ok_bind, hranges, except_ok_bind, ho, except_ok_bind, needQueue_ok ht, except_ok_bind, ite_passing hpages]
  exact enterQueue_ok ht

theorem collective_answers {op : Nat} {eop : EngineOp} :
    let g := (List.range 5).map (groupWord x a)
    let n := (g.getD 2 0).toNat
    let addr := pairW (g.getD 3 0) (g.getD 4 0)
    Issues x (engineForm op d a 58 5) → Takes x .fq → statusField (g.getD 0 0) % 4 = 0 → bitsW (g.getD 0 0) 31 28 = 0 →
    (g.getD 1 0).toNat % 128 = 0 → 1 ≤ n ∧ n ≤ 2 ^ 24 → n * 4 % 128 = 0 → addr.toNat % 128 = 0 →
    checkRanges x [(statusField (g.getD 0 0), 4)] = .ok () →
    issueCheck x { size := 128, write := decide (eop = .mcred) } (firstLines addr (4 * n)) = .ok () →
    Answers (collective op eop d a s) x (queued x .fq eop g o) (nextSlot x.gn.pc) := by
  intro g n addr h ht h4 hz hoff hn hlines haddr hranges hpages
  have hcount : (decide (1 ≤ n) && decide (n ≤ 2 ^ 24) && decide (n * 4 % 128 = 0)) = true := by
    rw [decide_eq_true hn.1, decide_eq_true hn.2, decide_eq_true hlines]
    rfl
  refine run_checkedMem_answers (f := engineForm op d a 58 5) (r := fun _ => 0) hx h ?_
  dsimp only
  rw [check_of_issues h, except_ok_bind, checkGroupWord_ok h4 hz, except_ok_bind, need_ok hoff, except_ok_bind, hcount, need_true, except_ok_bind,
    need_ok haddr, except_ok_bind, hranges, except_ok_bind, ho, except_ok_bind, needQueue_ok ht, except_ok_bind, hpages, except_ok_bind]
  exact enterQueue_ok ht

end

/-- Settles O40. -/
theorem engineCommands : Obligations.EngineCommands := by
  intro s x d a o hx ho
  simp only [List.forall_mem_cons, List.not_mem_nil, false_implies, implies_true, and_true]
  refine ⟨⟨?gath, ?pool⟩, ⟨?mcred, ?mcst⟩, ?wbcast, ?dgst⟩
  case gath =>
    intro h ht hbase hlist h1 h2 h3 h4 h5 h6 h7 h8 h9 h10 h11 hout hspace hranges hpages
    exact poolOp_answers (gath := true) hx ho h ht ⟨h1, h2, h3, h4.1, h4.2, h5, h6, h7, h8, h9, h10, h11⟩ hbase hlist (by simpa using hout) hspace hranges hpages
  case pool =>
    intro h ht hbase hlist h1 h2 h3 h4 h5 h6 h7 h8 h9 h10 h11 hout hspace hranges hpages
    exact poolOp_answers (gath := false) hx ho h ht ⟨h1, h2, h3, h4.1, h4.2, h5, h6, h7, h8, h9, h10, h11⟩ hbase hlist (by simpa using hout) hspace hranges hpages
  case mcred => exact collective_answers (op := 0xA2) (eop := .mcred) hx ho
  case mcst => exact collective_answers (op := 0xA3) (eop := .mcst) hx ho
  case wbcast =>
    intro h ht h4 hz hc hsrc hranges howned hpages
    refine run_checkedMem_answers (f := engineForm 0xA5 d a 58 5) (r := fun _ => 0) hx h ?_
    dsimp only
    rw [check_of_issues h, except_ok_bind, checkGroupWord_ok h4 hz, except_ok_bind, hc, except_ok_bind, need_ok hsrc, except_ok_bind, hranges, except_ok_bind]
    simp only [ho, needQueue_ok ht, howned, need_true, hpages, except_ok_bind]
    exact enterQueue_ok ht
  case dgst =>
    intro h ht h16 hz hc hranges howned
    refine run_checkedMem_answers (f := engineForm 0xA6 d a 60 3) (r := fun _ => 0) hx h ?_
    dsimp only
    simp only [check_of_issues h, except_ok_bind, need_ok h16, need_ok hz, hc, hranges, ho, needQueue_ok ht, howned, need_true]
    exact enterQueue_ok ht

end Sys2Proof.Machine

/-! SUPPORT. The instructions that answer at once (R261, R288, R298, R300, R371). -/

namespace Sys2Proof.Machine

open Sys2Proof.Safety

/-- The forms of MSTAT, AGQ and TREEQ. -/
abbrev mstatForm (d : Reg) (n : BitVec 16) : Form :=
  { mqForm 0x9A (Reg.sz d && decide (n.toNat < 3)) [] with writes := [(d, 1)], lat := 4 }
abbrev agqForm (d : Reg) (n : BitVec 16) : Form :=
  { op := 0xA4, classes := Reg.sz d && decide (n.toNat ≤ 255), guard := false, once := true, writes := [(d, 1)] }
abbrev treeqForm (d : Reg) (n : BitVec 16) : Form :=
  { op := 0xB2, classes := (Reg.spair d || Reg.isZ d) && decide (n.toNat < 3), guard := false, once := true, writes := [(d, 2)] }

/-- What an instruction requires of its fields' classes holds where it issues. -/
theorem classes_of_issues {x : Ctx} {f : Form} (h : Issues x f) : f.classes = true := by
  have ho := h.operands
  simp only [operandOk, Bool.and_eq_true] at ho
  exact ho.1.1.1.1

/-- A write to z changes nothing. -/
theorem dstS_z (wp : Warp) (n v : Nat) : wp.dstS .z n v = wp := by
  unfold Warp.dstS
  induction n with
  | zero => rfl
  | succ n ih => exact ih

theorem tensorOf_ok {x : Ctx} {a : Reg} {t : Tensor} (hi : (x.rd 0 a).toNat ≤ 16383) (ht : AMap.get? x.s.tensors (x.rd 0 a).toNat = some t)
    (ho : t.owner = x.did) (hb : t.base / 2 ^ 52 = x.part) : tensorOf x a = .ok ((x.rd 0 a).toNat, t) := by
  rw [tensorOf, need_ok hi, except_ok_bind, ht]
  exact if_pos ⟨ho, hb⟩

section
variable {s : State} {x : Ctx} {d a : Reg} {n : BitVec 16} (hx : ctxOf s = some x)
include hx

/-- The matrix engine's status word (R261). -/
def engineWord (x : Ctx) : Nat :=
  x.c.matrix.fenced.toNat + (if x.c.matrix.batch.isSome then 256 else 0) +
    (if (match x.c.matrix.batch with | some b => decide (b.w = x.w) && decide (b.warpAge = x.wp.age) | none => false) then 512 else 0) + min 127 x.c.mq.length * 65536

theorem mstat_answers (h : Issues x (mstatForm d n)) :
    let wp := x.wp.dstS d 1 (if n.toNat = 2 then engineWord x else x.wp.mstat.toNat)
    Answers (exec (.mstat d n) s) x (x.setWarp (if n.toNat = 1 then { wp with mstat := 0 } else wp)) (nextSlot x.gn.pc) := by
  refine check_retire_answers (g := mstatForm d n) (r := fun _ => 0) hx h ?_
  rfl

theorem agq_answers (h : Issues x (agqForm d n)) (hc : x.wp.lc < 63) :
    let g := groupAt x.s x.part n.toNat
    Answers (exec (.agq d n) s) x (x.setWarp (x.wp.dstS d 1 (if g.formed then g.members.length + 256 * (g.members.filter fun m => m.present).length + 65536 +
      (if g.changed then 131072 else 0) + g.generation % 16384 * 262144 else 0))) (nextSlot x.gn.pc) := by
  refine check_retire_answers (g := agqForm d n) (r := fun _ => 0) hx h ?_
  rw [needCount_ok (c := .lc) hc]
  rfl

theorem treeq_answers (h : Issues x (treeqForm d n)) (hc : x.wp.lc < 63) (hclean : (treeAnswer x.s x.wp.tree n.toNat).2 = false) :
    Answers (exec (.treeq d n) s) x (x.setWarp (x.wp.dstS d 2 (treeAnswer x.s x.wp.tree n.toNat).1)) (nextSlot x.gn.pc) := by
  have hd := classes_of_issues h
  refine check_retire_answers (g := treeqForm d n) (r := fun _ => 0) hx h ?_
  dsimp only
  rw [needCount_ok (c := .lc) hc, except_ok_bind, hclean]
  cases d with
  | s i => rfl
  | z => rw [dstS_z]
  | _ => exact absurd hd (by simp [Reg.spair, Reg.isZ])

section
variable {t : Tensor} (hi : (x.rd 0 a).toNat ≤ 16383) (ht : AMap.get? x.s.tensors (x.rd 0 a).toNat = some t) (ho : t.owner = x.did)
  (hb : t.base / 2 ^ 52 = x.part) (hc : x.wp.lc < 63)
include hi ht ho hb hc

theorem topen_answers (h : Issues x (tensorForm 0xA7 d a)) :
    (t.open_ = true → Answers (exec (.topen d a) s) x (x.setWarp (x.wp.dstS d 1 t.version)) (nextSlot x.gn.pc)) ∧
    (t.open_ = false → t.version < 2 ^ 32 - 1 → bitmapBits x.s + t.length / 128 ≤ 2 ^ 27 →
      let t' := { t with version := t.version + 1, open_ := true, lines := [], done := [] }
      let s' := x.setWarp (x.wp.dstS d 1 (t.version + 1))
      Answers (exec (.topen d a) s) x { s' with tensors := AMap.put s'.tensors (x.rd 0 a).toNat t' } (nextSlot x.gn.pc)) := by
  refine ⟨fun hopen => ?already, fun hclosed hv hbits => ?fresh⟩
  all_goals
    refine check_retire_answers (g := tensorForm 0xA7 d a) (r := fun _ => 0) hx h ?_
    dsimp only
    rw [tensorOf_ok hi ht ho hb, except_ok_bind, needCount_ok (c := .lc) hc, except_ok_bind]
  case already => rw [if_pos hopen]
  case fresh => rw [if_neg (by rw [hclosed]; exact Bool.false_ne_true), need_ok hv, except_ok_bind, need_ok hbits, except_ok_bind]

theorem tcommit_answers (h : Issues x (tensorForm 0xA8 d a)) :
    let s' := x.setWarp (x.wp.dstS d 1 t.version)
    (t.open_ = false → Answers (exec (.tcommit d a) s) x s' (nextSlot x.gn.pc)) ∧
    (t.open_ = true → cxlStorePending x = false →
      let t' := { t with open_ := false, lines := [], done := [] }
      Answers (exec (.tcommit d a) s) x { s' with tensors := AMap.put s'.tensors (x.rd 0 a).toNat t' } (nextSlot x.gn.pc)) ∧
    (t.open_ = true → cxlStorePending x = true → exec (.tcommit d a) s = .next (x.setStatus (.held .drain))) := by
  refine ⟨fun hclosed => ?closed, fun hopen hp => ?commit, fun hopen hp => ?pending⟩
  case closed =>
    refine check_retire_answers (g := tensorForm 0xA8 d a) (r := fun _ => 0) hx h ?_
    dsimp only
    rw [tensorOf_ok hi ht ho hb, except_ok_bind, needCount_ok (c := .lc) hc, except_ok_bind, hclosed]
    rfl
  case commit =>
    refine check_retire_answers (g := tensorForm 0xA8 d a) (r := fun _ => 0) hx h ?_
    dsimp only
    rw [tensorOf_ok hi ht ho hb, except_ok_bind, needCount_ok (c := .lc) hc, except_ok_bind, hopen, hp]
    rfl
  case pending =>
    refine run_stopped (e := .hold .drain) hx ?_
    dsimp only
    rw [check_of_issues h, except_ok_bind, tensorOf_ok hi ht ho hb, except_ok_bind, needCount_ok (c := .lc) hc, except_ok_bind, hopen, hp]
    rfl

end

end

/-- Settles O41. -/
theorem statusQueries : Obligations.StatusQueries := by
  intro s x d a n hx
  refine ⟨fun h => ⟨?_, ?_, ?_⟩, fun h hc => ⟨fun hf => ?_, fun hf => ?_⟩, fun h hc hclean => treeq_answers hx h hc hclean,
    fun t hi ht ho hb hc => ⟨fun h => topen_answers hx hi ht ho hb hc h, fun h => tcommit_answers hx hi ht ho hb hc h⟩⟩
  · rintro rfl
    exact mstat_answers hx h
  · rintro rfl
    exact mstat_answers hx h
  · rintro rfl
    have hw : engineWord x = x.c.matrix.fenced.toNat + (if x.c.matrix.batch.isSome then 256 else 0) +
        (if x.c.matrix.batch.any fun b => decide (b.w = x.w) && decide (b.warpAge = x.wp.age) then 512 else 0) + min 127 x.c.mq.length * 65536 := by
      unfold engineWord
      cases x.c.matrix.batch <;> rfl
    have := mstat_answers hx h
    rwa [hw] at this
  · simpa [hf] using agq_answers hx h hc
  · simpa [hf] using agq_answers hx h hc

end Sys2Proof.Machine

/-! SUPPORT. Call gates (R282 to R286) and SCRUB (R289). -/

namespace Sys2Proof.Machine

open Sys2Proof.Safety

/-! ## What an Advanced state allows after the issue -/

/-- Changing latches and pending results of the issuing warp after its issue stays within what an issue may change. -/
theorem advanced_modWarp {x : Ctx} {s t : State} {pc : DWord} (h : Advanced x s t pc) {f : Warp → Warp} (hg : ∀ wp, (f wp).gangs = wp.gangs)
    (hs : ∀ wp, shell (f wp) = shell wp) : Advanced x s (t.modWarp x.k x.w f) pc := by
  have hgang : ∀ g, gangAt (t.modWarp x.k x.w f) x.k x.w g = gangAt t x.k x.w g := fun g => gangAt_modWarp hg _ _ _
  refine ⟨h.rest, fun k hk => ?_, ?_, fun w hw => ?_, ?_, fun g hne => ?_, ?_, fun gn hgn => ?_⟩
  · rw [State.modWarp, coreAt_modCore_ne _ _ (Ne.symm hk)]
    exact h.cores k hk
  · rw [bare_modWarp]
    exact h.core
  · rw [warpAt_modWarp, ← h.warps w hw]
    cases warpAt t x.k w <;> simp [hw]
  · rw [warpAt_modWarp, ← h.warp]
    cases warpAt t x.k x.w with
    | none => rfl
    | some wp => simp [hs]
  · rw [hgang]; exact h.gangs g hne
  · rw [hgang]; exact h.gang
  · rw [hgang] at hgn; exact h.pc gn hgn

/-- So does changing what every issue updates of the gang. -/
theorem advanced_modGang {x : Ctx} {s t : State} {pc : DWord} (h : Advanced x s t pc) {f : Gang → Gang} (hl : ∀ gn, lasting (f gn) = lasting gn)
    (hp : ∀ gn, (f gn).pc = gn.pc) : Advanced x s (t.modGang x.k x.w x.g f) pc := by
  refine ⟨h.rest, fun k hk => ?_, ?_, fun w hw => ?_, ?_, fun g hne => ?_, ?_, fun gn hgn => ?_⟩
  · rw [State.modGang, State.modWarp, coreAt_modCore_ne _ _ (Ne.symm hk)]
    exact h.cores k hk
  · rw [State.modGang, bare_modWarp]
    exact h.core
  · rw [State.modGang, warpAt_modWarp, ← h.warps w hw]
    cases warpAt t x.k w <;> simp [hw]
  · rw [State.modGang, warpAt_modWarp, ← h.warp]
    cases warpAt t x.k x.w <;> simp [shell]
  · rw [gangAt_modGang', ← h.gangs g hne]
    cases gangAt t x.k x.w g <;> simp [hne]
  · rw [gangAt_modGang', ← h.gang]
    cases gangAt t x.k x.w x.g <;> simp [hl]
  · rw [gangAt_modGang'] at hgn
    obtain ⟨g0, hg0, rfl⟩ := Option.map_eq_some_iff.mp hgn
    simpa [hp] using h.pc g0 hg0

/-! ## SCRUB -/

/-- The lanes of the gang from the first register on read zero, and nothing else of the vector registers changes (R289). -/
theorem vreg_scrubRegs (wp : Warp) (lanes : Mask) (r n l : Nat) (hl : l < 32) :
    (wp.scrubRegs lanes r).vreg n l = if r ≤ n ∧ lanes.getLsbD l = true then 0 else wp.vreg n l := by
  have hkey : (!(decide (32 * r ≤ 32 * n + l) && lanes.getLsbD ((32 * n + l) % 32))) = !(decide (r ≤ n) && lanes.getLsbD l) := by
    rw [show (32 * n + l) % 32 = l by omega, decide_eq_decide.mpr (show 32 * r ≤ 32 * n + l ↔ r ≤ n by omega)]
  unfold Warp.vreg Warp.scrubRegs AMap.getD
  dsimp only
  rw [AMap.get?_filter_key wp.vregs (fun i => !(decide (32 * r ≤ i) && lanes.getLsbD (i % 32))), hkey]
  by_cases h : r ≤ n ∧ lanes.getLsbD l = true
  · simp [h]
  · rw [if_neg h, if_pos]
    simpa [Classical.or_iff_not_imp_left] using h

/-- What SCRUB sets of the scoreboard keeps within what every issue may change. -/
theorem advanced_scrubRecent {x : Ctx} {s t : State} {pc : DWord} (h : Advanced x s t pc) (first : Nat) : Advanced x s (scrubRecent x t first) pc := by
  have hw := advanced_modWarp h (f := fun wp =>
    { wp with pend := (((List.range (8 * x.wp.blocks - 8 * first)).map (8 * first + ·)).map fun i => { code := i, lanes := x.gn.mask, left := 3 : Pend }) ++ wp.pend })
    (fun _ => rfl) (fun _ => rfl)
  unfold scrubRecent
  dsimp only
  split
  · exact hw
  · exact advanced_modGang hw (fun _ => rfl) (fun _ => rfl)

section
variable {s : State} {x : Ctx} {m : BitVec 8} {a b : Reg} (hx : ctxOf s = some x) (h : Issues x (scrubForm x m a b (scrubFirst x m a)))
  (hr : m.getLsbD 2 = true → scrubRange x (loW (x.rd64 0 b)).toNat (hiW (x.rd64 0 b)).toNat = .ok ())
include hx h

/-- The last step of SCRUB: the scoreboard of the registers that it zeroes. -/
theorem run_scrub {body : Ctx → Except Stop State} {s' : State} (t : State) {pc : DWord} (hb : body x = .ok (if m.getLsbD 0 then scrubRecent x t (scrubFirst x m a) else t))
    (ht : Advanced x s' t pc) : Answers (run s body) x s' pc := by
  refine ⟨_, run_checked hx h (by rw [hb, check_of_issues h]; rfl), ?_⟩
  split
  · exact advanced_scrubRecent ht _
  · exact ht

include hr

theorem scrub_plain (h3 : m.getLsbD 3 = false) :
    Answers (exec (.scrub m a b) s) x (scrubEffect x m (scrubFirst x m a) (loW (x.rd64 0 b)).toNat (hiW (x.rd64 0 b)).toNat) (nextSlot x.gn.pc) := by
  refine run_scrub hx h (retire x (scrubForm x m a b (scrubFirst x m a))
    (scrubEffect x m (scrubFirst x m a) (loW (x.rd64 0 b)).toNat (hiW (x.rd64 0 b)).toNat)) ?_ (retireTo_advanced x _ _ _ (fun _ => 0) 0 h.running)
  dsimp only
  rw [check_of_issues h, except_ok_bind, ite_passing hr, h3]
  rfl

theorem scrub_matrix (h3 : m.getLsbD 3 = true) (hb : batchHeld x = false) (ht : Takes x .mq) :
    let y := { x with s := scrubEffect x m (scrubFirst x m a) (loW (x.rd64 0 b)).toNat (hiW (x.rd64 0 b)).toNat }
    Answers (exec (.scrub m a b) s) x (queuedMq y .scrubMatrix [] none fun mx => { mx with issuedNkb := none, issuedEpi := 0x0A00 }) (nextSlot x.gn.pc) := by
  intro y
  have hmask : need ((queueMask y.c y.did).testBit 2) engineFault = .ok () := by
    rw [show (queueMask y.c y.did).testBit 2 = true from ht.mask]
    rfl
  have henter : enterMq y (scrubForm x m a b (scrubFirst x m a)) .scrubMatrix [] none (fun mx => { mx with issuedNkb := none, issuedEpi := 0x0A00 }) =
      .ok (retire y (scrubForm x m a b (scrubFirst x m a)) (queuedMq y .scrubMatrix [] none fun mx => { mx with issuedNkb := none, issuedEpi := 0x0A00 })) := by
    rw [enterMq, hmask, except_ok_bind, needCount_ok (x := y) (c := .ec) ht.count, except_ok_bind, if_neg (Nat.not_le.mpr (mq_room hx ht))]
    rfl
  have hadv := retireTo_advanced y (scrubForm x m a b (scrubFirst x m a))
    (queuedMq y .scrubMatrix [] none fun mx => { mx with issuedNkb := none, issuedEpi := 0x0A00 }) (nextSlot x.gn.pc) (fun _ => 0) 0 h.running
  refine run_scrub hx h _ ?_ ⟨hadv.rest, hadv.cores, hadv.core, hadv.warps, hadv.warp, hadv.gangs, hadv.gang, hadv.pc⟩
  dsimp only
  rw [check_of_issues h, except_ok_bind, ite_passing hr, h3, hb]
  exact congrArg (· >>= fun t => (pure (if m.getLsbD 0 = true then scrubRecent x t (scrubFirst x m a) else t) : Except Stop State)) henter

end

/-- Settles O43. -/
theorem scrubInstruction : Obligations.ScrubInstruction := by
  intro s x m a b hx first lo n h hr
  refine ⟨fun h3 => scrub_plain hx h hr h3, fun h3 hb ht => scrub_matrix hx h hr h3 hb ht, fun r l hl _ hm hge => ?_, fun r l hl hout => ?_⟩
  · rw [vreg_scrubRegs _ _ _ _ _ hl, if_pos ⟨hge, hm⟩]
  · rw [vreg_scrubRegs _ _ _ _ _ hl, if_neg]
    rintro ⟨hge, hm⟩
    rcases hout with hout | hout
    · rw [hm] at hout
      exact Bool.noConfusion hout
    · omega

end Sys2Proof.Machine

/-! SUPPORT. Call gates: passage (R284, R286), and what a frame saves and gives back (R284 steps 7 to 9, R286). -/

namespace Sys2Proof.Machine

open Sys2Proof.Safety

/-! ## What a gate saves and restores -/

theorem get?_append {α : Type} (m n : AMap α) (k : Nat) : AMap.get? (m ++ n) k = (AMap.get? m k).or (AMap.get? n k) := by
  induction m with
  | nil => rfl
  | cons p m ih =>
    obtain ⟨i, v⟩ := p
    by_cases h : i = k
    · simp [AMap.get?, h]
    · simpa [AMap.get?, h] using ih

/-- What is kept of a map by its keys reads as before at those keys, and the default at others. -/
theorem getD_filter_key {α : Type} (m : AMap α) (p : Nat → Bool) (k : Nat) (d : α) :
    AMap.getD (m.filter fun (i, _) => p i) k d = if p k = true then AMap.getD m k d else d := by
  rw [AMap.getD, AMap.get?_filter_key m p k, AMap.getD]
  split <;> rfl

/-- One map's keys that pass, then the other's that do not: each key reads as in the map that supplies it. -/
theorem getD_merge {α : Type} (m n : AMap α) (p : Nat → Bool) (k : Nat) (d : α) :
    AMap.getD ((m.filter fun (i, _) => p i) ++ n.filter fun (i, _) => !p i) k d = if p k = true then AMap.getD m k d else AMap.getD n k d := by
  rw [AMap.getD, get?_append, AMap.get?_filter_key m p k, AMap.get?_filter_key n (fun i => !p i) k]
  cases hp : p k <;> simp [AMap.getD]

theorem key_lt {n l : Nat} (k : Nat) (hl : l < 32) : decide (32 * n + l < 32 * k) = decide (n < k) :=
  decide_eq_decide.mpr (by omega)

/-- The frame that a GATE pushes (R284 step 7). -/
def gateFrame (wp : Warp) (gn : Gang) (d : Reg) (e : GateEntry) : GateFrame :=
  { nargs := e.nargs, vregs := wp.vregs.filter fun (i, _) => !decide (i < 32 * e.nargs), vpoison := wp.vpoison.filter fun (i, _) => !decide (i < e.nargs),
    sregs := wp.sregs.filter fun (i, _) => !decide (i < 16), spoison := wp.spoison.filter fun (i, _) => !decide (i < 16),
    preds := wp.preds, ppoison := wp.ppoison, mode := gn.mode, stack := gn.stack, ret := nextSlot gn.pc, dst := d, caller := wp.didNow, view := wp.view }

section
variable (wp : Warp) (g : Nat) (gn : Gang) (d : Reg) (e : GateEntry)

theorem frames_enterGate : (wp.enterGate g gn d e).frames = gateFrame wp gn d e :: wp.frames := rfl

theorem vreg_enterGate (n l : Nat) (hl : l < 32) : (wp.enterGate g gn d e).vreg n l = if n < e.nargs then wp.vreg n l else 0 := by
  unfold Warp.vreg Warp.enterGate
  dsimp only
  rw [getD_filter_key wp.vregs (fun i => decide (i < 32 * e.nargs)), key_lt e.nargs hl]
  simp only [decide_eq_true_eq]

theorem sreg_enterGate (n : Nat) : (wp.enterGate g gn d e).sreg n = if n < 16 then wp.sreg n else 0 := by
  unfold Warp.sreg Warp.enterGate
  dsimp only
  rw [getD_filter_key wp.sregs (fun i => decide (i < 16))]
  simp only [decide_eq_true_eq]

theorem predMask_enterGate (n : Nat) (hn : n < 7) : predMask (wp.enterGate g gn d e) n = 0 := by
  rw [predMask, if_neg (by omega)]
  rfl

end

/-- A write to a scalar field leaves every vector register, the predicates and the rest as they are. -/
theorem dstS_scalar {d : Reg} (hd : Reg.sz d = true) (wp : Warp) (v : Nat) :
    (wp.dstS d 1 v).vregs = wp.vregs ∧ (wp.dstS d 1 v).preds = wp.preds ∧ (wp.dstS d 1 v).didNow = wp.didNow ∧ (wp.dstS d 1 v).view = wp.view ∧
      (wp.dstS d 1 v).frames = wp.frames ∧ (wp.dstS d 1 v).gangs = wp.gangs := by
  cases d with
  | s i => exact ⟨rfl, rfl, rfl, rfl, rfl, rfl⟩
  | z => exact ⟨rfl, rfl, rfl, rfl, rfl, rfl⟩
  | _ => cases hd

theorem sreg_dstS {d : Reg} (hd : Reg.sz d = true) (wp : Warp) (v : Nat) (n : Fin 64) :
    (wp.dstS d 1 v).sreg n = if d = .s n then w32 v else wp.sreg n := by
  cases d with
  | s i =>
    have hv : (wp.dstS (.s i) 1 v) = wp.setS i (w32 (v / 2 ^ (32 * 0))) := rfl
    rw [hv, sreg_setS]
    simp [Fin.val_inj]
  | z => rfl
  | _ => cases hd

section
variable {wp callee : Warp} {g : Nat} {gn gn' : Gang} {d : Reg} {e : GateEntry} (hd : Reg.sz d = true)
  (hf : callee.frames = (wp.enterGate g gn d e).frames)
include hf

theorem leaveGate_eq : callee.leaveGate g gn' = (callee.restoreFrame g gn' (gateFrame wp gn d e) wp.frames).dstS d 1 0 := by
  rw [frames_enterGate] at hf
  rw [Warp.leaveGate, hf]
  rfl

include hd

theorem vreg_leaveGate (n l : Nat) (hl : l < 32) : (callee.leaveGate g gn').vreg n l = if n < e.nargs then callee.vreg n l else wp.vreg n l := by
  unfold Warp.vreg
  rw [leaveGate_eq hf, (dstS_scalar hd _ 0).1]
  refine (getD_merge callee.vregs wp.vregs (fun i => decide (i < 32 * e.nargs)) (32 * n + l) 0).trans ?_
  rw [key_lt e.nargs hl]
  simp only [decide_eq_true_eq]

theorem sreg_leaveGate (n : Fin 64) : (callee.leaveGate g gn').sreg n = if d = .s n then 0 else if n.val < 16 then callee.sreg n else wp.sreg n := by
  rw [leaveGate_eq hf, sreg_dstS hd]
  refine if_congr Iff.rfl rfl ((getD_merge callee.sregs wp.sregs (fun i => decide (i < 16)) n 0).trans ?_)
  simp only [decide_eq_true_eq]
  rfl

/-- What the return gives back besides the registers: the predicates, the domain, the view, the frames, the gang's stack and mode. -/
theorem rest_leaveGate : (callee.leaveGate g gn').preds = wp.preds ∧ (callee.leaveGate g gn').didNow = wp.didNow ∧ (callee.leaveGate g gn').view = wp.view ∧
    (callee.leaveGate g gn').frames = wp.frames ∧ (callee.leaveGate g gn').gangs = AMap.put callee.gangs g { gn' with stack := gn.stack, mode := gn.mode } := by
  rw [leaveGate_eq hf]
  obtain ⟨-, hp, hdid, hview, hfr, hg⟩ := dstS_scalar hd (callee.restoreFrame g gn' (gateFrame wp gn d e) wp.frames) 0
  rw [hp, hdid, hview, hfr, hg]
  exact ⟨rfl, rfl, rfl, rfl, rfl⟩

end

/-! ## Passage -/

/-- The forms of GATE and GRET. -/
abbrev gateForm (d : Reg) (n : BitVec 16) : Form :=
  { op := 0xB0, classes := Reg.sz d && decide (n.toNat ≤ 63), guard := false, once := true, writes := [(d, 1)] }
abbrev gretForm : Form := { op := 0xB1, guard := false, once := true }

theorem gateRegs_ok {x : Ctx} {n : Nat} (h : pendingOn x (gateCodes x.wp n) = false) : gateRegs x n = .ok () := by
  rw [gateRegs, h]
  rfl

section
variable {s : State} {x : Ctx} (hx : ctxOf s = some x)
include hx

theorem gate_runs {d : Reg} {n : BitVec 16} {e : GateEntry} (h : Issues x (gateForm d n)) (hc : gateChecks x n.toNat = .ok e)
    (hp : pendingOn x (gateCodes x.wp e.nargs) = false) :
    let flushed := flushEntries x.s x.k fun _ => true
    let mark := (coreAt flushed x.k).nextId
    (gateDrained flushed x.k x.w x.wp mark = true → Answers (exec (.gate d n) s) x (passGate flushed x.k x.w x.g d e) (slot0 e.entry)) ∧
    (gateDrained flushed x.k x.w x.wp mark = false →
      ∃ t, exec (.gate d n) s = .next t ∧ ∀ gn, gangAt t x.k x.w x.g = some gn → gn.status = .waiting (.gate d e mark)) := by
  intro flushed mark
  refine ⟨fun hdr => ?pass, fun hdr => ?wait⟩
  case pass =>
    refine run_checked_retireTo (f := gateForm d n) (g := gateForm d n) (r := fun _ => 0) (extra := 0) hx h ?_
    dsimp only
    rw [hc, except_ok_bind, gateRegs_ok hp, except_ok_bind, if_pos hdr]
  case wait =>
    refine ⟨_, run_checked (t := beginWait x (gateForm d n) flushed (.gate d e mark)) hx h ?_, fun gn hg => beginWait_status hg⟩
    dsimp only
    rw [hc, except_ok_bind, gateRegs_ok hp, except_ok_bind, if_neg (by rw [hdr]; exact Bool.false_ne_true)]

theorem gret_runs {fr : GateFrame} {rest : List GateFrame} (h : Issues x gretForm) (hf : x.wp.frames = fr :: rest) (hconv : x.wp.converged = true)
    (hown : ownsBatch x = false) (hp : pendingOn x (gateCodes x.wp fr.nargs) = false) :
    let flushed := flushEntries x.s x.k fun _ => true
    let mark := (coreAt flushed x.k).nextId
    (gateDrained flushed x.k x.w x.wp mark = true → Answers (exec .gret s) x (passReturn flushed x.k x.w x.g) x.wp.gateReturn) ∧
    (gateDrained flushed x.k x.w x.wp mark = false →
      ∃ t, exec .gret s = .next t ∧ ∀ gn, gangAt t x.k x.w x.g = some gn → gn.status = .waiting (.gret mark)) := by
  intro flushed mark
  have hempty : (!x.wp.frames.isEmpty) = true := by rw [hf]; rfl
  have hbatch : (!ownsBatch x) = true := by rw [hown]; rfl
  refine ⟨fun hdr => ?pass, fun hdr => ?wait⟩
  case pass =>
    refine run_checked_retireTo (f := gretForm) (g := gretForm) (r := fun _ => 0) (extra := 0) hx h ?_
    dsimp only
    rw [hempty, hconv, hbatch, need_true, need_true, need_true, except_ok_bind, except_ok_bind, except_ok_bind, hf, gateRegs_ok hp, except_ok_bind, if_pos hdr]
  case wait =>
    refine ⟨_, run_checked (t := beginWait x gretForm flushed (.gret mark)) hx h ?_, fun gn hg => beginWait_status hg⟩
    dsimp only
    rw [hempty, hconv, hbatch, need_true, need_true, need_true, except_ok_bind, except_ok_bind, except_ok_bind, hf, gateRegs_ok hp, except_ok_bind,
      if_neg (by rw [hdr]; exact Bool.false_ne_true)]

end

section
variable {s : State} {k w g : Nat} {wp : Warp} {gn : Gang} (hw : warpAt s k w = some wp) (hg : wp.gangs = [(g, gn)])
include hw hg

theorem gateProceed_passes {d : Reg} {e : GateEntry} {mark : Nat} (hst : gn.status = .waiting (.gate d e mark)) (hdr : gateDrained s k w wp mark = true)
    (hp : wp.preempt = false) (hh : wp.halted = false) (hslot : ((slotOf (coreAt s k) e.target).any fun p => !p.2.halted) = true) :
    exec (.gateProceed k w) s = .next (wakeTo (passGate s k w g d e) k w g (slot0 e.entry)) := by
  show execGateProceed k w s = _
  simp only [execGateProceed, hw, hg, hst, hdr, hp, hh, hslot]
  rfl

theorem gretProceed_passes {mark : Nat} (hst : gn.status = .waiting (.gret mark)) (hdr : gateDrained s k w wp mark = true) (hp : wp.preempt = false)
    (hh : wp.halted = false) : exec (.gretProceed k w) s = .next (wakeTo (passReturn s k w g) k w g wp.gateReturn) := by
  show execGretProceed k w s = _
  simp only [execGretProceed, hw, hg, hst, hdr, hp, hh]
  rfl

end

/-- Settles O42. -/
theorem gatePassage : Obligations.GatePassage := by
  refine ⟨⟨?passage, ?proceed⟩, ?frame⟩
  case passage =>
    intro s x d n hx flushed mark
    exact ⟨fun e h hc hp => gate_runs hx h hc hp, fun fr rest h hf hconv hown hp => gret_runs hx h hf hconv hown hp⟩
  case proceed =>
    intro s k w g wp gn hw hg
    exact ⟨fun d e mark hst hdr hp hh hslot => gateProceed_passes hw hg hst hdr hp hh hslot,
      fun mark hst hdr hp hh => gretProceed_passes hw hg hst hdr hp hh⟩
  case frame =>
    intro wp callee g gn gn' d e hd inside
    refine ⟨fun n l hl => vreg_enterGate wp g gn d e n l hl, sreg_enterGate wp g gn d e, predMask_enterGate wp g gn d e, rfl, ?_, fun hf => ?_⟩
    · simp [inside, Warp.enterGate]
    · intro back
      obtain ⟨hp, hdid, hview, hfr, hg⟩ := rest_leaveGate (gn' := gn') hd hf
      refine ⟨fun n l hl => vreg_leaveGate hd hf n l hl, fun n hne => ?_, fun n he => ?_, fun n => ?_, hdid, hview, hfr, ?_, ?_⟩
      · rw [sreg_leaveGate hd hf, if_neg hne]
      · rw [sreg_leaveGate hd hf, if_pos he]
      · rw [predMask, predMask, hp]
      · rw [Warp.gateReturn, hf]
        rfl
      · rw [hg, AMap.get?_put_self]
        rfl

end Sys2Proof.Machine

/-! SUPPORT. The supervisor instructions: control registers (R126, R304, R333, R412), TRET, WFI, SIPI, TLBI, WSWAP and SNAP (R305, R306, R308). -/

namespace Sys2Proof.Machine

open Sys2Proof.Safety

/-- The state in which a supervisor instruction's completion step is still to come (R302). -/
def superPending (x : Ctx) (op : SvcOp) : State := x.s.modCore x.k fun c => { c with svc := { c.svc with op := some op } }

/-- A body that checks its form and leaves the rest to its completion step waits for the supervisor. -/
theorem run_superWait {s : State} {x : Ctx} {body : Ctx → Except Stop State} {f g : Form} {op : SvcOp} (hx : ctxOf s = some x) (h : Issues x f)
    (hb : body x = (do check x f; return superWait x g op)) : Waits (run s body) x (superPending x op) .supervisor := by
  rw [run_checked hx h hb]
  refine beginWait_waits g (superPending x op) .supervisor (pc_of_ctx hx ?_)
  exact gangAt_modCore rfl _ _ _

/-! ## CSRs -/

theorem csrr_answers {s : State} {x : Ctx} {d a : Reg} {t n : Nat} (hx : ctxOf s = some x) (ht : csrTarget x (x.rd 0 a) = .ok (t, n))
    (h : Issues x (csrForm 0xC0 d a none)) :
    Answers (exec (.csrr d a) s) x (x.setWarp (x.wp.dstS d 1 (csrRead (coreAt x.s t) n).toNat)) (nextSlot x.gn.pc) := by
  refine check_retire_answers (g := csrForm 0xC0 d a none) (r := fun _ => 0) hx h ?_
  dsimp only
  rw [ht, except_ok_bind]

theorem csrOp_waits {s : State} {x : Ctx} {op kind : Nat} {d a b : Reg} {t n : Nat} (hx : ctxOf s = some x) (ht : csrTarget x (x.rd 0 a) = .ok (t, n))
    (h : Issues x (csrForm op d a (some b))) (hv : csrAccepts n (csrNew kind (csrRead (coreAt x.s t) n) (x.rd 0 b)) = true) :
    Waits (csrOp op kind d a b s) x (superPending x (.csr t n kind (x.rd 0 b) d)) .supervisor := by
  refine run_superWait (g := csrForm op d a (some b)) hx h ?_
  dsimp only
  rw [ht, except_ok_bind, hv, need_true, except_ok_bind]

/-- The completion of a CSR write that is accepted (R302). -/
theorem csrEvent_done {s : State} {k t n kind : Nat} {b : Word} {d : Reg} {mine : Nat → Bool} (f : State → Nat → Nat → Word → State)
    (hop : (coreAt s k).svc.op = some (.csr t n kind b d)) (hm : mine n = true) (hv : csrAccepts n (csrNew kind (csrRead (coreAt s t) n) b) = true) :
    csrEvent k mine f s = .next (superDone (f s t n (csrNew kind (csrRead (coreAt s t) n) b)) k d (csrRead (coreAt s t) n).toNat) := by
  simp only [csrEvent, hop, hm, hv]
  rfl

/-- Settles O44. -/
theorem controlRegisters : Obligations.ControlRegisters := by
  refine ⟨fun s x d a b t n hx ht => ⟨fun h => csrr_answers hx ht h, ?writes⟩, fun s k t n kind b d hop => ?done⟩
  case writes =>
    simp only [List.forall_mem_cons, List.not_mem_nil, false_implies, implies_true, and_true]
    exact ⟨fun h hv => csrOp_waits hx ht h hv, fun h hv => csrOp_waits hx ht h hv, fun h hv => csrOp_waits hx ht h hv⟩
  case done =>
    intro old v hv
    refine ⟨fun hn => ?_, fun hn => ?_, fun hlo hhi => ?_, fun hn => ?_⟩
    · exact csrEvent_done (fun s t _ v => s.modCore t fun c => { c with isctl := v, greedy := [] }) hop (decide_eq_true hn) hv
    · exact csrEvent_done (fun s t _ v => s.modCore t fun c => { c with svc := { c.svc with ipend := c.svc.ipend &&& v.setWidth 3 } }) hop (decide_eq_true hn) hv
    · exact csrEvent_done (fun s t n v => s.modCore t fun c => { c with watch := AMap.put c.watch (n - 0x40) (latchWatch s t (n - 0x40) v) }) hop
        (by rw [decide_eq_true hlo, decide_eq_true hhi]; rfl) hv
    · refine csrEvent_done (fun s t n v => s.modCore t fun c => csrWrite c n v) hop ?_ hv
      rcases hn with ⟨hlo, hhi, hne⟩ | hn
      · simp [csrLocal, hlo, hhi, hne]
      · simp [hn]

/-! ## TRET, WFI, SIPI, TLBI, WSWAP and SNAP -/

/-- The form of a supervisor instruction without fields. -/
abbrev plainForm (op : Nat) : Form := { op := op, guard := false, once := true }
/-- The form of TLBI with the fields that its kind uses. -/
abbrev tlbiForm (a b : Option Reg) : Form :=
  { op := 0xC7, classes := (match a with | some r => Reg.unif r | none => true) && (match b with | some r => Reg.spair r | none => true),
    guard := false, once := true, more := (match a with | some r => [(r, 1)] | none => []) ++ (match b with | some r => [(r, 2)] | none => []) }
abbrev sipiForm (a b : Reg) : Form := { op := 0xC6, classes := Reg.unif a && Reg.unif b, guard := false, once := true, more := [(a, 1), (b, 1)] }
abbrev wswapForm (d : Reg) (ok : Bool) : Form := { op := 0xCC, classes := Reg.sz d && ok, guard := false, once := true, writes := [(d, 1)] }

/-- The entries that a TLBI removes, and the refusals that it drops (R306). -/
def tlbiGone (x : Ctx) (a b : Option Reg) (e : TlbEntry) : Bool :=
  (match a with | some r => decide (e.did.toNat = (x.rd 0 r).toNat) | none => true) &&
    (match b with | some r => e.ofPage e.did (vaNat (x.rd64 0 r)) | none => true)
def tlbiDrop (x : Ctx) (a b : Option Reg) (d : BitVec 16) (p : Nat) : Bool :=
  (match a with | some r => decide (d.toNat = (x.rd 0 r).toNat) | none => true) && (match b with | some r => decide (p = pageOf (x.rd64 0 r)) | none => true)

section
variable {s : State} {x : Ctx} (hx : ctxOf s = some x)
include hx

theorem tlbi_answers {a b : Option Reg} (h : Issues x (tlbiForm a b)) :
    Answers (tlbi a b s) x (removeEntries x.s x.part (tlbiGone x a b) (tlbiDrop x a b)) (nextSlot x.gn.pc) := by
  refine check_retire_answers (f := tlbiForm a b) (g := tlbiForm a b) (r := fun _ => 0) hx h ?_
  cases a <;> cases b <;> rfl

theorem wfi_runs (h : Issues x (plainForm 0xC5)) :
    (x.c.svc.ipend ≠ 0 → Answers (exec .wfi s) x x.s (nextSlot x.gn.pc)) ∧
    (x.c.svc.ipend = 0 → Waits (exec .wfi s) x (superPending x .wfi) .supervisor) := by
  refine ⟨fun hp => check_retire_answers (g := plainForm 0xC5) (r := fun _ => 0) hx h ?_, fun hp => run_superWait (g := plainForm 0xC5) hx h ?_⟩
  · dsimp only
    rw [if_pos hp]
  · dsimp only
    rw [if_neg (not_not_intro hp)]

theorem sipi_runs {a b : Reg} (h : Issues x (sipiForm a b)) (hz : bitsW (x.rd 0 a) 31 8 = 0)
    (hs : (partAt x.s x.part).slices.contains (bitsW (x.rd 0 a) 4 0) = true) :
    let t := sipiTarget (x.rd 0 a)
    ((coreAt x.s t).svc.ipend.getLsbD 0 = false → Answers (exec (.sipi a b) s) x (deliverMsg x.s t (x.rd 0 b)) (nextSlot x.gn.pc)) ∧
    ((coreAt x.s t).svc.ipend.getLsbD 0 = true → Waits (exec (.sipi a b) s) x (superPending x (.sipi t (x.rd 0 b))) .supervisor) := by
  intro t
  refine ⟨fun hp => check_retire_answers (g := sipiForm a b) (r := fun _ => 0) hx h ?_, fun hp => run_superWait (g := sipiForm a b) hx h ?_⟩
  all_goals
    dsimp only
    rw [hz, hs, hp]
    rfl

theorem wswap_answers {d : Reg} {n : BitVec 16} (hp : n.toNat ≤ 95) (hpair : x.s.paired.contains n.toNat = true)
    (hr : regionOf x.s x.part (2 * n.toNat) = true) (h : Issues x { op := 0xCC, classes := Reg.sz d, guard := false, once := true, writes := [(d, 1)] }) :
    let new := if (partAt x.s x.part).current.contains n.toNat then 0 else 1
    writePending x.s x.part (2 * n.toNat + new) = false →
    Answers (exec (.wswap d n) s) x ((x.setWarp (x.wp.dstS d 1 new)).modPart x.part fun pt =>
      { pt with current := if new = 1 then n.toNat :: pt.current else pt.current.filter fun q => decide (q ≠ n.toNat) }) (nextSlot x.gn.pc) := by
  intro new hw
  have hok : (decide (n.toNat ≤ 95) && x.s.paired.contains n.toNat && regionOf x.s x.part (2 * n.toNat)) = true := by
    rw [decide_eq_true hp, hpair, hr]
    rfl
  have h' : Issues x (wswapForm d (decide (n.toNat ≤ 95) && x.s.paired.contains n.toNat && regionOf x.s x.part (2 * n.toNat))) := by
    rw [hok, wswapForm, Bool.and_true]
    exact h
  refine check_retire_answers (g := wswapForm d (decide (n.toNat ≤ 95) && x.s.paired.contains n.toNat && regionOf x.s x.part (2 * n.toNat)))
    (r := fun _ => 0) hx h' ?_
  dsimp only
  rw [if_neg (by rw [hw]; exact Bool.false_ne_true)]

end

/-- Settles O45. -/
theorem supervisorInstructions : Obligations.SupervisorInstructions := by
  refine ⟨fun s x hx => ?instrs, fun s k => ⟨fun hop hp => ?wake, fun t m hop hp => ?deliver⟩⟩
  case instrs =>
    intro f
    refine ⟨fun h => run_checked_retireTo (f := plainForm 0xC4) (g := plainForm 0xC4) (r := fun _ => 0) (extra := 0) hx h rfl, fun h => wfi_runs hx h,
      fun n h => check_retire_answers (g := plainForm 0xCE) (r := fun _ => 0) hx h rfl, fun a b h hz hs => sipi_runs hx h hz hs, fun a b => ?tlbi,
      fun d n => ?wswap⟩
    case wswap =>
      intro p new hp hpair hr h hw
      exact wswap_answers hx hp hpair hr h hw
    case tlbi =>
      refine ⟨fun h => tlbi_answers (a := none) (b := none) hx h, fun h => ?dom, fun h => tlbi_answers (a := some a) (b := some b) hx h,
        fun h => tlbi_answers (a := none) (b := some b) hx h⟩
      case dom =>
        have := tlbi_answers (a := some a) (b := none) hx (by simpa only [tlbiForm, Bool.and_true, List.append_nil] using h)
        rwa [show tlbiGone x (some a) none = fun e => decide (e.did.toNat = (x.rd 0 a).toNat) from funext fun e => Bool.and_true _,
          show tlbiDrop x (some a) none = fun d _ => decide (d.toNat = (x.rd 0 a).toNat) from funext fun d => funext fun _ => Bool.and_true _] at this
  case wake =>
    show execWfiWake k s = _
    simp only [execWfiWake, hop, hp, if_false]
  case deliver =>
    show execSipiDeliver k s = _
    simp only [execSipiDeliver, hop, hp]
    rfl

end Sys2Proof.Machine

/-! SUPPORT. Domains: slots written (R306, R316), saved and restored (R307, R337 to R339), pre-emption (R307, R336), requests to services (R308). -/

namespace Sys2Proof.Machine

open Sys2Proof.Safety

abbrev dslwForm (a b : Reg) : Form :=
  { op := 0xC8, classes := Reg.unif a && groupReg b 56, guard := false, once := true, more := (a, 1) :: groupReads b 8 }
abbrev saveForm (op : Nat) (a b : Reg) : Form :=
  { op := op, classes := Reg.unif a && Reg.spair b, guard := false, once := true, more := [(a, 1), (b, 2)] }
abbrev dpreForm (d a b : Reg) : Form :=
  { op := 0xC9, classes := Reg.sz d && Reg.unif a && Reg.unif b, guard := false, once := true, more := [(a, 1), (b, 1)], writes := [(d, 1)] }
abbrev hgmbForm (d a : Reg) : Form :=
  { op := 0xCD, classes := Reg.sz d && Reg.spair a, guard := false, once := true, more := [(a, 2)], writes := [(d, 1)] }

section
variable {s : State} {x : Ctx} {d a b : Reg} (hx : ctxOf s = some x)
include hx

section
variable {k n : Nat} (hsel : slotSelector x (x.rd 0 a) = .ok (k, n))
include hsel

theorem dslw_answers :
    let old := AMap.getD (coreAt x.s k).slots n {}
    let new := slotImage ((List.range 8).map (groupWord x b))
    Issues x (dslwForm a b) → dslwChecks x.s x.part k n new = .ok () → (isReset old new && domainRuns x.s k old.did) = false →
    Answers (exec (.dslw a b) s) x (writeSlot x.s x.part k n new) (nextSlot x.gn.pc) := by
  intro old new h hc hr
  refine check_retire_answers (f := dslwForm a b) (g := dslwForm a b) (r := fun _ => 0) hx h ?_
  dsimp only
  rw [hsel, except_ok_bind, hc, except_ok_bind, if_neg (by rw [hr]; exact Bool.false_ne_true)]

theorem ctxs_answers :
    let old := AMap.getD (coreAt x.s k).slots n {}
    let pa := (x.rd64 0 b).toNat
    Issues x (saveForm 0xCA a b) → old.valid = true → old.halted = true → domainStopped x.s old.did k = true → saveAreaOk x.s x.part old pa = true →
    x.s.liveSerials.length < 65536 → writesOut (coreAt x.s k) old.did = false →
    Answers (exec (.ctxs a b) s) x (saveDomain x.s x.part k n old pa) (nextSlot x.gn.pc) := by
  intro old pa h hv hh hst harea hlive hout
  refine check_retire_answers (f := saveForm 0xCA a b) (g := saveForm 0xCA a b) (r := fun _ => 0) hx h ?_
  dsimp only
  rw [hsel, except_ok_bind, hv, need_true, except_ok_bind, hh, hst, Bool.and_self, need_true, except_ok_bind, harea, need_true, except_ok_bind,
    need_ok hlive, except_ok_bind, if_neg (by rw [hout]; exact Bool.false_ne_true)]

theorem ctxl_answers {sv : Saved} {ws : List (Nat × Nat)} :
    let old := AMap.getD (coreAt x.s k).slots n {}
    let pa := (x.rd64 0 b).toNat
    Issues x (saveForm 0xCB a b) → old.valid = true → saveAreaOk x.s x.part old pa = true → headerAgrees x.s x.part pa old = true →
    savedAt x.s x.part pa = some sv → sv.did = old.did → sv.world = old.world → sv.groups = (groupList old.groups).length →
    warpsOf (coreAt x.s k) old.did = [] → slotsFor (coreAt x.s k) old (sv.warps.map Prod.fst) = some ws →
    unitsClosed (coreAt x.s k) old sv = false →
    let m : Move :=
      { old := sv.groupList, new := groupList old.groups, core := k, ids := (coreAt x.s k).nextId, ages := (coreAt x.s k).residents, slots := ws,
        blocks := (coreAt x.s k).blockSerial, clk := (coreAt x.s k).clk.toNat }
    Answers (exec (.ctxl a b) s) x (restoreDomain x.s x.part k n sv m) (nextSlot x.gn.pc) := by
  intro old pa h hv harea hhead hsv hdid hworld hgroups hnone hslots hopen m
  have hsame : (decide (sv.did = old.did) && (sv.world == old.world) && decide (sv.groups = (groupList old.groups).length)) = true := by
    rw [decide_eq_true hdid, hworld, decide_eq_true hgroups, beq_self_eq_true]
    rfl
  refine check_retire_answers (f := saveForm 0xCB a b) (g := saveForm 0xCB a b) (r := fun _ => 0) hx h ?_
  dsimp only
  rw [hsel, except_ok_bind, hv, need_true, except_ok_bind, harea, hhead, Bool.and_self, need_true, except_ok_bind, hsv]
  dsimp only
  rw [hsame, need_true, except_ok_bind, hnone, List.isEmpty_nil, need_true, except_ok_bind, hslots]
  dsimp only
  rw [if_neg (by rw [hopen]; exact Bool.false_ne_true)]

end

/-- The cores to which a DPRE goes (R307). -/
def dpreCores (x : Ctx) : Option Nat → List Nat
  | some k => [k]
  | none => (coresOfPart x.s x.part).filter isCompute

theorem dpre_runs {k : Nat × Option Nat} (h : Issues x (dpreForm d a b)) (hz : bitsW (x.rd 0 a) 31 16 = 0) (hsel : selectorOf x (x.rd 0 b) true = .ok k) :
    let ks := dpreCores x k.2
    let did : BitVec 16 := (x.rd 0 a).setWidth 16
    let s' := ks.foldl (fun s k => preemptCore s did k) x.s
    let t := beginWait { x with s := s' } (dpreForm d a b)
      (s'.modCore x.k fun c => { c with svc := { c.svc with op := some (.dpre ks did (dpreCount x.s did ks) d) } }) .supervisor
    exec (.dpre d a b) s = .next t ∧ ∀ gn, gangAt t x.k x.w x.g = some gn → gn.status = .waiting .supervisor := by
  intro ks did s' t
  refine ⟨run_checked (f := dpreForm d a b) hx h ?_, fun gn hg => beginWait_status (x := { x with s := s' }) hg⟩
  obtain ⟨n, k⟩ := k
  dsimp only
  rw [need_ok hz, except_ok_bind, hsel, except_ok_bind]
  cases k <;> rfl

theorem hgmb_runs :
    let va := x.rd64 0 a
    let split := min 256 (4096 - va.toNat % 4096)
    let lo := keyAt x.s x.k x.did none va
    let hi := if split = 256 then lo else keyAt x.s x.k x.did none (va + BitVec.ofNat 64 split)
    Issues x (hgmbForm d a) → va.toNat % 64 = 0 → issueCheck x { size := 64, write := true } [va, va + 252] = .ok () →
    let kernels := (potAt x.s lo).owner = 0xFFFF ∧ (potAt x.s hi).owner = 0xFFFF
    (¬ kernels → Answers (exec (.hgmb d a) s) x (x.setWarp (x.wp.dstS d 1 1)) (nextSlot x.gn.pc)) ∧
    (kernels → services.contains (memNat x.s lo 4) = true →
      Waits (exec (.hgmb d a) s) x (superPending x (.hgmb (memNat x.s lo 4) lo hi split d)) .supervisor) ∧
    (kernels → services.contains (memNat x.s lo 4) = false →
      Answers (exec (.hgmb d a) s) x (homeWriteNat (x.setWarp (x.wp.dstS d 1 2)) lo 4 2) (nextSlot x.gn.pc)) := by
  intro va split lo hi h h64 hpages kernels
  have howner : (decide ((potAt x.s lo).owner ≠ 0xFFFF) || decide ((potAt x.s hi).owner ≠ 0xFFFF)) = true ↔ ¬ kernels := by
    rw [Bool.or_eq_true, decide_eq_true_eq, decide_eq_true_eq, not_and_or]
  refine ⟨fun hk => ?other, fun hk hs => ?service, fun hk hs => ?unknown⟩
  case other =>
    refine check_retire_answers (f := hgmbForm d a) (g := hgmbForm d a) (r := fun _ => 0) hx h ?_
    dsimp only
    rw [need_ok h64, except_ok_bind, hpages, except_ok_bind, if_pos (howner.mpr hk)]
  case service =>
    refine run_superWait (f := hgmbForm d a) (g := hgmbForm d a) hx h ?_
    dsimp only
    rw [need_ok h64, except_ok_bind, hpages, except_ok_bind, if_neg (fun hc => howner.mp hc hk), if_pos hs]
  case unknown =>
    refine check_retire_answers (f := hgmbForm d a) (g := hgmbForm d a) (r := fun _ => 0) hx h ?_
    dsimp only
    rw [need_ok h64, except_ok_bind, hpages, except_ok_bind, if_neg (fun hc => howner.mp hc hk), if_neg (by rw [hs]; exact Bool.false_ne_true)]

end

theorem warpHalt_halts {s : State} {k w : Nat} {wp : Warp} (hw : warpAt s k w = some wp) (hp : wp.preempt = true) (hh : wp.halted = false)
    (hrun : ∀ ac ∈ (coreAt s k).inflight, ac.w = w → ac.warpAge = wp.age → keepsRunning ac = false) :
    exec (.warpHalt k w) s = .next (s.modWarp k w fun wp => { wp with halted := true }) := by
  have hnone : ((coreAt s k).inflight.any fun ac => decide (ac.w = w) && decide (ac.warpAge = wp.age) && keepsRunning ac) = false := by
    rw [List.any_eq_false]
    intro ac hac
    by_cases h : ac.w = w ∧ ac.warpAge = wp.age
    · simp [hrun ac hac h.1 h.2]
    · rw [not_and_or] at h
      rcases h with h | h <;> simp [h]
  show execWarpHalt k w s = _
  simp only [execWarpHalt, hw, hp, hh, hnone]
  rfl

/-- Settles O46. -/
theorem domainInstructions : Obligations.DomainInstructions := by
  refine ⟨fun s x d a b hx => ⟨fun k n hsel => ?slots, fun k h hz hsel => ?dpre, ?hgmb⟩, fun s k w => ⟨fun wp hw hp hh hrun => warpHalt_halts hw hp hh hrun, ?done⟩⟩
  case slots =>
    intro old pa save
    refine ⟨?_, fun h hv hh hst harea hlive hout => ctxs_answers hx hsel h hv hh hst harea hlive hout,
      fun sv ws h hv harea hhead hsv hdid hworld hgroups hnone hslots hopen => ctxl_answers hx hsel h hv harea hhead hsv hdid hworld hgroups hnone hslots hopen⟩
    intro new h hc hr
    exact dslw_answers hx hsel h hc hr
  case dpre =>
    obtain ⟨n, k⟩ := k
    cases k <;> exact ⟨_, (dpre_runs hx h hz hsel).1, rfl, (dpre_runs hx h hz hsel).2⟩
  case hgmb =>
    intro va split lo hi h h64 hpages wait kernels
    exact hgmb_runs hx h h64 hpages
  case done =>
    intro ks did n d hop hst
    have hall : ks.all (domainStopped s did) = true := List.all_eq_true.mpr hst
    show execDpreComplete k s = _
    simp only [execDpreComplete, hop, hall, if_true]

end Sys2Proof.Machine

/-! SUPPORT. How a load's data lands (R86, R88, R90): the registers of a lane that it names take its words, and no other register changes. -/

namespace Sys2Proof.Machine

theorem vreg_setV (wp : Warp) (n l : Nat) (v : Word) {i m : Nat} (hl : l < 32) (hm : m < 32) :
    (wp.setV n l v).vreg i m = if i = n ∧ m = l then v else wp.vreg i m := by
  refine (AMap.getD_putD _ _ _ _ _).trans (if_congr ?_ rfl rfl)
  omega

theorem landV_keeps (wp : Warp) (n l : Nat) (v : Word) (bad : Bool) :
    (wp.landV n l v bad).vregs = (wp.setV n l v).vregs ∧ (wp.landV n l v bad).sregs = wp.sregs ∧ (wp.landV n l v bad).gangs = wp.gangs := by
  cases bad <;> exact ⟨rfl, rfl, rfl⟩

/-- n registers from r on land in a lane, the rest stays (R86). -/
theorem foldl_landV (r l : Nat) (f : Nat → Word) (g : Nat → Bool) (n : Nat) (wp : Warp) (hl : l < 32) :
    let t := (List.range n).foldl (fun wp j => wp.landV (r + j) l (f j) (g j)) wp
    (∀ i m, m < 32 → t.vreg i m = if m = l ∧ r ≤ i ∧ i < r + n then f (i - r) else wp.vreg i m) ∧ t.sregs = wp.sregs ∧ t.gangs = wp.gangs := by
  induction n with
  | zero =>
    refine ⟨fun i m _ => ?_, rfl, rfl⟩
    rw [if_neg (by omega)]
    rfl
  | succ n ih =>
    obtain ⟨hv, hs, hg⟩ := ih
    intro t
    have ht : t = ((List.range n).foldl (fun wp j => wp.landV (r + j) l (f j) (g j)) wp).landV (r + n) l (f n) (g n) := by
      simp only [t, List.range_succ, List.foldl_append, List.foldl_cons, List.foldl_nil]
    obtain ⟨kv, ks, kg⟩ := landV_keeps ((List.range n).foldl (fun wp j => wp.landV (r + j) l (f j) (g j)) wp) (r + n) l (f n) (g n)
    rw [ht]
    refine ⟨fun i m hm => ?_, ks.trans hs, kg.trans hg⟩
    rw [Warp.vreg, kv, ← Warp.vreg, vreg_setV _ _ _ _ hl hm, hv i m hm]
    by_cases h : i = r + n ∧ m = l
    · rw [if_pos h, if_pos ⟨h.2, by omega, by omega⟩, h.1, Nat.add_sub_cancel_left]
    · rw [if_neg h]
      refine if_congr ?_ rfl rfl
      omega

/-- The number that lands of a narrow load's bytes: extended with zeros or with its sign (R86). -/
def landValue (signed : Bool) (size v : Nat) : Nat :=
  if size < 4 then wrapN (if signed then sextN v (8 * size) else (v % 2 ^ (8 * size) : Nat)) 32 else v

theorem land_vec (wp : Warp) (r n l size v bad : Nat) (signed : Bool) :
    wp.land (.vec r n signed) l size v bad =
      (List.range n).foldl (fun wp j => wp.landV (r + j) l (w32 (landValue signed size v / 2 ^ (32 * j))) (decide (bad / 2 ^ j % 2 = 1))) wp := rfl

theorem wrapN_lt (v : Int) (w : Nat) : wrapN v w < 2 ^ w := by
  have h0 : 0 < ((2 ^ w : Nat) : Int) := by exact_mod_cast Nat.two_pow_pos w
  have := Int.emod_lt_of_pos v h0
  have := Int.emod_nonneg v h0.ne'
  rw [wrapN]
  omega

theorem ofNat_wrapN_toInt {w : Nat} (x : BitVec w) : BitVec.ofNat 32 (wrapN x.toInt 32) = x.signExtend 32 := by
  rw [BitVec.signExtend]
  apply BitVec.eq_of_toNat_eq
  rw [BitVec.toNat_ofNat, BitVec.toNat_ofInt, Nat.mod_eq_of_lt (wrapN_lt _ _), wrapN]

theorem ofNat_landValue (signed : Bool) {size v : Nat} (h : size = 1 ∨ size = 2) :
    BitVec.ofNat 32 (landValue signed size v) =
      if signed then BitVec.signExtend 32 (BitVec.ofNat (8 * size) v) else BitVec.setWidth 32 (BitVec.ofNat (8 * size) v) := by
  rw [landValue, if_pos (by omega)]
  cases signed with
  | true =>
    simp only [if_true]
    rw [sextN_eq_toInt, ofNat_wrapN_toInt]
  | false =>
    simp only [Bool.false_eq_true, if_false]
    rw [← BitVec.toNat_ofNat, ← BitVec.ofNat_toNat, wrapN, ← Int.natCast_mod, Int.toNat_natCast]
    exact BitVec.eq_of_toNat_eq (by simp)

/-- Register r + j of a narrow load takes bits 32j on of the extended value. -/
theorem w32_landValue (signed : Bool) {size v : Nat} (h : size = 1 ∨ size = 2) (j : Nat) :
    w32 (landValue signed size v / 2 ^ (32 * j)) =
      (if signed then BitVec.signExtend 32 (BitVec.ofNat (8 * size) v) else BitVec.setWidth 32 (BitVec.ofNat (8 * size) v)) >>> (32 * j) := by
  have hlt : landValue signed size v < 2 ^ 32 := by
    rw [landValue, if_pos (by omega)]
    exact wrapN_lt _ _
  rw [← ofNat_landValue signed h]
  apply BitVec.eq_of_toNat_eq
  rw [w32, BitVec.toNat_ofNat, BitVec.toNat_ushiftRight, BitVec.toNat_ofNat, Nat.mod_eq_of_lt hlt, Nat.shiftRight_eq_div_pow,
    Nat.mod_eq_of_lt (lt_of_le_of_lt (Nat.div_le_self _ _) hlt)]

/-- What a load makes of a lane's bytes (R86, R88). -/
theorem land_spec (wp : Warp) (r n l size v bad : Nat) (signed : Bool) (hl : l < 32) :
    let t := wp.land (.vec r n signed) l size v bad
    (∀ j, j < n →
      (size = 1 ∨ size = 2 → t.vreg (r + j) l =
        (if signed then BitVec.signExtend 32 (BitVec.ofNat (8 * size) v) else BitVec.setWidth 32 (BitVec.ofNat (8 * size) v)) >>> (32 * j)) ∧
      (4 ≤ size → t.vreg (r + j) l = BitVec.ofNat 32 (v / 2 ^ (32 * j)))) ∧
    (∀ i m, m < 32 → m ≠ l ∨ i < r ∨ r + n ≤ i → t.vreg i m = wp.vreg i m) ∧ t.sregs = wp.sregs ∧ t.gangs = wp.gangs := by
  rw [land_vec]
  obtain ⟨hv, hs, hg⟩ := foldl_landV r l (fun j => w32 (landValue signed size v / 2 ^ (32 * j))) (fun j => decide (bad / 2 ^ j % 2 = 1)) n wp hl
  refine ⟨fun j hj => ?_, fun i m hm hout => ?_, hs, hg⟩
  · have hword := hv (r + j) l hl
    rw [if_pos ⟨rfl, by omega, by omega⟩, Nat.add_sub_cancel_left] at hword
    refine ⟨fun hsize => hword.trans (w32_landValue signed hsize j), fun hsize => hword.trans ?_⟩
    rw [landValue, if_neg (by omega)]
    rfl
  · rw [hv i m hm, if_neg (by omega)]

end Sys2Proof.Machine

/-! SUPPORT. The steps of an access on its path (R86, R88, R90, R181, R188, R190, R215, R216, R228, R229, R361). -/

namespace Sys2Proof.Machine

open Sys2Proof.Safety

/-! ## Accesses by number -/

theorem id_of_accessAt {s : State} {k id : Nat} {ac : Access} (h : accessAt s k id = some ac) : ac.id = id := by
  simpa using List.find?_some h

theorem find?_mapIf_id {id : Nat} {f : Access → Access} (hf : ∀ ac, (f ac).id = ac.id) (l : List Access) :
    (mapIf (fun ac => decide (ac.id = id)) f l).find? (fun ac => decide (ac.id = id)) = (l.find? fun ac => decide (ac.id = id)).map f := by
  induction l with
  | nil => rfl
  | cons ac l ih =>
    by_cases h : ac.id = id
    · simp [mapIf, h, hf]
    · simpa [mapIf, h] using ih

/-- A change of the access numbered id is what is found under id. -/
theorem accessAt_modAccess (s : State) (k id : Nat) {f : Access → Access} (hf : ∀ ac, (f ac).id = ac.id) :
    accessAt (s.modAccess k id f) k id = (accessAt s k id).map f := by
  rw [accessAt, State.modAccess, coreAt_modCore]
  exact find?_mapIf_id hf _

theorem accessAt_dropAccess (s : State) (k id : Nat) : accessAt (dropAccess s k id) k id = none := by
  rw [accessAt, dropAccess, coreAt_modCore, List.find?_eq_none]
  intro ac hac
  simpa using (List.mem_filter.mp hac).2

theorem watchDone_unwatched (s : State) (k : Nat) {ac : Access} (h : ac.watch = none) : watchDone s k ac = s := by
  rw [watchDone, h]

theorem wrote_inflight (c : Core) (did : BitVec 16) (line : Nat) : (c.wrote did line).inflight = c.inflight := by
  unfold Core.wrote
  dsimp only
  split <;> rfl

theorem samePath_of_cores {s t : State} (h : t.cores = s.cores) : SamePath s t := fun k => by rw [coreAt, h, ← coreAt]

theorem samePath_reportError (s : State) (slice pa : Nat) : SamePath s (reportError s slice pa) := samePath_modCore s _ _ fun _ => rfl

theorem samePath_wrote (s : State) (k : Nat) (did : BitVec 16) (line : Nat) : SamePath s (s.modCore k fun c => c.wrote did line) :=
  samePath_modCore s k _ fun c => wrote_inflight c did line

theorem samePath_countDownAt (s : State) (k w age : Nat) (c : Counter) : SamePath s (countDownAt s k w age c) := samePath_modWarp s k w _

/-! ## A load at its home -/

theorem sendPacket_keeps (s : State) (n : Nat) (pkt : Packet) : (sendPacket s n pkt).cores = s.cores ∧ (sendPacket s n pkt).mem = s.mem := by
  unfold sendPacket
  dsimp only
  split <;> exact ⟨rfl, rfl⟩

theorem sendRequest_keeps (s : State) (key : Nat) (pkt : Packet) : (sendRequest s key pkt).cores = s.cores ∧ (sendRequest s key pkt).mem = s.mem := by
  unfold sendRequest
  split
  · exact sendPacket_keeps _ _ _
  · exact ⟨rfl, rfl⟩

/-- Sending a line's request changes no lane and no destination of the access. -/
theorem partOut_access {s : State} {k id : Nat} {ac : Access} (h : accessAt s k id = some ac) (p : LinePart) (pkt : Packet) :
    ∃ bc, accessAt (partOut s k ac p pkt) k id = some bc ∧ bc.lanes = ac.lanes ∧ bc.dest = ac.dest := by
  unfold partOut
  split
  · exact ⟨ac, h, rfl, rfl⟩
  · rw [id_of_accessAt h, accessAt_modAccess _ _ _ (by intro _; rfl), (samePath_of_cores (sendRequest_keeps s _ pkt).1).access, h]
    exact ⟨_, rfl, rfl, rfl⟩

theorem partOut_local {s : State} {k : Nat} {ac : Access} {p : LinePart} (h : lineKindPod p.line = false) (pkt : Packet) : partOut s k ac p pkt = s := by
  rw [partOut, h]
  rfl

theorem podStir_local {s : State} {line : Nat} (h : lineKindPod line = false) : podStir s line = s := by
  rw [podStir, h]
  rfl

theorem samePath_podStir (s : State) (line : Nat) : SamePath s (podStir s line) := by
  unfold podStir
  split
  · exact SamePath.refl s
  · split
    · unfold stirLine
      split
      · exact SamePath.refl s
      · split
        · exact SamePath.trans (samePath_of_cores rfl) (samePath_wakeWatchers _ _)
        · exact samePath_of_cores rfl
    · exact SamePath.refl s

theorem armMonitor_keeps (s : State) (k : Nat) (ac : Access) (line : Nat) : (armMonitor s k ac line).mem = s.mem ∧ SamePath s (armMonitor s k ac line) := by
  unfold armMonitor
  split
  · exact ⟨rfl, samePath_modGang _ _ _ _ _⟩
  · exact ⟨rfl, SamePath.refl s⟩

/-- The part of a load whose line has been performed, with what the home gave for the sectors that the L1 did not hold. -/
def performedPart (p : LinePart) (h : HomeData) (line : Nat) (q : LinePart) : LinePart :=
  let miss := fun a => p.sectors.contains (a / 32) && !p.hits.contains (a / 32)
  if q.line = line then
    { q with
      performed := true, snap := (h.cells.filter fun (a, _) => miss a).foldl (fun m (a, b) => cellWrite m a b) q.snap,
      snapPoison := q.snapPoison ++ h.poison.filter fun w => miss (4 * w) }
  else q

/-- The access with that part performed. -/
def performedLoad (s : State) (k id line : Nat) (p : LinePart) (h : HomeData) : State :=
  s.modAccess k id fun ac => { ac with parts := ac.parts.map (performedPart p h line) }

theorem performed_of_performedPart {p q : LinePart} {h : HomeData} {line : Nat} (hq : (performedPart p h line q).line = line) :
    (performedPart p h line q).performed = true := by
  unfold performedPart at hq ⊢
  dsimp only at hq ⊢
  split at hq
  next hl => rw [if_pos hl]
  next hl => exact absurd hq hl

theorem homeLoad_performs {s : State} {k id line : Nat} {ac : Access} {p : LinePart} {h : HomeData} (hac : accessAt s k id = some ac)
    (hp : (ac.parts.find? fun p => decide (p.line = line)) = some p) (hk : ac.kind ≠ .store) (ha : ac.abandoned = false) (hperf : p.performed = false)
    (hfirst : firstOnPath (coreAt s k) id line = true) (hheld : homeHeld s line = false) :
    let s' := podStir (partOut s k ac p (readRequest s (coreSlice k) p)) line
    homeRead s' k line = some h →
    ∃ t, exec (.homeLoad k id line) s = .next t ∧ t.mem = s'.mem ∧ (lineKindPod line = false → s' = s) ∧
      ∃ bc, accessAt t k id = some bc ∧ bc.lanes = ac.lanes ∧ bc.dest = ac.dest ∧ ∀ q ∈ bc.parts, q.line = line → q.performed = true := by
  intro s' hread
  have hline : p.line = line := by simpa using List.find?_some hp
  let u := performedLoad s' k id line p h
  let v := if h.report then reportError u (coreSlice k) (paOf (128 * line)) else u
  have hexec : exec (.homeLoad k id line) s = .next (armMonitor v k ac line) := by
    show execHomeLoad k id line s = _
    simp only [execHomeLoad, hac, hp]
    rw [if_neg (by simp [hk, ha, hperf, hfirst, hheld])]
    simp only [s'] at hread
    simp only [hread]
    rfl
  have hv : SamePath u v ∧ v.mem = s'.mem := by
    simp only [v]
    split
    · exact ⟨samePath_reportError _ _ _, rfl⟩
    · exact ⟨SamePath.refl _, rfl⟩
  obtain ⟨bc, hbc, hlanes, hdest⟩ := partOut_access hac p (readRequest s (coreSlice k) p)
  rw [← (samePath_podStir _ line).access] at hbc
  have hu : accessAt u k id = some { bc with parts := bc.parts.map (performedPart p h line) } := by
    rw [show u = performedLoad s' k id line p h from rfl, performedLoad, accessAt_modAccess _ _ _ (by intro _; rfl), hbc]
    rfl
  refine ⟨_, hexec, (armMonitor_keeps _ _ _ _).1.trans hv.2, fun hl => ?_, { bc with parts := bc.parts.map (performedPart p h line) }, ?_, hlanes, hdest, ?_⟩
  · rw [show s' = podStir (partOut s k ac p (readRequest s (coreSlice k) p)) line from rfl, podStir_local hl, partOut_local (hline ▸ hl)]
  · rw [((hv.1.trans (armMonitor_keeps v k ac line).2).access), hu]
  · intro q hq hql
    obtain ⟨q0, -, rfl⟩ := List.mem_map.mp hq
    exact performed_of_performedPart hql

/-- What the home of a line in HBM answers is what memory holds (R228). -/
theorem homeRead_hbm {s : State} {k line : Nat} {h : HomeData} (hk : paKind (128 * line) = 0) (hr : homeRead s k line = some h) :
    h.report = false ∧ ∀ a, a / 128 = line → cellRead h.cells a = cellRead s.mem a := by
  unfold homeRead at hr
  simp only [hk] at hr
  cases hr
  refine ⟨rfl, fun a ha => ?_⟩
  have hsame : ((cellsIn s.mem (128 * line) 128).map fun (a, b) => (a - 128 * line + 128 * line, b)) = cellsIn s.mem (128 * line) 128 := by
    refine (List.map_congr_left fun q hq => ?_).trans (List.map_id _)
    obtain ⟨a, b⟩ := q
    have hge := (List.mem_filter.mp hq).2
    simp only [Bool.and_eq_true, decide_eq_true_eq] at hge
    exact Prod.ext (Nat.sub_add_cancel hge.1) rfl
  have hin : (decide (128 * line ≤ a) && decide (a < 128 * line + 128)) = true := by
    simp only [Bool.and_eq_true, decide_eq_true_eq]
    omega
  rw [lineData, cellRead]
  dsimp only
  rw [hsame, cellRead, AMap.getD, cellsIn, AMap.get?_filter_key s.mem (fun i => decide (128 * line ≤ i) && decide (i < 128 * line + 128)), if_pos hin, AMap.getD]

/-! ## A store at its home -/

theorem samePath_homeWrites (base : LaneAcc → Nat) (lanes : List LaneAcc) (s : State) : SamePath s (lanes.foldl (fun s la => homeWrite s (base la) la.bytes) s) :=
  samePath_foldl (fun s la => homeWrite s (base la) la.bytes) (fun s _ => samePath_homeWrite s _ _) lanes s

theorem not_pod_of_hbm {line : Nat} (h : paKind (128 * line) = 0) : lineKindPod line = false := by
  rw [lineKindPod, h]
  rfl

theorem storeOut_local {s : State} {k line : Nat} {ac : Access} (h : lineKindPod line = false) (lanes : List LaneAcc) : storeOut s k ac line lanes = s := by
  unfold storeOut
  split
  next p hp =>
    have hl : p.line = line := by simpa using List.find?_some hp
    exact partOut_local (hl ▸ h) _
  next => rfl

theorem homeStore_performs {s : State} {k id line : Nat} {ac : Access} (hac : accessAt s k id = some ac) (hwatch : ac.watch = none) (hk : ac.kind = .store)
    (hp : ∃ p ∈ ac.parts, p.line = line ∧ p.performed = false) (hfirst : firstOnPath (coreAt s k) id line = true) (hheld : homeHeld s line = false)
    (hkind : paKind (128 * line) = 0) :
    ∃ t, exec (.homeStore k id line) s = .next t ∧
      t.mem = ((ac.lanes.filter fun la => decide (la.pa / 128 = line)).foldl (fun s la => homeWrite s la.pa la.bytes) s).mem := by
  let u := (ac.lanes.filter fun la => decide (la.pa / 128 = line)).foldl (fun s la => homeWrite s la.pa la.bytes) s
  let put := fun (q : LinePart) => if q.line = line then { q with performed := true } else q
  let v := (u.modAccess k id fun ac => { ac with parts := ac.parts.map put }).modCore k fun c => c.wrote ac.did line
  have hany : (ac.parts.any fun p => decide (p.line = line) && !p.performed) = true := by
    obtain ⟨p, hmem, hline, hperf⟩ := hp
    exact List.any_eq_true.mpr ⟨p, hmem, by rw [decide_eq_true hline, hperf]; rfl⟩
  have hstore : performStore s k line ac.did (ac.lanes.filter fun la => decide (la.pa / 128 = line)) = some u := by
    unfold performStore
    simp only [hkind]
    rfl
  have hv : accessAt v k id = some { ac with parts := ac.parts.map put } := by
    rw [(samePath_wrote _ k _ line).access, accessAt_modAccess _ _ _ (by intro _; rfl), (samePath_homeWrites LaneAcc.pa _ s).access, hac]
    rfl
  have hexec : exec (.homeStore k id line) s = .next v := by
    show execHomeStore k id line s = _
    simp only [execHomeStore, hac]
    rw [if_neg (by simp [hk, hany, hfirst, hheld]), storeOut_local (not_pod_of_hbm hkind)]
    simp only [hstore]
    simp only [v, put] at hv
    simp only [hv]
    rw [watchDone_unwatched _ k (ac := { ac with parts := ac.parts.map put }) hwatch, ite_self]
  exact ⟨v, hexec, rfl⟩

/-! ## Atomics at their home -/

theorem paKind_line (pa : Nat) : paKind (128 * (pa / 128)) = paKind pa := by
  simp only [paKind]
  omega

theorem samePath_foldl_publishAt (slice part : Nat) (p : Publication) (ns : List Nat) (s : State) :
    SamePath s (ns.foldl (fun s n => publishAt s slice part n p) s) :=
  samePath_foldl (fun s n => publishAt s slice part n p) (fun s n => samePath_publishAt s slice part n p) ns s

theorem performAt_keeps (s : State) (k : Nat) (did : BitVec 16) (line key n : Nat) (f : Nat → Option Nat) (keep : Bool) :
    let r := performAt s k did line key n f keep
    SamePath s r.2.2 ∧ r.1 = memNat s key n ∧ (f (memNat s key n) = none → r.2.2.mem = s.mem) ∧
      ∀ v, f (memNat s key n) = some v → r.2.2.mem = (homeWriteNat s key n v).mem := by
  cases hf : f (memNat s key n) with
  | none =>
    rw [performAt, hf]
    exact ⟨SamePath.refl s, rfl, fun _ => rfl, fun v hv => nomatch hv⟩
  | some v =>
    rw [performAt, hf]
    dsimp only
    refine ⟨SamePath.trans ?_ (samePath_wrote _ k did line), rfl, (fun h => nomatch h), fun w hw => ?_⟩
    · split
      · exact SamePath.trans (samePath_homeWrite s key _) (samePath_of_cores rfl)
      · exact samePath_homeWrite s key _
    · cases hw
      split <;> rfl

theorem atomAt_samePath (s : State) (k : Nat) (ac : Access) (la : LaneAcc) (key : Nat) : SamePath s (atomAt s k ac la key).2.2 := by
  have h := (performAt_keeps s k ac.did (la.pa / 128) key la.size (atomFun ac la) (decide (ac.kind ≠ .atomic .xchg))).1
  unfold atomAt
  dsimp only
  split
  · exact h.trans (samePath_foldl_publishAt _ _ _ _ _)
  · exact h

theorem atomAt_hbm {s : State} {k : Nat} {ac : Access} {la : LaneAcc} (hkind : paKind la.pa = 0) :
    atomAt s k ac la la.pa = performAt s k ac.did (la.pa / 128) la.pa la.size (atomFun ac la) (decide (ac.kind ≠ .atomic .xchg)) := by
  unfold atomAt
  dsimp only
  rw [if_neg (by rw [hkind]; exact fun h => absurd h.1 (by decide))]

theorem accessAt_markLane (s : State) (k id lane : Nat) (f : LaneAcc → LaneAcc) :
    accessAt (markLane s k id lane f) k id =
      (accessAt s k id).map fun ac => { ac with lanes := mapIf (fun la => decide (la.lane = lane)) (fun la => { f la with done := true }) ac.lanes } :=
  accessAt_modAccess s k id (by intro _; rfl)

theorem homeAtomic_performs {s : State} {k id : Nat} {ac : Access} {la : LaneAcc} {op : AtomOp} (hac : accessAt s k id = some ac) (hwatch : ac.watch = none)
    (hk : ac.kind = .atomic op) (hla : (ac.lanes.find? fun lb => decide (lb.lane = la.lane)) = some la) (hdone : la.done = false)
    (hfirst : firstOnPath (coreAt s k) id (la.pa / 128) = true) (hheld : homeHeld s (la.pa / 128) = false)
    (horder : ∀ lb ∈ ac.lanes, lb.lane < la.lane → lb.pa = la.pa → lb.done = true) (hkind : paKind la.pa = 0) :
    let old := memNat s la.pa la.size
    ∃ t, exec (.homeAtomic k id la.lane) s = .next t ∧
      (atomFun ac la old = none → t.mem = s.mem) ∧
      (∀ v, atomFun ac la old = some v → t.mem = (homeWriteNat s la.pa la.size v).mem) ∧
      ∃ bc, accessAt t k id = some bc ∧ ∀ lb ∈ bc.lanes, lb.lane = la.lane → lb.done = true ∧ lb.val = BitVec.ofNat 128 old := by
  intro old
  let r := performAt s k ac.did (la.pa / 128) la.pa la.size (atomFun ac la) (decide (ac.kind ≠ .atomic .xchg))
  obtain ⟨hpath, hold, hnone, hsome⟩ := performAt_keeps s k ac.did (la.pa / 128) la.pa la.size (atomFun ac la) (decide (ac.kind ≠ .atomic .xchg))
  let mark := fun (la : LaneAcc) => { la with val := BitVec.ofNat 128 r.1, poison := r.2.1 }
  let t := markLane r.2.2 k id la.lane mark
  let bc := { ac with lanes := mapIf (fun lb => decide (lb.lane = la.lane)) (fun lb => { mark lb with done := true }) ac.lanes }
  have hbc : accessAt t k id = some bc := by
    rw [show t = markLane r.2.2 k id la.lane mark from rfl, accessAt_markLane, hpath.access, hac]
    rfl
  have hpod : lineKindPod (la.pa / 128) = false := not_pod_of_hbm (by rw [paKind_line, hkind])
  have hexec : exec (.homeAtomic k id la.lane) s = .next t := by
    show execHomeAtomic k id la.lane s = _
    have hother : (ac.lanes.any fun lb => decide (lb.lane < la.lane) && decide (lb.pa = la.pa) && !lb.done) = false := by
      rw [List.any_eq_false]
      intro lb hlb
      by_cases h : lb.lane < la.lane ∧ lb.pa = la.pa
      · simp [horder lb hlb h.1 h.2]
      · rw [not_and_or] at h
        rcases h with h | h <;> simp [h]
    have hafter : afterAtomic t k ac la (cellsRead t.mem la.pa la.size) = t := by
      unfold afterAtomic
      simp only [hk]
      rw [id_of_accessAt hac, hbc]
      dsimp only
      rw [watchDone_unwatched _ k (ac := bc) hwatch, ite_self]
    simp only [execHomeAtomic, hac, hla]
    rw [if_neg (by simp [hk, hdone, hfirst, hheld, hother]), podStir_local hpod, laneOut, hpod]
    have hplace : atomPlace s la.pa = .at_ la.pa := by rw [atomPlace, hkind]; rfl
    simp only [Bool.not_false, Bool.true_or, if_true, hplace, atomAt_hbm hkind]
    exact congrArg Host.Outcome.next hafter
  refine ⟨t, hexec, hnone, hsome, bc, hbc, fun lb hlb hlane => ?_⟩
  obtain ⟨l0, -, rfl⟩ := List.mem_map.mp hlb
  split at hlane
  next h => rw [if_pos h]; exact ⟨rfl, congrArg (BitVec.ofNat 128) hold⟩
  next h => exact absurd (decide_eq_true hlane) h

/-! ## Returns and acknowledgements -/

theorem atomicReturn_returns {s : State} {k id : Nat} {ac : Access} (hac : accessAt s k id = some ac) (hk : ac.isAtomic = true)
    (hdone : ∀ la ∈ ac.lanes, la.done = true) : exec (.atomicReturn k id) s = .next (returnAtomic s k ac) := by
  show execAtomicReturn k id s = _
  simp only [execAtomicReturn, hac, hk, List.all_eq_true.mpr hdone]
  rfl

theorem accessAt_returnAtomic (s : State) (k : Nat) (ac : Access) : accessAt (returnAtomic s k ac) k ac.id = none :=
  ((samePath_countDownAt _ _ _ _ _).access _ _).trans (accessAt_dropAccess _ _ _)

theorem warpAt_dropAccess (s : State) (k id w : Nat) : warpAt (dropAccess s k id) k w = warpAt s k w := warpAt_modCore s k _ w rfl

theorem warpAt_modAccWarp {s : State} {k : Nat} {ac : Access} {wp : Warp} (hw : warpAt s k ac.w = some wp) (ha : wp.age = ac.warpAge) (f : Warp → Warp) :
    warpAt (modAccWarp s k ac f) k ac.w = some (f wp) := by
  rw [modAccWarp, warpAt_modWarp, hw]
  simp [ha]

theorem scratchpadLoad_returns {s : State} {k id : Nat} {ac : Access} (hac : accessAt s k id = some ac) (hk : ac.kind = .lds) :
    ∃ t, exec (.scratchpadLoadReturn k id) s = .next t ∧ t.mem = s.mem ∧ accessAt t k id = none ∧
      ∀ wp, warpAt s k ac.w = some wp → wp.age = ac.warpAge →
        warpAt t k ac.w = some (ac.lanes.foldl (fun wp la => wp.land ac.dest la.lane la.size la.val.toNat la.poison) wp) := by
  refine ⟨dropAccess (modAccWarp s k ac fun wp => ac.lanes.foldl (fun (wp : Warp) la => wp.land ac.dest la.lane la.size la.val.toNat la.poison) wp) k id,
    ?_, rfl, accessAt_dropAccess _ _ _, fun wp hw ha => ?_⟩
  · show execScratchpadLoadReturn k id s = _
    simp only [execScratchpadLoadReturn, hac]
    rw [if_neg (not_not_intro hk)]
  · rw [warpAt_dropAccess]
    exact warpAt_modAccWarp hw ha _

theorem storeAck_counts {s : State} {k id : Nat} {ac : Access} (hac : accessAt s k id = some ac) (hk : ac.kind = .store)
    (hp : ∀ p ∈ ac.parts, p.performed = true) :
    ∃ t, exec (.storeAck k id) s = .next t ∧ t.mem = s.mem ∧ accessAt t k id = none ∧
      ∀ wp, warpAt s k ac.w = some wp → wp.age = ac.warpAge → (warpAt t k ac.w).map Warp.sc = some (wp.sc - 1) := by
  refine ⟨countDownAt (dropAccess s k id) k ac.w ac.warpAge .sc, ?_, rfl,
    ((samePath_countDownAt _ _ _ _ _).access _ _).trans (accessAt_dropAccess _ _ _), fun wp hw ha => ?_⟩
  · show execStoreAck k id s = _
    simp only [execStoreAck, hac]
    rw [if_neg (by simpa [hk] using hp)]
  · rw [countDownAt, warpAt_modWarp, warpAt_dropAccess, hw]
    simp [ha, Warp.countDown]

/-! ## A sector that lands -/

theorem l1Fill_keeps (k : Nat) (c : Core) (did : BitVec 16) (q : L1Sector) : (l1Fill k c did q).warps = c.warps ∧ (l1Fill k c did q).inflight = c.inflight := by
  have ht (c : Core) (us : List PowerUnit) : (c.taint did us).warps = c.warps ∧ (c.taint did us).inflight = c.inflight := by
    unfold Core.taint
    split <;> exact ⟨rfl, rfl⟩
  unfold l1Fill
  dsimp only
  split
  · exact ⟨rfl, rfl⟩
  · split
    · exact ht _ _
    · split
      · exact ⟨rfl, rfl⟩
      · exact ht _ _

/-- The warp after the sector's lanes have landed. -/
def landSector (ac : Access) (p : LinePart) (sector : Nat) (wp : Warp) : Warp :=
  (ac.lanes.filter fun la => decide (la.pa / 32 = sector)).foldl (fun (wp : Warp) la =>
    wp.land ac.dest la.lane la.size (cellsNat p.snap la.pa la.size) (badBits p.snapPoison la.pa la.size)) wp

/-- The state in which a sector has landed, before its access is seen to be complete. -/
def landedState (s : State) (k id sector : Nat) (ac : Access) (p : LinePart) : State :=
  let s := modAccWarp s k ac fun wp => landSector ac p sector wp
  let s := if p.fills.contains sector then s.modCore k fun c => l1Fill k c ac.did (fillOf p sector) else s
  let put := fun (q : LinePart) => if q.line = p.line then { q with landed := sector :: q.landed } else q
  s.modAccess k id fun ac => { ac with parts := ac.parts.map put }

theorem landedState_keeps {s : State} {k id : Nat} {ac : Access} (hac : accessAt s k id = some ac) (sector : Nat) (p : LinePart) :
    (landedState s k id sector ac p).mem = s.mem ∧
    (∃ bc, accessAt (landedState s k id sector ac p) k id = some bc ∧ bc.watch = ac.watch ∧ bc.kind = ac.kind) ∧
    ∀ wp, warpAt s k ac.w = some wp → wp.age = ac.warpAge → warpAt (landedState s k id sector ac p) k ac.w = some (landSector ac p sector wp) := by
  let u := modAccWarp s k ac (landSector ac p sector)
  let v := if p.fills.contains sector then u.modCore k fun c => l1Fill k c ac.did (fillOf p sector) else u
  have hv : v.mem = s.mem ∧ SamePath u v ∧ ∀ w, warpAt v k w = warpAt u k w := by
    simp only [v]
    split
    · exact ⟨rfl, samePath_modCore _ _ _ fun c => (l1Fill_keeps k c _ _).2, fun w => warpAt_modCore _ _ _ _ (l1Fill_keeps k _ _ _).1⟩
    · exact ⟨rfl, SamePath.refl _, fun _ => rfl⟩
  obtain ⟨hmem, hpath, hwarp⟩ := hv
  refine ⟨hmem, ?_, fun wp hw ha => ?_⟩
  · have h : accessAt v k id = some ac := ((samePath_modWarp s k ac.w _).trans hpath).access k id |>.trans hac
    refine ⟨_, (accessAt_modAccess v k id (by intro _; rfl)).trans (congrArg _ h), rfl, rfl⟩
  · exact (warpAt_modCore v k _ ac.w rfl).trans ((hwarp _).trans (warpAt_modAccWarp hw ha _))

theorem loadSector_lands {s : State} {k id sector : Nat} {ac : Access} {p : LinePart} (hac : accessAt s k id = some ac) (hwatch : ac.watch = none)
    (hp : (ac.parts.find? fun p => decide (p.line = sector / 4)) = some p) (hk : ac.kind = .load) (ha : ac.abandoned = false)
    (hin : p.sectors.contains sector = true) (hnew : p.landed.contains sector = false) (hdata : p.performed = true ∨ p.hits.contains sector = true) :
    ∃ t, exec (.loadSectorLand k id sector) s = .next t ∧ t.mem = s.mem ∧
      ∀ wp, warpAt s k ac.w = some wp → wp.age = ac.warpAge →
        (warpAt t k ac.w).map (fun wp => (wp.vregs, wp.sregs)) = some ((landSector ac p sector wp).vregs, (landSector ac p sector wp).sregs) := by
  obtain ⟨hmem, ⟨bc, hbc, hbw, hbk⟩, hwarp⟩ := landedState_keeps hac sector p
  have hfin : finishLoad (landedState s k id sector ac p) k bc = countDownAt (dropAccess (landedState s k id sector ac p) k bc.id) k bc.w bc.warpAge .lc := by
    unfold finishLoad
    simp only [hbk, hk]
    rw [watchDone_unwatched _ _ (hbw.trans hwatch)]
  have hexec : exec (.loadSectorLand k id sector) s =
      .next (if bc.allLanded then finishLoad (landedState s k id sector ac p) k bc else landedState s k id sector ac p) := by
    have hdata' : (p.performed || p.hits.contains sector) = true := Bool.or_eq_true_iff.mpr hdata
    show execLoadSectorLand k id sector s = _
    simp only [execLoadSectorLand, hac, hp]
    rw [if_neg (by rw [hk, ha, hin, hnew, hdata']; decide)]
    simp only [landedState, landSector] at hbc ⊢
    simp only [hbc]
  refine ⟨_, hexec, ?_, fun wp hw ha => ?_⟩
  · split
    · rw [hfin]; exact hmem
    · exact hmem
  · split
    · rw [hfin, countDownAt, warpAt_modWarp, warpAt_dropAccess, hwarp wp hw ha]
      simp only [Option.map_some, Option.some.injEq]
      split
      · split <;> rfl
      · rfl
    · rw [hwarp wp hw ha]
      rfl

end Sys2Proof.Machine

/-! SUPPORT. Remote atomics that time out (R361), and entries of the combining buffer that are sent (R190). -/

namespace Sys2Proof.Machine

open Sys2Proof.Safety

/-! ## Remote atomics that time out -/

/-- Some access of a number, unwatched, whose lanes are done but for the pooled ones among some. -/
def TimesOut (k id : Nat) (rest : List LaneAcc) (s : State) : Prop :=
  ∃ ac, accessAt s k id = some ac ∧ ac.watch = none ∧ ∀ lb ∈ ac.lanes, lb.done = true ∨ ∃ la ∈ rest, paKind la.pa = 2 ∧ la.lane = lb.lane

/-- What the home of a lane does of an operation that may have been performed (R361). -/
def atomTry (s : State) (k id : Nat) (la : LaneAcc) (performed : Bool) : State :=
  match accessAt s k id, podPlace s la.pa true with
  | some ac, .at_ key => if performed then (atomAt s k ac la key).2.2 else s
  | some ac, .outside => if performed then wakeWatchers (s.modCore k fun c => c.wrote ac.did (la.pa / 128)) (la.pa / 128) else s
  | _, _ => s

theorem samePath_atomTry (s : State) (k id : Nat) (la : LaneAcc) (performed : Bool) : SamePath s (atomTry s k id la performed) := by
  unfold atomTry
  split
  · split
    · exact atomAt_samePath _ _ _ _ _
    · exact SamePath.refl s
  · split
    · exact (samePath_wrote _ _ _ _).trans (samePath_wakeWatchers _ _)
    · exact SamePath.refl s
  · exact SamePath.refl s

theorem timeOutLane_eq (k id : Nat) (s : State) (la : LaneAcc) : timeOutLane k id s la = if paKind la.pa ≠ 2 then s else
    markLane (atomTry { s with free := s.free + 1 } k id la (!la.done && Config.freeBool s.free && firstOnPath (coreAt s k) id (la.pa / 128)))
      k id la.lane fun la => { la with poison := 15 } := rfl

/-- A pooled lane that times out is done; no lane that was done is done no more. -/
theorem timeOutLane_timesOut {k id : Nat} {la : LaneAcc} {rest : List LaneAcc} {s : State} (h : TimesOut k id (la :: rest) s) :
    TimesOut k id rest (timeOutLane k id s la) := by
  obtain ⟨ac, hac, hw, hl⟩ := h
  rw [timeOutLane_eq]
  split
  next hk =>
    refine ⟨ac, hac, hw, fun lb hlb => (hl lb hlb).imp_right ?_⟩
    rintro ⟨lc, hlc, hp, he⟩
    rcases List.mem_cons.mp hlc with rfl | hlc
    · exact absurd hp hk
    · exact ⟨lc, hlc, hp, he⟩
  next hk =>
    have hpath : SamePath s (atomTry { s with free := s.free + 1 } k id la (!la.done && Config.freeBool s.free && firstOnPath (coreAt s k) id (la.pa / 128))) :=
      SamePath.trans (samePath_of_cores rfl) (samePath_atomTry _ k id la _)
    refine ⟨_, (accessAt_markLane _ k id la.lane _).trans (congrArg _ ((hpath.access k id).trans hac)), hw, fun lb hlb => ?_⟩
    obtain ⟨l0, hl0, rfl⟩ := List.mem_map.mp hlb
    by_cases hlane : l0.lane = la.lane
    · exact .inl (by simp [hlane])
    · rw [if_neg (by simpa using hlane)]
      refine (hl l0 hl0).imp_right ?_
      rintro ⟨lc, hlc, hp, he⟩
      rcases List.mem_cons.mp hlc with rfl | hlc
      · exact absurd he.symm hlane
      · exact ⟨lc, hlc, hp, he⟩

theorem foldl_timeOutLane {k id : Nat} (lanes : List LaneAcc) {s : State} (h : TimesOut k id lanes s) : TimesOut k id [] (lanes.foldl (timeOutLane k id) s) := by
  induction lanes generalizing s with
  | nil => exact h
  | cons la lanes ih => exact ih (timeOutLane_timesOut h)

theorem remoteAtomic_timesOut {s : State} {k id : Nat} {ac : Access} (hac : accessAt s k id = some ac) (hwatch : ac.watch = none) (hk : ac.isAtomic = true)
    (hpod : ∃ la ∈ ac.lanes, paKind la.pa = 2) (hage : ac.born.toNat + (if isService k then 17600 else 8800) ≤ (coreAt s k).clk.toNat)
    (hdone : ∀ la ∈ ac.lanes, paKind la.pa = 2 ∨ la.done = true) :
    ∃ t, exec (.remoteAtomicTimeout k id) s = .next t ∧ accessAt t k id = none := by
  obtain ⟨bc, hbc, hbw, hbl⟩ := foldl_timeOutLane ac.lanes (s := s)
    ⟨ac, hac, hwatch, fun lb hlb => (hdone lb hlb).symm.imp_right fun hp => ⟨lb, hlb, hp, rfl⟩⟩
  have hall : (bc.lanes.all fun la => la.done) = true :=
    List.all_eq_true.mpr fun lb hlb => (hbl lb hlb).resolve_right (by rintro ⟨la, hla, -⟩; exact (List.not_mem_nil hla))
  have hany : (ac.lanes.any fun la => decide (paKind la.pa = 2)) = true := by
    obtain ⟨la, hla, hp⟩ := hpod
    exact List.any_eq_true.mpr ⟨la, hla, decide_eq_true hp⟩
  refine ⟨returnAtomic (ac.lanes.foldl (timeOutLane k id) s) k bc, ?_, ?_⟩
  · show execRemoteAtomicTimeout k id s = _
    simp only [execRemoteAtomicTimeout, hac]
    rw [if_neg (by rw [hk, hany, atomicLimit]; simpa using hage)]
    simp only [hbc, hall, if_true, watchDone_unwatched _ _ hbw]
  · rw [← id_of_accessAt hbc]
    exact accessAt_returnAtomic _ _ _

/-! ## The combining buffer -/

theorem filter_eq_self {α : Type} [DecidableEq α] {l : List α} {a : α} (hn : l.Nodup) (ha : a ∈ l) : (l.filter fun d => decide (d = a)) = [a] := by
  have h : (l.filter fun d => decide (d = a)) = List.replicate (l.count a) a := by
    rw [← List.filter_beq]
    exact List.filter_congr fun d _ => by rw [Bool.eq_iff_iff, decide_eq_true_eq, beq_iff_eq, eq_comm]
  rw [h, List.count_eq_one_of_mem hn ha]
  rfl

/-- The operation as which an entry leaves the buffer. -/
def mergedAccess (e : CombineEntry) : Access :=
  { id := 0, did := e.did, kind := .merged e.op, mode := e.mode, combined := e.val, contributors := e.contributors,
    lanes := [{ lane := 0, pa := e.pa, size := e.width / 8 }] }

theorem pushAccess_combine (s : State) (k : Nat) (ac : Access) : (coreAt (pushAccess s k ac) k).combine = (coreAt s k).combine := by
  unfold pushAccess
  dsimp only
  rw [coreAt_modCore]
  rfl

theorem entry_expires {s : State} {k i : Nat} {e : CombineEntry} (he : (coreAt s k).combine[i]? = some e) (hage : e.born.toNat + 2048 ≤ (coreAt s k).clk.toNat)
    (hpa : ∀ d ∈ (coreAt s k).combine, d.pa = e.pa → d = e) (hn : (coreAt s k).combine.Nodup) :
    ∃ t ac, exec (.combiningEntryExpiry k i) s = .next t ∧ t.mem = s.mem ∧ (coreAt t k).combine = ((coreAt s k).combine.filter fun d => decide (d.pa ≠ e.pa)) ∧
      (coreAt t k).inflight = (coreAt s k).inflight ++ [ac] ∧ ac.kind = .merged e.op ∧ ac.combined = e.val ∧ ac.contributors = e.contributors ∧ ac.did = e.did ∧
      ac.lanes.map (fun la => (la.pa, la.size)) = [(e.pa, e.width / 8)] := by
  have hout := filter_eq_self hn (List.mem_of_getElem? he)
  let u := s.modCore k fun c => { c with combine := c.combine.filter fun d => !decide (d = e) }
  have hexec : exec (.combiningEntryExpiry k i) s = .next (pushAccess u k (mergedAccess e)) := by
    show execCombiningEntryExpiry k i s = _
    simp only [execCombiningEntryExpiry, he]
    rw [if_neg (by omega), flushEntries, hout]
    rfl
  refine ⟨_, { mergedAccess e with id := (coreAt u k).nextId, born := (coreAt u k).clk, parts := [], lanes := (tagLanes u (mergedAccess e).lanes).1 }, hexec, rfl, ?_, ?_,
    rfl, rfl, rfl, rfl, rfl⟩
  · rw [pushAccess_combine, coreAt_modCore]
    refine List.filter_congr fun d hd => ?_
    rw [← decide_not]
    exact decide_eq_decide.mpr (not_congr ⟨fun h => h ▸ rfl, hpa d hd⟩)
  · have hu : (coreAt u k).inflight = (coreAt s k).inflight := by rw [coreAt_modCore]
    rw [← hu]
    unfold pushAccess
    dsimp only
    rw [coreAt_modCore]
    rfl

/-- Settles O47. -/
theorem homeSteps : Obligations.HomeSteps := by
  refine ⟨fun s k id ac hac hwatch => ⟨?load, ?hbm, ?store, ?atomic, fun hk hdone => atomicReturn_returns hac hk hdone, fun hk => scratchpadLoad_returns hac hk,
      fun hk hp => storeAck_counts hac hk hp, ?sector, fun hk hpod hage hdone _ => remoteAtomic_timesOut hac hwatch hk hpod hage hdone⟩,
    fun wp r n l size v bad signed hl => land_spec wp r n l size v bad signed hl, fun s k i e he hage hpa hn => entry_expires he hage hpa hn⟩
  case load =>
    intro line p h hp hk ha hperf hfirst hheld
    exact homeLoad_performs hac hp hk ha hperf hfirst hheld
  case hbm => exact fun line h hk hr => homeRead_hbm hk hr
  case store => exact fun line hk hp hfirst hheld hkind => homeStore_performs hac hwatch hk hp hfirst hheld hkind
  case atomic =>
    intro la op hk hla hdone hfirst hheld horder hkind
    exact homeAtomic_performs hac hwatch hk hla hdone hfirst hheld horder hkind
  case sector => exact fun sector p hp hk ha hin hnew hdata => loadSector_lands hac hwatch hp hk ha hin hnew hdata

end Sys2Proof.Machine

/-! SUPPORT. The steps of a copy in its queue (R193 to R195), and the delivery of a fault that a command has left for its warp. -/

namespace Sys2Proof.Machine

open Sys2Proof.Safety

/-! ## Reads and writes of an engine at a home -/

/-- A read by an engine gives as many bytes as it asked for; outside pooled memory it changes no byte of memory and of no scratchpad. -/
theorem engineRead_keeps {s u : State} {k key n : Nat} {bs : List Byte} {bad : List Nat} (h : engineRead s k key n = some (bs, bad, u)) :
    bs.length = n ∧ (lineKindPod (key / 128) = false → u.mem = s.mem ∧ (coreAt u k).scratch = (coreAt s k).scratch) := by
  unfold engineRead at h
  split at h
  · cases h
  · dsimp only at h
    split at h
    next hd hr =>
      cases h
      refine ⟨by rw [List.length_map, List.length_range], fun hl => ?_⟩
      rw [podStir_local hl]
      split
      · refine ⟨rfl, ?_⟩
        rw [reportError, coreAt_modCore']
        split <;> rfl
      · exact ⟨rfl, rfl⟩
    next hr =>
      split at h
      next hk =>
        have hn (s : State) : (outsideRead s k key n).1.length = n := by
          unfold outsideRead
          dsimp only
          split
          · exact List.length_replicate
          · exact length_natLe n _
        refine ⟨(congrArg (fun r => r.1.length) (Option.some.inj h)).symm.trans (hn _), fun hl => ?_⟩
        rw [lineKindPod, paKind_line, hk] at hl
        cases hl
      next => cases h

/-- Stores of an engine that are performed at a home leave memory as that home leaves it. -/
theorem engineStore_mem {s u : State} {k key : Nat} {did : BitVec 16} {lanes : List LaneAcc} (h : performStore s k (key / 128) did lanes = some u)
    (bad : List Nat) : (engineStore s k key did lanes bad).mem = u.mem := by
  have hmark (a : Nat) (ws : List Nat) (t : State) : (ws.foldl (fun s w => memMark s (a + 4 * (w % 32)) 4) t).mem = t.mem := by
    induction ws generalizing t with
    | nil => rfl
    | cons w ws ih => exact (ih _).trans rfl
  unfold engineStore
  rw [h]
  dsimp only
  split
  · exact hmark _ _ _
  · rfl

theorem foldl_marks_scratch {α : Type} (f : Core → α → Core) (hf : ∀ c w, (f c w).scratch = c.scratch) (ws : List α) (c : Core) :
    (ws.foldl f c).scratch = c.scratch := by
  induction ws generalizing c with
  | nil => rfl
  | cons w ws ih => exact (ih _).trans (hf c w)

/-! ## The copy that runs -/

section
variable {s : State} {k q : Nat} {cmd : Command} (hq : copyHead s k q = some cmd)
include hq

theorem copyStart_starts (hs : cmd.started = false) (hd : drained s cmd = true) :
    exec (.copyStart k q) s = .next (modCommand s k (copyQueue q) cmd fun d => { d with started := true }) := by
  show execCopyStart k q s = _
  simp only [execCopyStart, hq]
  rw [if_neg (by simp [hs, hd])]

/-- The check of the copy's next chunk (R193, R194). -/
def chunkCheck (s : State) (k : Nat) (cmd : Command) : RangeAns :=
  let ps := (copyOf cmd.group).pieces cmd.chunked
  rangeCheck s k cmd.did (cmd.tree s) (copyAsk (decide (cmd.op = .cpyo))) (coversWhole ps s k cmd.did (cmd.tree s)) (ps.map fun p => p.va)

/-- The next chunk may be translated: the copy has started, a chunk is left, the one before has landed, and the domain is not halted. -/
def chunkMay (s : State) (k : Nat) (cmd : Command) : Prop :=
  cmd.started = true ∧ cmd.chunked < (copyOf cmd.group).chunks ∧ chunkDone cmd = true ∧ domainHalted (coreAt s k) cmd.did = false

/-- The keys of a chunk's pieces, by place in the stream. -/
def chunkKeys (s : State) (k : Nat) (cmd : Command) : AMap Nat :=
  ((copyOf cmd.group).pieces cmd.chunked).foldl (fun m p => AMap.put m p.off (keyAt s k cmd.did (cmd.tree s) p.va)) []

theorem copyChunk_passes (hm : chunkMay s k cmd) (hc : chunkCheck s k cmd = .ok) :
    ∃ t, exec (.copyChunk k q) s = .next t ∧ t.mem = s.mem ∧
      queueOf t k (copyQueue q) = (queueOf s k (copyQueue q)).map fun d => if d.id = cmd.id ∧ d.core = cmd.core ∧ !d.marks then
        { d with chunked := d.chunked + 1, busy := true, pages := chunkKeys s k cmd, landed := [], mark := (coreAt s k).nextId } else d := by
  obtain ⟨hst, hlt, hdone, hrun⟩ := hm
  let ps := (copyOf cmd.group).pieces cmd.chunked
  let u := if cmd.op = .cpyo ∧ worldOf (coreAt s k) cmd.did then markTensors s (ps.map fun p => keyAt s k cmd.did (cmd.tree s) p.va)
    else markRead s (cmd.tree s) ((chunkKeys s k cmd).map Prod.snd)
  have hu : u.cores = s.cores ∧ u.mem = s.mem := by
    simp only [u]
    split
    · exact markTensors_keeps _ _
    · exact markRead_cores _ _ _
  have hcore : coreAt u k = coreAt s k := by rw [coreAt, hu.1, ← coreAt]
  refine ⟨modCommand u k (copyQueue q) cmd fun d =>
    { d with chunked := d.chunked + 1, busy := true, pages := chunkKeys s k cmd, landed := [], mark := (coreAt u k).nextId }, ?_, ?_, ?_⟩
  · show execCopyChunk k q s = _
    simp only [execCopyChunk, hq]
    rw [if_neg (by simp [hst, hdone, hrun, hlt])]
    simp only [chunkCheck] at hc
    simp only [hc]
    rfl
  · exact (modQueue_keeps u k _ _).1.trans hu.2
  · rw [modCommand, queueOf_modQueue, if_pos rfl, hcore]
    congr 1
    unfold copyQueue
    split
    · exact congrArg Core.cq0 hcore
    · exact congrArg Core.cq1 hcore

theorem copyChunk_misses {vas : List DWord} (hm : chunkMay s k cmd) (hc : chunkCheck s k cmd = .miss vas) :
    exec (.copyChunk k q) s = .next (askPages s k cmd.did vas) := by
  obtain ⟨hst, hlt, hdone, hrun⟩ := hm
  show execCopyChunk k q s = _
  simp only [execCopyChunk, hq]
  rw [if_neg (by simp [hst, hdone, hrun, hlt])]
  simp only [chunkCheck] at hc
  simp only [hc]

theorem copyChunk_faults {cause d : Nat} {addr : DWord} (hm : chunkMay s k cmd) (hc : chunkCheck s k cmd = .fault cause d addr) :
    exec (.copyChunk k q) s = .next (dropAllRefusals (dropCommand
      (sendFault (copyLand s cmd ((copyOf cmd.group).total - 4096 * cmd.chunked) true) (copyQueue q) cmd cause d addr) k (copyQueue q) cmd) k) := by
  obtain ⟨hst, hlt, hdone, hrun⟩ := hm
  show execCopyChunk k q s = _
  simp only [execCopyChunk, hq]
  rw [if_neg (by simp [hst, hdone, hrun, hlt])]
  simp only [chunkCheck] at hc
  simp only [hc]

theorem copyPiece_lands {off : Nat} {p : Piece} {bs : List Byte} {bad : List Nat} {u : State} (hop : cmd.op = .cpy) (hp : pieceOf cmd off = some p)
    (hclear : clearBefore (coreAt s k) cmd.mark (AMap.getD cmd.pages off 0 / 128) = true)
    (hread : engineRead s k (AMap.getD cmd.pages off 0) p.len = some (bs, bad, u)) :
    ∃ v, exec (.copyPieceLand k q off) s = .next (landPiece v k q cmd p) ∧ v.mem = u.mem ∧ bs.length = p.len ∧
      (coreAt v k).scratch = (viewPut (coreAt u k) cmd.view p.sp bs).scratch ∧
      (lineKindPod (AMap.getD cmd.pages off 0 / 128) = false → u.mem = s.mem ∧ (coreAt u k).scratch = (coreAt s k).scratch) := by
  have hread' := engineRead_keeps hread
  let key := AMap.getD cmd.pages off 0
  let mark := fun (c : Core) (w : Nat) => if key / 4 ≤ w ∧ w < (key + p.len) / 4 then viewMark c cmd.view (p.sp + 4 * (w - key / 4)) 4 else c
  have hmark : ∀ c w, (mark c w).scratch = c.scratch := fun c w => by
    simp only [mark]
    split
    · exact viewMark_scratch _ _ _ _
    · rfl
  refine ⟨u.modCore k fun c => bad.foldl mark (viewPut c cmd.view p.sp bs), ?_, rfl, hread'.1, ?_, hread'.2⟩
  · show execCopyPieceLand k q off s = _
    simp only [execCopyPieceLand, hq, hp]
    rw [if_neg (by simp [hop, hclear])]
    simp only [hread]
    rfl
  · rw [coreAt_modCore]
    exact foldl_marks_scratch mark hmark bad _

theorem copyoPiece_performs {off : Nat} {p : Piece} {u : State} (hop : cmd.op = .cpyo) (hp : pieceOf cmd off = some p) :
    let key := AMap.getD cmd.pages off 0
    let bs := viewBytes (coreAt s k) cmd.view p.sp p.len
    keyHeld s key = false → clearBefore (coreAt s k) cmd.mark (key / 128) = true →
    performStore s k (key / 128) cmd.did
      ((ownUnits cmd p).map fun j => { lane := 0, pa := key + 16 * j, size := 16, val := BitVec.ofNat 128 (leNat ((bs.drop (16 * j)).take 16)) }) = some u →
    ∃ v, exec (.copyoPieceAck k q off) s = .next (landPiece v k q cmd p) ∧ v.mem = u.mem := by
  intro key bs hheld hclear hstore
  have hexec : ∃ w, exec (.copyoPieceAck k q off) s = .next (landPiece ((engineStore s k key cmd.did
      ((ownUnits cmd p).map fun j => { lane := 0, pa := key + 16 * j, size := 16, val := BitVec.ofNat 128 (leNat ((bs.drop (16 * j)).take 16)) }) w).modCore k fun c =>
        (l1Drop c none fun sec => decide (key / 32 ≤ sec) && decide (sec ≤ (key + p.len - 1) / 32)).wrote cmd.did (key / 128)) k q cmd p) := by
    refine ⟨((List.range (p.len / 4)).filter fun j => viewBad (coreAt s k) cmd.view p.sp p.len / 2 ^ j % 2 = 1 && (ownUnits cmd p).contains (j / 4)).map (key / 4 + ·), ?_⟩
    show execCopyoPieceAck k q off s = _
    simp only [execCopyoPieceAck, hq, hp]
    rw [if_neg (by simp [hop, hclear, hheld, key])]
  obtain ⟨w, hw⟩ := hexec
  exact ⟨_, hw, engineStore_mem hstore w⟩

end

/-! ## A fault that is left to a warp -/

section
variable {s : State} {k w : Nat} {wp : Warp} {d : Deferred} {rest : List Deferred} (hw : warpAt s k w = some wp) (hd : wp.engineFaults = d :: rest)
include hw hd

theorem faultDeliver_empty (hl : lowestFirst wp.gangs = none) :
    exec (.engineFaultDeliver k w) s = .next (trapCompute (s.modWarp k w fun wp => { wp with engineFaults := rest }) k w d) := by
  show execEngineFaultDeliver k w s = _
  simp only [execEngineFaultDeliver, hw, hd, hl]

theorem faultDeliver_gang {g : Nat} {gn : Gang} (hl : lowestFirst wp.gangs = some g) (hg : AMap.get? wp.gangs g = some gn) (hb : gn.atBoundary = true)
    (hp : wp.preempt = false) (hh : wp.halted = false) :
    exec (.engineFaultDeliver k w) s = .next (trapCompute (s.modWarp k w fun wp => { wp with engineFaults := rest }) k w
      { d with entry := g, resume := gn.pc, gmask := gn.mask, mode := gn.mode, active := gn.mask &&& guardMask wp gn.mode }) := by
  show execEngineFaultDeliver k w s = _
  simp only [execEngineFaultDeliver, hw, hd, hl, hg, hb, hp, hh]
  rfl

end

/-- Settles O48. -/
theorem copySteps : Obligations.CopySteps := by
  refine ⟨fun s k q cmd hq => ?steps, fun c v a bs h => viewPut_spec c v a bs h, fun s k w wp d rest hw hd => ?deliver⟩
  case steps =>
    intro c ps tree check may rest
    refine ⟨fun hs hd => copyStart_starts hq hs hd, fun hm hc => copyChunk_passes hq hm hc, fun vas hm hc => copyChunk_misses hq hm hc,
      fun cause d addr hm hc => copyChunk_faults hq hm hc, fun off p bs bad u hop hp hclear hread => copyPiece_lands hq hop hp hclear hread, ?_⟩
    intro off p u hop hp key bs hheld hclear hstore
    exact copyoPiece_performs hq hop hp hheld hclear hstore
  case deliver =>
    intro s'
    exact ⟨fun hl => faultDeliver_empty hw hd hl, fun g gn hl hg hb hp hh => faultDeliver_gang hw hd hl hg hb hp hh⟩

end Sys2Proof.Machine

/-! SUPPORT. The steps of the pool and collective engines (R290, R292 to R297, R299, R372, R373). -/

namespace Sys2Proof.Machine

open Sys2Proof.Safety

/-! ## Gathers and pools -/

section
variable {s : State} {n : Nat} {q : Command} (hq : sliceHead s n .pq = some q) (hr : q.ran = false)
include hq hr

theorem poolRun_starts {op : EngineOp} (hop : q.op = op) (hs : q.started = false) (hd : drained s q = true) : poolRun op n s = .next (startPool s n q) := by
  simp only [poolRun, hq]
  rw [if_neg (by simp [hop, hr]), hs, hd]
  rfl

theorem poolRun_finishes {op : EngineOp} (hop : q.op = op) (hs : q.started = true)
    (hrows : ∀ i, i < (poolOf q.group).entries → q.rows.contains i = true ∨ isPad q i = true) :
    poolRun op n s = .next (finishPool s n q (decide (op = .gath))) := by
  have hall : ((List.range (poolOf q.group).entries).all fun i => q.rows.contains i || isPad q i) = true :=
    List.all_eq_true.mpr fun i hi => Bool.or_eq_true_iff.mpr (hrows i (List.mem_range.mp hi))
  simp only [poolRun, hq]
  rw [if_neg (by simp [hop, hr]), hs, hall]
  rfl

theorem poolRow_arrives {row : Nat} {bs : List Byte} {bad : List Nat} {u : State} (hs : q.started = true) (hlt : row < (poolOf q.group).entries)
    (hnew : q.rows.contains row = false) (hpad : isPad q row = false) (hstarts : rowStarts q row = true)
    (hc : rangeCheck s q.core q.did (q.tree s) { size := 16, write := false } (fun _ => false) (rangeLines (rowAddr q row) (poolOf q.group).rowBytes) = .ok)
    (hread : readParts s q.core (rowParts s q row) = some (bs, bad, u)) :
    exec (.poolRowArrive n row) s = .next (modHead (markRead u (q.tree s) ((rowParts s q row).map Prod.fst)) n .pq q fun d =>
      { d with rows := row :: d.rows, data := AMap.put d.data row bs, rowPoison := if bad.isEmpty then d.rowPoison else row :: d.rowPoison }) := by
  show execPoolRowArrive n row s = _
  simp only [execPoolRowArrive, hq]
  rw [if_neg (by rw [hs, hr, hnew, hpad, hstarts]; simpa using hlt)]
  simp only [hc, hread]

end

/-! ## Collectives -/

section
variable {s : State} {n : Nat} {q : Command} (hq : sliceHead s n .fq = some q) (hr : q.ran = false)
include hq

/-- The collective begun: it has read its group (R366). -/
def begunCollective (s : State) (n : Nat) (q : Command) : State :=
  modHead s n .fq q fun d => { d with started := true, snap := some (groupAt s (corePart s q.core) (groupField (q.word 0))) }

omit hq in
theorem startCollective_begins (hd : drained s q = true) : startCollective s n q = begunCollective s n q := by
  rw [startCollective, if_pos hd]
  rfl

include hr

theorem mcred_runs (hop : q.op = .mcred) :
    let g := startedGroup s q
    let off := (q.word 1).toNat
    let bytes := (q.word 2).toNat * (g.etype.width / 8)
    (q.started = false → drained s q = true → exec (.mcredRun n) s = .next (begunCollective s n q)) ∧
    (∀ st, q.started = true → groupStop g off bytes (decide (bytes % 128 = 0)) = some st → exec (.mcredRun n) s = .next (endCommand s n q st)) ∧
    (q.started = true → groupStop g off bytes (decide (bytes % 128 = 0)) = none → exec (.mcredRun n) s = .next (performMcred s n q g)) := by
  intro g off bytes
  refine ⟨fun hs hd => ?_, fun st hs hstop => ?_, fun hs hstop => ?_⟩
  all_goals
    show execMcredRun n s = _
    simp only [execMcredRun, hq]
    rw [if_neg (by simp [hop, hr]), hs]
  · exact congrArg _ (startCollective_begins hd)
  · simp only [g, off, bytes] at hstop
    simp only [hstop]
    rfl
  · simp only [g, off, bytes] at hstop
    simp only [hstop]
    rfl

/-- The source of a collective's chunk has been checked and read. -/
def SourceRead (s : State) (q : Command) (m : Nat) (bs : List Byte) (bad : List Nat) (u : State) : Prop :=
  rangeCheck s q.core q.did (q.tree s) { size := 128, write := false } (fun _ => false) ((q.span m).map fun p => p.2.2) = .ok ∧
    readParts s q.core (keysOf s q (q.span m)) = some (bs, bad, u)

/-- The pages of the source noted as read by the tree. -/
def sourceSeen (u : State) (q : Command) (m : Nat) : State := markRead u (q.tree u) ((keysOf u q (q.span m)).map Prod.fst)

theorem mcst_runs (hop : q.op = .mcst) :
    let g := startedGroup s q
    let off := (q.word 1).toNat
    let m := 4 * (q.word 2).toNat
    (q.started = false → drained s q = true → exec (.mcstRun n) s = .next (begunCollective s n q)) ∧
    (∀ st, q.started = true → groupStop g off m true = some st → exec (.mcstRun n) s = .next (endCommand s n q st)) ∧
    (∀ bs bad u, q.started = true → groupStop g off m true = none → SourceRead s q m bs bad u →
      exec (.mcstRun n) s = .next (performMcst (sourceSeen u q m) n q g bs bad)) := by
  intro g off m
  refine ⟨fun hs hd => ?_, fun st hs hstop => ?_, fun bs bad u hs hstop hsrc => ?_⟩
  all_goals
    show execMcstRun n s = _
    simp only [execMcstRun, hq]
    rw [if_neg (by simp [hop, hr]), hs]
  · exact congrArg _ (startCollective_begins hd)
  · simp only [g, off, m] at hstop
    simp only [hstop]
    rfl
  · obtain ⟨hc, hread⟩ := hsrc
    simp only [g, off, m] at hstop hc hread
    simp only [hstop, hc, hread]
    rfl

theorem wbcast_runs (hop : q.op = .wbcast) (hw : cisternWaits s n q = false) :
    let g := startedGroup s q
    let m := 4096 * (q.word 2).toNat
    (q.started = false → drained s q = true → exec (.wbcastRun n) s = .next (begunCollective s n q)) ∧
    (∀ st, q.started = true → groupStop { g with members := [] } 0 0 true = some st → exec (.wbcastRun n) s = .next (endCommand s n q st)) ∧
    (∀ bs bad u, q.started = true → groupStop { g with members := [] } 0 0 true = none → SourceRead s q m bs bad u →
      exec (.wbcastRun n) s = .next (performWbcast (sourceSeen u q m) n q g bs bad)) := by
  intro g m
  refine ⟨fun hs hd => ?_, fun st hs hstop => ?_, fun bs bad u hs hstop hsrc => ?_⟩
  all_goals
    show execWbcastRun n s = _
    simp only [execWbcastRun, hq]
    rw [if_neg (by simp [hop, hr, hw]), hs]
  · exact congrArg _ (startCollective_begins hd)
  · simp only [g] at hstop
    simp only [hstop]
    rfl
  · obtain ⟨hc, hread⟩ := hsrc
    simp only [g, m] at hstop hc hread
    simp only [hstop, hc, hread]
    rfl

/-! ## Digests -/

/-- The range that a DGST names, with the digest that it expects (R299). -/
def dgstRange (s : State) (q : Command) : CisternRange :=
  { offset := 4096 * (q.word 1).toNat, pages := (q.word 2).toNat,
    digest := BitVec.ofNat 384 (leNat (viewBytes (coreAt s q.core) q.view (bitsW (q.word 0) 19 0) 48)) }

/-- The digest is right, no word of the range is uncorrectable, and the partition's manifests hold it (R373). -/
def dgstAccepted (s : State) (q : Command) : Prop :=
  Config.sha384 ((dgstRange s q).bytes s) = (dgstRange s q).digest ∧ (dgstRange s q).bad s = false ∧
    (partAt s (corePart s q.core)).manifests.contains (dgstRange s q).digest = true

/-- The state in which the range is recorded and its pages are verified. -/
def dgstVerified (s : State) (n : Nat) (q : Command) : State :=
  let r := dgstRange s q
  endCommand { s with
    unverified := s.unverified.filter fun (i, _) => !(decide (r.offset / 4096 ≤ i) && decide (i < r.offset / 4096 + r.pages)),
    ranges := (s.ranges.filter fun t => !(decide (t.offset = r.offset) && decide (t.pages = r.pages))) ++ [r] } n q 0

theorem dgst_starts (hop : q.op = .dgst) (hs : q.started = false) (hd : drained s q = true) :
    exec (.dgstRun n) s = .next (modHead s n .fq q fun d => { d with started := true }) := by
  show execDgstRun n s = _
  simp only [execDgstRun, hq]
  rw [if_neg (by simp [hop, hr]), hs, hd]
  rfl

section
variable (hop : q.op = .dgst) (hs : q.started = true)
  (hw : ∀ w ∈ s.cisternWrites, ¬ (w.offset < (dgstRange s q).offset + 4096 * (dgstRange s q).pages ∧ (dgstRange s q).offset < w.offset + w.length))
include hop hs hw

omit hq hr hop hs in
theorem dgst_unwritten : (s.cisternWrites.any fun w => decide (w.offset < 4096 * (q.word 1).toNat + 4096 * (q.word 2).toNat) &&
    decide (4096 * (q.word 1).toNat < w.offset + w.length)) = false := by
  rw [List.any_eq_false]
  intro w hmem hc
  rw [Bool.and_eq_true, decide_eq_true_eq, decide_eq_true_eq] at hc
  exact hw w hmem hc

theorem dgst_foreign (hreg : regionOf s (corePart s q.core) ((dgstRange s q).offset / 2 ^ 26) = false) :
    exec (.dgstRun n) s = .next (endCommand s n q 5) := by
  simp only [dgstRange] at hreg
  show execDgstRun n s = _
  simp only [execDgstRun, hq]
  rw [if_neg (by simp [hop, hr]), hs, dgst_unwritten hw, hreg]
  rfl

variable (hreg : regionOf s (corePart s q.core) ((dgstRange s q).offset / 2 ^ 26) = true)
  (hfresh : ∀ i, i < (dgstRange s q).pages → refreshing s (cisternKey ((dgstRange s q).offset + 4096 * i)) = false)
  (hroom : (s.ranges.filter fun r => decide (r.offset / 2 ^ 26 = (dgstRange s q).offset / 2 ^ 26)).length < 64 ∨
    ∃ r ∈ s.ranges.filter fun r => decide (r.offset / 2 ^ 26 = (dgstRange s q).offset / 2 ^ 26), r.offset = (dgstRange s q).offset ∧ r.pages = (dgstRange s q).pages)
include hreg hfresh hroom

/-- With the range free of writes and refresh, and room for its record, the digest decides (R299, R373). -/
theorem dgst_decides [Decidable (dgstAccepted s q)] : exec (.dgstRun n) s =
    .next (if dgstAccepted s q then dgstVerified s n q else endCommand (quarantine s ((dgstRange s q).offset / 2 ^ 26)) n q 7) := by
  have hidle : ((List.range (q.word 2).toNat).any fun i => refreshing s (cisternKey (4096 * (q.word 1).toNat + 4096 * i))) = false := by
    rw [List.any_eq_false]
    intro i hi
    simp [show refreshing s (cisternKey (4096 * (q.word 1).toNat + 4096 * i)) = false from hfresh i (List.mem_range.mp hi)]
  have hfits : ¬ (64 ≤ (s.ranges.filter fun r => decide (r.offset / 2 ^ 26 = 4096 * (q.word 1).toNat / 2 ^ 26)).length ∧
      (!(s.ranges.filter fun r => decide (r.offset / 2 ^ 26 = 4096 * (q.word 1).toNat / 2 ^ 26)).any fun r =>
        decide (r.offset = 4096 * (q.word 1).toNat) && decide (r.pages = (q.word 2).toNat)) = true) := by
    rintro ⟨hfull, hnone⟩
    rcases hroom with hlt | ⟨r, hmem, ho, hp⟩
    · exact absurd hlt (Nat.not_lt.mpr hfull)
    · rw [Bool.not_eq_true', List.any_eq_false] at hnone
      exact hnone r hmem (Bool.and_eq_true_iff.mpr ⟨decide_eq_true ho, decide_eq_true hp⟩)
  simp only [dgstRange] at hreg
  show execDgstRun n s = _
  simp only [execDgstRun, hq]
  rw [if_neg (by simp [hop, hr]), hs, dgst_unwritten hw, hreg, hidle]
  simp only [Bool.not_true, Bool.false_eq_true, if_false]
  rw [if_neg hfits]
  by_cases hacc : dgstAccepted s q
  · obtain ⟨hsha, hbad, hman⟩ := hacc
    rw [if_pos ⟨hsha, (Bool.not_eq_true' _).mpr hbad, hman⟩, if_pos ⟨hsha, hbad, hman⟩]
    rfl
  · rw [if_neg hacc, if_neg fun ⟨hsha, hbad, hman⟩ => hacc ⟨hsha, (Bool.not_eq_true' _).mp hbad, hman⟩]
    rfl

end

end

/-! ## The state that a verified digest leaves -/

theorem endCommand_keeps (s : State) (n : Nat) (q : Command) (st : Nat) :
    (endCommand s n q st).mem = s.mem ∧ (endCommand s n q st).ranges = s.ranges ∧ (endCommand s n q st).unverified = s.unverified :=
  ⟨rfl, rfl, rfl⟩

theorem unverified_dgstVerified (s : State) (n : Nat) (q : Command) (i : Nat) :
    AMap.get? (dgstVerified s n q).unverified i =
      if (q.word 1).toNat ≤ i ∧ i < (q.word 1).toNat + (q.word 2).toNat then none else AMap.get? s.unverified i := by
  have hdiv : (dgstRange s q).offset / 4096 = (q.word 1).toNat := Nat.mul_div_cancel_left _ (by decide)
  have hpages : (dgstRange s q).pages = (q.word 2).toNat := rfl
  rw [dgstVerified, (endCommand_keeps _ _ _ _).2.2]
  simp only [hdiv, hpages]
  rw [AMap.get?_filter_key (p := fun j => !(decide ((q.word 1).toNat ≤ j) && decide (j < (q.word 1).toNat + (q.word 2).toNat)))]
  by_cases h : (q.word 1).toNat ≤ i ∧ i < (q.word 1).toNat + (q.word 2).toNat
  · simp [h]
  · rw [if_neg h, if_pos (by simp; omega)]

/-! ## A command that has run -/

theorem engineCommand_completes {s : State} {n : Nat} {q : Command} {eq : EngineQueue} (hq : sliceHead s n eq = some q) (hr : q.ran = true) :
    let s1 := match q.statusPlace, q.status with
      | some o, some st => s.modCore q.core fun c => scratchPutNat c (q.view.at o) 4 st
      | _, _ => s
    (q.barrier = none → exec (.engineCommandComplete n eq) s = .next (dropCommand s1 (512 + 4 * n) eq q)) ∧
    ∀ o, q.barrier = some o → exec (.engineCommandComplete n eq) s = .next (dropCommand (engineArrive s1 q.core o q.error) (512 + 4 * n) eq q) := by
  intro s1
  refine ⟨fun hb => ?_, fun o hb => ?_⟩
  all_goals
    show execEngineCommandComplete n eq s = _
    simp only [execEngineCommandComplete, hq, hr, hb]
    rfl

/-- Settles O49: each engine's step, by the state of its command: not started, stopped by its group, or at work. -/
theorem engineSteps : Obligations.EngineSteps := by
  unfold Obligations.EngineSteps
  intro s n q
  refine ⟨fun hq hr => ⟨?pools, ?rows⟩, fun hq hr => ?fabric, fun eq hq hr => engineCommand_completes hq hr⟩
  case pools =>
    simp only [List.forall_mem_cons, List.not_mem_nil, false_implies, implies_true, and_true]
    exact ⟨fun hop => ⟨poolRun_starts hq hr hop, poolRun_finishes hq hr hop⟩, fun hop => ⟨poolRun_starts hq hr hop, poolRun_finishes hq hr hop⟩⟩
  case rows =>
    exact fun row bs bad u hs hlt hnew hpad hstarts hc hread => poolRow_arrives hq hr hs hlt hnew hpad hstarts hc hread
  case fabric =>
    intro g off begun reads seen
    refine ⟨mcred_runs hq hr, mcst_runs hq hr, wbcast_runs hq hr, ?_⟩
    intro hop lo pages here expected range
    refine ⟨dgst_starts hq hr hop, fun hs hw => ⟨dgst_foreign hq hr hop hs hw, fun hreg hfresh hroom => ?_⟩⟩
    classical
    have hrun := dgst_decides hq hr hop hs hw hreg hfresh hroom
    refine ⟨fun hbad => ?_, fun hsha hgood hman => ⟨dgstVerified s n q, ?_, rfl, fun i hlo hhi => ?_, fun i hout => ?_, rfl⟩⟩
    · rw [hrun, if_neg]
      · rfl
      · rintro ⟨hsha, hgood, hman⟩
        rcases hbad with h | h | h
        · exact h hsha
        · exact Bool.false_ne_true (hgood.symm.trans h)
        · exact Bool.false_ne_true (h.symm.trans hman)
    · rw [hrun, if_pos ⟨hsha, hgood, hman⟩]
    · rw [unverified_dgstVerified, if_pos ⟨hlo, hhi⟩]
    · rw [unverified_dgstVerified, if_neg (by simp only [off, pages] at hout; omega)]

end Sys2Proof.Machine

/-! SUPPORT. The operations of the matrix engine as they take effect at the head of mq (R251 to R260, R279 to R281). -/

namespace Sys2Proof.Machine

open Sys2Proof.Safety

/-! ## The accumulators -/

/-- Cells updated one after another, no cell twice: each holds its update of what it held, every other cell what it held. -/
theorem getD_foldl_putD {α ι : Type} [DecidableEq α] (dflt : α) (key : ι → Nat) (F : ι → α → α) (ks : List ι) (acc : AMap α)
    (hks : (ks.map key).Nodup) :
    (∀ b ∈ ks, AMap.getD (ks.foldl (fun acc b => AMap.putD acc (key b) (F b (AMap.getD acc (key b) dflt)) dflt) acc) (key b) dflt =
      F b (AMap.getD acc (key b) dflt)) ∧
    ∀ k, k ∉ ks.map key →
      AMap.getD (ks.foldl (fun acc b => AMap.putD acc (key b) (F b (AMap.getD acc (key b) dflt)) dflt) acc) k dflt = AMap.getD acc k dflt := by
  induction ks generalizing acc with
  | nil => exact ⟨fun b hb => absurd hb List.not_mem_nil, fun _ _ => rfl⟩
  | cons b bs ih =>
    rw [List.map_cons, List.nodup_cons] at hks
    obtain ⟨hnew, hbs⟩ := hks
    obtain ⟨hin, hout⟩ := ih (AMap.putD acc (key b) (F b (AMap.getD acc (key b) dflt)) dflt) hbs
    refine ⟨fun e he => ?_, fun k hk => ?_⟩
    · rcases List.mem_cons.mp he with rfl | he
      · rw [List.foldl_cons, hout _ hnew, AMap.getD_putD, if_pos rfl]
      · have hne : key b ≠ key e := fun h => hnew (h ▸ List.mem_map_of_mem he)
        rw [List.foldl_cons, hin e he, AMap.getD_putD, if_neg hne]
    · rw [List.map_cons, List.mem_cons, not_or] at hk
      obtain ⟨hkb, hks⟩ := hk
      rw [List.foldl_cons, hout k hks, AMap.getD_putD, if_neg (Ne.symm hkb)]

theorem get?_foldl_put {α : Type} (v : α) (ks : List Nat) (acc : AMap α) (i : Nat) :
    AMap.get? (ks.foldl (fun acc i => AMap.put acc i v) acc) i = if i ∈ ks then some v else AMap.get? acc i := by
  induction ks generalizing acc with
  | nil => rfl
  | cons k ks ih =>
    rw [List.foldl_cons, ih, AMap.get?_put]
    by_cases hi : i ∈ ks
    · rw [if_pos hi, if_pos (List.mem_cons_of_mem _ hi)]
    · by_cases hk : k = i
      · rw [if_neg hi, if_pos hk, if_pos (hk ▸ List.mem_cons_self)]
      · rw [if_neg hi, if_neg hk, if_neg (by simp [hi, Ne.symm hk])]

/-- The cells of an accumulator set, row by row. -/
def accCells : List (Nat × Nat) := List.range 32 ×ˢ List.range 16

def accKey (cell : Nat × Nat) : Nat := 16 * cell.1 + cell.2

theorem mem_accCells {r col : Nat} : (r, col) ∈ accCells ↔ r < 32 ∧ col < 16 := by simp [accCells]

theorem nodup_accKeys : (accCells.map accKey).Nodup := by
  refine List.Nodup.map_on (fun x hx y hy h => ?_) (List.nodup_range.product List.nodup_range)
  obtain ⟨-, hx⟩ := mem_accCells.mp hx
  obtain ⟨-, hy⟩ := mem_accCells.mp hy
  simp only [accKey] at h
  exact Prod.ext (by omega) (by omega)

/-- What MMAC makes of a cell (R254). -/
def mmacOf (c : Core) (q : Command) (b : Stationary) (cell : Nat × Nat) : Acc → Acc :=
  mmacCell ((List.range q.layout.nkb).map fun j => tileBlock c q.view q.layout cell.1 j) (b.exps.getD cell.2 []) (b.mants.getD cell.2 [])

theorem mmacSet_eq (c : Core) (q : Command) (b : Stationary) (acc : AMap Acc) :
    mmacSet c q b acc =
      accCells.foldl (fun acc cell => AMap.putD acc (accKey cell) (mmacOf c q b cell (AMap.getD acc (accKey cell) {})) {}) acc := by
  simp only [accCells, SProd.sprod, List.product, List.foldl_flatMap, List.foldl_map]
  rfl

theorem getD_mmacSet (c : Core) (q : Command) (b : Stationary) (acc : AMap Acc) {r col : Nat} (hr : r < 32) (hcol : col < 16) :
    AMap.getD (mmacSet c q b acc) (16 * r + col) {} = mmacOf c q b (r, col) (AMap.getD acc (16 * r + col) {}) := by
  rw [mmacSet_eq]
  exact (getD_foldl_putD ({} : Acc) accKey (mmacOf c q b) accCells acc nodup_accKeys).1 (r, col) (mem_accCells.mpr ⟨hr, hcol⟩)

theorem getD_zeroSet_anchor (acc : AMap Acc) (a : Int) {i : Nat} (hi : i < 512) : AMap.getD (zeroSet (some a) acc) i {} = { anchor := some a } := by
  rw [AMap.getD, zeroSet, get?_foldl_put, if_pos (List.mem_range.mpr hi)]
  rfl

/-! ## An operation completes -/

section
variable {s : State} {k : Nat} {q : Command}

/-- The core whose matrix unit has lost its taint to another domain's contents. -/
def untainted (c : Core) (q : Command) : Core :=
  if (enterRun c.matrix q).did = c.matrix.did then c else { c with tainted := c.tainted.filter fun u => decide (u ≠ .matrix) }

theorem untainted_keeps (c : Core) (q : Command) :
    (untainted c q).matrix = c.matrix ∧ (untainted c q).scratch = c.scratch ∧ (untainted c q).warps = c.warps ∧ (untainted c q).mq = c.mq := by
  unfold untainted
  split <;> exact ⟨rfl, rfl, rfl, rfl⟩

theorem tileBlock_congr {c d : Core} (h : c.scratch = d.scratch) (v : View) (l : Layout) (r j : Nat) : tileBlock c v l r j = tileBlock d v l r j := by
  simp only [tileBlock, scratchNat, h]

theorem taint_keeps (c : Core) (did : BitVec 16) (us : List PowerUnit) :
    (c.taint did us).scratch = c.scratch ∧ (c.taint did us).warps = c.warps ∧ (c.taint did us).mq = c.mq := by
  unfold Core.taint
  split <;> exact ⟨rfl, rfl, rfl⟩

/-- The core once the operation has taken effect. -/
def completedCore (c : Core) (q : Command) (f : Core → Matrix → Matrix) : Core :=
  { (untainted c q).taint q.did [.matrix] with
    matrix := (f (untainted c q) (enterRun c.matrix q)).prune (c.mq.filter fun d => decide (d.id ≠ q.id) || d.marks),
    mq := c.mq.filter fun d => decide (d.id ≠ q.id) || d.marks }

theorem completeMq_eq (s : State) (k : Nat) (q : Command) (f : Core → Matrix → Matrix) :
    completeMq s k q f = countDownAt (s.modCore k fun c => completedCore c q f) k q.w q.warpAge .ec := rfl

theorem completedCore_keeps (c : Core) (q : Command) (f : Core → Matrix → Matrix) :
    (completedCore c q f).scratch = c.scratch ∧ (completedCore c q f).warps = c.warps := by
  obtain ⟨hs, hw, -⟩ := taint_keeps (untainted c q) q.did [.matrix]
  obtain ⟨-, hs', hw', -⟩ := untainted_keeps c q
  exact ⟨hs.trans hs', hw.trans hw'⟩

/-- What a completed operation leaves (R251). -/
theorem mqDone_completeMq (s : State) (k : Nat) (q : Command) (f : Core → Matrix → Matrix) {m : Matrix}
    (hm : f (untainted (coreAt s k) q) (enterRun (coreAt s k).matrix q) = m) : MqDone (.next (completeMq s k q f)) s k q m := by
  obtain ⟨hscratch, hwarps⟩ := completedCore_keeps (coreAt s k) q f
  refine ⟨_, rfl, ?_, ?_, ?_, ?_, fun wp hwp hage => ?_⟩ <;> rw [completeMq_eq, countDownAt]
  · rw [modWarp_mem, modCore_mem]
  · rw [State.modWarp, coreAt_modCore, coreAt_modCore, completedCore, hm]
  · rw [State.modWarp, coreAt_modCore, coreAt_modCore, completedCore]
  · rw [State.modWarp, coreAt_modCore, coreAt_modCore]
    exact hscratch
  · have hw : warpAt (s.modCore k fun c => completedCore c q f) k q.w = some wp := by
      rw [warpAt, coreAt_modCore, hwarps]
      exact hwp
    rw [warpAt_modWarp, hw]
    simp [hage, Warp.countDown]

theorem mqEvent_runs (hq : mqHead (coreAt s k) = some q) {f : Command → Option State} {t : State} (hf : f q = some t) : mqEvent k s f = .next t := by
  simp only [mqEvent, hq, hf]

/-- An operation at the head of mq runs by completing. -/
theorem mqRun_done (hq : mqHead (coreAt s k) = some q) {g : Command → Option State} {f : Core → Matrix → Matrix} {m : Matrix}
    (hg : g q = some (completeMq s k q f)) (hm : f (untainted (coreAt s k) q) (enterRun (coreAt s k).matrix q) = m) :
    MqDone (mqEvent k s g) s k q m := by
  rw [mqEvent_runs hq hg]
  exact mqDone_completeMq s k q f hm

/-! ## The operations one by one -/

variable (hq : mqHead (coreAt s k) = some q)
include hq

omit hq in
theorem loadB_congr {c d : Core} (h : c.scratch = d.scratch) (q : Command) : loadB c q = loadB d q := by
  simp only [loadB, tileBlock_congr h]

theorem mldb_runs (hop : q.op = .mldb) :
    MqDone (exec (.mldbRun k) s) s k q { enterRun (coreAt s k).matrix q with b := some (loadB (coreAt s k) q) } := by
  refine mqRun_done hq (if_pos hop) ?_
  simp only [loadB_congr (untainted_keeps (coreAt s k) q).2.1]

omit hq in
theorem mmacSet_congr {c d : Core} (h : c.scratch = d.scratch) (q : Command) (b : Stationary) : mmacSet c q b = mmacSet d q b := by
  funext acc
  simp only [mmacSet, tileBlock_congr h]

theorem mmac_fenced {set : Nat} (hop : q.op = .mmac set) (hf : (enterRun (coreAt s k).matrix q).fenced = 0xFF) :
    MqDone (exec (.mmacRun k) s) s k q ((enterRun (coreAt s k).matrix q).modRun q fun b => { b with flag := true }) := by
  refine mqRun_done hq (by simp only [hop]; rfl) ?_
  exact if_pos hf

theorem mmac_adds {set : Nat} {b : Stationary} (hop : q.op = .mmac set) (hf : (enterRun (coreAt s k).matrix q).fenced ≠ 0xFF)
    (hb : (enterRun (coreAt s k).matrix q).b = some b) :
    MqDone (exec (.mmacRun k) s) s k q
      (((enterRun (coreAt s k).matrix q).modRun q fun b => { b with used := b.used ||| ~~~(enterRun (coreAt s k).matrix q).fenced }).modSet set
        (mmacSet (coreAt s k) q b)) := by
  refine mqRun_done hq (by simp only [hop]; rfl) ?_
  rw [if_neg hf]
  simp only [Matrix.modRun, hb, mmacSet_congr (untainted_keeps (coreAt s k) q).2.1]

theorem mtest_runs {fails : BitVec 8} (hop : q.op = .mtest) :
    let m := enterRun (coreAt s k).matrix q
    let new := fails &&& ~~~m.fenced
    let t := { m with fenced := m.fenced ||| new }
    MqDone (exec (.mtestRun k fails) s) s k q
      (if new &&& ((m.runOf q.batch).map Batch.used).getD 0 = 0 then t else t.modRun q fun b => { b with flag := true }) := by
  intro m new t
  refine mqRun_done hq (if_pos hop) ?_
  simp only [decide_eq_true_eq, ne_eq, ite_not]
  rfl

omit hq in
theorem enterRun_mfence (m : Matrix) (hop : q.op = .mfence) : enterRun m q = m := if_pos hop

theorem mfence_runs {fail : Bool} (hop : q.op = .mfence) :
    ∃ u, exec (.mfenceRun k fail) s = .next (match q.barrier with
      | some o => engineArrive u k o (((coreAt s k).matrix.runOf q.batch).any fun b =>
        b.flag || ((nextUnfenced (coreAt s k).matrix.fenced (coreAt s k).matrix.pointer).isSome && fail && decide (b.used ≠ 0)))
      | none => u) ∧ MqDone (.next u) s k q (selfTest (coreAt s k).matrix fail) := by
  refine ⟨completeMq s k q fun _ m => selfTest m fail, ?_, mqDone_completeMq s k q _ (by rw [enterRun_mfence _ hop])⟩
  exact mqEvent_runs hq (if_pos hop)

omit hq in
theorem viewPut_matrix (c : Core) (v : View) (a : Nat) (bs : List Byte) :
    (viewPut c v a bs).matrix = c.matrix ∧ (viewPut c v a bs).mq = c.mq := by
  simp only [viewPut]
  generalize v.runs 17 a bs.length = rs
  induction rs generalizing c with
  | nil => exact ⟨rfl, rfl⟩
  | cons r rs ih => exact ih _

end

/-! ## The rows of outputs (R258) -/

/-- Rows of bytes put into a window, in their order. -/
def putRows (v : View) (place : Nat → Nat) (bytes : Nat → List Byte) (n : Nat) (c : Core) : Core :=
  (List.range n).foldl (fun c r => viewPut c v (place r) (bytes r)) c

theorem putRows_succ (v : View) (place : Nat → Nat) (bytes : Nat → List Byte) (n : Nat) (c : Core) :
    putRows v place bytes (n + 1) c = viewPut (putRows v place bytes n c) v (place n) (bytes n) := by
  simp [putRows, List.range_succ]

theorem putRows_matrix (v : View) (place : Nat → Nat) (bytes : Nat → List Byte) (n : Nat) (c : Core) :
    (putRows v place bytes n c).matrix = c.matrix ∧ (putRows v place bytes n c).mq = c.mq := by
  induction n with
  | zero => exact ⟨rfl, rfl⟩
  | succ n ih =>
    rw [putRows_succ]
    obtain ⟨hm, hq⟩ := viewPut_matrix (putRows v place bytes n c) v (place n) (bytes n)
    exact ⟨hm.trans ih.1, hq.trans ih.2⟩

section
variable {v : View} {place : Nat → Nat} {bytes : Nat → List Byte} {len : Nat} (hlen : ∀ r, (bytes r).length = len) (hsmall : len ≤ 4096)
include hlen hsmall

/-- A byte that no row covers stays. -/
theorem putRows_frame (n : Nat) (c : Core) (a : Nat) (ha : ∀ r i, r < n → i < len → a ≠ v.at (place r + i)) :
    cellRead (putRows v place bytes n c).scratch a = cellRead c.scratch a := by
  induction n with
  | zero => rfl
  | succ n ih =>
    rw [putRows_succ, (viewPut_spec _ v (place n) (bytes n) (by rw [hlen]; exact hsmall)).2 a
      fun i hi => ha n i (Nat.lt_succ_self n) (hlen n ▸ hi)]
    exact ih fun r i hr => ha r i (Nat.lt_succ_of_lt hr)

/-- A row that no later row overlaps reads back. -/
theorem putRows_row (n : Nat) (c : Core) {r : Nat} (hr : r < n)
    (hlast : ∀ j, j < n → r < j → ∀ i i', i < len → i' < len → v.at (place r + i) ≠ v.at (place j + i')) :
    viewBytes (putRows v place bytes n c) v (place r) len = bytes r := by
  induction n with
  | zero => exact absurd hr (Nat.not_lt_zero r)
  | succ n ih =>
    obtain ⟨hput, hkeep⟩ := viewPut_spec (putRows v place bytes n c) v (place n) (bytes n) (by rw [hlen]; exact hsmall)
    rw [putRows_succ]
    rcases Nat.lt_succ_iff_lt_or_eq.mp hr with hlt | rfl
    · rw [viewBytes_congr v (place r) len hsmall fun i hi => hkeep _ fun i' hi' => hlast n (Nat.lt_succ_self n) hlt i i' hi (hlen n ▸ hi')]
      exact ih hlt fun j hj => hlast j (Nat.lt_succ_of_lt hj)
    · rw [hlen] at hput
      exact hput

end

theorem outBytes_le (t : EType) : outBytes t 16 ≤ 4096 := by cases t <;> decide

theorem length_rowBytes (t : EType) (vals : List Nat) : (rowBytes t vals).length = outBytes t 16 := length_natLe _ _

/-! ## MRD -/

section
variable {s : State} {k : Nat} {q : Command}

/-- The type that the epilogue gives (R256). -/
def Matrix.outputType (m : Matrix) : EType := (outType (bitsW (m.epi.getD 0 0) 12 8)).getD .f32

/-- The set that an MRD reads. -/
def Matrix.setOf (m : Matrix) (set : Nat) : AMap Acc := if set = 0 then m.acc0 else m.acc1

/-- The place of a row of outputs. -/
def rowPlace (q : Command) (r : Nat) : Nat := bitsW (q.group.getD 0 0) 19 0 + r * bitsW (q.group.getD 1 0) 15 0

/-- The bytes of a row of outputs. -/
def outRow (c : Core) (m : Matrix) (set r : Nat) : List Byte :=
  rowBytes m.outputType ((List.range 16).map fun col => (mrdCell c m r col (AMap.getD (m.setOf set) (16 * r + col) {})).1)

/-- The core with the outputs in its scratchpad. -/
def mrdCore (c : Core) (q : Command) (set : Nat) : Core :=
  putRows q.view (rowPlace q) (outRow c (enterRun c.matrix q) set) 32 c

theorem foldl_range_congr {α : Type} {f g : α → Nat → α} (n : Nat) (h : ∀ c r, r < n → f c r = g c r) (c : α) :
    (List.range n).foldl f c = (List.range n).foldl g c :=
  List.foldl_ext f g c fun c r hr => h c r (List.mem_range.mp hr)

theorem getD_map_range {α : Type} (f : Nat → α) (d : α) {n r : Nat} (h : r < n) : ((List.range n).map f).getD r d = f r := by
  simp [h]

/-- The core after an operation that has changed the warp's status. -/
theorem coreAt_completeMq (s : State) (k : Nat) (q : Command) (f : Core → Matrix → Matrix) :
    (coreAt (completeMq s k q f) k).scratch = (coreAt s k).scratch ∧
    (coreAt (completeMq s k q f) k).matrix =
      (f (untainted (coreAt s k) q) (enterRun (coreAt s k).matrix q)).prune (coreAt (completeMq s k q f) k).mq := by
  rw [completeMq_eq, countDownAt, State.modWarp, coreAt_modCore, coreAt_modCore]
  exact ⟨(completedCore_keeps (coreAt s k) q f).1, rfl⟩

/-- The outputs of a set and their status bits, row by row. -/
def mrdCells (c : Core) (m : Matrix) (set : Nat) : List (List (Nat × Nat)) :=
  (List.range 32).map fun r => (List.range 16).map fun col => mrdCell c m r col (AMap.getD (m.setOf set) (16 * r + col) {})

/-- The status bits of all the outputs. -/
def mrdStatus (c : Core) (m : Matrix) (set : Nat) : Nat := (mrdCells c m set).foldl (fun a cells => cells.foldl (fun a p => a ||| p.2) a) 0

/-- The state with the outputs written and the warp's status raised, before the operation completes. -/
def mrdWritten (s : State) (k : Nat) (q : Command) (set : Nat) (status : Nat) : State :=
  (s.modCore k fun c => putRows q.view (rowPlace q) (outRow (coreAt s k) (enterRun (coreAt s k).matrix q) set) 32 c).modWarp k q.w fun wp =>
    if wp.age = q.warpAge then { wp with mstat := wp.mstat ||| BitVec.ofNat 6 status } else wp

theorem coreAt_mrdWritten (s : State) (k : Nat) (q : Command) (set status : Nat) :
    (coreAt (mrdWritten s k q set status) k).scratch = (mrdCore (coreAt s k) q set).scratch ∧
    (coreAt (mrdWritten s k q set status) k).matrix = (coreAt s k).matrix := by
  rw [mrdWritten, State.modWarp, coreAt_modCore, coreAt_modCore]
  exact ⟨rfl, (putRows_matrix _ _ _ _ _).1⟩

theorem mrd_runs (hq : mqHead (coreAt s k) = some q) {set : Nat} {clr : Bool} (hop : q.op = .mrd set clr) :
    exec (.mrdRun k) s = .next (completeMq (mrdWritten s k q set (mrdStatus (coreAt s k) (enterRun (coreAt s k).matrix q) set)) k q
      fun _ m => if clr then m.modSet set fun _ => [] else m) := by
  have hrows : ∀ c : Core, (List.range 32).foldl (fun c r => viewPut c q.view (bitsW (q.group.getD 0 0) 19 0 + r * bitsW (q.group.getD 1 0) 15 0)
      (rowBytes (enterRun (coreAt s k).matrix q).outputType (((mrdCells (coreAt s k) (enterRun (coreAt s k).matrix q) set).getD r []).map Prod.fst))) c =
      putRows q.view (rowPlace q) (outRow (coreAt s k) (enterRun (coreAt s k).matrix q) set) 32 c := by
    refine fun c => foldl_range_congr 32 (fun c r hr => ?_) c
    rw [mrdCells, getD_map_range _ _ hr, List.map_map]
    rfl
  refine mqEvent_runs hq ?_
  simp only [hop, mrdWritten, ← hrows]
  rfl

/-- What an MRD leaves: the set kept or reset, the outputs in their rows, every other byte of the scratchpad as it was (R257, R258). -/
theorem mrd_leaves (s : State) (k : Nat) (q : Command) (set status : Nat) (clr : Bool) :
    let m := enterRun (coreAt s k).matrix q
    let u := completeMq (mrdWritten s k q set status) k q fun _ m => if clr then m.modSet set fun _ => [] else m
    u.mem = s.mem ∧ (coreAt u k).matrix = (if clr then m.modSet set fun _ => [] else m).prune (coreAt u k).mq ∧
    (∀ r, r < 32 → (∀ j, j < 32 → r < j → ∀ i i', i < outBytes m.outputType 16 → i' < outBytes m.outputType 16 →
        q.view.at (rowPlace q r + i) ≠ q.view.at (rowPlace q j + i')) →
      viewBytes (coreAt u k) q.view (rowPlace q r) (outBytes m.outputType 16) = outRow (coreAt s k) m set r) ∧
    ∀ a, (∀ r i, r < 32 → i < outBytes m.outputType 16 → a ≠ q.view.at (rowPlace q r + i)) →
      cellRead (coreAt u k).scratch a = cellRead (coreAt s k).scratch a := by
  intro m u
  obtain ⟨hscratch, hmatrix⟩ := coreAt_completeMq (mrdWritten s k q set status) k q fun _ m => if clr then m.modSet set fun _ => [] else m
  obtain ⟨hwritten, hkept⟩ := coreAt_mrdWritten s k q set status
  have hcells : (coreAt u k).scratch = (mrdCore (coreAt s k) q set).scratch := hscratch.trans hwritten
  have hlen : ∀ r, (outRow (coreAt s k) m set r).length = outBytes m.outputType 16 := fun r => length_rowBytes _ _
  refine ⟨rfl, ?_, fun r hr hlast => ?_, fun a ha => ?_⟩
  · rw [hkept] at hmatrix
    exact hmatrix
  · rw [viewBytes_congr (d := mrdCore (coreAt s k) q set) q.view _ _ (outBytes_le _) fun i _ => by rw [hcells]]
    exact putRows_row hlen (outBytes_le _) 32 (coreAt s k) hr hlast
  · rw [hcells]
    exact putRows_frame hlen (outBytes_le _) 32 (coreAt s k) a ha

end

theorem selfTest_runs (s : State) (k : Nat) (fail : Bool) (hb : (coreAt s k).matrix.batch = none) (hq : (coreAt s k).mq = [])
    (hi : 256 ≤ (coreAt s k).matrix.idle) :
    exec (.selfTestIdle k fail) s = .next (s.modCore k fun c => { c with matrix := { selfTest c.matrix fail with idle := 0 } }) := by
  show execSelfTestIdle k fail s = _
  simp only [execSelfTestIdle]
  rw [if_neg (by simp [hb, hq, hi])]

/-- Settles O50: each operation by its run's lemma; the sums of MMAC and the reset cells from the folds over the set's cells. -/
theorem matrixSteps : Obligations.MatrixSteps := by
  unfold Obligations.MatrixSteps
  refine ⟨fun s k q hq => ?ops, fun c q b acc r col hr hcol => getD_mmacSet c q b acc hr hcol,
    fun acc i => ⟨rfl, fun a hi => getD_zeroSet_anchor acc a hi⟩, selfTest_runs⟩
  case ops =>
    intro c m
    refine ⟨mldb_runs hq, fun set hop => ⟨mmac_fenced hq hop, fun hf b hb => mmac_adds hq hop hf hb⟩, fun mask hop => ?_, fun mask a hop => ?_, fun hop => ?_,
      fun fails hop => mtest_runs hq hop, fun hop => ?_, fun fail hop hb => ?_, fun fail o hop hb => ?_, fun set clr hop => ?_⟩
    · exact mqRun_done hq (by simp only [hop]; rfl) rfl
    · exact mqRun_done hq (by simp only [hop]; rfl) rfl
    · exact mqRun_done hq (if_pos hop) rfl
    · exact mqRun_done hq (if_pos hop) rfl
    · obtain ⟨u, hu, hdone⟩ := mfence_runs hq (fail := fail) hop
      rw [hb] at hu
      rw [hu]
      exact hdone
    · obtain ⟨u, hu, hdone⟩ := mfence_runs hq (fail := fail) hop
      rw [hb] at hu
      exact ⟨u, hu, hdone⟩
    · intro acc t at_ n cell
      exact ⟨_, mrd_runs hq hop, mrd_leaves s k q set _ clr⟩

end Sys2Proof.Machine

/-! SUPPORT. The units of a core: scrubbed, woken, powered down, and the saved batch that reopens (R311, R325, R327). -/

namespace Sys2Proof.Machine

open Sys2Proof.Safety

theorem contains_filter_ne {α : Type} [DecidableEq α] (us : List α) (u : α) : (us.filter fun v => decide (v ≠ u)).contains u = false := by
  simp

/-! ## A unit that has been scrubbed -/

/-- A granule that has been scrubbed refills the reserve of the slot that holds it (R109). -/
def refillGranule (c : Core) : PowerUnit → Core
  | .granule q g => (match c.slots.find? fun (_, sl) => sl.valid && decide (sl.rbase ≤ g) && decide (g < sl.rbase + sl.granules) with
    | some (i, _) => refill c i q 1
    | none => c)
  | _ => c

/-- The core with a unit scrubbed and free of taint. -/
def scrubbedCore (c : Core) (u : PowerUnit) : Core :=
  { scrubUnit c u with scrubbing := c.scrubbing.filter fun v => decide (v ≠ u), tainted := c.tainted.filter fun v => decide (v ≠ u) }

theorem refillGranule_keeps (c : Core) (u : PowerUnit) :
    (refillGranule c u).scrubbing = c.scrubbing ∧ (refillGranule c u).tainted = c.tainted ∧ (refillGranule c u).warps = c.warps ∧
      (refillGranule c u).scratch = c.scratch := by
  unfold refillGranule
  split
  · split <;> exact ⟨rfl, rfl, rfl, rfl⟩
  · exact ⟨rfl, rfl, rfl, rfl⟩

theorem scrubUnit_keeps (c : Core) (u : PowerUnit) :
    (scrubUnit c u).scrubbing = c.scrubbing ∧ (scrubUnit c u).tainted = c.tainted ∧ (scrubUnit c u).warps = c.warps := by
  cases u <;> exact ⟨rfl, rfl, rfl⟩

theorem unitScrubDone_runs {s : State} {k : Nat} {u : PowerUnit} (h : (coreAt s k).scrubbing.contains u = true) :
    exec (.unitScrubDone k u) s = .next (s.modCore k fun c => refillGranule (scrubbedCore c u) u) := by
  show execUnitScrubDone k u s = _
  rw [execUnitScrubDone, if_neg (by rw [h]; decide)]
  cases u <;> rfl

theorem scrubUnit_group (c : Core) (g : Nat) {a : Nat} (hlo : 49152 * g ≤ a) (hhi : a < 49152 * g + 49152) :
    cellRead (scrubUnit c (.scratchGroup g)).scratch a = 0 := by
  rw [scrubUnit, zeroGroup, cellRead_cellsClear, if_pos ⟨hlo, hhi⟩]

theorem unitScrubDone_leaves {s : State} {k : Nat} {u : PowerUnit} (h : (coreAt s k).scrubbing.contains u = true) :
    ∃ t, exec (.unitScrubDone k u) s = .next t ∧ (coreAt t k).scrubbing.contains u = false ∧ (coreAt t k).tainted.contains u = false ∧
      t.mem = s.mem ∧ (coreAt t k).warps = (coreAt s k).warps ∧
      ∀ g, u = .scratchGroup g → ∀ a, 49152 * g ≤ a → a < 49152 * g + 49152 → cellRead (coreAt t k).scratch a = 0 := by
  obtain ⟨hscrub, htaint, hwarps, hscratch⟩ := refillGranule_keeps (scrubbedCore (coreAt s k) u) u
  refine ⟨_, unitScrubDone_runs h, ?_, ?_, rfl, ?_, fun g hg a hlo hhi => ?_⟩ <;> rw [coreAt_modCore]
  · rw [hscrub]
    exact contains_filter_ne _ u
  · rw [htaint]
    exact contains_filter_ne _ u
  · exact hwarps.trans (scrubUnit_keeps _ u).2.2
  · subst hg
    exact scrubUnit_group _ g hlo hhi

/-! ## A unit that wakes, and one that powers down -/

theorem scrub_keeps (c : Core) (us : List PowerUnit) : (c.scrub us).asleep = c.asleep ∧ (c.scrub us).warps = c.warps := ⟨rfl, rfl⟩

theorem scrub_contains (c : Core) (u : PowerUnit) : (c.scrub [u]).scrubbing.contains u = true := by
  simp only [Core.scrub, List.contains_iff_mem, List.mem_append, List.mem_filter, List.mem_singleton]
  by_cases h : u ∈ c.scrubbing <;> simp [h]

/-- The core with a unit awake, which is scrubbed first where it is tainted. -/
def wokenCore (c : Core) (u : PowerUnit) : Core :=
  let c := { c with asleep := c.asleep.filter fun v => decide (v ≠ u) }
  if c.tainted.contains u then c.scrub [u] else c

theorem wokenCore_leaves (c : Core) (u : PowerUnit) :
    (wokenCore c u).asleep.contains u = false ∧ (c.tainted.contains u = true → (wokenCore c u).scrubbing.contains u = true) ∧
      (wokenCore c u).warps = c.warps := by
  unfold wokenCore
  by_cases h : c.tainted.contains u = true
  · simp only [h, if_true]
    exact ⟨contains_filter_ne _ u, fun _ => scrub_contains _ u, rfl⟩
  · simp only [h]
    exact ⟨contains_filter_ne _ u, fun hc => absurd hc (by decide), rfl⟩

theorem unitWake_leaves {s : State} {k : Nat} {u : PowerUnit} (h : (coreAt s k).asleep.contains u = true) (hh : (coreAt s k).held = false) :
    ∃ t, exec (.unitWake k u) s = .next t ∧ (coreAt t k).asleep.contains u = false ∧
      ((coreAt s k).tainted.contains u = true → (coreAt t k).scrubbing.contains u = true) ∧ t.mem = s.mem ∧ (coreAt t k).warps = (coreAt s k).warps := by
  have hrun : exec (.unitWake k u) s = .next (s.modCore k fun c => wokenCore c u) := by
    show execUnitWake k u s = _
    rw [execUnitWake, if_neg (by rw [h, hh]; decide)]
    rfl
  obtain ⟨hasleep, hscrub, hwarps⟩ := wokenCore_leaves (coreAt s k) u
  refine ⟨_, hrun, ?_, ?_, rfl, ?_⟩ <;> rw [coreAt_modCore]
  exacts [hasleep, hscrub, hwarps]

theorem unitPowerDown_leaves {s : State} {k : Nat} {u : PowerUnit} (hk : isCompute k = true) (ha : (coreAt s k).asleep.contains u = false)
    (hs : (coreAt s k).scrubbing.contains u = false) (hi : unitIdle s k u = true) :
    ∃ t, exec (.unitPowerDown k u) s = .next t ∧ (coreAt t k).asleep.contains u = true ∧ (coreAt t k).tainted = (coreAt s k).tainted ∧
      (coreAt t k).warps = (coreAt s k).warps ∧ (u = .l1 → (coreAt t k).l1 = []) := by
  refine ⟨_, if_neg (by rw [hk, ha, hs, hi]; decide), ?_, ?_, ?_, fun hu => ?_⟩ <;> rw [coreAt_modCore]
  · simp
  · exact if_pos hu

/-! ## A saved batch that reopens (R311) -/

section
variable {s : State} {k : Nat} {r : Reopen}

/-- The operations of mq before which a saved batch's enter: those before the first of its domain. -/
def aheadOf (c : Core) (r : Reopen) : List Command := c.mq.takeWhile fun q => decide (q.did ≠ r.matrix.did)

/-- mq with a saved batch's operations in it. -/
def reopenedMq (c : Core) (r : Reopen) : List Command :=
  aheadOf c r ++ r.mq.map (Command.renumber (c.matrix.batches + 1)) ++ c.mq.drop (aheadOf c r).length

/-- The core with a saved batch reopened. -/
def reopenedCore (c : Core) (r : Reopen) (mq : List Command) : Core :=
  { c.taint r.matrix.did [.matrix] with matrix := (c.matrix.reopen r.matrix).prune mq, mq := mq }

theorem batchReopen_runs (hr : s.reopen.find? (mayReopen (coreAt s k) k) = some r) (hb : (coreAt s k).matrix.batch = none)
    (ha : (coreAt s k).asleep.contains .matrix = false) (hs : (coreAt s k).scrubbing.contains .matrix = false) :
    exec (.batchReopen k) s =
      .next { s.modCore k (fun c => reopenedCore c r (reopenedMq (coreAt s k) r)) with reopen := s.reopen.erase r } := by
  show execBatchReopen k s = _
  simp only [execBatchReopen, hr]
  rw [if_neg (by rw [hb, ha, hs]; decide)]
  rfl

theorem reopenedMq_ops (c : Core) (r : Reopen) :
    (reopenedMq c r).map Command.op =
      (c.mq.take (aheadOf c r).length).map Command.op ++ r.mq.map Command.op ++ (c.mq.drop (aheadOf c r).length).map Command.op := by
  have hprefix : c.mq.take (aheadOf c r).length = aheadOf c r := (List.prefix_iff_eq_take.mp (List.takeWhile_prefix _)).symm
  rw [hprefix, reopenedMq, List.map_append, List.map_append, List.map_map]
  rfl

end

/-- Settles O51: a unit's scrubbing, waking and powering down, and the reopening of a saved batch, each read off its step. -/
theorem unitSteps : Obligations.UnitSteps := by
  unfold Obligations.UnitSteps
  intro s k u
  refine ⟨unitScrubDone_leaves, unitWake_leaves, unitPowerDown_leaves, fun r hr hb ha hs => ⟨_, batchReopen_runs hr hb ha hs, rfl, ?_⟩⟩
  have hcore : coreAt { s.modCore k (fun c => reopenedCore c r (reopenedMq (coreAt s k) r)) with reopen := s.reopen.erase r } k =
      reopenedCore (coreAt s k) r (reopenedMq (coreAt s k) r) :=
    coreAt_modCore s k fun c => reopenedCore c r (reopenedMq (coreAt s k) r)
  rw [hcore]
  exact ⟨rfl, rfl, rfl, rfl, rfl, reopenedMq_ops (coreAt s k) r⟩

end Sys2Proof.Machine

/-! SUPPORT. The steps that make gangs eligible and bring warps to the cores (R17, R59, R109, R112, R114, R117, R118, R121 to R125, R135, R142). -/

namespace Sys2Proof.Machine

open Sys2Proof.Safety

/-! ## Timers of gangs -/

theorem gangAt_modGang_ne {s : State} {k w g j v h : Nat} (f : Gang → Gang) (hne : j ≠ k ∨ v ≠ w ∨ h ≠ g) :
    gangAt (s.modGang k w g f) j v h = gangAt s j v h := by
  by_cases hj : j = k
  · subst hj
    have hg : ¬ (v = w ∧ h = g) := by tauto
    rw [gangAt_modGang']
    simp only [hg, if_false, Option.map_id']
  · simp only [gangAt, warpAt, State.modGang, State.modWarp, coreAt_modCore_ne _ _ (Ne.symm hj)]

/-- An event that changes one gang. -/
theorem gang_becomes {s : State} {k w g : Nat} {gn gn' : Gang} {f : Gang → Gang} (hgn : gangAt s k w g = some gn) (hf : f gn = gn') :
    ∃ t, Host.Outcome.next (s.modGang k w g f) = (.next t : Event) ∧ t.mem = s.mem ∧ gangAt t k w g = some gn' ∧
      ∀ j v h, (j ≠ k ∨ v ≠ w ∨ h ≠ g) → gangAt t j v h = gangAt s j v h := by
  refine ⟨_, rfl, rfl, ?_, fun j v h hne => gangAt_modGang_ne f hne⟩
  rw [gangAt_modGang, hgn, Option.map_some, hf]

theorem meetPark_expires {s : State} {k w g : Nat} {gn : Gang} (hgn : gangAt s k w g = some gn) (hp : gn.status = .parked 0) (hs : gn.stopped = false) :
    exec (.meetParkExpiry k w g) s = .next (afterGangs (s.modWarp k w fun wp => wp.leaveMeet [g]) k w) := by
  show execMeetParkExpiry k w g s = _
  simp only [execMeetParkExpiry, hgn]
  rw [if_neg (by simp [hp, hs])]

/-- A gang's timers: the stall, the yield, the ageing threshold, the park. -/
theorem gang_timers (s : State) (k w g : Nat) (gn : Gang) (hgn : gangAt s k w g = some gn) :
    let becomes := fun (o : Host.Outcome State Fault Refusal) (gn' : Gang) => ∃ t, o = .next t ∧ t.mem = s.mem ∧ gangAt t k w g = some gn' ∧
      ∀ j v h, (j ≠ k ∨ v ≠ w ∨ h ≠ g) → gangAt t j v h = gangAt s j v h
    (gn.status = .stalled → gn.stall = 0 → gn.yielded = false → becomes (exec (.stallRunout k w g) s) { gn with status := .ready }) ∧
    (gn.status = .stalled → gn.stall = 0 → gn.yielded = true → becomes (exec (.yieldRunout k w g) s) { gn with status := .ready, yielded := false }) ∧
    (1024 ≤ gn.ageing → gn.thresholdAt = none → becomes (exec (.ageingThreshold k w g) s) { gn with thresholdAt := some (coreAt s k).clk.toNat }) ∧
    (gn.status = .parked 0 → gn.stopped = false →
      exec (.meetParkExpiry k w g) s = .next (afterGangs (s.modWarp k w fun wp => wp.leaveMeet [g]) k w)) := by
  intro becomes
  refine ⟨fun hst hz hy => gang_becomes hgn ?_, fun hst hz hy => gang_becomes hgn ?_, fun ha ht => gang_becomes hgn ?_, meetPark_expires hgn⟩
  · rw [if_neg (by rw [hy]; decide), Gang.runOut, if_pos ⟨hst, hz⟩, hy]
  · rw [if_pos hy, Gang.runOut, if_pos ⟨hst, hz⟩]
  · rw [Gang.atThreshold, if_pos ⟨ha, by rw [ht]; rfl⟩]

/-! ## VGROW (R109) -/

section
variable {s : State} {k q w g n : Nat} {d : Reg} {sl : Slot} {wp : Warp} {rest : List (Nat × Warp)}

/-- The oldest blocked request granted. -/
def growGrant (s : State) (k w g n : Nat) (d : Reg) : State :=
  wake (s.modWarp k w fun wp => { wp.dstS d 1 (wp.blocks + n) with blocks := wp.blocks + n }) k w g

theorem serveGrow_eq (hg : growers (coreAt s k) q sl.did = (w, wp) :: rest) (hw : wp.growing = some (g, n, d)) :
    serveGrow s k q sl =
      if growNeed wp n ≤ openGranules (coreAt s k) sl q then some (growGrant s k w g n d)
      else if !allGrowing (coreAt s k) q sl.did then none
      else if growNeed wp n ≤ min (sl.kept q) (freeGranules (coreAt s k) sl q) then
        some ((growGrant s k w g n d).modCore k fun c => lend c sl.did q (growNeed wp n))
      else some (faultWaiting s k w g (requestFault 1)) := by
  simp only [serveGrow, hg, hw, Option.bind_some]
  rfl

theorem serveGrow_cases (hg : growers (coreAt s k) q sl.did = (w, wp) :: rest) (hw : wp.growing = some (g, n, d)) :
    let grant := growGrant s k w g n d
    (growNeed wp n ≤ openGranules (coreAt s k) sl q → serveGrow s k q sl = some grant) ∧
    (openGranules (coreAt s k) sl q < growNeed wp n → allGrowing (coreAt s k) q sl.did = false → serveGrow s k q sl = none) ∧
    (openGranules (coreAt s k) sl q < growNeed wp n → allGrowing (coreAt s k) q sl.did = true →
      serveGrow s k q sl = some (if growNeed wp n ≤ min (sl.kept q) (freeGranules (coreAt s k) sl q) then grant.modCore k (fun c => lend c sl.did q (growNeed wp n))
        else faultWaiting s k w g (requestFault 1))) := by
  intro grant
  rw [serveGrow_eq hg hw]
  refine ⟨fun hfits => if_pos hfits, fun hless hall => ?_, fun hless hall => ?_⟩ <;> rw [if_neg (Nat.not_le.mpr hless), hall]
  · rfl
  · exact (apply_ite some _ _ _).symm

/-- The first slot, in their order, whose oldest request is served decides the event. -/
theorem vgrowGrant_runs {before after : List (Nat × Slot)} {i : Nat} {u : State} (hslots : (coreAt s k).slots = before ++ (i, sl) :: after)
    (hv : sl.valid = true) (hret : ∀ e ∈ (coreAt s k).warps, e.1 / 16 = q → e.2.mayRetire = false)
    (hbefore : ∀ e ∈ before, e.2.valid = true → serveGrow s k q e.2 = none) (hu : serveGrow s k q sl = some u) :
    exec (.vgrowGrant k q) s = .next u := by
  have hnone : before.findSome? (fun (e : Nat × Slot) => if e.2.valid then serveGrow s k q e.2 else none) = none := by
    rw [List.findSome?_eq_none_iff]
    intro e he
    by_cases hev : e.2.valid = true
    · rw [if_pos hev, hbefore e he hev]
    · rw [if_neg hev]
  have hidle : ((coreAt s k).warps.any fun e => decide (e.1 / 16 = q) && e.2.mayRetire) = false := by
    rw [List.any_eq_false]
    intro e he hc
    obtain ⟨hq, hm⟩ := Bool.and_eq_true_iff.mp hc
    exact Bool.false_ne_true ((hret e he (of_decide_eq_true hq)).symm.trans hm)
  have hscan : ((coreAt s k).slots.findSome? fun (e : Nat × Slot) => if e.2.valid then serveGrow s k q e.2 else none) = some u := by
    rw [hslots, List.findSome?_append, hnone, Option.none_or, List.findSome?_cons, if_pos hv, hu]
  show execVgrowGrant k q s = _
  rw [execVgrowGrant, hidle, hscan]
  rfl

end

/-! ## Bins (R112, R114) -/

section
variable {s : State} {k i : Nat} {b : Bin} (hb : AMap.get? (coreAt s k).bins i = some b)
include hb

theorem binTimer_expires {e : Nat × Slot} (hc : b.closed = false) (ht : b.threads ≠ []) (hz : b.timer = 0) (he : slotOf (coreAt s k) b.did = some e)
    (hh : e.2.halted = false) : exec (.binTimerExpiry k i) s = .next (launchBin s k i) := by
  show execBinTimerExpiry k i s = _
  simp only [execBinTimerExpiry, hb, he]
  rw [if_neg (by simp [hc, hz, ht, hh])]

theorem looseWarp_places {u : State} (hc : b.closed = true) (ho : olderUnit s k i b.since b.did = false) (hu : placeLoose s k i = some u) :
    exec (.looseWarpPlace k i) s = .next u := by
  show execLooseWarpPlace k i s = _
  simp only [execLooseWarpPlace, hb, hc, ho, hu]
  rfl

theorem launchBin_places {u : State} (ho : olderUnit s k i (partClk s k) b.did = false) (hu : placeLoose s k i = some u) : launchBin s k i = u := by
  simp only [launchBin, hb, ho, hu]
  rfl

theorem launchBin_waits (h : olderUnit s k i (partClk s k) b.did = true ∨ placeLoose s k i = none) :
    AMap.get? (coreAt (launchBin s k i) k).bins i = some { b with closed := true, since := partClk s k } := by
  have hfilter : ((placeLoose s k i).filter fun _ => !olderUnit s k i (partClk s k) b.did) = none := by
    rcases h with h | h
    · rw [h]
      cases placeLoose s k i <;> rfl
    · rw [h]
      rfl
  simp only [launchBin, hb, hfilter]
  rw [coreAt_modCore, AMap.get?_modify, hb]
  simp

end

/-! ## The dispatcher (R121 to R125) -/

/-- A partition whose dispatcher has taken a request into its order (R121). -/
def requestEntered (l : Launch) (pt : Partition) : Partition :=
  { pt with launches := pt.launches.erase l, grids := insertGrid { l.grid with id := pt.nextGrid, came := l.due, rank := l.rank } pt.grids, nextGrid := pt.nextGrid + 1 }

theorem launchRequest_enters {s : State} {n lane p : Nat} {l : Launch} (hp : (sliceAt s n).part = some p)
    (hl : ((partAt s p).launches.find? fun l => decide (l.slice = n) && decide (l.lane = lane)) = some l) (hdue : l.due ≤ (partAt s p).clk) :
    exec (.launchRequest n lane) s = .next (s.modPart p fun pt => requestEntered l pt) := by
  show execLaunchRequest n lane s = _
  simp only [execLaunchRequest, hp, hl]
  rw [if_neg (Nat.not_lt.mpr hdue)]
  rfl

theorem dispatchBlock_places {s : State} {p k : Nat} {g : Grid} (hnone : ∀ l ∈ (partAt s p).launches, (partAt s p).clk < l.due)
    (hg : nextGridOf s p = some g) (hk : coreForBlock s p g = some k) :
    let u := (placeBlock (if g.seed then bindTree s p g else s) k g).modSlice (coreSlice k) fun sl => { sl with cool := 8 }
    let left := fun (gs : List Grid) => if g.gx * g.gy * g.gz ≤ g.next + 1 then gs.filter (fun h => decide (h.id ≠ g.id)) else gs.map (fun h => if h.id = g.id then { h with next := h.next + 1 } else h)
    exec (.dispatchBlock p) s = .next (u.modPart p fun pt => { pt with grids := left pt.grids }) := by
  intro u left
  have hdue : ((partAt s p).launches.any fun l => decide (l.due ≤ (partAt s p).clk)) = false := by
    rw [List.any_eq_false]
    intro l hl hc
    exact absurd (of_decide_eq_true hc) (Nat.not_le.mpr (hnone l hl))
  show execDispatchBlock p s = _
  simp only [execDispatchBlock, hdue, hg, hk]
  simp only [Bool.false_eq_true, if_false, decide_eq_true_eq]
  rfl

/-! ## A warp enters (R125) -/

/-- The parts of a core that bring warps in: what an acquire and a taint leave as they were. -/
def Core.work (c : Core) : AMap Warp × Nat × AMap Nat × AMap Block := (c.warps, c.residents, c.entering, c.blocks)

theorem work_setPos (k : Nat) (c : Core) (did : BitVec 16) (scope n : Nat) : (setPos k c did scope n).work = c.work := by
  unfold setPos
  split
  · split <;> rfl
  · rfl

theorem work_carry (c : Core) (h : BitVec 16 × Nat × BitVec 2048) : (c.carry h).work = c.work := by
  unfold Core.carry
  split <;> rfl

theorem work_hear (c : Core) (did : BitVec 16) (scope : Nat) (sig : BitVec 2048) : (c.hear did scope sig).work = c.work := by
  unfold Core.hear
  generalize [2, 3, 4, 5].filter (fun n => decide (n ≠ scope)) = ns
  induction ns generalizing c with
  | nil => rfl
  | cons n ns ih => exact (ih _).trans (work_carry c _)

theorem work_taintWarp (c : Core) (did : BitVec 16) (w : Nat) (v : View) : (c.taintWarp did w v).work = c.work := by
  unfold Core.taintWarp Core.taint
  split <;> rfl

/-- An acquire leaves memory and every core's warps as they were. -/
theorem acquire_keeps (s : State) (k : Nat) (did : BitVec 16) (scope : Nat) :
    (acquire s k did scope).mem = s.mem ∧ (coreAt (acquire s k did scope) k).work = (coreAt s k).work := by
  unfold acquire
  split
  · exact ⟨rfl, rfl⟩
  · refine ⟨rfl, ?_⟩
    simp only
    rw [coreAt_modCore, work_hear, work_setPos]
    rfl

/-- The core with a warp entered: its age is the number of residents before it (R125). -/
def enteredCore (c : Core) (w : Nat) (wp : Warp) (entry : DWord) (after : Nat) : Core :=
  { c.taintWarp wp.didNow w wp.view with
    entering := AMap.put c.entering (w / 16) (after + 1), residents := c.residents + 1,
    warps := AMap.put c.warps w { wp with age := c.residents, gangs := [(0, Gang.goOn { pc := slot0 entry, mask := wp.wld, stall := after })] } }

theorem enterWarp_work (s : State) (k w : Nat) (wp : Warp) (entry : DWord) (scope : Nat) :
    (enterWarp s k w wp entry scope).mem = s.mem ∧
    (coreAt (enterWarp s k w wp entry scope) k).work =
      (enteredCore (coreAt s k) w wp entry (AMap.getD (coreAt s k).entering (w / 16) 0)).work := by
  obtain ⟨hmem, hwork⟩ := acquire_keeps (s.modCore k fun c => enteredCore c w wp entry (AMap.getD (coreAt s k).entering (w / 16) 0)) k wp.didNow scope
  rw [coreAt_modCore] at hwork
  exact ⟨hmem, hwork⟩

theorem goOn_entry (pc : DWord) (mask : Mask) (after : Nat) :
    Gang.goOn { pc := pc, mask := mask, stall := after } = { pc := pc, mask := mask, stall := after, status := if after = 0 then .ready else .stalled } := rfl

theorem enterWarp_enters (s : State) (k w scope : Nat) (wp : Warp) (entry : DWord) :
    let t := enterWarp s k w wp entry scope
    let after := AMap.getD (coreAt s k).entering (w / 16) 0
    t.mem = s.mem ∧ warpAt t k w = some { wp with age := (coreAt s k).residents, gangs := [(0, { pc := slot0 entry, mask := wp.wld, stall := after, status := if after = 0 then .ready else .stalled })] } ∧
    (∀ v, v ≠ w → warpAt t k v = warpAt s k v) ∧ (coreAt t k).residents = (coreAt s k).residents + 1 ∧
    (coreAt t k).entering = AMap.put (coreAt s k).entering (w / 16) (after + 1) := by
  intro t after
  obtain ⟨hmem, hwork⟩ := enterWarp_work s k w wp entry scope
  have hwarps : (coreAt t k).warps = (enteredCore (coreAt s k) w wp entry after).warps := congrArg (fun p => p.1) hwork
  refine ⟨hmem, ?_, fun v hv => ?_, congrArg (fun p => p.2.1) hwork, congrArg (fun p => p.2.2.1) hwork⟩
  · rw [warpAt, hwarps, enteredCore, AMap.get?_put_self]
    rfl
  · rw [warpAt, hwarps, enteredCore, AMap.get?_put_ne _ _ (Ne.symm hv)]
    rfl

/-! ## A warp retires (R117, R118) -/

theorem publishAt_cores (s : State) (slice part scope : Nat) (p : Publication) :
    (publishAt s slice part scope p).mem = s.mem ∧ (publishAt s slice part scope p).cores = s.cores := by
  unfold publishAt
  split <;> exact ⟨rfl, rfl⟩

theorem coreAt_publishAt (s : State) (slice part scope : Nat) (p : Publication) (k : Nat) : coreAt (publishAt s slice part scope p) k = coreAt s k := by
  rw [coreAt, (publishAt_cores s slice part scope p).2, ← coreAt]

/-- A publication leaves memory and the core's warps as they were. -/
theorem publishWrites_keeps (s : State) (k : Nat) (did : BitVec 16) (scope : Nat) (more : BitVec 2048) :
    (publishWrites s k did scope more).mem = s.mem ∧ (coreAt (publishWrites s k did scope more) k).work = (coreAt s k).work := by
  unfold publishWrites
  split
  · exact ⟨rfl, rfl⟩
  · refine ⟨(publishAt_cores _ _ _ _ _).1, ?_⟩
    simp only
    rw [coreAt_publishAt, coreAt_modCore]
    rfl

theorem releaseUnit_keeps (s : State) (k : Nat) (tree : Option Nat) (dids : List (BitVec 16)) :
    (releaseUnit s k tree dids).mem = s.mem ∧ (coreAt (releaseUnit s k tree dids) k).work = (coreAt s k).work := by
  unfold releaseUnit
  induction dids generalizing s with
  | nil => exact ⟨rfl, rfl⟩
  | cons did dids ih =>
    obtain ⟨hmem, hwork⟩ := ih _
    obtain ⟨hmem', hwork'⟩ := publishWrites_keeps _ _ _ _ _
    rw [List.foldl_cons]
    refine ⟨hmem.trans (hmem'.trans ?_), hwork.trans (hwork'.trans ?_)⟩ <;> cases tree <;> rfl

theorem work_freeGranule (c : Core) (did : BitVec 16) (q n : Nat) (tagged : Bool) : (freeGranule c did q n tagged).work = c.work := by
  unfold freeGranule
  split
  · rfl
  · split <;> rfl

/-- The core that a warp has left. -/
def vacatedCore (c : Core) (w : Nat) (wp : Warp) : Core :=
  freeGranule { c with warps := AMap.del c.warps w, matrix := c.matrix.closeFor w wp.age } wp.did (w / 16) (granulesFor wp.blocks) (worldOf c wp.didNow)

/-- The state that a warp has left, its writes released. -/
def vacated (s : State) (k w : Nat) (wp : Warp) : State :=
  releaseUnit ((closeSaved s k w wp.age).modCore k fun c => vacatedCore c w wp) k wp.tree (wp.did :: wp.gated)

theorem vacated_keeps (s : State) (k w : Nat) (wp : Warp) :
    (vacated s k w wp).mem = s.mem ∧ (coreAt (vacated s k w wp) k).warps = AMap.del (coreAt s k).warps w ∧
      (coreAt (vacated s k w wp) k).blocks = (coreAt s k).blocks := by
  obtain ⟨hmem, hwork⟩ := releaseUnit_keeps ((closeSaved s k w wp.age).modCore k fun c => vacatedCore c w wp) k wp.tree (wp.did :: wp.gated)
  rw [coreAt_modCore, vacatedCore, work_freeGranule] at hwork
  exact ⟨hmem, congrArg (fun p => p.1) hwork, congrArg (fun p => p.2.2.2) hwork⟩

/-- With other warps of its block alive, the block counts the warp off. -/
theorem retireWarp_block {s : State} {k w i : Nat} {wp : Warp} {b : Block} (hl : wp.loose = none) (hi : wp.blk = some i)
    (hb : AMap.get? (coreAt s k).blocks i = some b) (hlive : 1 < b.live) :
    retireWarp s k w wp = (vacated s k w wp).modCore k fun c => { c with blocks := AMap.put c.blocks i { b with live := b.live - 1 } } := by
  have hb' : AMap.get? (coreAt (vacated s k w wp) k).blocks i = some b := by
    rw [(vacated_keeps s k w wp).2.2]
    exact hb
  simp only [vacated, vacatedCore] at hb'
  simp only [retireWarp, hl, hi, hb']
  rw [if_neg (Nat.not_le.mpr hlive)]
  rfl

theorem warpRetire_runs {s : State} {k w : Nat} {wp : Warp} (hw : warpAt s k w = some wp) (hk : isCompute k = true) (hwld : wp.wld = 0) (hlc : wp.lc = 0)
    (hsc : wp.sc = 0) (hec : wp.ec = 0) (hp : wp.preempt = false) (hh : wp.halted = false) (ht : treeHeld s wp.tree = false) :
    exec (.warpRetire k w) s = .next (retireWarp s k w wp) := by
  show execWarpRetire k w s = _
  simp only [execWarpRetire, hw]
  rw [if_neg (by simp [Warp.mayRetire, hk, hwld, hlc, hsc, hec, hp, hh, ht])]

theorem retireWarp_leaves {s : State} {k w i : Nat} {wp : Warp} {b : Block} (hl : wp.loose = none) (hi : wp.blk = some i)
    (hb : AMap.get? (coreAt s k).blocks i = some b) (hlive : 1 < b.live) :
    (retireWarp s k w wp).mem = s.mem ∧ warpAt (retireWarp s k w wp) k w = none ∧
      AMap.get? (coreAt (retireWarp s k w wp) k).blocks i = some { b with live := b.live - 1 } := by
  obtain ⟨hmem, hwarps, -⟩ := vacated_keeps s k w wp
  rw [retireWarp_block hl hi hb hlive]
  refine ⟨hmem, ?_, ?_⟩
  · rw [warpAt, coreAt_modCore, hwarps, AMap.get?_del, if_pos rfl]
  · rw [coreAt_modCore, AMap.get?_put_self]

/-! ## The translation service (R343) -/

theorem translationWalk_starts {s : State} {n : Nat} {m : Miss} (hm : ((sliceAt s n).misses.find? fun m => !m.walking) = some m)
    (hfree : (walksOf (sliceAt s n).misses).length < 64) :
    ∃ t, exec (.translationWalk n) s = .next t ∧ t.mem = s.mem ∧
      (sliceAt t n).misses = (sliceAt s n).misses.map fun o => if o.did = m.did ∧ o.page = m.page then { o with walking := true } else o := by
  have hrun : exec (.translationWalk n) s =
      .next (s.modSlice n fun sl => { sl with misses := sl.misses.map fun o => if m.same o then { o with walking := true } else o }) := by
    show execTranslationWalk n s = _
    simp only [execTranslationWalk, hm]
    rw [if_neg (Nat.not_le.mpr hfree)]
  refine ⟨_, hrun, rfl, ?_⟩
  rw [sliceAt_modSlice]
  exact List.map_congr_left fun o _ => by
    simp only [Miss.same, Bool.and_eq_true, decide_eq_true_eq, @eq_comm _ m.did, @eq_comm _ m.page]

/-- The misses that an answer covers. -/
def answered (m : Miss) (r : Except WalkFault TlbEntry) (o : Miss) : Bool :=
  match r with
  | .ok e => e.covers o.did (4096 * o.page)
  | .error _ => m.same o

/-- What the service holds after an answer. -/
def serviceAfter (sl : Slice) (fresh : Bool) (r : Except WalkFault TlbEntry) : List TlbEntry :=
  match r with
  | .ok e => if fresh then e :: sl.service.take 32767 else sl.service
  | .error _ => sl.service

/-- The state in which an answer has left the queue of a slice's service. -/
def answerTaken (s : State) (n : Nat) (m : Miss) (fresh : Bool) (r : Except WalkFault TlbEntry) : State :=
  s.modSlice n fun sl => { sl with misses := sl.misses.filter fun o => !answered m r o, service := serviceAfter sl fresh r }

/-- An answer given to every miss that it covers. -/
def answerGiven (s : State) (n : Nat) (m : Miss) (fresh : Bool) (r : Except WalkFault TlbEntry) : State :=
  ((sliceAt s n).misses.filter (answered m r)).foldl (fun s o => answerMiss s o r) (answerTaken s n m fresh r)

section
variable {s : State} {n i : Nat} {m : Miss} (hi : (sliceAt s n).misses[i]? = some m)
include hi

theorem translationAnswer_held {e : TlbEntry} (he : ((sliceAt s n).service.find? fun e => e.covers m.did (4096 * m.page)) = some e) :
    exec (.translationAnswer n i) s = .next (answerGiven s n m false (.ok e)) := by
  show execTranslationAnswer n i s = _
  simp only [execTranslationAnswer, hi, he]
  rfl

theorem translationAnswer_walked (he : ((sliceAt s n).service.find? fun e => e.covers m.did (4096 * m.page)) = none) (hw : m.walking = true) :
    exec (.translationAnswer n i) s = .next (answerGiven s n m true (walkMiss s m)) := by
  show execTranslationAnswer n i s = _
  simp only [execTranslationAnswer, hi, he]
  rw [if_neg (by rw [hw]; decide)]
  cases walkMiss s m <;> rfl

/-- The answer that a miss gets leaves its queue, with every miss that it covers, before it is given to each of them. -/
theorem translationAnswer_answers :
    let held := (sliceAt s n).service.find? fun e => e.covers m.did (4096 * m.page)
    let answers := fun (keep : List Miss) (svc : List TlbEntry) (took : List Miss) (r : Except WalkFault TlbEntry) =>
      ∃ u, exec (.translationAnswer n i) s = .next (took.foldl (fun s o => answerMiss s o r) u) ∧ u.mem = s.mem ∧ u.cores = s.cores ∧
        (sliceAt u n).misses = keep ∧ (sliceAt u n).service = svc
    (∀ e, held = some e → answers ((sliceAt s n).misses.filter fun o => !e.covers o.did (4096 * o.page)) (sliceAt s n).service
      ((sliceAt s n).misses.filter fun o => e.covers o.did (4096 * o.page)) (.ok e)) ∧
    (∀ e, held = none → m.walking = true → walkMiss s m = .ok e → answers ((sliceAt s n).misses.filter fun o => !e.covers o.did (4096 * o.page))
      (e :: (sliceAt s n).service.take 32767) ((sliceAt s n).misses.filter fun o => e.covers o.did (4096 * o.page)) (.ok e)) ∧
    ∀ f, held = none → m.walking = true → walkMiss s m = .error f → answers ((sliceAt s n).misses.filter fun o => !m.same o) (sliceAt s n).service
      ((sliceAt s n).misses.filter fun o => m.same o) (.error f) := by
  intro held answers
  refine ⟨fun e he => ⟨_, translationAnswer_held hi he, rfl, rfl, ?_⟩, fun e he hw hok => ⟨answerTaken s n m true (.ok e), ?_, rfl, rfl, ?_⟩,
    fun f he hw hbad => ⟨answerTaken s n m true (.error f), ?_, rfl, rfl, ?_⟩⟩
  · rw [answerTaken, sliceAt_modSlice]
    exact ⟨rfl, rfl⟩
  · rw [translationAnswer_walked hi he hw, hok]
    rfl
  · rw [answerTaken, sliceAt_modSlice]
    exact ⟨rfl, rfl⟩
  · rw [translationAnswer_walked hi he hw, hbad]
    rfl
  · rw [answerTaken, sliceAt_modSlice]
    exact ⟨rfl, rfl⟩

end

/-! ## The answers of a walk -/

theorem answerMiss_fills {s : State} {m : Miss} {e : TlbEntry} :
    let world := worldOf (coreAt s m.core) m.did
    let t := answerMiss s m (.ok e)
    t.mem = s.mem ∧
    (fillFault s (corePart s m.core) m.did world e (4096 * m.page) = none →
      ∃ old, (coreAt t m.core).tlb = e.fit s (corePart s m.core) m.did world (4096 * m.page) :: old ∧ ∀ x ∈ old, x ∈ (coreAt s m.core).tlb) ∧
    ∀ cause detail, fillFault s (corePart s m.core) m.did world e (4096 * m.page) = some (cause, detail) → (coreAt t m.core).refusals =
      { did := m.did, page := m.page, cause := cause, detail := detail, leaf := some (e.cut (4096 * m.page) 4096) } :: (coreAt s m.core).refusals := by
  intro world t
  refine ⟨?_, fun hf => ?_, fun cause detail hf => ?_⟩
  · simp only [t, answerMiss]
    split <;> rfl
  · simp only [t, answerMiss, world] at hf ⊢
    rw [hf]
    simp only
    rw [coreAt_modCore]
    exact ⟨_, rfl, fun x hx => List.mem_of_mem_filter (List.mem_of_mem_take hx)⟩
  · simp only [t, answerMiss, world] at hf ⊢
    rw [hf]
    simp only
    rw [coreAt_modCore]

theorem answerMiss_refuses (s : State) (m : Miss) (cause detail : Nat) :
    (coreAt (answerMiss s m (.error (cause, detail))) m.core).refusals =
      { did := m.did, page := m.page, cause := cause, detail := detail } :: (coreAt s m.core).refusals := by
  simp only [answerMiss]
  rw [coreAt_modCore]

/-- Settles O52: timers, granules, bins, dispatcher, entry, retirement and the translation service, each by the lemma of its step. -/
theorem schedulingSteps : Obligations.SchedulingSteps := by
  unfold Obligations.SchedulingSteps
  refine ⟨⟨gang_timers, ?grow, ?bins, ?request, ?block, ?enters, ?retires⟩, fun s n m => ⟨translationWalk_starts, fun i hi => translationAnswer_answers hi⟩,
    fun s m => ⟨fun e => answerMiss_fills, answerMiss_refuses s m⟩⟩
  case grow =>
    intro s k q w g n d sl wp rest hg hw
    obtain ⟨hnow, hnever, hreserve⟩ := serveGrow_cases hg hw
    exact ⟨hnow, hnever, hreserve, fun before after i u => vgrowGrant_runs⟩
  case bins =>
    intro s k i b hb
    exact ⟨fun e => binTimer_expires hb, fun u => looseWarp_places hb, fun u => launchBin_places hb, launchBin_waits hb⟩
  case request =>
    intro s n lane p l hp hl hdue
    refine ⟨_, launchRequest_enters hp hl hdue, rfl, ?_⟩
    rw [partAt_modPart]
    exact ⟨rfl, rfl, rfl⟩
  case block => exact fun s p k g hnone hg hk => dispatchBlock_places hnone hg hk
  case enters => exact fun s k w scope wp entry => enterWarp_enters s k w scope wp entry
  case retires =>
    intro s k w wp hw hk hwld hlc hsc hec hp hh ht
    exact ⟨warpRetire_runs hw hk hwld hlc hsc hec hp hh ht, fun i b hl hi hb hlive => retireWarp_leaves hl hi hb hlive⟩

end Sys2Proof.Machine

/-! SUPPORT. Taking a trap and disposing of it (R309, R330 to R335). -/

namespace Sys2Proof.Machine

open Sys2Proof.Safety

/-! ## Words in memory -/

theorem cellsWrite_append (m : List Host.Cell) (a : Nat) (xs ys : List Byte) :
    cellsWrite m a (xs ++ ys) = cellsWrite (cellsWrite m a xs) (a + xs.length) ys := by
  induction xs generalizing m a with
  | nil => rfl
  | cons x xs ih =>
    rw [List.cons_append, cellsWrite, ih, cellsWrite, List.length_cons, Nat.add_assoc, Nat.add_comm 1]

/-- Bytes written elsewhere leave a number as it was. -/
theorem cellsNat_cellsWrite_apart (m : List Host.Cell) {a b n : Nat} (bs : List Byte) (h : b + n ≤ a ∨ a + bs.length ≤ b) :
    cellsNat (cellsWrite m a bs) b n = cellsNat m b n := by
  rw [cellsNat, cellsNat, cellsRead_congr (m' := m) fun i hi => by rw [cellRead_cellsWrite, if_neg (by omega)]]

theorem wordsBytes_cons (w : Word) (ws : List Word) : wordsBytes (w :: ws) = natLe 4 w.toNat ++ wordsBytes ws := rfl

theorem length_wordsBytes (ws : List Word) : (wordsBytes ws).length = 4 * ws.length := by
  induction ws with
  | nil => rfl
  | cons w ws ih =>
    rw [wordsBytes_cons, List.length_append, length_natLe, ih, List.length_cons]
    omega

/-- Words written read back. -/
theorem cellsNat_wordsBytes (m : List Host.Cell) (a : Nat) (ws : List Word) {i : Nat} (hi : i < ws.length) :
    cellsNat (cellsWrite m a (wordsBytes ws)) (a + 4 * i) 4 = (ws.getD i 0).toNat := by
  induction ws generalizing m a i with
  | nil => exact absurd hi (Nat.not_lt_zero i)
  | cons w ws ih =>
    rw [wordsBytes_cons, cellsWrite_append, length_natLe]
    cases i with
    | zero =>
      rw [cellsNat_cellsWrite_apart _ _ (by omega), Nat.mul_zero, Nat.add_zero, cellsNat_cellsWrite]
      exact Nat.mod_eq_of_lt w.isLt
    | succ i =>
      rw [show a + 4 * (i + 1) = a + 4 + 4 * i by omega, ih _ _ (Nat.lt_of_succ_lt_succ hi)]
      rfl

theorem memWord_wordsBytes {s t : State} {a : Nat} {ws : List Word} (h : t.mem = cellsWrite s.mem a (wordsBytes ws)) {i : Nat} (hi : i < ws.length) :
    memWord t (a + 4 * i) = ws.getD i 0 := by
  rw [memWord, memNat, h, cellsNat_wordsBytes _ _ _ hi, w32, BitVec.ofNat_toNat, BitVec.setWidth_eq]

/-! ## The record (R330, R331) -/

theorem length_recordWords (d : Deferred) (w slot : Nat) (did : BitVec 16) (world : Bool) (depth : Nat) (h : d.trap.group.length ≤ 8) :
    (recordWords d w slot did world depth).length = 25 := by
  simp only [recordWords, List.length_append, List.length_cons, List.length_nil, List.length_replicate]
  omega

theorem getD_zeros (n i : Nat) : (List.replicate n (0 : Word)).getD i 0 = 0 := by
  rw [List.getD_eq_getElem?_getD, List.getElem?_replicate]
  split <;> rfl

theorem getD_pad (ws : List Word) (n i : Nat) : (ws ++ List.replicate n 0).getD i 0 = ws.getD i 0 := by
  by_cases h : i < ws.length
  · exact List.getD_append _ _ _ _ h
  · rw [List.getD_append_right _ _ _ _ (Nat.not_lt.mp h), getD_zeros, List.getD_eq_default _ _ (Nat.not_lt.mp h)]

section
variable {s : State} {k w n : Nat} {wp : Warp} {sl : Slot} (hw : warpAt s k w = some wp) (hsl : slotOf (coreAt s k) wp.didNow = some (n, sl))
include hw hsl

/-- The 64 words of a warp's record. -/
def recordOf (d : Deferred) (w n : Nat) (wp : Warp) (sl : Slot) : List Word :=
  let ws := recordWords d w n wp.didNow (sl.w0.getLsbD 16) wp.frames.length
  ws ++ List.replicate (64 - ws.length) 0

omit hw hsl in
theorem length_recordOf {d : Deferred} (h : d.trap.group.length ≤ 8) : (recordOf d w n wp sl).length = 64 := by
  simp only [recordOf, List.length_append, List.length_replicate, length_recordWords _ _ _ _ _ _ h]

/-- The state with the record's words in memory and published, and its notification queued. -/
def recordPosted (s : State) (k w n : Nat) (wp : Warp) (sl : Slot) (d : Deferred) : State :=
  let key := physKey (corePart s k) (recordPa sl w)
  (publishAt (memPut s key (wordsBytes (recordOf d w n wp sl))) (coreSlice k) (corePart s k) 3
    { did := wp.didNow, sig := signatureOf [lineOf key, lineOf key + 1] }).modSlice (coreSlice k) fun sl' =>
      { sl' with notices := sl'.notices ++ [{ core := k, w := w, record := BitVec.ofNat 64 (recordPa sl w) }] }

theorem writeRecord_eq (d : Deferred) :
    writeRecord s k w d = (recordPosted s k w n wp sl d).modWarp k w fun wp => { wp with recordLive := some d.entry, liveTrap := some d } := by
  simp only [writeRecord, hw, hsl]
  rfl

omit hw hsl in
theorem recordPosted_keeps (d : Deferred) :
    (recordPosted s k w n wp sl d).mem = cellsWrite s.mem (physKey (corePart s k) (recordPa sl w)) (wordsBytes (recordOf d w n wp sl)) ∧
    (recordPosted s k w n wp sl d).cores = s.cores := by
  rw [recordPosted, modSlice_mem, modSlice_cores, (publishAt_cores _ _ _ _ _).1, (publishAt_cores _ _ _ _ _).2]
  simp only [memPut, and_self]

omit hw hsl in
theorem sliceAt_recordPosted (d : Deferred) :
    sliceAt (recordPosted s k w n wp sl d) (coreSlice k) =
      { sliceAt s (coreSlice k) with notices := (sliceAt s (coreSlice k)).notices ++ [{ core := k, w := w, record := BitVec.ofNat 64 (recordPa sl w) }] } := by
  rw [recordPosted, sliceAt_modSlice]
  simp only [publishAt, sliceAt_modPart]
  rfl

omit hw hsl in
theorem sliceAt_modWarp (s : State) (k w n : Nat) (f : Warp → Warp) : sliceAt (s.modWarp k w f) n = sliceAt s n := rfl

theorem writeRecord_leaves (d : Deferred) (hlen : d.trap.group.length ≤ 8) :
    let key := physKey (corePart s k) (recordPa sl w)
    let ws := recordWords d w n wp.didNow (sl.w0.getLsbD 16) wp.frames.length
    let t := writeRecord s k w d
    let note : Notice := { core := k, w := w, record := BitVec.ofNat 64 (recordPa sl w) }
    (∀ i, i < 64 → memWord t (key + 4 * i) = ws.getD i 0) ∧ (∀ a, a < key ∨ key + 256 ≤ a → cellRead t.mem a = cellRead s.mem a) ∧
    (sliceAt t (coreSlice k)).notices = (sliceAt s (coreSlice k)).notices ++ [note] ∧ (warpAt t k w).map Warp.recordLive = some (some d.entry) := by
  intro key ws t note
  have ht : t = _ := writeRecord_eq hw hsl d
  have hmem : t.mem = cellsWrite s.mem key (wordsBytes (recordOf d w n wp sl)) := by
    rw [ht, modWarp_mem, (recordPosted_keeps d).1]
  have hbytes : (wordsBytes (recordOf d w n wp sl)).length = 256 := by rw [length_wordsBytes, length_recordOf hlen]
  refine ⟨fun i hi => ?_, fun a ha => ?_, ?_, ?_⟩
  · rw [memWord_wordsBytes hmem (by rw [length_recordOf hlen]; exact hi)]
    exact getD_pad ws _ i
  · rw [hmem, cellRead_cellsWrite, hbytes, if_neg (by omega)]
  · rw [ht, sliceAt_modWarp, sliceAt_recordPosted]
  · have hsame : warpAt (recordPosted s k w n wp sl d) k w = some wp := by
      rw [warpAt, coreAt, (recordPosted_keeps d).2]
      exact hw
    rw [ht, warpAt_modWarp, hsame]
    simp

omit hsl in
/-- A record that waited is written once it may be (R331). -/
theorem deferredRecord_runs {d : Deferred} {rest : List Deferred} (hd : wp.deferred = d :: rest) (hl : wp.recordLive = none) (hh : wp.halted = false)
    (hq : (sliceAt s (coreSlice k)).notices.length < 64) :
    exec (.deferredTrapRecord k w) s = .next (recordOut s k w wp d rest) := by
  show execDeferredTrapRecord k w s = _
  simp only [execDeferredTrapRecord, hw, hd]
  rw [if_neg (by simp [hl, hh, hq])]

omit hw hsl in
theorem corePart_modWarp (s : State) (k w j : Nat) (f : Warp → Warp) : corePart (s.modWarp k w f) j = corePart s j := rfl

omit hw hsl in
theorem slotOf_modWarp (s : State) (k w j : Nat) (f : Warp → Warp) (did : BitVec 16) :
    slotOf (coreAt (s.modWarp k w f) j) did = slotOf (coreAt s j) did := by
  rw [State.modWarp, coreAt_modCore']
  split <;> rfl

omit hw hsl in
theorem corePart_recordPosted (d : Deferred) : corePart (recordPosted s k w n wp sl d) k = corePart s k := by
  rw [corePart, sliceAt_recordPosted, ← corePart]

/-- The record stands at the place of its warp's domain. -/
theorem recordKey_writeRecord (d : Deferred) : recordKey (writeRecord s k w d) k w = some (physKey (corePart s k) (recordPa sl w)) := by
  have hcore : coreAt (recordPosted s k w n wp sl d) k = coreAt s k := by rw [coreAt, (recordPosted_keeps d).2, ← coreAt]
  have hwarp : warpAt (recordPosted s k w n wp sl d) k w = some wp := by
    rw [warpAt, hcore]
    exact hw
  rw [writeRecord_eq hw hsl, recordKey, warpAt_modWarp, hwarp]
  simp only [Option.map_some, Option.bind_some, if_true, slotOf_modWarp, hcore, hsl, corePart_modWarp, corePart_recordPosted]

theorem recordOut_eq {d : Deferred} {rest : List Deferred} :
    let key := physKey (corePart s k) (recordPa sl w)
    let u := writeRecord (s.modWarp k w fun wp => { wp with deferred := rest, lateDisp := 0 }) k w d
    recordOut s k w wp d rest = if wp.lateDisp = 0 then u else homeWriteNat u (key + 60) 4 wp.lateDisp := by
  intro key u
  have hw' : warpAt (s.modWarp k w fun wp => { wp with deferred := rest, lateDisp := 0 }) k w = some { wp with deferred := rest, lateDisp := 0 } := by
    rw [warpAt_modWarp, hw, Option.map_some, if_pos rfl]
  have hkey := recordKey_writeRecord hw' ((slotOf_modWarp s k w k _ wp.didNow).trans hsl) d
  rw [corePart_modWarp] at hkey
  simp only [recordOut, hkey]
  rfl

end

/-! ## Notifications and interrupts (R334) -/

theorem notification_drains {s : State} {n : Nat} {e : Notice} {rest : List Notice} (hn : (sliceAt s n).notices = e :: rest)
    (hp : (coreAt s (512 + 4 * n)).svc.ipend.getLsbD 1 = false) :
    let u := (s.modSlice n fun sl => { sl with notices := rest }).modCore (512 + 4 * n) fun c => { c with svc := { c.svc with ipend := c.svc.ipend ||| 2, trapAddr := e.record } }
    let line := lineOf (physKey (corePart u e.core) e.record.toNat)
    exec (.notificationDrain n) s = .next (wakeWatchers (wakeWatchers u line) (line + 1)) := by
  intro u line
  show execNotificationDrain n s = _
  simp only [execNotificationDrain, hn, hp]
  rfl

theorem enterTvec_enters {s : State} {k w g : Nat} {gn : Gang} (cause : Word) (tval epc : DWord) (rest : Nat) (hg : gangAt s k w g = some gn) :
    let t := enterTvec s k w g cause tval epc rest
    let wait := max gn.stall rest
    let r := (coreAt t k).svc
    t.mem = s.mem ∧ r.tepc = epc ∧ r.tcause = cause ∧ r.tval = tval ∧ r.pie = (coreAt s k).svc.ie ∧ r.ie = false ∧ r.tvec = (coreAt s k).svc.tvec ∧
    gangAt t k w g = some { gn with pc := slot0 (coreAt s k).svc.tvec, stall := wait, status := if wait = 0 then .ready else .stalled } := by
  intro t wait r
  have hsvc : r = { (coreAt s k).svc with tepc := epc, tcause := cause, tval := tval, pie := (coreAt s k).svc.ie, ie := false, op := none } := by
    simp only [r, t, enterTvec, State.modGang, State.modWarp]
    rw [coreAt_modCore, coreAt_modCore]
  refine ⟨rfl, ?_, ?_, ?_, ?_, ?_, ?_, ?_⟩
  · rw [hsvc]
  · rw [hsvc]
  · rw [hsvc]
  · rw [hsvc]
  · rw [hsvc]
  · rw [hsvc]
  · simp only [t, enterTvec]
    rw [gangAt_modGang, coreAt_modCore, gangAt_modCore rfl, hg]
    rfl

section
variable {s : State} {k i : Nat} {gn : Gang} (hk : isCompute k = false) (hi : pendingIrq (coreAt s k).svc = some i)
  (hg : gangAt s k 0 0 = some gn) (hb : gn.atBoundary = true) (hs : (coreAt s k).svc.stopped = false) (hh : (coreAt s k).held = false)
include hk hi hg hb hs hh

/-- TVAL of an interrupt (R333, R334); a message's is free (log entry 23). -/
def irqTval (s : State) (k i : Nat) : DWord :=
  if i = 0 then BitVec.ofNat 64 (Config.freeNat s.free) else if i = 1 then (coreAt s k).svc.trapAddr else (coreAt s k).svc.errAddr

theorem serviceInterrupt_enters : exec (.serviceInterrupt k) s =
    .next { enterTvec s k 0 0 (w32 (2 ^ 31 + i)) (irqTval s k i) gn.pc with free := if i = 0 then s.free + 1 else s.free } := by
  show execServiceInterrupt k s = _
  simp only [execServiceInterrupt, hk, hi, hg]
  rw [if_neg Bool.false_ne_true, if_neg (by rw [hb, hs, hh]; decide)]
  rfl

end

/-! ## Dispositions (R309, R332) -/

section
variable {s : State} {k w g key : Nat} {wp : Warp}

theorem disposition_resumes (hd : disposed s k w 1 = some (wp, g, key)) :
    let pc : DWord := BitVec.ofNat 64 (memNat s (key + 16) 8)
    exec (.dispositionResume k w) s = .next (afterGangs ((closeRecord s k w).modGang k w g fun gn => { gn with pc := pc, trapped := false, inBundle := decide (slotNo pc ≠ 0) }) k w) := by
  intro pc
  show execDispositionResume k w s = _
  simp only [execDispositionResume, hd]
  rfl

theorem disposition_kills (hd : disposed s k w 2 = some (wp, g, key)) :
    exec (.dispositionKill k w) s = .next (killGang (closeRecord s k w) k w g) := by
  show execDispositionKill k w s = _
  simp only [execDispositionKill, hd]

theorem disposition_handles {gn : Gang} (hd : disposed s k w 3 = some (wp, g, key)) (hg : AMap.get? wp.gangs g = some gn) :
    let h := handlerOf s k wp.didNow
    let x : Ctx := { s := s, k := k, c := coreAt s k, w := w, wp := wp, g := g, gn := gn }
    (h = 0 → exec (.dispositionHandler k w) s = .next (killGang (closeRecord s k w) k w g)) ∧
    (h ≠ 0 → checkTargets x wp.didNow gn.mask (fun _ => h) false = .ok () → exec (.dispositionHandler k w) s = .next (enterHandler s k w g key h)) := by
  intro h x
  refine ⟨fun hz => ?_, fun hz hc => ?_⟩
  · show execDispositionHandler k w s = _
    simp only [execDispositionHandler, hd, hg]
    rw [if_pos hz]
  · simp only [x, h] at hc
    show execDispositionHandler k w s = _
    simp only [execDispositionHandler, hd, hg, hc]
    rw [if_neg hz]

theorem warpAt_closeRecord (s : State) (k w : Nat) :
    warpAt (closeRecord s k w) k w = (warpAt s k w).map fun wp => { wp with recordLive := none, liveTrap := none } := by
  have h := warpAt_modWarp s k w w fun wp => { wp with recordLive := none, liveTrap := none }
  simp only [if_true] at h
  exact h

/-- The registers that tell a handler what happened (R332). -/
def handlerRegs (s : State) (key : Nat) (wp : Warp) : Warp :=
  (((wp.setS 60 (memWord s key)).setS 61 (memWord s (key + 24))).setS 62 (memWord s (key + 32))).setS 63 (memWord s (key + 36))

/-- The warp whose gang has entered its handler. -/
def handlerWarp (s : State) (g key : Nat) (h : DWord) (wp : Warp) : Warp :=
  { handlerRegs s key { wp with recordLive := none, liveTrap := none } with
    gangs := AMap.modify wp.gangs g fun gn => Gang.goOn { gn with pc := slot0 h, mode := 0x27, trapped := false, inBundle := false } }

theorem warpAt_enterHandler (h : DWord) (hw : warpAt s k w = some wp) :
    warpAt (enterHandler s k w g key h) k w = some (handlerWarp s g key h wp) := by
  simp only [enterHandler, State.modGang]
  rw [warpAt_modWarp, warpAt_modWarp, warpAt_closeRecord, hw]
  simp only [Option.map_some, if_true, Nat.mul_zero, Nat.add_zero, Nat.reduceMul, handlerWarp, handlerRegs, setS_gangs]

theorem sreg_handlerRegs (s : State) (key : Nat) (wp : Warp) :
    (handlerRegs s key wp).sreg 60 = memWord s key ∧ (handlerRegs s key wp).sreg 61 = memWord s (key + 24) ∧
    (handlerRegs s key wp).sreg 62 = memWord s (key + 32) ∧ (handlerRegs s key wp).sreg 63 = memWord s (key + 36) ∧
    ∀ n, n < 60 → (handlerRegs s key wp).sreg n = wp.sreg n := by
  simp only [handlerRegs, sreg_setS]
  refine ⟨by simp, by simp, by simp, by simp, fun n hn => ?_⟩
  rw [if_neg (by omega), if_neg (by omega), if_neg (by omega), if_neg (by omega)]

theorem sreg_handlerWarp (s : State) (g key n : Nat) (h : DWord) (wp : Warp) :
    (handlerWarp s g key h wp).sreg n = (handlerRegs s key { wp with recordLive := none, liveTrap := none }).sreg n := by
  simp only [handlerWarp, Warp.sreg]

theorem enterHandler_leaves {gn : Gang} (h : DWord) (hw : warpAt s k w = some wp) (hg : AMap.get? wp.gangs g = some gn) :
    let t := enterHandler s k w g key h
    t.mem = s.mem ∧ (gangAt t k w g).map (fun gn => (gn.pc, gn.mask, gn.mode, gn.trapped, gn.stall, gn.status)) =
      some (slot0 h, gn.mask, 0x27, false, gn.stall, if gn.stall = 0 then .ready else .stalled) ∧
    (warpAt t k w).map (fun wp => (wp.sreg 60, wp.sreg 61, wp.sreg 62, wp.sreg 63)) =
      some (memWord s key, memWord s (key + 24), memWord s (key + 32), memWord s (key + 36)) ∧
    ∀ n, n < 60 → (warpAt t k w).map (fun wp => wp.sreg n) = some (wp.sreg n) := by
  intro t
  have hwarp : warpAt t k w = some (handlerWarp s g key h wp) := warpAt_enterHandler h hw
  obtain ⟨h60, h61, h62, h63, hrest⟩ := sreg_handlerRegs s key { wp with recordLive := none, liveTrap := none }
  refine ⟨rfl, ?_, ?_, fun n hn => ?_⟩
  · rw [gangAt, hwarp, Option.bind_some, handlerWarp, AMap.get?_modify, hg]
    simp [Gang.goOn]
  · rw [hwarp, Option.map_some, sreg_handlerWarp, sreg_handlerWarp, sreg_handlerWarp, sreg_handlerWarp, h60, h61, h62, h63]
  · rw [hwarp, Option.map_some, sreg_handlerWarp, hrest n hn]
    simp only [Warp.sreg]

end

/-! ## Memory errors (R335) -/

theorem memoryError_runs {s : State} {p pa n : Nat} (hp : (sliceAt s n).part = some p) (hpa : pa < 2 ^ 52) (hkind : paKind pa < 4) :
    let key := physKey p (pa / 128 * 128)
    exec (.memoryError n pa) s = .next (reportError (memMark s key 128) (errorSlice s key n) (pa / 128 * 128)) := by
  intro key
  show execMemoryError n pa s = _
  simp only [execMemoryError, hp]
  rw [if_neg (by omega)]

theorem getD_foldl_mark (ks : List Nat) (m : AMap Bool) {i : Nat} (h : i ∈ ks) :
    AMap.getD (ks.foldl (fun m k => AMap.put m k true) m) i false = true := by
  rw [AMap.getD, get?_foldl_put, if_pos h]
  rfl

/-- Every word of a line is marked. -/
theorem memMark_line (s : State) (key : Nat) {i : Nat} (hi : i < 32) : AMap.getD (memMark s key 128).memPoison (key / 4 + i) false = true := by
  refine getD_foldl_mark _ _ ?_
  rw [wordsOf, if_neg (by decide)]
  exact List.mem_map.mpr ⟨i, List.mem_range.mpr (by omega), rfl⟩

/-- Settles O53: the record's words by what its bytes read back, every other step by the lemma of its event. -/
theorem trapSteps : Obligations.TrapSteps := by
  unfold Obligations.TrapSteps
  refine ⟨?record, fun s n e rest hn hp => notification_drains hn hp, fun s k w g cause tval epc rest gn hg => enterTvec_enters cause tval epc rest hg,
    ?irq, fun s k w g key wp => ⟨disposition_resumes, disposition_kills, fun gn => disposition_handles⟩,
    fun s k w g key h wp gn hw hg => enterHandler_leaves h hw hg,
    fun s p pa n hp hpa hkind => ⟨memoryError_runs hp hpa hkind, rfl, fun i hi => memMark_line s _ hi⟩⟩
  case record =>
    intro s k w n d wp sl hw hsl hlen key ws t note
    obtain ⟨hwords, hframe, hnote, hlive⟩ := writeRecord_leaves hw hsl d hlen
    refine ⟨hwords, hframe, hnote, hlive, fun rest hd hl hh hq => ?_⟩
    rw [deferredRecord_runs hw hd hl hh hq, recordOut_eq hw hsl]
  case irq =>
    intro s k i gn hk hi hg hb hs hh
    refine ⟨fun h0 => ⟨irqTval s k 0, ?_⟩, fun h1 => ?_, fun h2 => ?_⟩
    · subst h0
      rw [serviceInterrupt_enters hk hi hg hb hs hh]
      rfl
    · subst h1
      rw [serviceInterrupt_enters hk hi hg hb hs hh]
      rfl
    · subst h2
      rw [serviceInterrupt_enters hk hi hg hb hs hh]
      rfl

end Sys2Proof.Machine

/-! SUPPORT. The commands of a core's debug mailbox (R412, R413, R415). -/

namespace Sys2Proof.Machine

open Sys2Proof.Safety

section
variable {s : State} {k : Nat} {m : Word} {a : Nat} (hm : (coreAt s k).mailbox = some m) (ha : mailboxKey s k = some a)
include hm ha

theorem mailboxCommand_of {op : Nat → Bool} (hop : op (mbOp m) = true) : mailboxCommand s k op = some (m, a) := by
  simp only [mailboxCommand, hm, ha, hop, if_true]

/-! ## Halt and resume -/

section
variable (hop : mbOp m = 1)
include hop

theorem debugHalt_refused (hr : ∃ v ∈ blockWarps (coreAt s k) (mbWarp m), debugRefused s k v = true) :
    exec (.debugHalt k) s = .next (finishDebug s k a 3) := by
  show execDebugHalt k s = _
  simp only [execDebugHalt, mailboxCommand_of hm ha (op := fun op => op = 1) (decide_eq_true hop)]
  rw [if_pos (List.any_eq_true.mpr hr)]

theorem debugHalt_halts (hr : ∀ v ∈ blockWarps (coreAt s k) (mbWarp m), debugRefused s k v = false) :
    exec (.debugHalt k) s = .next (if blockOutstanding (coreAt (haltBlock s k (mbWarp m)) k) (mbWarp m) then haltBlock s k (mbWarp m)
      else finishDebug (haltBlock s k (mbWarp m)) k a 2) := by
  have hnone : (blockWarps (coreAt s k) (mbWarp m)).any (debugRefused s k) = false :=
    List.any_eq_false.mpr fun v hv => by rw [hr v hv]; exact Bool.false_ne_true
  show execDebugHalt k s = _
  simp only [execDebugHalt, mailboxCommand_of hm ha (op := fun op => op = 1) (decide_eq_true hop), hnone]
  rfl

end

/-- A warp whose gangs the debug port has let go on. -/
def debugFreed (wp : Warp) : Warp := { wp with gangs := wp.gangs.map fun e => (e.1, { e.2 with dbgHalt := false }) }

omit hm ha in
theorem debugFreed_gangs (wp : Warp) :
    (∀ e ∈ (debugFreed wp).gangs, e.2.dbgHalt = false) ∧
      (debugFreed wp).gangs.map (fun e => (e.1, e.2.pc, e.2.mask)) = wp.gangs.map fun e => (e.1, e.2.pc, e.2.mask) := by
  refine ⟨List.forall_mem_map.mpr fun e _ => rfl, ?_⟩
  rw [debugFreed, List.map_map]
  rfl

theorem debugResume_runs (hop : mbOp m = 2) :
    exec (.debugResume k) s =
      .next (finishDebug ((blockWarps (coreAt s k) (mbWarp m)).foldl (fun s v => afterGangs (s.modWarp k v fun wp => debugFreed wp) k v) s) k a 2) := by
  show execDebugResume k s = _
  simp only [execDebugResume, mailboxCommand_of hm ha (op := fun op => op = 2) (decide_eq_true hop)]
  rfl

/-! ## Step -/

section
variable (hop : mbOp m = 3)
include hop

theorem debugStep_refused (hr : debugRefused s k (mbWarp m) = true) : exec (.debugStep k) s = .next (finishDebug s k a 3) := by
  show execDebugStep k s = _
  simp only [execDebugStep, mailboxCommand_of hm ha (op := fun op => op = 3) (decide_eq_true hop), hr, if_true]

variable {gn : Gang} (hr : debugRefused s k (mbWarp m) = false) (hg : gangAt s k (mbWarp m) (mbGang m) = some gn)
include hr hg

theorem debugStep_eq : exec (.debugStep k) s =
    (if m.getLsbD 31 then (if gn.stepping then .next s else .next (finishDebug s k a 2))
     else if !gn.dbgHalt then .next (finishDebug s k a 3)
     else .next ((s.modCore k fun c => { c with mailbox := some (m ||| 0x80000000) }).modGang k (mbWarp m) (mbGang m) fun gn => { gn with stepping := true })) := by
  show execDebugStep k s = _
  simp only [execDebugStep, mailboxCommand_of hm ha (op := fun op => op = 3) (decide_eq_true hop), hr, hg]
  rfl

theorem debugStep_steps (hb : m.getLsbD 31 = false) (hd : gn.dbgHalt = true) :
    ∃ t, exec (.debugStep k) s = .next t ∧ t.mem = s.mem ∧ (gangAt t k (mbWarp m) (mbGang m)).map Gang.stepping = some true ∧
      (coreAt t k).mailbox = some (m ||| 0x80000000) := by
  have hrun : exec (.debugStep k) s = .next ((s.modCore k fun c => { c with mailbox := some (m ||| 0x80000000) }).modGang k (mbWarp m) (mbGang m)
      fun gn => { gn with stepping := true }) := by
    rw [debugStep_eq hm ha hop hr hg, hb, hd]
    rfl
  refine ⟨_, hrun, rfl, ?_, ?_⟩
  · rw [gangAt_modGang, gangAt_modCore rfl, hg]
    rfl
  · rw [State.modGang, State.modWarp, coreAt_modCore, coreAt_modCore]

end

/-! ## Dump, arm, read and the rest -/

theorem debugDump_refused (hop : mbOp m = 4) (hr : debugRefused s k (mbWarp m) = true) : exec (.debugDump k) s = .next (finishDebug s k a 3) := by
  show execDebugDump k s = _
  simp only [execDebugDump, mailboxCommand_of hm ha (op := fun op => op = 4) (decide_eq_true hop), hr, if_true]

theorem debugDump_dumps {wp : Warp} {gn : Gang} (hop : mbOp m = 4) (hr : debugRefused s k (mbWarp m) = false) (hw : warpAt s k (mbWarp m) = some wp)
    (hg : gangAt s k (mbWarp m) (mbGang m) = some gn) :
    let words := wordsAt s k wp.didNow gn.pc
    let d : Deferred := { entry := mbGang m, trap := { cause := 0 }, pc := gn.pc, resume := gn.pc, insn := words.1, ctl := words.2, gmask := gn.mask, mode := gn.mode, active := gn.mask &&& guardMask wp gn.mode }
    let ws := recordWords d (mbWarp m) (match slotOf (coreAt s k) wp.didNow with | some e => e.1 | none => 0) wp.didNow (worldOf (coreAt s k) wp.didNow) wp.frames.length
    exec (.debugDump k) s = .next (finishDebug (homeWrite s (a + 256) (wordsBytes (ws ++ List.replicate (64 - ws.length) 0))) k a 2) := by
  intro words d ws
  show execDebugDump k s = _
  simp only [execDebugDump, mailboxCommand_of hm ha (op := fun op => op = 4) (decide_eq_true hop), hr, hw, hg, words, d, ws]
  cases slotOf (coreAt s k) wp.didNow <;> simp only [Bool.false_eq_true, if_false]

omit hm ha in
/-- Cores cleared one after another: each of them ends so. -/
theorem snaps_foldl_clear (ks : List Nat) (s : State) {j : Nat} (h : j ∈ ks ∨ (coreAt s j).snaps = []) :
    (coreAt (ks.foldl (fun s j => s.modCore j fun c => { c with snaps := [] }) s) j).snaps = [] := by
  induction ks generalizing s with
  | nil => exact h.resolve_left List.not_mem_nil
  | cons i is ih =>
    refine ih _ ?_
    by_cases hj : j = i
    · subst hj
      right
      rw [coreAt_modCore]
    · rw [coreAt_modCore_ne _ _ (Ne.symm hj)]
      exact h.imp_left fun h => (List.mem_cons.mp h).resolve_left hj

omit hm ha in
theorem mem_foldl_clear (ks : List Nat) (s : State) : (ks.foldl (fun s j => s.modCore j fun c => { c with snaps := [] }) s).mem = s.mem := by
  induction ks generalizing s with
  | nil => rfl
  | cons i is ih => exact (ih _).trans (modCore_mem _ _ _)

/-- The partition with its snapshots cleared and its trigger armed. -/
def debugArmed (s : State) (k : Nat) : State :=
  ((coresOfPart s (corePart s k)).foldl (fun s j => s.modCore j fun c => { c with snaps := [] }) s).modPart (corePart s k) fun pt => { pt with fired := false }

theorem debugArm_arms (hop : mbOp m = 5) : exec (.debugArm k) s = .next (finishDebug (debugArmed s k) k a 2) := by
  show execDebugArm k s = _
  simp only [execDebugArm, mailboxCommand_of hm ha (op := fun op => op = 5) (decide_eq_true hop)]
  rfl

omit hm ha in
theorem debugArmed_leaves (s : State) (k : Nat) :
    (debugArmed s k).mem = s.mem ∧ (partAt (debugArmed s k) (corePart s k)).fired = false ∧
      ∀ j ∈ coresOfPart s (corePart s k), (coreAt (debugArmed s k) j).snaps = [] := by
  refine ⟨mem_foldl_clear _ s, ?_, fun j hj => ?_⟩
  · rw [debugArmed, partAt_modPart]
  · rw [debugArmed, coreAt_modPart]
    exact snaps_foldl_clear _ s (.inl hj)

theorem debugRead_refused (hop : mbOp m = 6) (hr : debugRefused s k (mbWarp m) = true) : exec (.debugRead k) s = .next (finishDebug s k a 3) := by
  show execDebugRead k s = _
  simp only [execDebugRead, mailboxCommand_of hm ha (op := fun op => op = 6) (decide_eq_true hop), hr, if_true]

theorem debugRead_reads {sn : Snapshot} (hop : mbOp m = 6) (hr : debugRefused s k (mbWarp m) = false)
    (hsn : AMap.get? (coreAt s k).snaps (mbWarp m) = some sn) :
    exec (.debugRead k) s =
      .next (finishDebug (homeWrite s (a + 512) (wordsBytes (snapshotWords sn ++ List.replicate (64 - (snapshotWords sn).length) 0))) k a 2) := by
  show execDebugRead k s = _
  simp only [execDebugRead, mailboxCommand_of hm ha (op := fun op => op = 6) (decide_eq_true hop), hr, AMap.getD, hsn]
  rfl

theorem debugBadCommand_ends (hop : mbOp m = 0 ∨ 6 < mbOp m) : exec (.debugBadCommand k) s = .next (finishDebug s k a 4) := by
  have hbad : (decide (mbOp m = 0) || decide (6 < mbOp m)) = true := by simpa using hop
  show execDebugBadCommand k s = _
  simp only [execDebugBadCommand, mailboxCommand_of hm ha (op := fun op => op = 0 || decide (6 < op)) hbad]

end

/-- Settles O54: each command by the lemma of its op. -/
theorem debugSteps : Obligations.DebugSteps := by
  unfold Obligations.DebugSteps
  intro s k m a hm ha w g ends
  refine ⟨fun hop => ⟨debugHalt_refused hm ha hop, fun hr => ⟨fun ho => ?_, fun ho => ?_⟩⟩, fun hop => ?resume,
    fun hop => ⟨debugStep_refused hm ha hop, fun gn hr hg => ⟨fun hb hd => ?_, fun hb hd => debugStep_steps hm ha hop hr hg hb hd, fun hb hd => ?_⟩⟩,
    fun hop => ⟨debugDump_refused hm ha hop, fun wp gn hr hw hg => debugDump_dumps hm ha hop hr hw hg⟩,
    fun hop => ⟨debugArmed s k, debugArm_arms hm ha hop, debugArmed_leaves s k⟩,
    fun hop => ⟨debugRead_refused hm ha hop, fun sn hr hsn => debugRead_reads hm ha hop hr hsn⟩, debugBadCommand_ends hm ha⟩
  case resume =>
    intro free
    exact ⟨debugResume_runs hm ha hop, fun v wp _ => debugFreed_gangs wp⟩
  · rw [debugHalt_halts hm ha hop hr, if_pos ho]
  · rw [debugHalt_halts hm ha hop hr, if_neg (by rw [ho]; decide)]
  · rw [debugStep_eq hm ha hop hr hg, hb, hd]
    rfl
  · rw [debugStep_eq hm ha hop hr hg, hb, hd]
    rfl

end Sys2Proof.Machine

/-! SUPPORT. The firmware's packets (R384 to R395, R416). -/

namespace Sys2Proof.Machine

open Sys2Proof.Safety

/-! ## Fetching (R385, R416) -/

@[simp] theorem packetAt_mem (s : State) (slice key : Nat) : (packetAt s slice key).2.mem = s.mem := by
  have hsector : ∀ (s : State) (sector : Nat), (laneSector s slice sector).2.mem = s.mem := by
    intro s sector
    unfold laneSector
    split <;> exact modCore_mem _ _ _
  exact (hsector _ _).trans (hsector _ _)

section
variable {s : State} {n lane p : Nat} {ln : Lane} {d : QDesc} (hp : (sliceAt s n).part = some p) (hl : AMap.get? (sliceAt s n).lanes lane = some ln)
  (hpk : ln.packet = none) (hd : queueDesc (s.seenBy p n) p ln.queue = some d) (he : d.err = 0) (hs : d.slice = n) (hk : keyShut s d.key = false)
include hp hl hpk hd he hs hk

/-- The fetch of a lane that has no packet, from a queue that is its slice's and not in error. -/
theorem packetFetch_eq : exec (.packetFetch n lane) s =
    (if !d.ok then .next (laneWrite s n (d.key + 32) 4 1)
     else if d.wake < d.read ∨ 2 ^ d.lsize < d.wake - d.read then .next (laneWrite s n (d.key + 32) 4 2)
     else if d.wake = d.read then .next s
     else match packetKey s p n d with
       | none => .next (laneWrite s n (d.key + 32) 4 1)
       | some key =>
         if keyShut s key then .next s
         else .next ((packetAt (acquire s (640 + n) 0xFFFF 5) n key).2.modSlice n fun sl =>
           { sl with lanes := AMap.put sl.lanes lane { ln with packet := some (packetAt (acquire s (640 + n) 0xFFFF 5) n key).1, index := d.read } })) := by
  show execPacketFetch n lane s = _
  simp only [execPacketFetch, hp, hl, hpk, hd]
  refine (if_neg (by decide)).trans ((if_neg (by rw [hk]; simp [he, hs])).trans ?_)
  cases packetKey s p n d <;> rfl

theorem packetFetch_fetches {key : Nat} (hok : d.ok = true) (hlt : d.read < d.wake) (hle : d.wake - d.read ≤ 2 ^ d.lsize)
    (hkey : packetKey s p n d = some key) (hopen : keyShut s key = false) :
    ∃ t, exec (.packetFetch n lane) s = .next t ∧ t.mem = s.mem ∧
      AMap.get? (sliceAt t n).lanes lane = some { ln with packet := some (packetAt (acquire s (640 + n) 0xFFFF 5) n key).1, index := d.read } := by
  refine ⟨(packetAt (acquire s (640 + n) 0xFFFF 5) n key).2.modSlice n fun sl =>
    { sl with lanes := AMap.put sl.lanes lane { ln with packet := some (packetAt (acquire s (640 + n) 0xFFFF 5) n key).1, index := d.read } }, ?_, ?_, ?_⟩
  · rw [packetFetch_eq hp hl hpk hd he hs hk, hok, hkey, if_neg (by decide), if_neg (by omega), if_neg (by omega)]
    simp only [hopen, Bool.false_eq_true, if_false]
  · rw [modSlice_mem, packetAt_mem, (acquire_keeps _ _ _ _).1]
  · rw [sliceAt_modSlice, AMap.get?_put_self]

theorem packetFetch_cases :
    (d.ok = false → exec (.packetFetch n lane) s = .next (laneWrite s n (d.key + 32) 4 1)) ∧
    (d.ok = true → d.wake < d.read ∨ 2 ^ d.lsize < d.wake - d.read → exec (.packetFetch n lane) s = .next (laneWrite s n (d.key + 32) 4 2)) ∧
    (d.ok = true → d.read < d.wake → d.wake - d.read ≤ 2 ^ d.lsize → packetKey s p n d = none →
      exec (.packetFetch n lane) s = .next (laneWrite s n (d.key + 32) 4 1)) := by
  rw [packetFetch_eq hp hl hpk hd he hs hk]
  refine ⟨fun hok => ?_, fun hok hbad => ?_, fun hok hlt hle hnone => ?_⟩
  · rw [hok, if_pos (by decide)]
  · rw [hok, if_neg (by decide), if_pos hbad]
  · rw [hok, if_neg (by decide), if_neg (by omega), if_neg (by omega), hnone]

end

/-! ## The journal (R393, R394) -/

section
variable {x : Parse} {s : State} (r : Word) (eff : State → Nat × State × Bool)

theorem journaled_unnamed (hid : pktNat x.pkt 56 8 = 0) :
    journaled x s r eff = if (eff s).2.2 then complete x (eff s).2.1 (eff s).1 else parsed x (eff s).2.1 := by
  simp only [journaled, hid, ne_eq, not_true_eq_false, false_and, if_false, if_true]

theorem journaled_known (hid : pktNat x.pkt 56 8 ≠ 0) (hf : (journalFind s x.p (pktNat x.pkt 56 8)).isSome = true) :
    journaled x s r eff = complete x s 3 := if_pos ⟨hid, hf⟩

theorem journaled_stale (hid : pktNat x.pkt 56 8 ≠ 0) (hf : (journalFind s x.p (pktNat x.pkt 56 8)).isSome = false)
    (hg : pktNat x.pkt 56 8 / 2 ^ 48 ≠ (partAt s x.p).generation.toNat) :
    journaled x s r eff = complete x (journalAdd s x.slice x.p { id := BitVec.ofNat 64 (pktNat x.pkt 56 8), status := 3, result := r }) 3 := by
  simp only [journaled, hf, Bool.false_eq_true, and_false, if_false]
  exact if_pos ⟨hid, hg⟩

theorem journaled_new (hid : pktNat x.pkt 56 8 ≠ 0) (hf : (journalFind s x.p (pktNat x.pkt 56 8)).isSome = false)
    (hg : pktNat x.pkt 56 8 / 2 ^ 48 = (partAt s x.p).generation.toNat) :
    let e := eff s
    let u := journalAdd e.2.1 x.slice x.p { id := BitVec.ofNat 64 (pktNat x.pkt 56 8), status := e.1, result := r }
    journaled x s r eff = if e.2.2 then complete x u e.1 else parsed x u := by
  intro e u
  simp only [journaled, hf, hg, hid, Bool.false_eq_true, and_false, if_false, ne_eq, not_true_eq_false]
  rfl

end

/-! ## The packets (R387) -/

section
variable {s : State} {n lane : Nat} {x : Parse}

theorem packetNop_runs (h : parseAt s n lane (fun t => decide (t ≤ 1)) = some x) :
    (pktType x.pkt = 1 → exec (.packetNop n lane) s = .next (parsed x s)) ∧
    (pktType x.pkt ≠ 1 → exec (.packetNop n lane) s = .next (complete x s 2)) := by
  refine ⟨fun ht => ?_, fun ht => ?_⟩
  all_goals
    show execPacketNop n lane s = _
    simp only [execPacketNop, h]
  · rw [if_pos ht]
  · rw [if_neg ht]
    rfl

theorem packetSeed_runs (h : parseAt s n lane (fun t => decide (t = 2)) = some x) :
    exec (.packetSeed n lane) s = .next (journaled x s (w32 (pktNat x.pkt 24 4)) (seedEffect x)) := by
  show execPacketSeed n lane s = _
  simp only [execPacketSeed, h]

/-- What a SIGNAL does: its status alone. -/
def signalEffect (x : Parse) (s : State) : Nat × State × Bool :=
  (if !headerOk x.pkt then packetError 0 else if pktNat x.pkt 4 28 ≠ 0 then packetError 1 else 0, s, true)

theorem packetSignal_runs (h : parseAt s n lane (fun t => decide (t = 3)) = some x) :
    exec (.packetSignal n lane) s = .next (journaled x s 0 (signalEffect x)) := by
  show execPacketSignal n lane s = _
  simp only [execPacketSignal, h]
  rfl

theorem packetSignal_unnamed (h : parseAt s n lane (fun t => decide (t = 3)) = some x) (hid : pktNat x.pkt 56 8 = 0) :
    exec (.packetSignal n lane) s = .next (complete x s (signalEffect x s).1) := by
  rw [packetSignal_runs h, journaled_unnamed _ _ hid]
  rfl

theorem packetWaitsig_runs {key : Nat} (h : parseAt s n lane (fun t => decide (t = 4)) = some x) (hh : headerOk x.pkt = true)
    (ha : pktNat x.pkt 16 8 % 8 = 0) (hk : keyOfVa (s.seenBy x.p x.slice) x.p x.d.did (pktVa x.pkt 16) = some key) :
    (pktNat x.pkt 24 8 ≤ memNat s key 8 → exec (.packetWaitsig n lane) s = .next (complete x s 0)) ∧
    (memNat s key 8 < pktNat x.pkt 24 8 → exec (.packetWaitsig n lane) s = .next (blockQueue x s key (pktVa x.pkt 24))) := by
  have hrun : exec (.packetWaitsig n lane) s =
      (if pktNat x.pkt 24 8 ≤ memNat s key 8 then .next (complete x s 0) else .next (blockQueue x s key (pktVa x.pkt 24))) := by
    show execPacketWaitsig n lane s = _
    simp only [execPacketWaitsig, h, hk]
    rw [hh, if_neg (by decide), if_neg (not_not_intro ha)]
  rw [hrun]
  exact ⟨fun hle => if_pos hle, fun hlt => if_neg (Nat.not_le.mpr hlt)⟩

theorem packetCistern_runs (h : parseAt s n lane (fun t => decide (t = 5)) = some x) :
    exec (.packetCistern n lane) s = .next (journaled x s 0 (cisternEffect x)) := by
  show execPacketCistern n lane s = _
  simp only [execPacketCistern, h]

theorem packetQuery_runs {key status : Nat} {result : Word} (h : parseAt s n lane (fun t => decide (t = 6)) = some x) (hh : headerOk x.pkt = true)
    (hk : notCistern (keyOfVa (s.seenBy x.p x.slice) x.p x.d.did (pktVa x.pkt 24)) = some key) (ha : pktNat x.pkt 24 8 % 8 = 0)
    (hid : pktNat x.pkt 16 8 ≠ 0) (hq : queryAnswer s x.p (pktNat x.pkt 16 8) = (status, result, false)) :
    exec (.packetQuery n lane) s = .next (complete x (laneWrite s x.slice key 8 (status + 2 ^ 32 * result.toNat)) 0) := by
  show execPacketQuery n lane s = _
  simp only [execPacketQuery, h, hk, hq]
  rw [hh, if_neg (by decide), if_neg (by simp [hid, ha])]
  rfl

end

theorem queryAnswer_found {s : State} {p id : Nat} {e : JEntry} (h : journalFind s p id = some e) :
    (e.status % 256 < 3 → queryAnswer s p id = (e.status, e.result, false)) ∧ (3 ≤ e.status % 256 → queryAnswer s p id = (4, 0, false)) := by
  simp only [queryAnswer, h]
  exact ⟨fun hlt => if_pos hlt, fun hge => if_neg (Nat.not_lt.mpr hge)⟩

/-! ## The resident set and the restart (R391, R392, R407) -/

theorem quantumEnd_runs {s : State} {n p : Nat} (hp : (sliceAt s n).part = some p) (hs : (sliceAt s n).serving = []) (hq : quantumOver s n = true) :
    let now := s.modSlice n fun sl => { sl with swapAt := (coreAt s (640 + n)).clk.toNat }
    let u := (List.range 32).foldl (fun s l => leaveLane s p n l) (checkBlocked (applySetup now p n) p n)
    exec (.quantumEnd n) s = .next (((eligibleQueues u p n).take 32).zipIdx.foldl (fun s q => enterLane s p n q.2 q.1) u) := by
  intro now u
  show execQuantumEnd n s = _
  simp only [execQuantumEnd, hp, hs, hq]
  rfl

/-- What starting the firmware of a slice leaves as it was. -/
def FirmwareKeeps (s t : State) : Prop :=
  t.mem = s.mem ∧ t.slices = s.slices ∧ t.parts = s.parts ∧ ∀ j, (coreAt t j).svc = (coreAt s j).svc

theorem FirmwareKeeps.trans {s t u : State} (h : FirmwareKeeps s t) (h' : FirmwareKeeps t u) : FirmwareKeeps s u := by
  obtain ⟨hm, hs, hp, hc⟩ := h
  obtain ⟨hm', hs', hp', hc'⟩ := h'
  exact ⟨hm'.trans hm, hs'.trans hs, hp'.trans hp, fun j => (hc' j).trans (hc j)⟩

theorem firmwareKeeps_held (s : State) (k : Nat) (b : Bool) : FirmwareKeeps s (s.modCore k fun c => { c with held := b }) := by
  refine ⟨rfl, rfl, rfl, fun j => ?_⟩
  rw [coreAt_modCore']
  split <;> rfl

theorem firmwareKeeps_take (s : State) (i : FirmwareImage) (n : Nat) : FirmwareKeeps s (takeImage { s with free := n } i) := ⟨rfl, rfl, rfl, fun _ => rfl⟩

theorem firmwareKeeps_free (s : State) (n : Nat) : FirmwareKeeps s { s with free := n } := ⟨rfl, rfl, rfl, fun _ => rfl⟩

theorem firmwareKeeps_try (n tries : Nat) (s : State) : FirmwareKeeps s (tryFirmware n tries s) := by
  induction tries generalizing s with
  | zero =>
    rw [tryFirmware]
    split
    · split
      · exact (firmwareKeeps_take s _ _).trans (firmwareKeeps_held _ _ _)
      · exact firmwareKeeps_free s _
    · exact firmwareKeeps_free s _
  | succ tries ih =>
    rw [tryFirmware]
    split
    · exact (firmwareKeeps_free s _).trans (firmwareKeeps_held _ _ _)
    · exact (firmwareKeeps_free s _).trans (ih _)

theorem firmwareKeeps_start (s : State) (n : Nat) : FirmwareKeeps s (startFirmware s n) :=
  (firmwareKeeps_held s _ _).trans (firmwareKeeps_try _ _ _)

theorem firmwareKeeps_foldl (ns : List Nat) (s : State) : FirmwareKeeps s (ns.foldl startFirmware s) := by
  induction ns generalizing s with
  | nil => exact ⟨rfl, rfl, rfl, fun _ => rfl⟩
  | cons n ns ih => exact (firmwareKeeps_start s n).trans (ih _)

/-- The lanes of some slices emptied. -/
def lanesEmptied (ns : List Nat) (s : State) : State := ns.foldl (fun s n => s.modSlice n fun sl => { sl with lanes := [], serving := [] }) s

theorem lanesEmptied_keeps (ns : List Nat) (s : State) :
    (lanesEmptied ns s).mem = s.mem ∧ (lanesEmptied ns s).cores = s.cores ∧ (lanesEmptied ns s).parts = s.parts := by
  unfold lanesEmptied
  induction ns generalizing s with
  | nil => exact ⟨rfl, rfl, rfl⟩
  | cons n ns ih => exact ih _

theorem sliceAt_lanesEmptied (ns : List Nat) (s : State) {m : Nat} (h : m ∈ ns ∨ ((sliceAt s m).lanes = [] ∧ (sliceAt s m).serving = [])) :
    (sliceAt (lanesEmptied ns s) m).lanes = [] ∧ (sliceAt (lanesEmptied ns s) m).serving = [] := by
  unfold lanesEmptied
  induction ns generalizing s with
  | nil => exact h.resolve_left List.not_mem_nil
  | cons n ns ih =>
    refine ih _ ?_
    by_cases hm : m = n
    · subst hm
      right
      rw [sliceAt_modSlice]
      exact ⟨rfl, rfl⟩
    · rw [sliceAt_modSlice_ne _ _ (Ne.symm hm)]
      exact h.imp_left fun h => (List.mem_cons.mp h).resolve_left hm

section
variable {s : State} {p n : Nat} {rest : List Nat} (hs : (partAt s p).slices = n :: rest)
include hs

/-- The firmware of a partition restarted: its lanes emptied, its cores started, its generation advanced (R392). -/
def restarted (s : State) (p : Nat) : State :=
  ((partAt (lanesEmptied (partAt s p).slices s) p).slices.foldl startFirmware (lanesEmptied (partAt s p).slices s)).modPart p fun pt =>
    { pt with generation := pt.generation + 1, queues := pt.queues.map fun (q, i) => (q, { i with blocked := none }) }

omit hs in
theorem restarted_keeps (s : State) (p : Nat) :
    (restarted s p).mem = s.mem ∧ (restarted s p).slices = (lanesEmptied (partAt s p).slices s).slices ∧
      (partAt (restarted s p) p).generation = (partAt s p).generation + 1 ∧ (partAt (restarted s p) p).slices = (partAt s p).slices ∧
      ∀ j, (coreAt (restarted s p) j).svc = (coreAt s j).svc := by
  obtain ⟨hm, hc, hp⟩ := lanesEmptied_keeps (partAt s p).slices s
  obtain ⟨hm', hs', hp', hc'⟩ := firmwareKeeps_foldl (partAt (lanesEmptied (partAt s p).slices s) p).slices (lanesEmptied (partAt s p).slices s)
  have hpart : partAt ((partAt (lanesEmptied (partAt s p).slices s) p).slices.foldl startFirmware (lanesEmptied (partAt s p).slices s)) p = partAt s p := by
    rw [partAt, hp', hp, ← partAt]
  have hcore : ∀ j, coreAt (lanesEmptied (partAt s p).slices s) j = coreAt s j := fun j => by rw [coreAt, hc, ← coreAt]
  refine ⟨hm'.trans hm, hs', ?_, ?_, fun j => (hc' j).trans (congrArg Core.svc (hcore j))⟩ <;>
    rw [restarted, partAt_modPart, hpart]

/-- The partition's lowest slice is told, and the restart logged. -/
theorem firmwareRestart_runs : exec (.firmwareRestart p) s =
    .next ((notifyLowest (restarted s p) p (w32 (0x10000 + (partAt (restarted s p) p).generation.toNat))).logEvent 5 p ((partAt (restarted s p) p).slices.headD 0)) := by
  show execFirmwareRestart p s = _
  rw [execFirmwareRestart, if_neg (by rw [hs]; exact Bool.false_ne_true)]
  rfl

omit hs in
theorem svc_notified {s : State} {m : Word} {event part slice : Nat} (h : (partAt s p).slices.headD 0 = n) :
    (coreAt ((notifyLowest s p m).logEvent event part slice) (512 + 4 * n)).svc =
      { (coreAt s (512 + 4 * n)).svc with imsg := m, ipend := (coreAt s (512 + 4 * n)).svc.ipend ||| 1 } := by
  have hcore : coreAt ((notifyLowest s p m).logEvent event part slice) (512 + 4 * n) = coreAt (notifyLowest s p m) (512 + 4 * n) := rfl
  rw [hcore, notifyLowest, deliverMsg, h, coreAt_modCore]

theorem firmwareRestart_leaves :
    ∃ t, exec (.firmwareRestart p) s = .next t ∧ t.mem = s.mem ∧ (partAt t p).generation = (partAt s p).generation + 1 ∧
      (∀ m ∈ n :: rest, (sliceAt t m).lanes = [] ∧ (sliceAt t m).serving = []) ∧ (coreAt t (512 + 4 * n)).svc.imsg = w32 (65536 + ((partAt s p).generation + 1).toNat) ∧
      (coreAt t (512 + 4 * n)).svc.ipend = (coreAt s (512 + 4 * n)).svc.ipend ||| 1 := by
  obtain ⟨hmem, hslices, hgen, hlist, hsvc⟩ := restarted_keeps s p
  have hhead : (partAt (restarted s p) p).slices.headD 0 = n := by rw [hlist, hs, List.headD_cons]
  refine ⟨_, firmwareRestart_runs hs, hmem, hgen, fun m hm => ?_, ?_, ?_⟩
  · have hlanes := sliceAt_lanesEmptied (partAt s p).slices s (m := m) (.inl (hs ▸ hm))
    rw [sliceAt, ← hslices] at hlanes
    exact hlanes
  · rw [svc_notified hhead, hgen]
  · rw [svc_notified hhead, hsvc]

end

/-- Settles O55: fetch, parse by type, journal, query, quantum and restart, each by the lemma of its step. -/
theorem packetSteps : Obligations.PacketSteps := by
  unfold Obligations.PacketSteps
  refine ⟨?fetch, ?parse, fun s p id e h => queryAnswer_found h, fun s n p hp hs hq => quantumEnd_runs hp hs hq,
    fun s p n rest hs => firmwareRestart_leaves hs⟩
  case fetch =>
    intro s n lane p ln d hp hl hpk hd he hs hk
    obtain ⟨hform, hindex, hpage⟩ := packetFetch_cases hp hl hpk hd he hs hk
    exact ⟨hform, hindex, hpage, fun key hok hlt hle hkey hopen => packetFetch_fetches hp hl hpk hd he hs hk hok hlt hle hkey hopen⟩
  case parse =>
    intro s n lane x id
    refine ⟨packetNop_runs, packetSeed_runs, fun h => ⟨fun hh hz hid => ?_, fun hh hid => ?_, fun hh hz hid => ?_, packetSignal_runs h⟩,
      fun key h hh ha hk => packetWaitsig_runs h hh ha hk, packetCistern_runs,
      fun key h hh hk ha hid status result hq => packetQuery_runs h hh hk ha hid hq,
      fun r eff => ⟨journaled_unnamed r eff, journaled_known r eff, journaled_stale r eff, journaled_new r eff⟩⟩
    · rw [packetSignal_unnamed h hid, signalEffect, hh, hz]
      rfl
    · rw [packetSignal_unnamed h hid, signalEffect, hh]
      rfl
    · rw [packetSignal_unnamed h hid, signalEffect, hh, if_neg (by decide), if_pos hz]
      rfl

end Sys2Proof.Machine

/-! SUPPORT. Cistern writes, refresh and scrubbing (R222, R225, R375). -/

namespace Sys2Proof.Machine

open Sys2Proof.Safety

/-! ## A cistern write performed (R222) -/

theorem cellsWrite_chunk (m : List Host.Cell) (a i : Nat) (bs : List Byte) (h : 128 * (i + 1) ≤ bs.length) :
    cellsWrite (cellsWrite m a (bs.take (128 * i))) (a + 128 * i) ((bs.drop (128 * i)).take 128) = cellsWrite m a (bs.take (128 * (i + 1))) := by
  have hsplit : bs.take (128 * (i + 1)) = bs.take (128 * i) ++ (bs.drop (128 * i)).take 128 := by
    rw [Nat.mul_succ, List.take_add]
  have hlen : (bs.take (128 * i)).length = 128 * i := by rw [List.length_take]; omega
  rw [hsplit, cellsWrite_append, hlen]

/-- Bytes stored line by line stand as if stored at once. -/
theorem mem_foldl_memPut (s : State) (key : Nat) (bs : List Byte) (n : Nat) (h : 128 * n ≤ bs.length) :
    ((List.range n).foldl (fun s i => memPut s (key + 128 * i) ((bs.drop (128 * i)).take 128)) s).mem = cellsWrite s.mem key (bs.take (128 * n)) := by
  induction n with
  | zero => rfl
  | succ n ih =>
    rw [List.range_succ, List.foldl_append, List.foldl_cons, List.foldl_nil, memPut]
    simp only
    rw [ih (by omega), cellsWrite_chunk _ _ _ _ h]

@[simp] theorem publishWide_mem (s : State) (slice part : Nat) (did : BitVec 16) (lines : List Nat) : (publishWide s slice part did lines).mem = s.mem := by
  simp only [publishWide]
  generalize [2, 3, 4, 5] = ns
  induction ns generalizing s with
  | nil => rfl
  | cons n ns ih => exact (ih _).trans (publishAt_cores _ _ _ _ _).1

theorem filter_skip_nil (n : Nat) : ((List.range n).filter fun i => !([] : List Nat).contains i) = List.range n :=
  List.filter_eq_self.mpr fun _ _ => rfl

theorem cisternWrite_mem (s : State) (slice part off : Nat) (did : BitVec 16) (bs : List Byte) (h : bs.length % 128 = 0) :
    (cisternWrite s slice part did off bs []).mem = cellsWrite s.mem (cisternKey off) bs := by
  have hlen : 128 * (bs.length / 128) = bs.length := by omega
  simp only [cisternWrite, publishWide_mem, filter_skip_nil]
  rw [mem_foldl_memPut _ _ _ _ (Nat.le_of_eq hlen), hlen, List.take_length]

theorem foldl_memMark_mem (key : Nat) (js : List Nat) (s : State) : (js.foldl (fun s j => memMark s (key + 128 * j) 128) s).mem = s.mem := by
  induction js generalizing s with
  | nil => rfl
  | cons j js ih => exact ih _

theorem performCistern_mem (s : State) (w : CisternWrite) (bs : List Byte) (bad : List Nat) :
    (performCistern s w bs bad).mem = (cisternWrite s (regionSlice (w.offset / 2 ^ 26)) w.part w.did w.offset bs w.skip).mem :=
  foldl_memMark_mem _ _ _

theorem cisternWrite_stores (s : State) (slice part off : Nat) (did : BitVec 16) (bs : List Byte) (bad : List Nat) (h : bs.length % 128 = 0) :
    let t := cisternWrite s slice part did off bs []
    cellsRead t.mem (cisternKey off) bs.length = bs ∧ (∀ a, a < cisternKey off ∨ cisternKey off + bs.length ≤ a → cellRead t.mem a = cellRead s.mem a) ∧
    ∀ w : CisternWrite, regionSlice (w.offset / 2 ^ 26) = slice → w.part = part → w.did = did → w.offset = off → w.skip = [] →
      (performCistern s w bs bad).mem = t.mem := by
  intro t
  have hmem : t.mem = cellsWrite s.mem (cisternKey off) bs := cisternWrite_mem s slice part off did bs h
  refine ⟨?_, fun a ha => ?_, fun w hslice hpart hdid hoff hskip => ?_⟩
  · rw [hmem, cellsRead_cellsWrite]
  · rw [hmem, cellRead_cellsWrite, if_neg (by omega)]
  · rw [performCistern_mem, hslice, hpart, hdid, hoff, hskip]

/-! ## The write that waits (R222, R223) -/

section
variable {s v : State} {i : Nat} {w : CisternWrite} {bs : List Byte} {bad : List Nat} (hw : s.cisternWrites[i]? = some w)
  (hok : regionOf s w.part (w.offset / 2 ^ 26) = true → cisternBlocked s w.part (w.offset / 2 ^ 26) = false ∧ w.content s = some (bs, bad, v))
  (hbad : regionOf s w.part (w.offset / 2 ^ 26) = false → v = s)
include hw hok hbad

/-- The state in which a waiting write has been performed, or refused, and what waits for it has gone on. -/
def cisternEnded (s v : State) (i : Nat) (w : CisternWrite) (bs : List Byte) (bad : List Nat) : State :=
  cisternDone { (if regionOf s w.part (w.offset / 2 ^ 26) then performCistern v w bs bad else s) with
    cisternWrites := v.cisternWrites.eraseIdx i } w (regionOf s w.part (w.offset / 2 ^ 26))

theorem cisternWriteStart_eq : exec (.cisternWriteStart i) s =
    (match w.core with
     | none => .next (cisternEnded s v i w bs bad)
     | some k => match (coreAt (cisternEnded s v i w bs bad) k).svc.op with
       | some (.hgmb 0x43 lo _ _ d) => .next (hgmbDone (cisternEnded s v i w bs bad) k lo (if regionOf s w.part (w.offset / 2 ^ 26) then 0 else 1) d)
       | _ => .next (cisternEnded s v i w bs bad)) := by
  show execCisternWriteStart i s = _
  simp only [execCisternWriteStart, hw]
  cases hreg : regionOf s w.part (w.offset / 2 ^ 26) with
  | true =>
    obtain ⟨hfree, hcontent⟩ := hok hreg
    simp only [hfree, hcontent, cisternEnded, hreg]
    rfl
  | false =>
    rw [hbad hreg]
    simp only [cisternEnded, hreg]
    rfl

theorem cisternWriteStart_ends (hc : w.core = none) : exec (.cisternWriteStart i) s = .next (cisternEnded s v i w bs bad) := by
  rw [cisternWriteStart_eq hw hok hbad, hc]

theorem cisternWriteStart_answers {k lo hi split : Nat} {d : Reg} (hc : w.core = some k)
    (hop : (coreAt (cisternEnded s v i w bs bad) k).svc.op = some (.hgmb 0x43 lo hi split d)) :
    exec (.cisternWriteStart i) s = .next (hgmbDone (cisternEnded s v i w bs bad) k lo (if regionOf s w.part (w.offset / 2 ^ 26) then 0 else 1) d) := by
  rw [cisternWriteStart_eq hw hok hbad, hc]
  simp only [hop]

end

/-! ## Refresh and scrubbing (R225, R375) -/

/-- A die's sequencer at its next window. -/
def windowOpened (s : State) (die : Nat) : State :=
  { s with refresh := AMap.put s.refresh die ((AMap.getD s.refresh die 0 + untilWindow s die) % 24576) }

theorem refreshWindow_opens {s : State} {die : Nat} (hd : die < 8) : exec (.refreshWindow die) s = .next (windowOpened s die) :=
  if_neg (Nat.not_le.mpr hd)

theorem windowOpened_count (s : State) (die : Nat) :
    refreshCount (windowOpened s die) die % 1536 = 0 ∧ ∀ e, e ≠ die → refreshCount (windowOpened s die) e = refreshCount s e := by
  refine ⟨?_, fun e he => ?_⟩
  · simp only [refreshCount, windowOpened, untilWindow, AMap.getD, AMap.get?_put_self, Option.getD_some]
    omega
  · simp only [refreshCount, windowOpened, AMap.getD, AMap.get?_put_ne _ _ (Ne.symm he)]

section
variable {s : State} {die : Nat} {r : CisternRange} (hr : (s.ranges.find? fun r => decide (r.offset / 2 ^ 26 / 24 = die)) = some r)
include hr

/-- The scrubber gone on past a recorded range. -/
def scrubMoved (s : State) (r : CisternRange) : State := { s with ranges := s.ranges.erase r ++ [r] }

/-- The range's region quarantined and reported. -/
def scrubRefused (s : State) (r : CisternRange) : State :=
  reportError (quarantine (scrubMoved s r) (r.offset / 2 ^ 26)) (regionSlice (r.offset / 2 ^ 26)) (cisternKey (r.offset / 2 ^ 26 * 2 ^ 26))

theorem cisternScrub_eq (sound : Bool) : exec (.cisternScrub die sound) s =
    (if !r.bad s && (sound || decide (Config.sha384 (r.bytes s) = r.digest)) then .next (scrubMoved s r) else .next (scrubRefused s r)) := by
  show execCisternScrub die sound s = _
  simp only [execCisternScrub, hr]
  rfl

theorem cisternScrub_passes {sound : Bool} (hb : r.bad s = false) (hs : sound = true ∨ Config.sha384 (r.bytes s) = r.digest) :
    exec (.cisternScrub die sound) s = .next (scrubMoved s r) := by
  rw [cisternScrub_eq hr, if_pos]
  rw [hb, Bool.not_false, Bool.true_and, Bool.or_eq_true, decide_eq_true_eq]
  exact hs

theorem cisternScrub_refuses {sound : Bool} (h : r.bad s = true ∨ (sound = false ∧ Config.sha384 (r.bytes s) ≠ r.digest)) :
    exec (.cisternScrub die sound) s = .next (scrubRefused s r) := by
  rw [cisternScrub_eq hr, if_neg]
  rcases h with hb | ⟨hs, hd⟩
  · simp [hb]
  · simp [hs, hd]

end

theorem scrubRefused_quarantined (s : State) (r : CisternRange) : AMap.getD (scrubRefused s r).quarantined (r.offset / 2 ^ 26) false = true := by
  have h : (scrubRefused s r).quarantined = AMap.put s.quarantined (r.offset / 2 ^ 26) true := rfl
  rw [h, AMap.getD, AMap.get?_put_self]
  rfl

/-- Settles O56: waiting writes, what a write stores, refresh windows and the scrubber, each by the lemma of its step. -/
theorem cisternSteps : Obligations.CisternSteps := by
  unfold Obligations.CisternSteps
  refine ⟨?waits, cisternWrite_stores, fun s die hd => ⟨windowOpened s die, refreshWindow_opens hd, rfl, windowOpened_count s die⟩, ?scrubs⟩
  case waits =>
    intro s i w hw ok bs bad v hok hbad u t
    exact ⟨cisternWriteStart_ends hw hok hbad, fun k lo hi split d hc hop => cisternWriteStart_answers hw hok hbad hc hop⟩
  case scrubs =>
    intro s die sound r hr moved region
    exact ⟨cisternScrub_passes hr, fun h => ⟨scrubRefused s r, cisternScrub_refuses hr h, rfl, scrubRefused_quarantined s r, rfl⟩⟩

end Sys2Proof.Machine

/-! SUPPORT. Relations between states that hold across the operations which every home write runs through: a change of a core, a slice or a partition, and
bytes stored in memory. A field that none of these touches, and memory's canonical form, are such relations. -/

namespace Sys2Proof.Machine

open Sys2Proof.Safety

theorem partAt_modPart_ne (s : State) {p q : Nat} (f : Partition → Partition) (hq : q ≠ p) : partAt (s.modPart p f) q = partAt s q :=
  congrArg (·.getD {}) (AMap.get?_put_ne s.parts _ (Ne.symm hq))

/-- A partition that runs as before: its slices, its loader and what the host owns are the same. -/
structure PartKept (pt pt' : Partition) : Prop where
  slices : pt'.slices = pt.slices
  booted : pt'.booted = pt.booted
  hostOwned : pt'.hostOwned = pt.hostOwned

/-- A relation that contains the base operations of a home write, and their compositions. -/
structure HomeFrame (R : State → State → Prop) : Prop where
  refl : ∀ s, R s s
  trans : ∀ {s t u}, R s t → R t u → R s u
  core : ∀ s k f, R s (s.modCore k f)
  slice : ∀ s n f, R s (s.modSlice n f)
  part : ∀ s p f, (∀ pt, PartKept pt (f pt)) → R s (s.modPart p f)
  put : ∀ s key bs, R s (memPut s key bs)
  disposals : ∀ s ds, R s { s with disposals := ds }

/-- The states whose value of a field is the same. -/
def Same {α : Type} (V : State → α) (s t : State) : Prop := V t = V s

theorem same_frame {α : Type} {V : State → α} (hc : ∀ s k f, V (s.modCore k f) = V s) (hs : ∀ s n f, V (s.modSlice n f) = V s)
    (hp : ∀ s p f, V (s.modPart p f) = V s) (hm : ∀ s key bs, V (memPut s key bs) = V s) (hd : ∀ s ds, V { s with disposals := ds } = V s) :
    HomeFrame (Same V) :=
  { refl := fun _ => rfl, trans := fun h h' => Eq.trans h' h, core := hc, slice := hs, part := fun s p f _ => hp s p f, put := hm, disposals := hd }

theorem frame_pot : HomeFrame (Same State.pot) :=
  same_frame (fun _ _ _ => rfl) (fun _ _ _ => rfl) (fun _ _ _ => rfl) (fun _ _ _ => rfl) fun _ _ => rfl

/-- Every partition runs as before. -/
def PartsKept (s t : State) : Prop := ∀ p, PartKept (partAt s p) (partAt t p)

theorem frame_parts : HomeFrame PartsKept where
  refl _ _ := ⟨rfl, rfl, rfl⟩
  trans h h' p := ⟨(h' p).slices.trans (h p).slices, (h' p).booted.trans (h p).booted, (h' p).hostOwned.trans (h p).hostOwned⟩
  core _ _ _ _ := ⟨rfl, rfl, rfl⟩
  slice _ _ _ _ := ⟨rfl, rfl, rfl⟩
  part s p f hf q := by
    by_cases hq : q = p
    · subst hq
      rw [partAt_modPart]
      exact hf _
    · rw [partAt_modPart_ne _ _ hq]
      exact ⟨rfl, rfl, rfl⟩
  put _ _ _ _ := ⟨rfl, rfl, rfl⟩
  disposals _ _ _ := ⟨rfl, rfl, rfl⟩

namespace HomeFrame

variable {R : State → State → Prop} (h : HomeFrame R)
include h

theorem warp (s : State) (k w : Nat) (f : Warp → Warp) : R s (s.modWarp k w f) := h.core s k _

theorem gang (s : State) (k w g : Nat) (f : Gang → Gang) : R s (s.modGang k w g f) := h.warp s k w _

theorem foldl {α : Type} {f : State → α → State} (hf : ∀ s a, R s (f s a)) (l : List α) (s : State) : R s (l.foldl f s) := by
  induction l generalizing s with
  | nil => exact h.refl s
  | cons a l ih => exact h.trans (hf s a) (ih _)

omit h in
/-- A choice between states that are both related. -/
theorem ite (_ : HomeFrame R) {s t u : State} {c : Prop} [Decidable c] (ht : R s t) (hu : R s u) : R s (if c then t else u) := by
  split
  exacts [ht, hu]

theorem fireTrigger (s : State) (p : Nat) (tag : Word) : R s (fireTrigger s p tag) := by
  unfold Machine.fireTrigger
  refine h.ite (h.refl s) (h.trans (h.part s p (fun pt => { pt with fired := true }) fun _ => ⟨rfl, rfl, rfl⟩) ?_)
  exact h.foldl (fun s k => h.core s k _) _ _

theorem fireIf (s : State) (p bit : Nat) : R s (fireIf s p bit) := h.ite (h.fireTrigger s p _) (h.refl s)

theorem publishAt (s : State) (slice part scope : Nat) (p : Publication) : R s (publishAt s slice part scope p) := by
  unfold Machine.publishAt
  split
  · exact h.slice _ _ _
  all_goals exact h.part _ _ _ fun _ => ⟨rfl, rfl, rfl⟩

theorem publishWide (s : State) (slice part : Nat) (did : BitVec 16) (lines : List Nat) : R s (publishWide s slice part did lines) :=
  h.foldl (fun s n => h.publishAt s slice part n _) _ s

theorem writeRecord (s : State) (k w : Nat) (d : Deferred) : R s (writeRecord s k w d) := by
  unfold Machine.writeRecord
  split
  · exact h.refl s
  · split
    · exact h.refl s
    · exact h.trans (h.trans (h.trans (h.put s _ _) (h.publishAt _ _ _ _ _)) (h.slice _ _ _)) (h.warp _ _ _ _)

theorem trapCompute (s : State) (k w : Nat) (d : Deferred) : R s (trapCompute s k w d) := by
  unfold Machine.trapCompute
  have hhalt := h.trans (h.gang s k w d.entry fun gn => { gn with trapped := true, stepping := false, status := gn.status.beforeHalt }) (h.fireIf _ (corePart s k) 2)
  dsimp only
  split
  · exact hhalt
  · exact h.ite (h.trans hhalt (h.warp _ _ _ _)) (h.trans hhalt (h.writeRecord _ _ _ _))

theorem enterTvec (s : State) (k w g : Nat) (tcause : Word) (tval epc : DWord) (rest : Nat) : R s (enterTvec s k w g tcause tval epc rest) :=
  h.trans (h.core s k _) (h.gang _ k w g _)

theorem wakeTo (s : State) (k w g : Nat) (pc : DWord) : R s (wakeTo s k w g pc) := by
  unfold Machine.wakeTo
  split
  · exact h.refl s
  · exact h.ite (h.trans (h.gang s k w g _) (h.trapCompute _ _ _ _)) (h.gang s k w g _)

theorem wake (s : State) (k w g : Nat) : R s (wake s k w g) := by
  unfold Machine.wake
  split
  · exact h.refl s
  · exact h.wakeTo _ _ _ _ _

theorem faultWaiting (s : State) (k w g : Nat) (t : Trap) : R s (faultWaiting s k w g t) := by
  unfold Machine.faultWaiting
  split
  · exact h.ite (h.trans (h.gang s k w g _) (h.trapCompute _ _ _ _)) (h.trans (h.trans (h.gang s k w g _) (h.fireIf _ _ _)) (h.enterTvec _ _ _ _ _ _ _ _))
  · exact h.refl s

theorem endSleep (s : State) (q : Cursor) (n : Nat) : R s (endSleep s q n) := by
  unfold Machine.endSleep
  split
  · exact h.refl s
  · split
    · exact h.trans (h.trans (h.gang s _ _ _ _) (h.warp _ _ _ _)) (h.wake _ _ _ _)
    · exact h.refl s

theorem wakeWatchers (s : State) (line : Nat) : R s (wakeWatchers s line) := by
  refine h.foldl (fun s q => ?_) _ s
  split
  · exact h.refl s
  · split
    · exact h.endSleep _ _ _
    · exact h.gang _ _ _ _ _

theorem dispositionStore (s : State) (key n : Nat) : R s (dispositionStore s key n) :=
  h.foldl (fun s _ => h.ite (h.refl s) (h.disposals s _)) _ s

theorem mailboxStore (s : State) (key n : Nat) : R s (mailboxStore s key n) := by
  unfold Machine.mailboxStore
  split
  · exact h.refl s
  · split
    · exact h.refl s
    · exact h.ite (h.refl s) (h.trans (h.core s _ _) (h.put _ _ _))

theorem homeWrite (s : State) (key : Nat) (bs : List Byte) : R s (homeWrite s key bs) := by
  have hput := h.trans (h.put s key bs) (h.dispositionStore _ key bs.length)
  refine h.ite (h.refl s) (h.trans ?_ (h.mailboxStore _ _ _))
  exact h.ite (h.trans hput (h.wakeWatchers _ _)) (h.trans hput (h.foldl (fun s l => h.wakeWatchers s l) _ _))

theorem homeWriteNat (s : State) (key n v : Nat) : R s (homeWriteNat s key n v) := h.homeWrite s key _

theorem engineWrite (s : State) (slice part : Nat) (did : BitVec 16) (key : Nat) (bs : List Byte) : R s (engineWrite s slice part did key bs) :=
  h.ite (h.refl s) (h.ite (h.trans (h.homeWrite s key bs) (h.publishWide _ _ _ _ _)) (h.trans (h.homeWrite s key bs) (h.publishWide _ _ _ _ _)))

/-- The steps of an access that is performed or answered with an error. -/
theorem access (s : State) (k id : Nat) (f : Access → Access) : R s (s.modAccess k id f) := h.core s k _

theorem dropAccess (s : State) (k id : Nat) : R s (dropAccess s k id) := h.core s k _

theorem watchDone (s : State) (k : Nat) (ac : Access) : R s (watchDone s k ac) := by
  unfold Machine.watchDone
  split
  · exact h.ite (h.trans (h.trans (h.gang _ _ _ _ _) (h.trapCompute _ _ _ _)) (h.fireIf _ _ _)) (h.refl s)
  · exact h.refl s

theorem armMonitor (s : State) (k : Nat) (ac : Access) (line : Nat) : R s (armMonitor s k ac line) := h.ite (h.gang _ _ _ _ _) (h.refl s)

theorem markLane (s : State) (k id lane : Nat) (f : LaneAcc → LaneAcc) : R s (markLane s k id lane f) := h.access s k id _

theorem performPart (s : State) (k id line : Nat) (d : HomeData) : R s (performPart s k id line d) := h.access s k id _

theorem reportError (s : State) (slice pa : Nat) : R s (reportError s slice pa) := h.core s _ _

end HomeFrame

end Sys2Proof.Machine

/-! SUPPORT. The services of the headgate (R308, R322, R363 to R365, R383, R400 to R404, R409 to R411). -/

namespace Sys2Proof.Machine

open Sys2Proof.Safety

/-! ## Requests and their answers (R308, R402) -/

theorem reqAt_core {s : State} {k num : Nat} {r : Req} (h : reqAt s k num = some r) : r.k = k := by
  unfold reqAt at h
  split at h
  · split at h
    · rw [← Option.some.inj h]
    · exact absurd h (by simp)
  · exact absurd h (by simp)

section
variable {s : State} {k num : Nat} {r : Req} {body : Req → State → Option (Nat × State)} (hr : reqAt s k num = some r)
include hr

theorem serviceEvent_returned (hl : s.lifecycle = 3) (hn : num ≠ 0x81) : serviceEvent k num body s = .next (hgmbDone s k r.lo 4 r.d) := by
  simp only [serviceEvent, hr]
  exact if_pos ⟨hl, hn⟩

theorem serviceEvent_answers {st : Nat} {u : State} (hl : s.lifecycle ≠ 3 ∨ num = 0x81) (hb : body r s = some (st, u)) :
    serviceEvent k num body s = .next (hgmbDone u k r.lo st r.d) := by
  simp only [serviceEvent, hr, hb]
  exact if_neg fun ⟨h3, hn⟩ => hl.elim (fun h => h h3) hn

/-- A service that is `serviceEvent` answers as its body says, and a returned module refuses all but the report. -/
theorem service_cases {i : Instr} (hi : exec i s = serviceEvent k num body s) :
    (s.lifecycle = 3 → num ≠ 0x81 → exec i s = .next (hgmbDone s k r.lo 4 r.d)) ∧
    (∀ st u, s.lifecycle ≠ 3 ∨ num = 0x81 → body r s = some (st, u) → exec i s = .next (hgmbDone u k r.lo st r.d)) := by
  rw [hi]
  exact ⟨serviceEvent_returned hr, fun st u => serviceEvent_answers hr⟩

omit hr in
/-- The report is the one service that a returned module answers (R402). -/
theorem report_cases {s : State} {k : Nat} {r : Req} (hr : reqAt s k 0x81 = some r) :
    (s.lifecycle = 3 → 0x81 ≠ 0x81 → exec (.measurementReport k) s = .next (hgmbDone s k r.lo 4 r.d)) ∧
    (∀ st u, s.lifecycle ≠ 3 ∨ True → answer reportMeasures r s = some (st, u) → exec (.measurementReport k) s = .next (hgmbDone u k r.lo st r.d)) := by
  refine ⟨fun _ hn => absurd (Eq.refl _) hn, fun st u _ hb => ?_⟩
  show execMeasurementReport k s = _
  rw [execMeasurementReport, serviceEvent_answers hr (.inr (Eq.refl _)) hb]

/-- A service that revokes frames while it waits. -/
theorem owner_cases {i : Instr} (hi : exec i s = match body r s, ownerRequest r s with
      | none, .ok (fs, _) => if s.lifecycle = 3 then .next (hgmbDone s k r.lo 4 r.d) else .next (revoke s r.p fs)
      | _, _ => serviceEvent k num body s) :
    (s.lifecycle = 3 → num ≠ 0x81 → exec i s = .next (hgmbDone s k r.lo 4 r.d)) ∧
    (∀ st u, s.lifecycle ≠ 3 ∨ num = 0x81 → body r s = some (st, u) → exec i s = .next (hgmbDone u k r.lo st r.d)) := by
  rw [hi]
  refine ⟨fun hl hn => ?_, fun st u hl hb => ?_⟩
  · split
    · exact if_pos hl
    · exact serviceEvent_returned hr hl hn
  · rw [hb]
    exact serviceEvent_answers hr hl hb

end

/-! ## The cistern loader (R224) -/

section
variable {s : State} {k : Nat} {r : Req} (hr : reqAt s k 0x43 = some r) (hl : s.lifecycle ≠ 3)
include hr hl

theorem cisternLoad_refuses {n : Nat} (he : loadRequest r s = .error n) : exec (.cisternLoad k) s = .next (hgmbDone s k r.lo n r.d) := by
  show execCisternLoad k s = _
  simp only [execCisternLoad, hr, loadCistern, he, reqAt_core hr]
  exact if_neg hl

theorem cisternLoad_joins {w : CisternWrite} (hw : loadRequest r s = .ok w) (hnone : ∀ v ∈ s.cisternWrites, v.core ≠ some k) :
    exec (.cisternLoad k) s = .next { s with cisternWrites := s.cisternWrites ++ [w] } := by
  have hidle : (s.cisternWrites.any fun v => decide (v.core = some k)) = false :=
    List.any_eq_false.mpr fun v hv => by simpa using hnone v hv
  show execCisternLoad k s = _
  simp only [execCisternLoad, hr, loadCistern, hw, reqAt_core hr, hidle]
  exact if_neg hl

end

/-! ## Unlock and return (R402, R410, R411) -/

section
variable {s : State} {k num scope : Nat} {refuse : Option Nat} {finish : State → Option Digest → State} {r : Req}
  (hr : reqAt s k num = some r) (hk : k ≠ 672)
include hr hk

theorem unlockEvent_refuses {st : Nat} (hs : refuse = some st) : unlockEvent k num scope refuse finish s = .next (hgmbDone s k r.lo st r.d) := by
  simp only [unlockEvent, presented, hr, hs, if_neg hk, Option.map_some, answerUnlock, reqAt_core hr]

variable (hs : refuse = none)
include hs

theorem unlockEvent_core : unlockEvent k num scope refuse finish s =
    (match unlockService scope finish (some r) k s with
     | .inr s => .next s
     | .inl none => .next s
     | .inl (some (st, s)) => .next (hgmbDone s k r.lo st r.d)) := by
  simp only [unlockEvent, presented, hr, hs, if_neg hk, Option.map_some, answerUnlock, reqAt_core hr, Option.isSome_some, if_true] <;> rfl

theorem unlockEvent_begins {bs : List Byte} (hu : s.unlock = none) (hl : s.lifecycle ≠ 0) (ht : tokenChecked (some r) s scope = .ok bs) :
    unlockEvent k num scope refuse finish s = .next (beginUnlock s k (some (Config.sha384 bs))) := by
  rw [unlockEvent_core hr hk hs]
  simp only [unlockService, hu, ht]
  rw [if_neg fun h => hl h.1]

theorem unlockEvent_token {n : Nat} (hu : s.unlock = none) (hl : s.lifecycle ≠ 0) (ht : tokenChecked (some r) s scope = .error n) :
    unlockEvent k num scope refuse finish s = .next (hgmbDone s k r.lo n r.d) := by
  rw [unlockEvent_core hr hk hs]
  simp only [unlockService, hu, ht]
  rw [if_neg fun h => hl h.1]

theorem unlockEvent_blank (hu : s.unlock = none) (hl : s.lifecycle = 0) (h1 : scope = 1) (hd : Config.debugDisabled = false) :
    unlockEvent k num scope refuse finish s = .next (beginUnlock s k none) := by
  rw [unlockEvent_core hr hk hs]
  simp only [unlockService, hu]
  rw [if_pos ⟨hl, h1, hd⟩]

theorem unlockEvent_ends {token : Option Digest} (hu : s.unlock = some (k, token))
    (hall : ((protectedSlots s).all fun e => domainStopped s e.2.2.did e.1) = true) :
    unlockEvent k num scope refuse finish s = .next (hgmbDone (finish { scrubProtected s with unlock := none } token) k r.lo 0 r.d) := by
  rw [unlockEvent_core hr hk hs]
  simp only [unlockService, hu]
  rw [if_neg (not_not_intro rfl), if_pos hall]

end

theorem unlockEvent_manager {s : State} {num scope : Nat} {finish : State → Option Digest → State} {bs : List Byte} (hu : s.unlock = none) (hl : s.lifecycle ≠ 0)
    (ht : tokenChecked none s scope = .ok bs) :
    unlockEvent 672 num scope none finish s = .next (beginUnlock s (671 + scope) (some (Config.sha384 bs))) := by
  simp only [unlockEvent, presented, if_true, unlockService, hu, ht]
  rw [if_neg fun h => hl h.1]
  rfl

/-! ## Measurement registers (R404) -/

theorem getD_extended (m : AMap Digest) (i j : Nat) (x : Digest) :
    AMap.getD (extended m i x) j 0 = if i = j then Config.sha384 (natLe 48 (AMap.getD m i 0).toNat ++ natLe 48 x.toNat) else AMap.getD m j 0 := by
  rw [extended, AMap.getD, AMap.get?_put]
  split <;> rfl

theorem extendRegister_extends {s : State} {r : Req} (hlo : 9 ≤ r.w s 1) (hhi : r.w s 1 ≤ 15) :
    ∃ t, extendRegister r s = .ok t ∧
      measureOf t r.p (r.w s 1) = Config.sha384 (natLe 48 (measureOf s r.p (r.w s 1)).toNat ++ natLe 48 (r.digest s).toNat) ∧
      ∀ i, i ≠ r.w s 1 → measureOf t r.p i = measureOf s r.p i := by
  refine ⟨extendPart s r.p (r.w s 1) (r.digest s), ?_, ?_, fun i hi => ?_⟩
  · rw [extendRegister, want, decide_eq_true hlo, decide_eq_true hhi]
    rfl
  · rw [measureOf, if_neg (by omega), measureOf, if_neg (by omega), extendPart, partAt_modPart, getD_extended, if_pos rfl]
  · have hmod : (extendPart s r.p (r.w s 1) (r.digest s)).measures = s.measures := rfl
    rw [measureOf, measureOf, hmod, extendPart, partAt_modPart, getD_extended, if_neg (Ne.symm hi)]

/-! ## Page ownership (R322) -/

theorem setOwner_hands {s : State} {r : Req} {fs : List Nat} {new : PotEntry} (ho : ownerRequest r s = .ok (fs, new))
    (hb : fs.any (frameBusy (revoke s r.p fs)) = false) : setOwner r s = some (0, fs.foldl (fun s f => handOver s r.p f new true) (revoke s r.p fs)) := by
  simp only [setOwner, ho, hb]
  rfl

theorem zeroFrame_pot (s : State) (p f : Nat) : (zeroFrame s p f).pot = s.pot := by
  unfold zeroFrame
  split
  · refine frame_pot.foldl (fun s i => ?_) _ s
    split
    · exact frame_pot.engineWrite _ _ _ _ _ _
    · exact frame_pot.refl s
  · exact frame_pot.foldl (fun s l => frame_pot.wakeWatchers s l) _ _

theorem potAt_frame (s : State) (f : Nat) : potAt s (65536 * f) = AMap.getD s.pot f {} := by
  rw [potAt, Nat.mul_div_cancel_left _ (by decide)]

/-- The entry that a frame handed over gets (R322). -/
def handedEntry (p f : Nat) (new : PotEntry) : PotEntry :=
  { new with setter := if paKind (65536 * f) = 2 ∧ new.owner ≠ 0xFFFF then some p else none }

theorem handOver_pot (s : State) (p f : Nat) (new : PotEntry) (zero : Bool) :
    (handOver s p f new zero).pot = AMap.putD s.pot f (handedEntry p f new) {} := by
  have hzero : (if zero && ((potAt s (65536 * f)).world || new.world) then zeroFrame s p f else s).pot = s.pot := by
    split
    · exact zeroFrame_pot s p f
    · rfl
  rw [← hzero]
  rfl

theorem handOver_leaves (s : State) (p f : Nat) (new : PotEntry) (zero : Bool) :
    let t := handOver s p f new zero
    (potAt t (65536 * f)).owner = new.owner ∧ (potAt t (65536 * f)).world = new.world ∧ ∀ g, g ≠ f → potAt t (65536 * g) = potAt s (65536 * g) := by
  intro t
  have hpot : ∀ g, potAt t (65536 * g) = if f = g then handedEntry p f new else potAt s (65536 * g) := fun g => by
    rw [potAt_frame, potAt_frame, handOver_pot, AMap.getD_putD]
  refine ⟨?_, ?_, fun g hg => ?_⟩
  · rw [hpot, if_pos rfl]
    rfl
  · rw [hpot, if_pos rfl]
    rfl
  · rw [hpot, if_neg (Ne.symm hg)]

/-! ## Address groups (R365) -/

section
variable {s : State} {n m : Nat} {g : Group} (hg : AMap.get? s.groups n = some g)
include hg

theorem absent_group : (absent s n m).mem = s.mem ∧ AMap.get? (absent s n m).groups n = some (g.without m) := by
  refine ⟨rfl, ?_⟩
  have h : (absent s n m).groups = AMap.modify s.groups n fun g => g.without m := rfl
  rw [h, AMap.get?_modify, hg]
  simp

omit hg in
theorem without_formed (hf : g.formed = true) :
    (g.without m).members.length = g.members.length ∧ ∀ x ∈ (g.without m).members, x.module = m → x.present = false := by
  rw [Group.without, if_pos hf]
  refine ⟨List.length_map _, List.forall_mem_map.mpr fun y _ hx => ?_⟩
  by_cases hy : y.module = m
  · simp only [hy, decide_true, if_true]
  · simp only [hy, decide_false, Bool.false_eq_true, if_false] at hx

omit hg in
theorem without_unformed (hf : g.formed = false) : (g.without m).members = g.members.filter fun x => decide (x.module ≠ m) := by
  rw [Group.without, if_neg (by rw [hf]; decide)]

/-- A group to which a member has returned, with another measurement or the same. -/
def returnedTo (g : Group) (m : Nat) (meas : Digest) : Group :=
  if g.formed && g.members.any (fun x => decide (x.module = m) && !x.present && decide (x.meas ≠ meas)) then { g with changed := true } else g

theorem memberReturn_group (meas : Digest) :
    ∃ t, exec (.memberReturn n m meas) s = .next t ∧ t.mem = s.mem ∧ AMap.get? t.groups n = some (returnedTo g m meas) := by
  refine ⟨_, rfl, rfl, ?_⟩
  rw [AMap.get?_modify, hg]
  simp only [returnedTo, Option.map_some, if_true]

omit hg in
theorem returnedTo_changed (meas : Digest) :
    (returnedTo g m meas).members = g.members ∧
      ((returnedTo g m meas).changed = true ↔ g.changed = true ∨ g.formed = true ∧ ∃ x ∈ g.members, x.module = m ∧ x.present = false ∧ x.meas ≠ meas) := by
  have hany : (g.formed && g.members.any (fun x => decide (x.module = m) && !x.present && decide (x.meas ≠ meas))) = true ↔
      g.formed = true ∧ ∃ x ∈ g.members, x.module = m ∧ x.present = false ∧ x.meas ≠ meas := by
    simp only [Bool.and_eq_true, List.any_eq_true, decide_eq_true_eq, Bool.not_eq_true', and_assoc]
  unfold returnedTo
  split
  next h => exact ⟨rfl, fun _ => .inr (hany.mp h), fun _ => rfl⟩
  next h => exact ⟨rfl, .inl, fun hc => hc.elim id fun hx => absurd (hany.mpr hx) h⟩

end

/-! ## Resizes and migration (R383, R409) -/

theorem reinterleave_runs {s : State} {p : Nat} {rz : Resize} (h : (partAt s p).resize = some rz) :
    let mine := fun (e : CombineEntry) => decide (paKind e.pa = 0) && decide (rz.moving ≤ bitsN (paOf e.pa) 47 12) && decide (bitsN (paOf e.pa) 47 12 < rz.moving + 64)
    let u := (coresOfPart s p).foldl (fun s k => flushEntries s k mine) s
    let v := u.modPart p fun pt => { pt with resize := some { rz with moving := rz.moving + 64 } }
    exec (.reinterleaveGroup p) s = .next (if rz.total ≤ rz.moving + 64 then interleaved v p rz else v) := by
  intro mine u v
  show execReinterleaveGroup p s = _
  simp only [execReinterleaveGroup, h]
  rfl

theorem migrationReceipt_runs {s : State} {p : Nat} {did : BitVec 16} {x : Export}
    (hx : (s.exports.find? fun x => decide (x.part = p) && decide (x.did = did)) = some x) :
    exec (.migrationReceipt p did) s =
      .next (if peerSession s && Config.receiptOk x.nonce s.free then { eraseExport s x with free := s.free + 1 } else { s with free := s.free + 1 }) := by
  show execMigrationReceipt p did s = _
  simp only [execMigrationReceipt, hx]

/-- Settles O57: each service by its request, each step by its own lemma. -/
theorem serviceSteps : Obligations.ServiceSteps := by
  unfold Obligations.ServiceSteps
  refine ⟨fun s k r => ⟨?rows, ?load, ?returned, ?unlock, ?manager, ?giveBack, fun fs new ho hb => setOwner_hands ho hb, extendRegister_extends⟩,
    handOver_leaves, ?groups, fun s p rz h => reinterleave_runs h, ?receipt⟩
  case rows =>
    simp only [List.forall_mem_cons, List.not_mem_nil, false_implies, implies_true, and_true]
    refine ⟨fun hr => service_cases hr rfl, fun hr => service_cases hr rfl, fun hr => owner_cases hr ?_, fun hr => owner_cases hr ?_,
      fun hr => service_cases hr rfl, fun hr => service_cases hr rfl, fun hr => service_cases hr rfl, fun hr => service_cases hr rfl,
      fun hr => service_cases hr rfl, fun hr => service_cases hr rfl, fun hr => service_cases hr rfl, fun hr => service_cases hr rfl,
      fun hr => service_cases hr rfl, fun hr => service_cases hr rfl,
      report_cases,
      fun hr => service_cases hr rfl, fun hr => service_cases hr rfl, fun hr => service_cases hr rfl⟩
    · show execSetOwner k s = _
      simp only [execSetOwner, hr] <;> rfl
    · show execSealFrames k s = _
      simp only [execSealFrames, hr] <;> rfl
  case load => exact fun hr hl => ⟨fun n => cisternLoad_refuses hr hl, fun w => cisternLoad_joins hr hl⟩
  case returned => exact fun hr hk hl => unlockEvent_refuses hr hk (if_pos hl)
  case unlock =>
    intro hr hk hl
    exact ⟨fun bs hu h0 ht => unlockEvent_begins hr hk (if_neg hl) hu h0 ht, fun hu h0 hd => unlockEvent_blank hr hk (if_neg hl) hu h0 rfl hd,
      fun n hu h0 ht => unlockEvent_token hr hk (if_neg hl) hu h0 ht, fun token hu hall => unlockEvent_ends hr hk (if_neg hl) hu hall⟩
  case manager =>
    intro bs hu h0 h3 ht
    show execDebugUnlock 672 s = _
    rw [execDebugUnlock, if_neg h3, unlockEvent_manager hu h0 ht]
  case giveBack =>
    intro hr hk
    refine ⟨fun h3 => unlockEvent_refuses hr hk (if_pos h3), fun h1 h3 => unlockEvent_refuses hr hk ?_, fun bs h1 hu ht => ?_, fun token h1 hu hall => ?_⟩
    · rw [if_neg h3, if_pos h1]
    · exact unlockEvent_begins hr hk (by rw [h1]; decide) hu (by rw [h1]; decide) ht
    · exact unlockEvent_ends hr hk (by rw [h1]; decide) hu hall
  case groups =>
    intro s n m g meas hg
    obtain ⟨hmem, hwithout⟩ := absent_group (m := m) hg
    obtain ⟨t, hrun, ht, hreturned⟩ := memberReturn_group (m := m) hg meas
    exact ⟨fun hf => ⟨_, rfl, hmem, _, hwithout, without_formed hf⟩, fun hf => ⟨_, rfl, hmem, _, hwithout, without_unformed hf⟩,
      t, hrun, ht, _, hreturned, returnedTo_changed meas⟩
  case receipt =>
    intro s p did x hx
    rw [migrationReceipt_runs hx]
    refine ⟨fun hp hr => by rw [hp, hr]; rfl, fun h => ?_⟩
    rw [if_neg]
    rcases h with h | h <;> simp [h]

end Sys2Proof.Machine

/-! SUPPORT. The SPDM endpoint (R405, R408). -/

namespace Sys2Proof.Machine

open Sys2Proof.Safety

/-- A response with some body: the connection's state and its code after it. -/
def Answers (s : State) (req : Nat) (o : Host.Outcome State Fault Refusal) (f : Spdm) (code : Nat) : Prop :=
  ∃ body, o = .next { s with spdm := AMap.put s.spdm req { f with code := code, body := body } }

theorem answers_respond (s : State) (req : Nat) (f : Spdm) (code : Nat) (body : List Byte) : Answers s req (respond s req f code body) f code := ⟨body, rfl⟩

theorem answers_spdmError (s : State) (req n : Nat) : Answers s req (spdmError s req n) (spdmAt s req) 0x7F := answers_respond s req _ _ _

theorem negotiated_ok {s : State} {req : Nat} (h : (spdmAt s req).algorithms = true) (f : Spdm → Event) : negotiated s req f = f (spdmAt s req) := if_pos h

theorem negotiated_error {s : State} {req : Nat} (h : (spdmAt s req).algorithms = false) (f : Spdm → Event) : negotiated s req f = spdmError s req 4 :=
  if_neg (by rw [h]; decide)

section
variable {s : State} {req : Nat}

theorem getCapabilities_answers :
    ((spdmAt s req).version = true → Answers s req (exec (.spdmGetCapabilities req) s) { spdmAt s req with capabilities := true } 0x61) ∧
    ((spdmAt s req).version = false → Answers s req (exec (.spdmGetCapabilities req) s) (spdmAt s req) 0x7F) := by
  refine ⟨fun hv => ?_, fun hv => ?_⟩
  all_goals
    show Answers s req (execSpdmGetCapabilities req s) _ _
    simp only [execSpdmGetCapabilities, hv]
  · exact answers_respond _ _ _ _ _
  · exact answers_spdmError _ _ _

theorem negotiateAlgorithms_answers (hc : (spdmAt s req).capabilities = true) :
    Answers s req (exec (.spdmNegotiateAlgorithms req true) s) { spdmAt s req with algorithms := true } 0x63 ∧
    Answers s req (exec (.spdmNegotiateAlgorithms req false) s) (spdmAt s req) 0x7F := by
  refine ⟨?_, ?_⟩
  · show Answers s req (execSpdmNegotiateAlgorithms req true s) _ _
    simp only [execSpdmNegotiateAlgorithms, hc]
    exact answers_respond _ _ _ _ _
  · show Answers s req (execSpdmNegotiateAlgorithms req false s) _ _
    simp only [execSpdmNegotiateAlgorithms, hc]
    exact answers_spdmError _ _ _

section
variable (ha : (spdmAt s req).algorithms = true) (nonce : Digest) (session slot p : Nat) (did : BitVec 16)
include ha

theorem getDigests_answers : Answers s req (exec (.spdmGetDigests req) s) (spdmAt s req) 0x01 := by
  show Answers s req (execSpdmGetDigests req s) _ _
  rw [execSpdmGetDigests, negotiated_ok ha]
  exact answers_respond _ _ _ _ _

theorem getCertificate_answers : Answers s req (exec (.spdmGetCertificate req slot) s) (spdmAt s req) (if slot = 0 then 0x02 else 0x7F) := by
  show Answers s req (execSpdmGetCertificate req slot s) _ _
  rw [execSpdmGetCertificate, negotiated_ok ha]
  split
  · exact answers_respond _ _ _ _ _
  · exact answers_spdmError _ _ _

theorem challenge_answers : Answers s req (exec (.spdmChallenge req nonce) s) (spdmAt s req) 0x03 := by
  show Answers s req (execSpdmChallenge req nonce s) _ _
  rw [execSpdmChallenge, negotiated_ok ha]
  exact answers_respond _ _ _ _ _

theorem getMeasurements_reports (hd : did = 0 ∨ protectedDom s p did = true) : exec (.spdmGetMeasurements req p did nonce) s =
    .next { s with spdm := AMap.put s.spdm req { spdmAt s req with code := 0x60, body := signedResponse s 0x60 (measureBlocks s p did nonce) } } := by
  show execSpdmGetMeasurements req p did nonce s = _
  rw [execSpdmGetMeasurements, negotiated_ok ha, if_neg]
  · rfl
  · rcases hd with rfl | hd <;> simp [*]

theorem getMeasurements_refuses (hd : did ≠ 0) (hp : protectedDom s p did = false) :
    Answers s req (exec (.spdmGetMeasurements req p did nonce) s) (spdmAt s req) 0x7F := by
  show Answers s req (execSpdmGetMeasurements req p did nonce s) _ _
  rw [execSpdmGetMeasurements, negotiated_ok ha, if_pos (by simp only [hp, Bool.not_false, Bool.and_true]; exact decide_eq_true hd)]
  exact answers_spdmError _ _ _

theorem keyExchange_answers : Answers s req (exec (.spdmKeyExchange req session) s)
    { spdmAt s req with session := some session, finished := false, bothSides := false } 0x64 := by
  show Answers s req (execSpdmKeyExchange req session s) _ _
  rw [execSpdmKeyExchange, negotiated_ok ha]
  exact answers_respond _ _ _ _ _

end

/-- Before algorithms are negotiated, every request that needs them is unexpected. -/
theorem unnegotiated_answers (ha : (spdmAt s req).algorithms = false) (nonce : Digest) (session slot p : Nat) (did : BitVec 16) :
    ∀ i ∈ [Instr.spdmGetDigests req, .spdmGetCertificate req slot, .spdmChallenge req nonce, .spdmGetMeasurements req p did nonce, .spdmKeyExchange req session],
      Answers s req (exec i s) (spdmAt s req) 0x7F := by
  have herr : ∀ f, Answers s req (negotiated s req f) (spdmAt s req) 0x7F := fun f => by
    rw [negotiated_error ha]
    exact answers_spdmError _ _ _
  simp only [List.forall_mem_cons, List.not_mem_nil, false_implies, implies_true, and_true]
  refine ⟨?digests, ?certificate, ?challenge, ?measurements, ?exchange⟩
  case digests => exact (congrArg (Answers s req · _ _) (execSpdmGetDigests.eq_1 ..)).mpr (herr _)
  case certificate => exact (congrArg (Answers s req · _ _) (execSpdmGetCertificate.eq_1 ..)).mpr (herr _)
  case challenge => exact (congrArg (Answers s req · _ _) (execSpdmChallenge.eq_1 ..)).mpr (herr _)
  case measurements => exact (congrArg (Answers s req · _ _) (execSpdmGetMeasurements.eq_1 ..)).mpr (herr _)
  case exchange => exact (congrArg (Answers s req · _ _) (execSpdmKeyExchange.eq_1 ..)).mpr (herr _)

theorem session_answers (hs : (spdmAt s req).session.isSome = true) :
    (∃ body, exec (.spdmFinish req) s =
      .next { s with free := s.free + 1, spdm := AMap.put s.spdm req { spdmAt s req with finished := true, bothSides := Config.requesterOk s.free, code := 0x65, body := body } }) ∧
    Answers s req (exec (.spdmEndSession req) s) { spdmAt s req with session := none, finished := false, bothSides := false } 0x6C := by
  refine ⟨⟨Config.spdmEncode 0x65 [], ?_⟩, ?_⟩
  · show execSpdmFinish req s = _
    rw [execSpdmFinish, if_pos hs]
    rfl
  · show Answers s req (execSpdmEndSession req s) _ _
    rw [execSpdmEndSession, if_pos hs]
    exact answers_respond _ _ _ _ _

theorem keyDelivery_enters {session : Nat} {slot : BitVec 8} {key : BitVec 256} {f : Spdm}
    (hf : (s.spdm.find? fun q => decide (q.2.session = some session) && q.2.finished) = some (req, f))
    (hfree : ∀ ks, AMap.get? s.keySlots slot.toNat = some ks → ks.bound = false) :
    exec (.spdmKeyDelivery session slot key) s =
      respond { s with keySlots := AMap.put s.keySlots slot.toNat { key := key, session := session } } req f 0x7E [] := by
  show execSpdmKeyDelivery session slot key s = _
  simp only [execSpdmKeyDelivery, hf]
  cases hks : AMap.get? s.keySlots slot.toNat with
  | none => rfl
  | some ks =>
    simp only [hfree ks hks]
    rfl

end

/-- Settles O58: each request by its lemma, in the states of the connection in which it may come and in the others. -/
theorem spdmSteps : Obligations.SpdmSteps := by
  unfold Obligations.SpdmSteps
  intro s req e answers
  refine ⟨answers_respond s req _ _ _, getCapabilities_answers.1, getCapabilities_answers.2, negotiateAlgorithms_answers, fun ha nonce session slot p did => ?_,
    unnegotiated_answers, session_answers, fun session slot key f hf hfree => ⟨_, keyDelivery_enters hf hfree, rfl, ?_, fun n hn => ?_⟩⟩
  · exact ⟨getDigests_answers ha, getCertificate_answers ha slot, challenge_answers ha nonce, getMeasurements_reports ha nonce p did,
      getMeasurements_refuses ha nonce p did, keyExchange_answers ha session⟩
  · exact AMap.get?_put_self _ _ _
  · exact AMap.get?_put_ne _ _ (Ne.symm hn)

end Sys2Proof.Machine

/-! SUPPORT. Sys2Proof/Machine/Fabric.lean: frames of a port, responses, window accesses, regions of a host (R352 to R368). -/

namespace Sys2Proof.Machine

open Sys2Proof.Safety

/-! ## One port -/

@[simp] theorem portAt_modPort (s : State) (n : Nat) (f : Port → Port) : portAt (s.modPort n f) n = f (portAt s n) :=
  congrArg (·.getD {}) (AMap.get?_put_self s.ports n _)

theorem portAt_modPort_ne (s : State) {n m : Nat} (f : Port → Port) (h : m ≠ n) : portAt (s.modPort n f) m = portAt s m :=
  congrArg (·.getD {}) (AMap.get?_put_ne s.ports _ (Ne.symm h))

/-- A port that comes up again, in a new session under its first key. -/
def retrained (p : Port) : Port := { up := true, inbox := p.inbox, keys := p.keys + 1, rxActive := p.keys + 1, txActive := p.keys + 1, session := p.session + 1 }

theorem portAt_ports {s t : State} (h : t.ports = s.ports) (n : Nat) : portAt t n = portAt s n := by rw [portAt, portAt, h]

/-! ## Frames that are accepted and sent -/

/-- A rotation touches only the key slots of the two streams. -/
theorem rotate_keeps (p : Port) : p.rotate.rxSeq = p.rxSeq ∧ p.rotate.replays = p.replays ∧ p.rotate.inbox = p.inbox ∧ p.rotate.rxPhase = p.rxPhase ∧
    p.rotate.rxActive = p.rxActive := by
  unfold Port.rotate
  split
  · exact ⟨rfl, rfl, rfl, rfl, rfl⟩
  · split <;> exact ⟨rfl, rfl, rfl, rfl, rfl⟩

theorem acceptFrame_spec (p : Port) (port : Nat) (f : Frame) (acks : Nat) :
    let q := acceptFrame p port f acks
    q.inbox = p.inbox ++ cryptPackets ((frameKey p port f).getD 0) port f.seq 0 f.packets ∧ q.rxSeq = p.rxSeq + 1 ∧ q.replays = 0 ∧ q.rxPhase = framePhase f ∧
      q.rxActive = if framePhase f = p.rxPhase then p.rxActive else p.rxPending.getD 0 := by
  unfold acceptFrame
  by_cases hp : framePhase f = p.rxPhase
  all_goals
    simp only [hp, beq_iff_eq, if_true, if_false]
    split
    · obtain ⟨hseq, hrep, hin, hphase, hact⟩ := rotate_keeps _
      rw [hseq, hrep, hin, hphase, hact]
      exact ⟨rfl, rfl, rfl, by simp [*], rfl⟩
    · exact ⟨rfl, rfl, rfl, by simp [*], rfl⟩

section
variable {s : State} {port : Nat} (hup : (portAt s port).up = true)
include hup

theorem frameReceive_accepts (hport : port < 64) {f : Frame} (hok : frameOk (portAt s port) port f = true) (hseq : f.seq = (portAt s port).rxSeq) :
    exec (.frameReceive port f) s = .next (({ s with free := s.free + 1 } : State).modPort port fun p => acceptFrame p port f (Config.freeNat s.free)) := by
  show execFrameReceive port f s = _
  rw [execFrameReceive, if_neg (by simp [hup]; omega), if_pos ⟨hok, hseq⟩]

theorem frameReceive_drops (hport : port < 64) {f : Frame}
    (h : (portAt s port).rxSeq < f.seq ∨ (f.seq = (portAt s port).rxSeq ∧ frameOk (portAt s port) port f = false)) :
    exec (.frameReceive port f) s = .next (s.modPort port fun p => { p with dropped := true }) := by
  show execFrameReceive port f s = _
  rw [execFrameReceive, if_neg (by simp [hup]; omega), if_neg]
  rintro ⟨hok, hseq⟩
  rcases h with h | ⟨-, h⟩
  · omega
  · simp [hok] at h

theorem frameReplay_dropped (hd : (portAt s port).dropped = true) :
    exec (.frameReplay port) s = .next (s.modPort port fun p => { p with dropped := false, replays := p.replays + 1 }) := by
  show execFrameReplay port s = _
  rw [execFrameReplay, if_neg (by simp [hup]), if_pos hd]

theorem frameReplay_unacked (hd : (portAt s port).dropped = false) (hu : (portAt s port).unacked ≠ []) :
    exec (.frameReplay port) s = .next (s.modPort port fun p => { p with txReplays := p.txReplays + 1 }) := by
  show execFrameReplay port s = _
  rw [execFrameReplay, if_neg (by simp [hup]), if_neg (by simp [hd]), if_neg (by simpa using hu)]

end

theorem sendPacket_seals (s : State) (port : Nat) (pkt : Packet) (hf : (portAt s port).frames < 2 ^ 36) :
    portAt (sendPacket s port pkt) port = { portAt s port with
      txSeq := (portAt s port).txSeq + 1, unacked := (portAt s port).unacked ++ [sealFrame (portAt s port) port [pkt]], frames := (portAt s port).frames + 1 } := by
  rw [sendPacket, if_neg (by omega)]
  exact portAt_modPort _ _ _

/-! ## A port that goes down -/

namespace HomeFrame

variable {R : State → State → Prop} (h : HomeFrame R)
include h

theorem finishRed (s : State) (k id : Nat) : R s (finishRed s k id) := by
  unfold Machine.finishRed
  split
  · exact h.refl s
  · exact h.ite (h.trans (h.trans (h.dropAccess s k id) (h.watchDone _ _ _)) (h.warp _ _ _ _)) (h.refl s)

theorem afterAtomic (s : State) (k : Nat) (ac : Access) (la : LaneAcc) (bs : List Byte) : R s (afterAtomic s k ac la bs) := by
  unfold Machine.afterAtomic
  have hland := h.core s k fun c => landRed c ac.did la.pa bs
  split
  · refine h.trans (h.trans (h.trans hland (h.dropAccess _ k ac.id)) ?_) (h.foldl (fun s i => h.finishRed s k i) _ _)
    exact h.foldl (fun s (p : Nat × Nat) => h.markLane s k p.1 p.2 id) _ _
  · exact h.trans hland (h.finishRed _ _ _)
  · split
    · exact h.ite (h.watchDone _ _ _) (h.refl s)
    · exact h.refl s

theorem failPart (s : State) (k : Nat) (ac : Access) (line : Nat) : R s (failPart s k ac line) := by
  unfold Machine.failPart
  have hperform := fun d => h.trans (h.reportError s (coreSlice k) (paOf (128 * line))) (h.performPart _ k ac.id line d)
  refine h.ite ?_ (h.trans (hperform _) (h.armMonitor _ _ _ _))
  dsimp only
  split
  · exact h.ite (h.trans (hperform _) (h.watchDone _ _ _)) (hperform _)
  · exact hperform _

theorem failLane (s : State) (k : Nat) (ac : Access) (la : LaneAcc) : R s (failLane s k ac la) :=
  h.trans (h.trans (h.reportError s _ _) (h.markLane _ _ _ _ _)) (h.afterAtomic _ _ _ _ _)

theorem answerHeld (s : State) (port : Nat) : R s (answerHeld s port) := by
  unfold Machine.answerHeld
  refine h.foldl (fun s c => ?_) _ s
  refine h.foldl (fun s ac => ?_) _ s
  refine h.trans (h.foldl (fun s p => ?_) _ s) (h.foldl (fun s la => ?_) _ _)
  · exact h.failPart s c.1 ac p.line
  · exact h.failLane s c.1 ac la

end HomeFrame

theorem frame_ports : HomeFrame (Same State.ports) :=
  same_frame (fun _ _ _ => rfl) (fun _ _ _ => rfl) (fun _ _ _ => rfl) (fun _ _ _ => rfl) fun _ _ => rfl

theorem frame_groups : HomeFrame (Same State.groups) :=
  same_frame (fun _ _ _ => rfl) (fun _ _ _ => rfl) (fun _ _ _ => rfl) (fun _ _ _ => rfl) fun _ _ => rfl

/-- A group whose node is a port that went down has lost it. -/
def loseNode (port : Nat) (g : Group) : Group := if g.nodes.contains port then { g with lost := insertNat port g.lost } else g

/-- The state once a port has gone down: its streams are gone, and what it held has been answered. -/
def heldAnswered (s : State) (port : Nat) : State :=
  answerHeld (s.modPort port fun p => { inbox := p.inbox, keys := p.keys, session := p.session }) port

theorem portDown_run {s : State} {port : Nat} (hup : (portAt s port).up = true) (h : 16 ≤ (portAt s port).replays ∨ 16 ≤ (portAt s port).txReplays) :
    exec (.portDown port) s = .next (mapSnaps { heldAnswered s port with groups := (heldAnswered s port).groups.map fun (i, g) => (i, loseNode port g) }
      (fun _ => true) (loseNode port)) := by
  show execPortDown port s = _
  rw [execPortDown, if_neg (by simp [hup]; omega)]
  rfl

theorem portDown_spec {s : State} {port : Nat} (hup : (portAt s port).up = true) (h : 16 ≤ (portAt s port).replays ∨ 16 ≤ (portAt s port).txReplays) :
    ∃ t, exec (.portDown port) s = .next t ∧ t.mem = (heldAnswered s port).mem ∧ (portAt t port).up = false ∧ (∀ n, n ≠ port → portAt t n = portAt s n) ∧
      ∀ i g, (i, g) ∈ s.groups → g.nodes.contains port = true → ∃ h, (i, h) ∈ t.groups ∧ h.lost = insertNat port g.lost := by
  have hports := portAt_ports (frame_ports.answerHeld (s.modPort port fun p => { inbox := p.inbox, keys := p.keys, session := p.session }) port)
  have hgroups : (heldAnswered s port).groups = s.groups := frame_groups.answerHeld _ _
  refine ⟨_, portDown_run hup h, rfl, ?_, fun n hn => ?_, fun i g hg hnode => ⟨loseNode port g, ?_, ?_⟩⟩
  · exact (congrArg Port.up (hports port)).trans (by rw [portAt_modPort])
  · exact (hports n).trans (portAt_modPort_ne s _ hn)
  · show _ ∈ (heldAnswered s port).groups.map _
    rw [hgroups]
    exact List.mem_map_of_mem (f := fun q : Nat × Group => (q.1, loseNode port q.2)) hg
  · rw [loseNode, if_pos hnode]

/-! ## Packets at the head of an inbox -/

section
variable {s : State} {port : Nat} {pkt : Packet} (hhead : (portAt s port).inbox.head? = some pkt)
include hhead

theorem nextPacket_of_kind {mine : Nat → Bool} (hk : mine pkt.kind.toNat = true) : nextPacket s port pkt mine = true := by
  simp [nextPacket, hhead, hk]

theorem windowAccess_next (hk : pkt.kind = 1 ∨ pkt.kind = 3 ∨ pkt.kind = 5 ∨ pkt.kind = 7) :
    nextPacket s port pkt (fun t => t = 1 || t = 3 || t = 5 || t = 7) = true :=
  nextPacket_of_kind hhead (by rcases hk with hk | hk | hk | hk <;> rw [hk] <;> rfl)

theorem windowAccess_refused (hk : pkt.kind = 1 ∨ pkt.kind = 3 ∨ pkt.kind = 5 ∨ pkt.kind = 7) {c : Nat} (hw : windowHome s port pkt = .error c) :
    exec (.windowAccess port pkt) s = .next (sendPacket (popPacket s port) port (errorTo s pkt c)) := by
  show execWindowAccess port pkt s = _
  simp only [execWindowAccess, windowAccess_next hhead hk, hw] <;> rfl

theorem windowAccess_performed (hk : pkt.kind = 1 ∨ pkt.kind = 3 ∨ pkt.kind = 5 ∨ pkt.kind = 7) {key : Nat} (hw : windowHome s port pkt = .ok key)
    (hshut : keyShut s key = false) : exec (.windowAccess port pkt) s = .next (performWindow (popPacket s port) port pkt key) := by
  show execWindowAccess port pkt s = _
  simp only [execWindowAccess, windowAccess_next hhead hk, hw, hshut] <;> rfl

theorem multicast_cistern (hk : pkt.kind = 8) {m : Member} (hm : memberFor (popPacket s port) (pkt.tag.toNat % 256) = some m) (hmod : pkt.module.toNat ≠ m.module)
    (hbit : pkt.offset.getLsbD 41 = true) (hoff : bitsN pkt.offset.toNat 40 0 / 128 * 128 < 192 * 2 ^ 26)
    (hr : regionOf (popPacket s port) m.part (bitsN pkt.offset.toNat 40 0 / 128 * 128 / 2 ^ 26) = true) :
    exec (.fabricMulticastLine port pkt) s = .next { popPacket s port with cisternWrites := (popPacket s port).cisternWrites ++
      [{ part := m.part, did := m.did, offset := bitsN pkt.offset.toNat 40 0 / 128 * 128, bytes := pkt.payload }] } := by
  show execFabricMulticastLine port pkt s = _
  rw [execFabricMulticastLine, if_neg (by simp [nextPacket_of_kind hhead, hk])]
  simp only [hm, Option.filter_some, hmod, ne_eq, not_false_eq_true, decide_true, if_true, hbit]
  exact if_pos (Bool.and_eq_true_iff.mpr ⟨decide_eq_true hoff, hr⟩)

theorem multicast_buffer (hk : pkt.kind = 8) {m : Member} (hm : memberFor (popPacket s port) (pkt.tag.toNat % 256) = some m) (hmod : pkt.module.toNat ≠ m.module)
    (hbit : pkt.offset.getLsbD 41 = false) (hlen : bitsN pkt.offset.toNat 40 0 / 128 * 128 + 128 ≤ m.length)
    (howns : memberOwns (popPacket s port) m (bitsN pkt.offset.toNat 40 0 / 128 * 128) 128 = true) :
    exec (.fabricMulticastLine port pkt) s = .next (engineWrite (popPacket s port) ((partAt (popPacket s port) m.part).slices.headD 0) m.part m.did
      (m.key (bitsN pkt.offset.toNat 40 0 / 128 * 128)) pkt.payload) := by
  show execFabricMulticastLine port pkt s = _
  rw [execFabricMulticastLine, if_neg (by simp [nextPacket_of_kind hhead, hk])]
  simp only [hm, Option.filter_some, hmod, ne_eq, not_false_eq_true, decide_true, if_true, hbit]
  exact (if_neg Bool.false_ne_true).trans (if_pos (Bool.and_eq_true_iff.mpr ⟨decide_eq_true hlen, howns⟩))

end

/-- What a window that takes an access says of it. -/
theorem windowHome_ok {s : State} {port : Nat} {pkt : Packet} {w : Window} {key : Nat} (hall : ∀ v ∈ s.windows, v = w) (h : windowHome s port pkt = .ok key) :
    w.node = port ∧ w.importers.getLsbD pkt.module.toNat = true ∧ key = physKey w.part (w.base + bitsN pkt.offset.toNat 34 0) ∧
      bitsN pkt.offset.toNat 34 0 < w.length ∧ (pkt.kind = 1 → w.r = true ∧ (potAt s key).world = false) ∧
      (pkt.kind ≠ 1 → w.w = true ∧ ((potAt s key).owner = 0 ∨ (potAt s key).owner = 0xFFFF)) := by
  unfold windowHome at h
  dsimp only at h
  split at h
  · cases h
  split at h
  · cases h
  split at h
  · cases h
  next v hfind =>
    obtain rfl := hall v (List.mem_of_find?_eq_some hfind)
    have hnode := List.find?_some hfind
    split at h
    · cases h
    next h1 =>
    split at h
    · cases h
    next h2 =>
    split at h
    · cases h
    next h3 =>
    obtain rfl := (Except.ok.inj h).symm
    simp only [Bool.or_eq_true, Bool.not_eq_true', decide_eq_true_eq, not_or, Bool.not_eq_false, not_le] at h1
    simp only [Bool.and_eq_true, decide_eq_true_eq] at hnode
    refine ⟨hnode.1, h1.1, rfl, h1.2, fun hk => ?_, fun hk => ?_⟩
    · simpa [hk] using h3
    · have h2' : ¬pkt.kind = 1#8 → v.w = true ∧ ((potAt s (physKey v.part (v.base + bitsN pkt.offset.toNat 34 0))).owner ≠ 0 →
          (potAt s (physKey v.part (v.base + bitsN pkt.offset.toNat 34 0))).owner = 0xFFFF) := by simpa using h2
      exact ⟨(h2' hk).1, or_iff_not_imp_left.mpr (h2' hk).2⟩

/-! ## Regions of a host -/

theorem cxlRegionReclaim_spec {s : State} {p r : Nat} (hown : (partAt s p).hostOwned.contains r = true) (hk : keepsOwner (partAt s p) r = false) :
    ∃ t, exec (.cxlRegionReclaim p r) s = .next t ∧ (partAt t p).hostOwned = (partAt s p).hostOwned.filter fun n => decide (n ≠ r) := by
  have hrun : ∃ u, exec (.cxlRegionReclaim p r) s = .next (u.modPart p fun pt => pt.toModule r) ∧ PartsKept s u := by
    refine ⟨_, show execCxlRegionReclaim p r s = _ by rw [execCxlRegionReclaim, if_neg (by simp only [hown, hk]; decide)], ?_⟩
    have hput : PartsKept s (memPut { s with free := s.free + 1 } (2 ^ 52 * p + 2 ^ 21 * r) (natLe (2 ^ 21) (Config.freeNat s.free))) :=
      frame_parts.put { s with free := s.free + 1 } _ _
    exact frame_parts.trans (frame_parts.trans hput (frame_parts.foldl (fun s l => frame_parts.wakeWatchers s l) _ _)) (frame_parts.publishAt _ _ _ _ _)
  obtain ⟨u, hu, hkept⟩ := hrun
  refine ⟨_, hu, ?_⟩
  rw [partAt_modPart, Partition.toModule, (hkept p).hostOwned]

/-- Settles O59: frames, responses and windows from the equations of their events; a port that goes down answers what it holds by steps that touch
neither ports nor groups. -/
theorem fabricSteps : Obligations.FabricSteps := by
  unfold Obligations.FabricSteps
  refine ⟨fun s port hup hport => ?up, fun s port hup hport => ?down, fun s port pkt k ac hhead => ?packets, fun s port pkt w _ _ hall key hok => windowHome_ok hall hok,
    fun s p r => ?regions⟩
  case up =>
    refine ⟨fun f hok hseq => ?_, fun f hf => frameReceive_drops hup hport hf, frameReplay_dropped hup, frameReplay_unacked hup, fun h => portDown_spec hup h, rfl,
      fun pkt hf => ⟨_, sendPacket_seals s port pkt hf, rfl, rfl, rfl, rfl⟩⟩
    obtain ⟨hin, hrx, hrep, hphase, hact⟩ := acceptFrame_spec (portAt s port) port f (Config.freeNat s.free)
    refine ⟨_, frameReceive_accepts hup hport hok hseq, rfl, ?_⟩
    have hport' := portAt_modPort { s with free := s.free + 1 } port fun p => acceptFrame p port f (Config.freeNat s.free)
    rw [hport']
    exact ⟨hin, hrx, hrep, hphase, hact, fun n hn => portAt_modPort_ne { s with free := s.free + 1 } _ hn⟩
  case down =>
    have hrun : exec (.portRetrain port) s = .next ((s.modPort port retrained).logEvent 6 ((sliceAt s (port / 2)).part.getD 0) (port / 2)) := by
      show execPortRetrain port s = _
      rw [execPortRetrain, if_neg (by simp [hup]; omega)]
      rfl
    have hsame : ∀ n, portAt ((s.modPort port retrained).logEvent 6 ((sliceAt s (port / 2)).part.getD 0) (port / 2)) n = portAt (s.modPort port retrained) n :=
      fun _ => rfl
    refine ⟨_, hrun, rfl, ?_⟩
    simp only [hsame, portAt_modPort]
    exact ⟨rfl, rfl, rfl, rfl, fun n hn => portAt_modPort_ne s retrained hn⟩
  case packets =>
    intro u read part lane
    refine ⟨fun p hk hpend hfind => ?read, fun p hk hstore hpend hfind => ?write, fun la hk hstore hpend hfind => ?reduction, fun la hk hpend hfind => ?atomic,
      fun hk hpend => ?error, fun hk => ⟨fun c hw => windowAccess_refused hhead hk hw, fun key hw hshut => windowAccess_performed hhead hk hw hshut⟩,
      fun m hk hm hmod => ⟨multicast_cistern hhead hk hm hmod, multicast_buffer hhead hk hm hmod⟩⟩
    case read =>
      show execFabricReadResponse port pkt s = _
      rw [execFabricReadResponse, if_neg (by simp [nextPacket_of_kind hhead, hk])]
      simp only [hpend, hfind, read]
      rfl
    case write =>
      show execFabricWriteAck port pkt s = _
      rw [execFabricWriteAck, if_neg (by simp [nextPacket_of_kind hhead, hk])]
      simp only [hpend, hfind, hstore, part, lane]
      rfl
    case reduction =>
      show execFabricWriteAck port pkt s = _
      rw [execFabricWriteAck, if_neg (by simp [nextPacket_of_kind hhead, hk])]
      simp only [hpend, hfind, hstore, part, lane]
      rfl
    case atomic =>
      show execFabricAtomicResponse port pkt s = _
      rw [execFabricAtomicResponse, if_neg (by simp [nextPacket_of_kind hhead, hk])]
      simp only [hpend, hfind, lane]
      rfl
    case error =>
      have hnext : nextPacket s port pkt (fun t => t = 9) = true := nextPacket_of_kind hhead (by simp [hk])
      refine ⟨fun p hstore hfind => ?_, fun p hstore hfind => ?_, fun la hstore hnone hfind => ?_⟩
      · show execFabricErrorResponse port pkt s = _
        simp only [execFabricErrorResponse, hnext, hpend, hstore, decide_false, hfind, failPart, lane] <;> rfl
      · show execFabricErrorResponse port pkt s = _
        simp only [execFabricErrorResponse, hnext, hpend, hstore, decide_true, hfind, failPart, lane] <;> rfl
      · show execFabricErrorResponse port pkt s = _
        simp only [execFabricErrorResponse, hnext, hpend, hstore, decide_false, hnone, hfind, failLane, lane] <;> rfl
  case regions =>
    refine ⟨fun hok hown hkeep => ?_, cxlRegionReclaim_spec, fun hkeep => ⟨?_, ?_⟩⟩
    · intro u hbusy
      show execCxlHostRequest p r s = _
      rw [execCxlHostRequest, if_neg (by simp only [hok, hown, hkeep]; decide)]
      exact if_neg fun h => Bool.false_ne_true (hbusy.symm.trans h)
    · show execCxlHostRequest p r s = _
      rw [execCxlHostRequest, if_pos (by simp [hkeep])]
    · show execCxlRegionReclaim p r s = _
      rw [execCxlRegionReclaim, if_pos (by simp [hkeep])]

end Sys2Proof.Machine

/-! SUPPORT. Sys2Proof/Machine/Manage.lean: partitions formed, booted and reset, the management controller, module reset (R376 to R407). -/

namespace Sys2Proof.Machine

open Sys2Proof.Safety

/-! ## Slices at reset and cleared regions -/

/-- A step of forming a partition: the partitions and the rollback counter stand, and memory that is zero stays zero. -/
structure FormKeeps (s t : State) : Prop where
  parts : t.parts = s.parts
  rollback : t.rollback = s.rollback
  zero : ∀ a, cellRead s.mem a = 0 → cellRead t.mem a = 0

theorem FormKeeps.refl (s : State) : FormKeeps s s := ⟨rfl, rfl, fun _ h => h⟩

theorem FormKeeps.trans {s t u : State} (h : FormKeeps s t) (h' : FormKeeps t u) : FormKeeps s u :=
  ⟨h'.parts.trans h.parts, h'.rollback.trans h.rollback, fun a ha => h'.zero a (h.zero a ha)⟩

theorem FormKeeps.foldl {α : Type} {f : State → α → State} (hf : ∀ s a, FormKeeps s (f s a)) (l : List α) (s : State) : FormKeeps s (l.foldl f s) := by
  induction l generalizing s with
  | nil => exact .refl s
  | cons a l ih => exact (hf s a).trans (ih _)

theorem memZero_keeps (s : State) (key n : Nat) : FormKeeps s (memZero s key n) := by
  refine ⟨rfl, rfl, fun a ha => ?_⟩
  rw [memZero, cellRead_cellsClear]
  split
  exacts [rfl, ha]

theorem cellRead_memZero (s : State) {key n a : Nat} (h : a < n) : cellRead (memZero s key n).mem (key + a) = 0 := by
  rw [memZero, cellRead_cellsClear, if_pos ⟨by omega, by omega⟩]

/-- One region of a slice's cistern cleared, if it is the slice's (R376). -/
def clearRegion (n : Nat) (s : State) (r : Nat) : State :=
  if regionSlice r ≠ n then s
  else
    let s := memZero s (2 ^ 48 + 2 ^ 26 * r) (2 ^ 26)
    { s with paired := s.paired.filter fun q => decide (q ≠ r / 2), quarantined := AMap.del s.quarantined r,
             unverified := s.unverified.filter fun (i, _) => decide (i / 16384 ≠ r), ranges := s.ranges.filter fun x => decide (x.offset / 2 ^ 26 ≠ r),
             pot := s.pot.filter fun (f, _) => !(decide (f / 2 ^ 32 = 1) && decide (f % 2 ^ 32 / 1024 = r)) }

theorem clearRegions_eq (s : State) (n : Nat) : clearRegions s n = (List.range 192).foldl (clearRegion n) s := rfl

theorem clearRegion_keeps (n : Nat) (s : State) (r : Nat) : FormKeeps s (clearRegion n s r) := by
  unfold clearRegion
  split
  · exact .refl s
  · have h := memZero_keeps s (2 ^ 48 + 2 ^ 26 * r) (2 ^ 26)
    exact ⟨h.parts, h.rollback, h.zero⟩

theorem clearRegion_slices (n : Nat) (s : State) (r : Nat) : (clearRegion n s r).slices = s.slices := by
  unfold clearRegion
  split <;> rfl

theorem cellRead_clearRegion (s : State) (r : Nat) {a : Nat} (ha : a < 2 ^ 26) : cellRead (clearRegion (regionSlice r) s r).mem (2 ^ 48 + 2 ^ 26 * r + a) = 0 := by
  rw [clearRegion, if_neg (by simp)]
  exact cellRead_memZero s ha

theorem foldl_clearRegion_slices (n : Nat) (rs : List Nat) (s : State) : (rs.foldl (clearRegion n) s).slices = s.slices := by
  induction rs generalizing s with
  | nil => rfl
  | cons r rs ih => exact (ih _).trans (clearRegion_slices n s r)

theorem cellRead_foldl_clearRegion {rs : List Nat} {r a : Nat} (hr : r ∈ rs) (ha : a < 2 ^ 26) (s : State) :
    cellRead (rs.foldl (clearRegion (regionSlice r)) s).mem (2 ^ 48 + 2 ^ 26 * r + a) = 0 := by
  induction rs generalizing s with
  | nil => exact absurd hr (by simp)
  | cons q rs ih =>
    rcases List.mem_cons.mp hr with rfl | hr
    · exact (FormKeeps.foldl (clearRegion_keeps _) rs _).zero _ (cellRead_clearRegion s _ ha)
    · exact ih hr _

@[simp] theorem resetSlice_mem (s : State) (n : Nat) (p : Option Nat) : (resetSlice s n p).mem = s.mem := by rfl

theorem resetSlice_keeps (s : State) (n : Nat) (p : Option Nat) : FormKeeps s (resetSlice s n p) := ⟨rfl, rfl, fun _ h => h⟩

theorem sliceAt_resetSlice (s : State) (n : Nat) (p : Option Nat) (m : Nat) :
    (sliceAt (resetSlice s n p) m).part = if m = n then p else (sliceAt s m).part := by
  rw [sliceAt, resetSlice, AMap.getD]
  dsimp only
  by_cases h : m = n
  · subst h
    rw [AMap.get?_put_self, if_pos rfl]
    rfl
  · rw [AMap.get?_put_ne _ _ (Ne.symm h), if_neg h]
    rfl

/-- A slice that a new partition takes. -/
def takeSlice (part : Nat) (s : State) (n : Nat) : State := resetSlice (clearRegions s n) n (some part)

theorem takeSlice_keeps (part : Nat) (s : State) (n : Nat) : FormKeeps s (takeSlice part s n) :=
  (clearRegions_eq s n ▸ FormKeeps.foldl (clearRegion_keeps n) (List.range 192) s).trans (resetSlice_keeps _ _ _)

theorem takeSlice_part (part : Nat) (s : State) (n m : Nat) : (sliceAt (takeSlice part s n) m).part = if m = n then some part else (sliceAt s m).part := by
  have hs : (clearRegions s n).slices = s.slices := foldl_clearRegion_slices n _ s
  rw [takeSlice, sliceAt_resetSlice, sliceAt, sliceAt, hs]

theorem cellRead_takeSlice (part : Nat) (s : State) {r a : Nat} (hr : r < 192) (ha : a < 2 ^ 26) :
    cellRead (takeSlice part s (regionSlice r)).mem (2 ^ 48 + 2 ^ 26 * r + a) = 0 := by
  rw [takeSlice, resetSlice_mem, clearRegions_eq]
  exact cellRead_foldl_clearRegion (List.mem_range.mpr hr) ha s

theorem takeSlices_part (part : Nat) (ns : List Nat) (s : State) (n : Nat) (h : n ∈ ns ∨ (sliceAt s n).part = some part) :
    (sliceAt (ns.foldl (takeSlice part) s) n).part = some part := by
  induction ns generalizing s with
  | nil => exact h.resolve_left (by simp)
  | cons m ns ih =>
    refine ih _ ?_
    rw [takeSlice_part]
    by_cases hm : n = m
    · exact .inr (if_pos hm)
    · rw [if_neg hm]
      simpa [hm] using h

theorem cellRead_takeSlices (part : Nat) {ns : List Nat} {r a : Nat} (hr : r < 192) (hn : regionSlice r ∈ ns) (ha : a < 2 ^ 26) (s : State) :
    cellRead (ns.foldl (takeSlice part) s).mem (2 ^ 48 + 2 ^ 26 * r + a) = 0 := by
  induction ns generalizing s with
  | nil => exact absurd hn (by simp)
  | cons m ns ih =>
    rcases List.mem_cons.mp hn with rfl | hn
    · exact (FormKeeps.foldl (takeSlice_keeps part) ns _).zero _ (cellRead_takeSlice part s hr ha)
    · exact ih hn _

/-! ## A boot -/

/-- Changes of cores leave memory and what is told of slices and partitions. -/
theorem foldl_modCore_leaves (k : Nat → Nat) (f : Core → Core) (is : List Nat) (s : State) :
    let t := is.foldl (fun s i => s.modCore (k i) f) s
    t.mem = s.mem ∧ t.slices = s.slices ∧ t.parts = s.parts := by
  induction is generalizing s with
  | nil => exact ⟨rfl, rfl, rfl⟩
  | cons i is ih => exact ih _

/-- A service core out of reset: it waits before the loader's first bundle. -/
def serviceCoreOut (c : Core) : Core :=
  let gang : Gang := { mask := 1, status := .waiting .supervisor }
  let warp : Warp := { did := 0xFFFF, didNow := 0xFFFF, blocks := 16, wld := 1, gangs := [(0, gang)] }
  { c with held := false, warps := [(0, warp)], svc := { c.svc with op := some .wfi } }

/-- The compute and service cores of a slice out of reset. -/
def coresOut (s : State) (n : Nat) : State :=
  (List.range 4).foldl (fun s i => s.modCore (512 + 4 * n + i) serviceCoreOut) ((List.range 16).foldl (fun s i => s.modCore (16 * n + i) fun c => { c with held := false }) s)

theorem startSlice_eq (s : State) (n : Nat) : startSlice s n = startFirmware (coresOut s n) n := rfl

/-- Starting slices changes neither memory nor what is told of slices and partitions. -/
theorem startSlice_keeps (s : State) (n : Nat) : (startSlice s n).mem = s.mem ∧ (startSlice s n).slices = s.slices ∧ (startSlice s n).parts = s.parts := by
  obtain ⟨hm, hs, hp, -⟩ := firmwareKeeps_start (coresOut s n) n
  obtain ⟨hm₁, hs₁, hp₁⟩ := foldl_modCore_leaves (16 * n + ·) (fun c => { c with held := false }) (List.range 16) s
  obtain ⟨hm₂, hs₂, hp₂⟩ := foldl_modCore_leaves (512 + 4 * n + ·) serviceCoreOut (List.range 4)
    ((List.range 16).foldl (fun s i => s.modCore (16 * n + i) fun c => { c with held := false }) s)
  rw [startSlice_eq]
  exact ⟨hm.trans (hm₂.trans hm₁), hs.trans (hs₂.trans hs₁), hp.trans (hp₂.trans hp₁)⟩

theorem startSlices_keep (ns : List Nat) (s : State) :
    (ns.foldl startSlice s).mem = s.mem ∧ (ns.foldl startSlice s).slices = s.slices ∧ (ns.foldl startSlice s).parts = s.parts := by
  induction ns generalizing s with
  | nil => exact ⟨rfl, rfl, rfl⟩
  | cons n ns ih =>
    obtain ⟨hm, hs, hp⟩ := ih (startSlice s n)
    obtain ⟨hm', hs', hp'⟩ := startSlice_keeps s n
    exact ⟨hm.trans hm', hs.trans hs', hp.trans hp'⟩

/-- A partition whose loader has been copied, measured and checked against its groups, before its slices start. -/
def loaderIn (s : State) (p : Nat) (bytes : List Byte) (digest : Digest) : State := returnedMember (extendPart (memPut s (physKey p 0) bytes) p 8 digest) p

/-- A partition whose slices have started behind its loader. -/
def loaderRuns (s : State) (p : Nat) (bytes : List Byte) (digest : Digest) : State :=
  (partAt (loaderIn s p bytes digest) p).slices.foldl startSlice (loaderIn s p bytes digest)

theorem bootWith_eq (s : State) (p : Nat) (bytes : List Byte) (digest : Digest) : bootWith s p bytes digest =
    ((loaderRuns s p bytes digest).modCore (512 + 4 * bootPort (loaderRuns s p bytes digest) p) fun c =>
      { c with svc := { c.svc with op := none }, warps := c.warps.map fun (w, wp) => (w, { wp with gangs := [(0, { mask := 1, pc := slot0 0 })] }) }).modPart p fun pt =>
        { pt with booted := true, bootTries := 0 } := rfl

theorem bootWith_leaves (s : State) (p : Nat) (bytes : List Byte) (digest : Digest) :
    let t := bootWith s p bytes digest
    t.mem = cellsWrite s.mem (2 ^ 52 * p) bytes ∧ t.slices = s.slices ∧ (partAt t p).slices = (partAt s p).slices ∧ (partAt t p).booted = true := by
  obtain ⟨hm, hs, hp⟩ := startSlices_keep (partAt (loaderIn s p bytes digest) p).slices (loaderIn s p bytes digest)
  have hkey : physKey p 0 = 2 ^ 52 * p := by rw [physKey, if_pos (by decide)]; omega
  have hpart : partAt (loaderRuns s p bytes digest) p = partAt (loaderIn s p bytes digest) p := congrArg (fun ps => AMap.getD ps p ({} : Partition)) hp
  have hin : partAt (loaderIn s p bytes digest) p = { partAt s p with measures := extended (partAt s p).measures 8 digest } :=
    partAt_modPart (memPut s (physKey p 0) bytes) p fun pt => { pt with measures := extended pt.measures 8 digest }
  intro t
  have ht : partAt t p = { partAt (loaderRuns s p bytes digest) p with booted := true, bootTries := 0 } := by
    rw [show t = _ from bootWith_eq s p bytes digest, partAt_modPart, partAt_modCore]
  refine ⟨?_, hs, ?_, ?_⟩
  · rw [← hkey]
    exact hm
  · rw [ht, hpart, hin]
  · rw [ht]

/-! ## Partitions formed -/

/-- A partition's memory and slices before its shape is measured (R376). -/
def regionsTaken (s : State) (part : Nat) (ns : List Nat) : State :=
  ns.foldl (takeSlice part) { memZero s (2 ^ 52 * part) (2 ^ 48) with
    pot := s.pot.filter fun (f, _) => decide (65536 * f / 2 ^ 52 ≠ part) || decide (paKind (65536 * f) = 1) || decide (paKind (65536 * f) = 2) }

/-- The CXL ports that a new partition gets. -/
def portsGiven (s : State) (part : Nat) : State := assignCxl { s with cxlPorts := s.cxlPorts.filter fun e => decide (e.2 ≠ part) } part

/-- A partition as it is formed. -/
def newPart (s : State) (part : Nat) (ns : List Nat) : Partition :=
  { slices := ns, cxlBytes := if (cxlPortsOf s part).isEmpty then 0 else Config.cxlWindow part, bootTries := 8 }

/-- A new partition entered, measured and logged. -/
def partEntered (s : State) (part : Nat) (ns : List Nat) : State :=
  (measureShape { s with parts := AMap.put s.parts part (newPart s part ns) } part).logEvent 0 part (ns.headD 0)

/-- The state in which a partition has been formed, before its first boot attempt. -/
def partitionFormed (s : State) (part : Nat) (ns : List Nat) : State := partEntered (portsGiven (regionsTaken s part ns) part) part ns

theorem portsGiven_leaves (s : State) (part : Nat) : (portsGiven s part).mem = s.mem ∧ (portsGiven s part).slices = s.slices ∧ (portsGiven s part).rollback = s.rollback := by
  simp only [portsGiven, assignCxl, and_self]

theorem partEntered_leaves (s : State) (part : Nat) (ns : List Nat) : (partEntered s part ns).mem = s.mem ∧ (partEntered s part ns).slices = s.slices ∧
    (partEntered s part ns).rollback = s.rollback ∧ (partEntered s part ns).parts = AMap.put s.parts part (newPart s part ns) :=
  ⟨rfl, rfl, rfl, rfl⟩

section
variable {s : State} {part : Nat} {rect : Rect}

theorem partitionForm_run (boot : BootResult) (hpart : part < 32) (hfree : (partAt s part).slices = []) (hrect : rectOk rect = true) (hlife : s.lifecycle ≠ 3)
    (hns : ∀ n ∈ rectSlices rect, (sliceAt s n).part = none ∧ takenByOther s part n = false) :
    exec (.partitionForm part rect boot) s = .next (match boot with
      | .failed => partitionFormed s part (rectSlices rect)
      | .loader bytes digest => if loaderGood (partitionFormed s part (rectSlices rect)) bytes digest
          then bootWith (partitionFormed s part (rectSlices rect)) part bytes digest else partitionFormed s part (rectSlices rect)) := by
  have hany : ((rectSlices rect).any fun n => (sliceAt s n).part.isSome || takenByOther s part n) = false :=
    List.any_eq_false.mpr fun n hn => by simp [hns n hn]
  show execPartitionForm part rect boot s = _
  rw [execPartitionForm, if_neg]
  · cases boot <;> rfl
  · rw [hany, hfree, hrect]
    simp only [Bool.not_true, Bool.false_eq_true, List.isEmpty_nil, hlife, or_self, or_false]
    omega

theorem partitionFormed_leaves (ns : List Nat) : (partitionFormed s part ns).mem = (regionsTaken s part ns).mem ∧
    (partitionFormed s part ns).slices = (regionsTaken s part ns).slices ∧ (partitionFormed s part ns).rollback = (regionsTaken s part ns).rollback := by
  obtain ⟨hm, hs, hr, -⟩ := partEntered_leaves (portsGiven (regionsTaken s part ns) part) part ns
  obtain ⟨hm', hs', hr'⟩ := portsGiven_leaves (regionsTaken s part ns) part
  exact ⟨hm.trans hm', hs.trans hs', hr.trans hr'⟩

theorem partitionFormed_part (ns : List Nat) : partAt (partitionFormed s part ns) part = newPart (portsGiven (regionsTaken s part ns) part) part ns := by
  obtain ⟨-, -, -, hparts⟩ := partEntered_leaves (portsGiven (regionsTaken s part ns) part) part ns
  rw [partAt, partitionFormed, hparts, AMap.getD, AMap.get?_put_self]
  rfl

theorem partitionFormed_slice {ns : List Nat} {n : Nat} (hn : n ∈ ns) : (sliceAt (partitionFormed s part ns) n).part = some part := by
  obtain ⟨-, hslices, -⟩ := partitionFormed_leaves (s := s) (part := part) ns
  rw [sliceAt, hslices]
  exact takeSlices_part part ns _ n (.inl hn)

theorem partitionFormed_hbm (ns : List Nat) {a : Nat} (ha : a < 2 ^ 48) : cellRead (partitionFormed s part ns).mem (2 ^ 52 * part + a) = 0 := by
  rw [(partitionFormed_leaves ns).1]
  exact (FormKeeps.foldl (takeSlice_keeps part) ns _).zero _ (cellRead_memZero s ha)

theorem partitionFormed_cistern {ns : List Nat} {r a : Nat} (hr : r < 192) (hn : regionSlice r ∈ ns) (ha : a < 2 ^ 26) :
    cellRead (partitionFormed s part ns).mem (2 ^ 48 + 2 ^ 26 * r + a) = 0 := by
  rw [(partitionFormed_leaves ns).1]
  exact cellRead_takeSlices part hr hn ha _

theorem partitionFormed_loaderGood (ns : List Nat) (bytes : List Byte) (digest : Digest) :
    loaderGood (partitionFormed s part ns) bytes digest = loaderGood s bytes digest := by
  obtain ⟨-, -, hroll⟩ := partitionFormed_leaves (s := s) (part := part) ns
  rw [loaderGood, loaderGood, hroll, regionsTaken, (FormKeeps.foldl (takeSlice_keeps part) ns _).rollback]
  rfl

end

/-! ## Another boot attempt, and a sensor's sample -/

/-- A partition whose boot attempt has failed. -/
def retryFailed (s : State) (part : Nat) : State :=
  let failed := s.modPart part fun pt => { pt with bootTries := pt.bootTries - 1 }
  if (partAt s part).bootTries = 1 then failed.logEvent 3 part ((partAt s part).slices.headD 0) else failed

section
variable {s : State} {part : Nat} (hslices : (partAt s part).slices ≠ []) (hboot : (partAt s part).booted = false) (htries : (partAt s part).bootTries ≠ 0)
  (hlife : s.lifecycle ≠ 3)
include hslices hboot htries hlife

theorem bootRetry_run (boot : BootResult) : exec (.bootRetry part boot) s = (match boot with
    | .loader bytes digest => .next (if loaderGood s bytes digest then bootWith s part bytes digest else retryFailed s part)
    | .failed => .next (retryFailed s part)) := by
  show execBootRetry part boot s = _
  rw [execBootRetry, if_neg]
  · cases boot <;> rfl
  · simp [hslices, hboot, htries, hlife]

theorem bootRetry_boots {bytes : List Byte} {digest : Digest} (hl : loaderGood s bytes digest = true) :
    exec (.bootRetry part (.loader bytes digest)) s = .next (bootWith s part bytes digest) := by
  rw [bootRetry_run hslices hboot htries hlife]
  simp only [hl, if_true]

theorem bootRetry_fails {boot : BootResult} (hbad : ∀ bytes digest, boot = .loader bytes digest → loaderGood s bytes digest = false) :
    exec (.bootRetry part boot) s = .next (retryFailed s part) := by
  rw [bootRetry_run hslices hboot htries hlife]
  cases boot with
  | failed => rfl
  | loader bytes digest => simp only [hbad bytes digest rfl, Bool.false_eq_true, if_false]

end

/-- A slice with a new sensor reading, and the quota that follows from it. -/
def Slice.sampled (sl : Slice) (reading : Sensor) : Slice := { sl with sensor := some reading, quota := if 105 ≤ reading.temp then 32 else 64 }

/-- A slice's sample taken, with its entry in the event log. -/
def sensorRead (s : State) (n : Nat) (reading : Sensor) : State :=
  let u := s.modSlice n fun sl => sl.sampled reading
  if 105 ≤ reading.temp then u.logEvent 7 ((sliceAt u n).part.getD 0) n else u

theorem sensorRead_leaves (s : State) (n : Nat) (reading : Sensor) : (sensorRead s n reading).mem = s.mem ∧ (sensorRead s n reading).cores = s.cores ∧
    (sensorRead s n reading).slices = (s.modSlice n fun sl => sl.sampled reading).slices := by
  unfold sensorRead
  dsimp only
  split <;> exact ⟨rfl, rfl, rfl⟩

theorem sensorSample_run {s : State} {n : Nat} {reading : Sensor} (hn : n < 32) (htemp : reading.temp < 115) :
    exec (.sensorSample n reading) s = .next (sensorRead s n reading) := by
  show execSensorSample n reading s = _
  rw [execSensorSample, if_neg (by omega)]
  exact if_neg (by omega)

/-! ## A partition at reset -/

/-- What the resets of a partition's slices and the loss of its group members leave: memory, trees, partitions and the ownership table. -/
theorem resetSlices_keep (ns : List Nat) (p : Option Nat) (s : State) :
    let t := ns.foldl (fun s n => resetSlice s n p) s
    t.mem = s.mem ∧ t.parts = s.parts ∧ t.pot = s.pot ∧ t.trees = s.trees := by
  induction ns generalizing s with
  | nil => exact ⟨rfl, rfl, rfl, rfl⟩
  | cons n ns ih => exact ih _

/-- The loss of a partition's members in the groups. -/
def membersAbsent (s : State) (p : Nat) : State :=
  (s.groups.map Prod.fst).foldl (fun s key => if key / 256 = p then absent s key s.moduleId else s) s

theorem membersAbsent_keeps (s : State) (p : Nat) :
    (membersAbsent s p).mem = s.mem ∧ (membersAbsent s p).parts = s.parts ∧ (membersAbsent s p).trees = s.trees := by
  unfold membersAbsent
  generalize s.groups.map Prod.fst = keys
  induction keys generalizing s with
  | nil => exact ⟨rfl, rfl, rfl⟩
  | cons key keys ih =>
    obtain ⟨hm, hp, ht⟩ := ih (if key / 256 = p then absent s key s.moduleId else s)
    rw [List.foldl_cons, hm, hp, ht]
    split <;> exact ⟨rfl, rfl, rfl⟩

/-- A frame zeroed: memory is written at a home, or a range of it is zeroed. -/
theorem HomeFrame.zeroFrame {R : State → State → Prop} (h : HomeFrame R) (hzero : ∀ s rs key n, R s (memZero { s with lost := rs } key n)) (s : State) (p f : Nat) :
    R s (zeroFrame s p f) := by
  unfold Machine.zeroFrame
  refine h.ite (h.foldl (fun s i => ?_) _ s) (h.trans (hzero s _ _ _) (h.foldl (fun s l => h.wakeWatchers s l) _ _))
  split
  · exact h.engineWrite _ _ _ _ _ _
  · exact h.refl s

theorem frame_trees : HomeFrame (Same State.trees) :=
  same_frame (fun _ _ _ => rfl) (fun _ _ _ => rfl) (fun _ _ _ => rfl) (fun _ _ _ => rfl) fun _ _ => rfl

/-- Handing a frame over leaves every partition running as before, and the trees. -/
theorem handOver_keeps (s : State) (p f : Nat) (new : PotEntry) (zero : Bool) :
    PartsKept s (handOver s p f new zero) ∧ (handOver s p f new zero).trees = s.trees := by
  have hparts : PartsKept s (if zero && ((potAt s (65536 * f)).world || new.world) then zeroFrame s p f else s) :=
    frame_parts.ite (frame_parts.zeroFrame (fun s _ _ _ => frame_parts.refl s) s p f) (frame_parts.refl s)
  have htrees : Same State.trees s (if zero && ((potAt s (65536 * f)).world || new.world) then zeroFrame s p f else s) :=
    frame_trees.ite (frame_trees.zeroFrame (fun _ _ _ _ => rfl) s p f) rfl
  exact ⟨hparts, htrees⟩

theorem handOvers_keep (p : Nat) (new : PotEntry) (zero : Bool) (fs : List Nat) (s : State) :
    PartsKept s (fs.foldl (fun s f => handOver s p f new zero) s) ∧ (fs.foldl (fun s f => handOver s p f new zero) s).trees = s.trees := by
  induction fs generalizing s with
  | nil => exact ⟨frame_parts.refl s, rfl⟩
  | cons f fs ih =>
    obtain ⟨hp, ht⟩ := handOver_keeps s p f new zero
    obtain ⟨hp', ht'⟩ := ih (handOver s p f new zero)
    exact ⟨frame_parts.trans hp hp', ht'.trans ht⟩

/-- The frames whose owner a partition has set. -/
def setFrames (s : State) (p : Nat) : List Nat := (s.pot.filter fun (_, e) => decide (e.setter = some p)).map Prod.fst

/-- A partition whose slices are reset and whose pod frames have returned to the kernel. -/
def framesReturned (s : State) (p : Nat) : State :=
  let u := (partAt s p).slices.foldl (fun s n => resetSlice s n (some p)) s
  (setFrames u p).foldl (fun s f => handOver s p f {} true) u

theorem framesReturned_keeps (s : State) (p : Nat) : PartsKept s (framesReturned s p) ∧ (framesReturned s p).trees = s.trees := by
  obtain ⟨-, hparts, -, htrees⟩ := resetSlices_keep (partAt s p).slices (some p) s
  obtain ⟨hp, ht⟩ := handOvers_keep p {} true (setFrames ((partAt s p).slices.foldl (fun s n => resetSlice s n (some p)) s) p)
    ((partAt s p).slices.foldl (fun s n => resetSlice s n (some p)) s)
  refine ⟨fun q => ?_, ht.trans htrees⟩
  have hq := hp q
  rwa [partAt, hparts] at hq

/-- With no pod frame to return, memory and the partitions are as they were. -/
theorem framesReturned_none {s : State} {p : Nat} (h : ∀ e ∈ s.pot, e.2.setter ≠ some p) :
    (framesReturned s p).mem = s.mem ∧ (framesReturned s p).parts = s.parts := by
  obtain ⟨hm, hparts, hpot, -⟩ := resetSlices_keep (partAt s p).slices (some p) s
  have hnone : setFrames ((partAt s p).slices.foldl (fun s n => resetSlice s n (some p)) s) p = [] := by
    rw [setFrames, hpot, List.map_eq_nil_iff, List.filter_eq_nil_iff]
    exact fun e he => by simpa using h e he
  rw [framesReturned, hnone]
  exact ⟨hm, hparts⟩

/-- What a partition is after its reset. -/
def Partition.atReset (pt : Partition) (tries : Nat) : Partition :=
  { slices := pt.slices, resize := pt.resize, cxlBytes := pt.cxlBytes, current := pt.current, hostOwned := pt.hostOwned, moved := pt.moved, clk := pt.clk,
    domMeasures := pt.domMeasures, bootTries := tries }

/-- A partition's trees, waiting writes and key slots dropped, and its settings at reset. -/
def settingsReset (s : State) (p tries : Nat) : State :=
  State.modPart { s with trees := s.trees.filter (fun (_, t) => decide (t.part ≠ p)), cisternWrites := s.cisternWrites.filter (fun w => decide (w.part ≠ p)),
                         keySlots := s.keySlots.filter fun (_, ks) => !(ks.bound && decide (ks.part = p)) } p fun pt => pt.atReset tries

theorem resetPartition_eq (s : State) (p tries : Nat) : resetPartition s p tries = settingsReset (membersAbsent (framesReturned s p) p) p tries := rfl

theorem partAt_settingsReset (s : State) (p tries q : Nat) :
    partAt (settingsReset s p tries) q = if q = p then (partAt s p).atReset tries else partAt s q := by
  by_cases h : q = p
  · subst h
    rw [settingsReset, partAt_modPart, if_pos rfl]
    rfl
  · rw [settingsReset, partAt_modPart_ne _ _ h, if_neg h]
    rfl

theorem partitionReset_spec {s : State} {part : Nat} (h : (partAt s part).slices ≠ []) : ∃ t, exec (.partitionReset part) s = .next t ∧
    (partAt t part).slices = (partAt s part).slices ∧ (partAt t part).booted = false ∧
    (∀ p, p ≠ part → (partAt t p).slices = (partAt s p).slices ∧ (partAt t p).booted = (partAt s p).booted) ∧
    ((∀ e ∈ s.pot, e.2.setter ≠ some part) → t.mem = s.mem ∧ ∀ p, p ≠ part → partAt t p = partAt s p) ∧ t.trees = s.trees.filter fun e => decide (e.2.part ≠ part) := by
  obtain ⟨hm, hp, ht⟩ := membersAbsent_keeps (framesReturned s part) part
  obtain ⟨hkept, htrees⟩ := framesReturned_keeps s part
  have hat : ∀ q, partAt (membersAbsent (framesReturned s part) part) q = partAt (framesReturned s part) q := fun q => by rw [partAt, partAt, hp]
  have hlog : ∀ (u : State) (n q : Nat), partAt (u.logEvent 2 part n) q = partAt u q := fun _ _ _ => rfl
  have hrun : exec (.partitionReset part) s = .next ((resetPartition s part 9).logEvent 2 part ((partAt s part).slices.headD 0)) := by
    show execPartitionReset part s = _
    rw [execPartitionReset, if_neg (by simpa using h)]
  rw [resetPartition_eq] at hrun
  refine ⟨_, hrun, ?_, ?_, fun p hne => ?_, fun hnone => ⟨?_, fun p hne => ?_⟩, ?_⟩
  · rw [hlog, partAt_settingsReset, if_pos rfl, hat, Partition.atReset, (hkept part).slices]
  · rw [hlog, partAt_settingsReset, if_pos rfl]
    rfl
  · rw [hlog, partAt_settingsReset, if_neg hne, hat]
    exact ⟨(hkept p).slices, (hkept p).booted⟩
  · exact hm.trans (framesReturned_none hnone).1
  · rw [hlog, partAt_settingsReset, if_neg hne, hat, partAt, partAt, (framesReturned_none hnone).2]
  · show (membersAbsent (framesReturned s part) part).trees.filter _ = _
    rw [ht, htrees]

/-! ## The module at reset -/

/-- The firmware that a reset of the module takes into use. -/
def firmwareAfterReset (s : State) : Option FirmwareImage :=
  match s.staged with
  | some i => if imageOk s i then some i else s.firmware
  | none => s.firmware

/-- The rollback counter after a reset of the module. -/
def rollbackAfterReset (s : State) : Nat := match firmwareAfterReset s with | some i => max s.rollback i.version | none => s.rollback

theorem moduleReset_run (s : State) : ∃ t, exec .moduleReset s = .next t ∧ t.rollback = rollbackAfterReset s ∧ t.firmware = firmwareAfterReset s ∧
    t.cores = State.reset.cores ∧ t.log = s.log ∧ t.fuses = s.fuses ∧ t.lifecycle = s.fuses ∧
    t.mem = s.mem.filter fun q => decide (paKind q.1 = 2) || decide (paKind q.1 = 3) :=
  ⟨_, rfl, rfl, rfl, rfl, rfl, rfl, rfl, rfl⟩

theorem rollback_le_afterReset (s : State) : s.rollback ≤ rollbackAfterReset s := by
  unfold rollbackAfterReset
  split
  · exact Nat.le_max_left _ _
  · exact Nat.le_refl _

theorem staged_taken {s : State} {i : FirmwareImage} (hi : s.staged = some i) (hok : imageOk s i = true) :
    firmwareAfterReset s = some i ∧ i.version ≤ rollbackAfterReset s := by
  have hfw : firmwareAfterReset s = some i := by simp only [firmwareAfterReset, hi, hok, if_true]
  refine ⟨hfw, ?_⟩
  simp only [rollbackAfterReset, hfw]
  exact Nat.le_max_right _ _

theorem cellRead_filter_key (m : List Host.Cell) (p : Nat → Bool) (a : Nat) : cellRead (m.filter fun q => p q.1) a = if p a then cellRead m a else 0 := by
  rw [cellRead, AMap.getD, AMap.get?_filter_key m p a]
  split <;> rfl

/-- Settles O60: the states that forming and resetting a partition run through, each with what it leaves; the controller's events by their equations. -/
theorem managementSteps : Obligations.ManagementSteps := by
  unfold Obligations.ManagementSteps
  refine ⟨fun s part rect boot hpart hfree hrect hlife hns => ⟨_, partitionForm_run boot hpart hfree hrect hlife hns, ?form⟩, fun s part hslices hboot htries hlife => ?retry,
    fun s part h => partitionReset_spec h, fun s n reading hn htemp => ?sensor, fun s q => ?quota, fun s w => ?limit, fun s i => ?image, fun s => ?module⟩
  case form =>
    have hpart' := partitionFormed_part (s := s) (part := part) (rectSlices rect)
    have hgood := partitionFormed_loaderGood (s := s) (part := part) (rectSlices rect)
    cases boot with
    | failed =>
      refine ⟨by rw [hpart']; rfl, fun n hn _ => partitionFormed_slice hn, fun _ => ⟨by rw [hpart']; rfl, by rw [hpart']; rfl,
        fun a ha => partitionFormed_hbm _ ha, fun r a hr hn ha => partitionFormed_cistern hr hn ha⟩, fun _ _ h => nomatch h⟩
    | loader bytes digest =>
      dsimp only
      rw [hgood]
      split
      next hl =>
        obtain ⟨hm, hs, hsl, hbt⟩ := bootWith_leaves (partitionFormed s part (rectSlices rect)) part bytes digest
        refine ⟨hsl.trans (by rw [hpart']; rfl), fun n hn _ => ?_, (nomatch ·), fun bytes' digest' h _ => ?_⟩
        · rw [sliceAt, hs]
          exact partitionFormed_slice hn
        · obtain ⟨rfl, rfl⟩ := BootResult.loader.inj h
          refine ⟨hbt.trans hl.symm, fun _ => ?_⟩
          rw [hm]
          exact cellsRead_cellsWrite _ _ _
      next hl =>
        refine ⟨by rw [hpart']; rfl, fun n hn _ => partitionFormed_slice hn, (nomatch ·), fun bytes' digest' h _ => ?_⟩
        obtain ⟨rfl, rfl⟩ := BootResult.loader.inj h
        refine ⟨?_, fun h => absurd h hl⟩
        rw [hpart', Bool.eq_false_iff.mpr hl]
        rfl
  case retry =>
    refine ⟨fun bytes digest hl => bootRetry_boots hslices hboot htries hlife hl, fun boot hbad => ⟨_, bootRetry_fails hslices hboot htries hlife hbad, ?_⟩⟩
    have hlog : ∀ (u : State) (c : Prop) [Decidable c], (if c then u.logEvent 3 part ((partAt s part).slices.headD 0) else u).mem = u.mem ∧
        partAt (if c then u.logEvent 3 part ((partAt s part).slices.headD 0) else u) part = partAt u part := fun u c _ => by
      split <;> exact ⟨rfl, rfl⟩
    rw [retryFailed, (hlog _ _).1, (hlog _ _).2, partAt_modPart]
    exact ⟨rfl, rfl⟩
  case sensor =>
    obtain ⟨hm, hc, hs⟩ := sensorRead_leaves s n reading
    refine ⟨_, sensorSample_run hn htemp, hm, hc, ?_, fun m hne => ?_⟩
    · rw [sliceAt, hs]
      exact sliceAt_modSlice s n _
    · rw [sliceAt, hs]
      exact sliceAt_modSlice_ne s _ (Ne.symm hne)
  case quota =>
    show execPowerQuotaUpdate q s = _
    rw [execPowerQuotaUpdate]
    split <;> rfl
  case limit =>
    refine ⟨fun hw => ⟨_, if_pos hw, rfl, rfl, rfl⟩, fun hw => ?_⟩
    show execPowerLimitSet w s = _
    rw [execPowerLimitSet, if_neg (by omega)]
  case image =>
    have hok : imageOk s i = true ↔ i.ecdsaOk ∧ i.lmsOk ∧ i.bodyOk ∧ s.rollback ≤ i.version ∧ i.version ≤ 63 := by
      simp only [imageOk, Bool.and_eq_true, decide_eq_true_eq, and_assoc]
    refine ⟨_, rfl, ?_⟩
    by_cases hi : imageOk s i = true
    · rw [if_pos hi, if_pos (hok.mp hi)]
      exact ⟨rfl, rfl, rfl⟩
    · rw [if_neg hi, if_neg fun h => hi (hok.mpr h)]
      exact ⟨rfl, rfl, rfl⟩
  case module =>
    obtain ⟨t, hrun, hroll, hfw, hcores, hlog, hfuses, hlife, hmem⟩ := moduleReset_run s
    refine ⟨t, hrun, hroll ▸ rollback_le_afterReset s, fun i hi hok => ?_, fun hnone => ?_, hcores, hlog, hfuses, hlife, fun a => ?_⟩
    · rw [hfw, hroll]
      exact staged_taken hi hok
    · rw [hfw, firmwareAfterReset, hnone]
    · rw [hmem, cellRead_filter_key _ fun a => decide (paKind a = 2) || decide (paKind a = 3)]
      simp only [Bool.or_eq_true, decide_eq_true_eq]

end Sys2Proof.Machine

/-! SUPPORT. Sys2Proof/Machine/Step.lean and Schedule.lean: what a step runs (R15, R36, R127). -/

namespace Sys2Proof.Machine

open Sys2Proof.Safety

/-! ## The gang chosen for the cycle -/

theorem step_issues {s : State} {cur : Cursor} {rest : List Cursor} (ha : s.agenda = []) (hp : s.pair = cur :: rest) : step s = issue { s with pair := rest } cur := by
  simp only [step, ha, hp]

section
variable {s : State} {cur : Cursor} {x : Ctx} (hx : ctxOf { s with cur := cur } = some x)
include hx

theorem fetchWords_hit {e : TlbEntry} (hhit : tlbLook x.c x.did x.gn.pc = .hit e) :
    fetchWords x = (ctlThrough x.s x.part e x.gn.pc, memWord s (physKey x.part (e.paOf x.gn.pc))) := by
  have hmem : memWord x.s = memWord s := by rw [(ctxOf_some hx).1]; rfl
  rw [fetchWords, hhit, hmem]

section
variable {e : TlbEntry} (hhit : tlbLook x.c x.did x.gn.pc = .hit e) (he : e.x = true) {w : Word} (hw : memWord s (physKey x.part (e.paOf x.gn.pc)) = w)
include hhit he hw

theorem issue_runs {i : Instr} (hi : decode w = .ok i) : issue s cur = exec i { s with cur := cur, insn := w, ctl := ctlThrough x.s x.part e x.gn.pc } := by
  simp only [issue, hx, fetch, hhit, he, if_true, fetchWords_hit hx hhit, hw, hi]

theorem issue_badWord {err : DecodeError} (herr : decode w = .error err) :
    issue s cur = run { s with cur := cur, insn := w, ctl := ctlThrough x.s x.part e x.gn.pc } (badWord w err) := by
  simp only [issue, hx, fetch, hhit, he, if_true, fetchWords_hit hx hhit, hw, herr]

end

/-- On a compute core a fetch that fails is settled as an instruction's own stop. -/
theorem issue_unfetched (hk : isCompute x.k = true) {st : Stop} (hf : fetch x = .error st) {ctl insn : Word} (hw : fetchWords x = (ctl, insn)) :
    issue s cur = settle { x with s := { s with cur := cur, insn := insn, ctl := ctl } } (.error st) := by
  simp only [issue, hx, hf, hw]
  cases st
  case trap t => exact if_neg (by simp [hk])
  all_goals rfl

end

/-- Settles O1: the branches of step, and those of issue by what the TLB answers for the program counter. -/
theorem stepRunsDecoded : Obligations.StepRunsDecoded := by
  unfold Obligations.StepRunsDecoded
  refine ⟨fun s cur rest x e ha hp hx hhit he => ?decoded, fun s i rest ha => ?agenda, fun s ha hp ht => ?cycle, fun s ha hp ht => ?event,
    fun s cur rest x ha hp hx hk => ?unfetched⟩
  case decoded =>
    intro w u
    refine ⟨fun i hi => ?_, fun err herr => ?_⟩
    · rw [step_issues ha hp]
      exact issue_runs hx hhit he rfl hi
    · rw [step_issues ha hp]
      exact issue_badWord hx hhit he rfl herr
  case agenda => simp only [step, ha]
  case cycle =>
    refine ⟨fun t cur rest hb => ?_, fun t hb => ?_⟩
    all_goals simp only [step, ha, hp, ht, if_true, hb]
  case event =>
    refine ⟨fun f hf => ?_, fun hf => ?_⟩
    all_goals simp only [step, ha, hp, ht, Nat.one_ne_zero, if_false, hf]
  case unfetched =>
    intro u y
    refine ⟨fun hmiss => ?_, fun hcan => ?_, fun e hhit he => ?_⟩
    · rw [step_issues ha hp]
      exact issue_unfetched (s := { s with pair := rest }) hx hk (by rw [fetch, hmiss]) (by rw [fetchWords, hmiss])
    · rw [step_issues ha hp]
      exact issue_unfetched (s := { s with pair := rest }) hx hk (by rw [fetch, hcan]) (by rw [fetchWords, hcan])
    · rw [step_issues ha hp]
      exact issue_unfetched (s := { s with pair := rest }) hx hk (by rw [fetch, hhit]; exact if_neg (by simp [he])) (fetchWords_hit (s := { s with pair := rest }) hx hhit)

end Sys2Proof.Machine

/-! SUPPORT. Sys2Proof/Decode.lean: which codes are instructions (R36); the state at reset. -/

namespace Sys2Proof.Machine

open Sys2Proof.Safety

/-! ## Codes of the instruction table -/

/-- The codes of the instruction table (R36). -/
def ListedOp (op : Nat) : Prop :=
  op ≤ 0x0F ∨ (0x10 ≤ op ∧ op ≤ 0x3D) ∨ (0x40 ≤ op ∧ op ≤ 0x4F) ∨ (0x50 ≤ op ∧ op ≤ 0x5F) ∨ (0x60 ≤ op ∧ op ≤ 0x7E) ∨ (0x80 ≤ op ∧ op ≤ 0x8C) ∨ (0x90 ≤ op ∧ op ≤ 0x9A) ∨
    (0xA0 ≤ op ∧ op ≤ 0xA8) ∨ (0xB0 ≤ op ∧ op ≤ 0xB3) ∨ (0xC0 ≤ op ∧ op ≤ 0xCF)

theorem decodeTlbi_ne_opcode (kind : Nat) (w : Word) : decodeTlbi kind w ≠ .error .opcode := by
  unfold decodeTlbi
  split <;> nofun

/-- A listed code decodes, or a field of its word is refused: PLOG, MRD and TLBI refuse some. -/
theorem decodeOp_listed {op : Nat} (w : Word) (h : ListedOp op) : decodeOp op w ≠ .error .opcode := by
  rcases h with h | ⟨h, h'⟩ | ⟨h, h'⟩ | ⟨h, h'⟩ | ⟨h, h'⟩ | ⟨h, h'⟩ | ⟨h, h'⟩ | ⟨h, h'⟩ | ⟨h, h'⟩ | ⟨h, h'⟩
  case inr.inl =>
    rcases lt_trichotomy op 0x2F with hlt | rfl | hgt
    · interval_cases op <;> nofun
    · change (if w.getLsbD 23 then _ else _) ≠ Except.error DecodeError.opcode
      split <;> nofun
    · interval_cases op <;> nofun
  case inr.inr.inr.inr.inr.inr.inl =>
    rcases lt_trichotomy op 0x94 with hlt | rfl | hgt
    · interval_cases op <;> nofun
    · change (if w.extractLsb' 18 6 = 0 then _ else _) ≠ Except.error DecodeError.opcode
      split <;> nofun
    · interval_cases op <;> nofun
  case inr.inr.inr.inr.inr.inr.inr.inr.inr =>
    rcases lt_trichotomy op 0xC7 with hlt | rfl | hgt
    · interval_cases op <;> nofun
    · exact decodeTlbi_ne_opcode _ w
    · interval_cases op <;> nofun
  all_goals interval_cases op <;> nofun

theorem decodeOp_unlisted {op : Nat} (w : Word) (hop : op < 256) (h : ¬ ListedOp op) : decodeOp op w = .error .opcode := by
  have hgap : op = 0x3E ∨ op = 0x3F ∨ op = 0x7F ∨ (0x8D ≤ op ∧ op ≤ 0x8F) ∨ (0x9B ≤ op ∧ op ≤ 0x9F) ∨ (0xA9 ≤ op ∧ op ≤ 0xAF) ∨ (0xB4 ≤ op ∧ op ≤ 0xBF) ∨ 0xD0 ≤ op := by
    simp only [ListedOp] at h
    omega
  rcases hgap with rfl | rfl | rfl | ⟨hl, hu⟩ | ⟨hl, hu⟩ | ⟨hl, hu⟩ | ⟨hl, hu⟩ | hl
  iterate 3 rfl
  all_goals interval_cases op <;> rfl

/-- Settles O2: the words by evaluation of the decoder; the listed codes range by range. -/
theorem decodeWords : Obligations.DecodeWords := by
  unfold Obligations.DecodeWords
  refine ⟨rfl, rfl, rfl, rfl, rfl, rfl, rfl, rfl, rfl, rfl, rfl, rfl, rfl, rfl, rfl, rfl, rfl, rfl, rfl, rfl, rfl, rfl, rfl, rfl, fun w => ?_⟩
  exact ⟨fun h hl => decodeOp_listed w hl h, decodeOp_unlisted w (BitVec.isLt _)⟩

/-! ## The module at reset -/

/-- Settles O3: the fields of the reset state. -/
theorem resetState : Obligations.ResetState := by
  unfold Obligations.ResetState
  refine ⟨rfl, fun a => rfl, fun p => rfl, fun n => ⟨rfl, rfl⟩, fun k => ⟨rfl, rfl, rfl, rfl, rfl, rfl, rfl, rfl, rfl, rfl, rfl, fun w => rfl⟩, fun pa => ⟨rfl, rfl⟩, rfl, fun r l => ⟨rfl, rfl⟩⟩

end Sys2Proof.Machine

/-! SUPPORT. The order of the common faults (R38): what `check` stops with, and how an instruction whose body begins with it is settled. -/

namespace Sys2Proof.Machine

open Sys2Proof.Safety

/-! ## The first fault of a form -/

/-- A stop that is not the poison-consumed fault, to which an access adds its lanes and address (R90). -/
def Stop.plain : Stop → Bool
  | .trap t => decide (t.cause ≠ 0x11)
  | _ => true

/-- An outcome that is what the checks of a form stop with, poison apart. -/
def StopsAs (x : Ctx) (f : Form) (o : Host.Outcome State Fault Refusal) : Prop :=
  ∀ st, check x f = .error st → st.plain = true → o = settle x (.error st)

theorem profileFault_plain {k op c : Nat} (h : profileFault k op = some c) : c ≠ 0x11 := by
  unfold profileFault at h
  split at h
  · obtain rfl := Option.some.inj h
    decide
  split at h
  · split at h <;> cases h
    decide
  split at h
  · cases h
    decide
  split at h <;> cases h
  decide

section
variable {x : Ctx} {f : Form} {o : Host.Outcome State Fault Refusal} (h : StopsAs x f o)
include h

theorem StopsAs.trap {t : Trap} (hc : check x f = .error (.trap t)) (hp : t.cause ≠ 0x11) : o = .next (dropAllRefusals (takeTrap x t) x.k) :=
  h _ hc (decide_eq_true hp)

theorem StopsAs.held (hc : check x f = .error (.hold .register)) : o = .next (x.setStatus (.held .register)) := h _ hc rfl

/-- The checks of R38 in their order, the first that fails being the outcome. -/
theorem StopsAs.order (hidx : f.indexed = none) :
    (2 ≤ bitsW x.s.ctl 31 30 → o = .next (dropAllRefusals (takeTrap x { cause := 0x02 }) x.k)) ∧
    (bitsW x.s.ctl 31 30 < 2 →
      (∀ c, profileFault x.k f.op = some c → o = .next (dropAllRefusals (takeTrap x { cause := c }) x.k)) ∧
      (profileFault x.k f.op = none → (earlyHit x f = true → o = .next (x.setStatus (.held .register))) ∧ (earlyHit x f = false →
        (operandOk x f = false → o = .next (dropAllRefusals (takeTrap x { cause := 0x03 }) x.k)) ∧
        (operandOk x f = true →
          (latchMissing x f ≠ 0 → o = .next (dropAllRefusals (takeTrap x { cause := 0x03, lanes := some (latchMissing x f) }) x.k)) ∧
          (latchMissing x f = 0 →
            (boundOk x f = false → o = .next (dropAllRefusals (takeTrap x { cause := 0x06 }) x.k)) ∧
            (boundOk x f = true →
              (f.typed = false → o = .next (dropAllRefusals (takeTrap x { cause := 0x05 }) x.k)) ∧
              (f.typed = true →
                (edgeMissing x f ≠ 0 → o = .next (dropAllRefusals (takeTrap x { cause := 0x05, lanes := some (edgeMissing x f) }) x.k)) ∧
                (edgeMissing x f = 0 →
                  (stallShort x f = true → o = .next (dropAllRefusals (takeTrap x { cause := 0x0B }) x.k)) ∧
                  (stallShort x f = false → pendingHit x f = true → o = .next (x.setStatus (.held .register))))))))))) := by
  have hindex : indexOut x f = 0 := by rw [indexOut, hidx]
  refine ⟨fun hb => h.trap ?_ (by decide), fun hb => ⟨fun c hc => h.trap ?_ (profileFault_plain hc), fun hprof => ⟨fun he => h.held ?_, fun he =>
    ⟨fun ho => h.trap ?_ (by decide), fun ho => ⟨fun hl => h.trap ?latch (show 3 ≠ 0x11 by decide), fun hl => ⟨fun hbd => h.trap ?_ (by decide), fun hbd =>
    ⟨fun ht => h.trap ?_ (by decide), fun ht => ⟨fun hed => h.trap ?edge (show 5 ≠ 0x11 by decide), fun hed => ⟨fun hs => h.trap ?_ (by decide), fun hs hp => h.held ?_⟩⟩⟩⟩⟩⟩⟩⟩⟩
  case latch => simp [check, need, bind, Except.bind, show ¬ latchMissing x f = 0#32 from hl, *]
  case edge => simp [check, need, bind, Except.bind, show ¬ edgeMissing x f = 0#32 from hed, *]
  · simp [check, need, show ¬ bitsW x.s.ctl 31 30 < 2 by omega, bind, Except.bind]
  all_goals simp [check, need, bind, Except.bind, trapOf, *]

end

/-! ## Bodies that begin with the checks -/

/-- An access's checks stop as the form's do, poison apart. -/
theorem checkMem_plain {x : Ctx} {f : Form} {st : Stop} (va : Nat → DWord) (hc : check x f = .error st) (hp : st.plain = true) : checkMem x f va = .error st := by
  rw [checkMem, hc]
  cases st with
  | trap t => exact if_neg (of_decide_eq_true hp)
  | _ => rfl

section
variable {s : State} {x : Ctx} (hx : ctxOf s = some x)
include hx

/-- A body whose checks fail first is settled by their stop. -/
theorem stopsAs_check {body : Ctx → Except Stop State} {f : Form} {k : Unit → Except Stop State} (hb : body x = check x f >>= k) : StopsAs x f (run s body) := by
  intro st hc _
  rw [run, hx]
  simp only [hb, hc]
  rfl

theorem stopsAs_checkMem {body : Ctx → Except Stop State} {f : Form} {va : Nat → DWord} {k : Unit → Except Stop State} (hb : body x = checkMem x f va >>= k) :
    StopsAs x f (run s body) := by
  intro st hc hp
  rw [run, hx]
  simp only [hb, checkMem_plain va hc hp]
  rfl

theorem stopsAs_checkMq {body : Ctx → Except Stop State} {f : Form} {k : Unit → Except Stop State} (hb : body x = checkMq x f >>= k) : StopsAs x f (run s body) := by
  intro st hc _
  rw [run, hx]
  simp only [hb, checkMq, hc]
  rfl

end

/-! ## The rows of the families -/

/-- A row's instruction stops as its form's checks do, and its form names no register by number. -/
structure RowStops (s : State) (x : Ctx) (r : Instr × Form) : Prop where
  stops : StopsAs x r.2 (exec r.1 s)
  indexed : r.2.indexed = none

section
variable {s : State} {x : Ctx} (hx : ctxOf s = some x)
include hx

theorem rowStops_check {r : Instr × Form} {body : Ctx → Except Stop State} {k : Unit → Except Stop State} (hi : exec r.1 s = run s body)
    (hb : body x = check x r.2 >>= k) (hn : r.2.indexed = none) : RowStops s x r :=
  ⟨hi ▸ stopsAs_check hx hb, hn⟩

theorem rowStops_checkMem {r : Instr × Form} {body : Ctx → Except Stop State} {va : Nat → DWord} {k : Unit → Except Stop State} (hi : exec r.1 s = run s body)
    (hb : body x = checkMem x r.2 va >>= k) (hn : r.2.indexed = none) : RowStops s x r :=
  ⟨hi ▸ stopsAs_checkMem hx hb, hn⟩

theorem rowStops_checkMq {r : Instr × Form} {body : Ctx → Except Stop State} {k : Unit → Except Stop State} (hi : exec r.1 s = run s body)
    (hb : body x = checkMq x r.2 >>= k) (hn : r.2.indexed = none) : RowStops s x r :=
  ⟨hi ▸ stopsAs_checkMq hx hb, hn⟩

theorem elementRows_stop (d a b : Reg) : ∀ r ∈ elementRows x d a b, RowStops s x (r.1, r.2.1) := by
  simp only [elementRows, List.forall_mem_cons, List.not_mem_nil, false_implies, implies_true, and_true]
  repeat' apply And.intro
  all_goals exact rowStops_check hx rfl rfl rfl

theorem operandRows_stop (d a b : Reg) (n : BitVec 16) (c : BitVec 8) : ∀ r ∈ operandRows x d a b n c, RowStops s x (r.1, r.2.1) := by
  simp only [operandRows, List.forall_mem_cons, List.not_mem_nil, false_implies, implies_true, and_true]
  repeat' apply And.intro
  all_goals exact rowStops_check hx rfl rfl rfl

theorem scalarRows_stop (d a b : Reg) (n : BitVec 16) : ∀ r ∈ scalarRows x d a b n, RowStops s x (r.1, r.2.1) := by
  simp only [scalarRows, List.forall_mem_cons, List.not_mem_nil, false_implies, implies_true, and_true]
  repeat' apply And.intro
  all_goals exact rowStops_check hx rfl rfl rfl

/-- TLBI's form, by the fields that its kind takes. -/
theorem tlbiDom_stops (a : Reg) : RowStops s x (.tlbiDom a, { op := 0xC7, classes := Reg.unif a, guard := false, once := true, more := [(a, 1)] }) := by
  have hform : RowStops s x (.tlbiDom a, { op := 0xC7, classes := Reg.unif a && true, guard := false, once := true, more := [(a, 1)] ++ [] }) :=
    rowStops_check hx rfl rfl rfl
  rwa [Bool.and_true] at hform

theorem systemRows_stop (d a b : Reg) (off c : BitVec 8) (n : BitVec 16) (clr set : Bool) : ∀ r ∈ systemRows x d a b off c n clr set, RowStops s x r := by
  simp only [systemRows, loadRows, storeRows, List.forall_mem_append, List.forall_mem_map, List.forall_mem_cons, List.not_mem_nil, false_implies, implies_true, and_true]
  refine ⟨⟨?loads, ?stores⟩, ?others⟩
  case loads =>
    repeat' apply And.intro
    all_goals exact rowStops_checkMem hx rfl rfl rfl
  case stores =>
    repeat' apply And.intro
    all_goals exact rowStops_checkMem hx rfl rfl rfl
  case others =>
    -- the scratchpad, SLD and SST; PREF; the atomics and RED; copies and barriers; WATCH
    iterate 8 refine ⟨rowStops_checkMem hx rfl rfl rfl, ?_⟩
    refine ⟨rowStops_check hx rfl rfl rfl, ?_⟩
    iterate 9 refine ⟨rowStops_checkMem hx rfl rfl rfl, ?_⟩
    iterate 8 refine ⟨rowStops_check hx rfl rfl rfl, ?_⟩
    refine ⟨rowStops_checkMem hx rfl rfl rfl, ?_⟩
    -- WSLEEP, fences, PACK and UNPACK; the matrix instructions
    iterate 8 refine ⟨rowStops_check hx rfl rfl rfl, ?_⟩
    iterate 8 refine ⟨rowStops_checkMq hx rfl rfl rfl, ?_⟩
    -- MSTAT, the engines, gates and the supervisor's instructions up to TLBI
    iterate 22 refine ⟨rowStops_check hx rfl rfl rfl, ?_⟩
    refine ⟨tlbiDom_stops hx a, ?_⟩
    iterate 9 refine ⟨rowStops_check hx rfl rfl rfl, ?_⟩
    exact rowStops_check hx rfl rfl rfl

end

/-! ## What a fault changes -/

/-- What a trap of a warp leaves: the gangs and the registers of the warp, and the warps, scratchpad and control registers of every other core. -/
structure TrapLeaves (k w : Nat) (s t : State) : Prop where
  gangs : ∀ g, gangAt t k w g = gangAt s k w g
  regs : (warpAt t k w).map (fun wp => (wp.vregs, wp.sregs, wp.preds, wp.lc, wp.sc, wp.ec)) = (warpAt s k w).map fun wp => (wp.vregs, wp.sregs, wp.preds, wp.lc, wp.sc, wp.ec)
  others : ∀ j, j ≠ k → (coreAt t j).warps = (coreAt s j).warps ∧ (coreAt t j).scratch = (coreAt s j).scratch ∧ (coreAt t j).svc = (coreAt s j).svc

namespace TrapLeaves

variable {k w : Nat}

theorem refl (s : State) : TrapLeaves k w s s := ⟨fun _ => rfl, rfl, fun _ _ => ⟨rfl, rfl, rfl⟩⟩

theorem trans {s t u : State} (h : TrapLeaves k w s t) (h' : TrapLeaves k w t u) : TrapLeaves k w s u := by
  refine ⟨fun g => (h'.gangs g).trans (h.gangs g), h'.regs.trans h.regs, fun j hj => ?_⟩
  obtain ⟨hw, hs, hv⟩ := h.others j hj
  obtain ⟨hw', hs', hv'⟩ := h'.others j hj
  exact ⟨hw'.trans hw, hs'.trans hs, hv'.trans hv⟩

/-- Cores whose warps, scratchpads and control registers are the same. -/
theorem of_cores {s t : State} (h : ∀ j, (coreAt t j).warps = (coreAt s j).warps ∧ (coreAt t j).scratch = (coreAt s j).scratch ∧ (coreAt t j).svc = (coreAt s j).svc) :
    TrapLeaves k w s t := by
  have hwarp : warpAt t k w = warpAt s k w := by rw [warpAt, (h k).1, warpAt]
  exact ⟨fun g => by rw [gangAt, hwarp, gangAt], by rw [hwarp], fun j _ => h j⟩

theorem modCore (s : State) (j : Nat) (f : Core → Core) (h : ∀ c, (f c).warps = c.warps ∧ (f c).scratch = c.scratch ∧ (f c).svc = c.svc) :
    TrapLeaves k w s (s.modCore j f) := by
  refine of_cores fun i => ?_
  rw [coreAt_modCore']
  split
  next hi => exact hi ▸ h _
  next => exact ⟨rfl, rfl, rfl⟩

theorem modWarp (s : State) (f : Warp → Warp)
    (h : ∀ wp, (f wp).gangs = wp.gangs ∧ (f wp).vregs = wp.vregs ∧ (f wp).sregs = wp.sregs ∧ (f wp).preds = wp.preds ∧ (f wp).lc = wp.lc ∧ (f wp).sc = wp.sc ∧ (f wp).ec = wp.ec) :
    TrapLeaves k w s (s.modWarp k w f) := by
  refine ⟨fun g => gangAt_modWarp (fun wp => (h wp).1) k w g, ?_, fun j hj => ?_⟩
  · rw [warpAt_modWarp, Option.map_map]
    refine congrArg (Option.map · _) (funext fun wp => ?_)
    obtain ⟨-, hv, hs, hp, hl, hst, he⟩ := h wp
    simp only [Function.comp_apply, if_true, hv, hs, hp, hl, hst, he]
  · rw [State.modWarp, coreAt_modCore_ne s _ (Ne.symm hj)]
    exact ⟨rfl, rfl, rfl⟩

theorem foldl {α : Type} {f : State → α → State} (hf : ∀ s a, TrapLeaves k w s (f s a)) (l : List α) (s : State) : TrapLeaves k w s (l.foldl f s) := by
  induction l generalizing s with
  | nil => exact refl s
  | cons a l ih => exact trans (hf s a) (ih _)

theorem fireIf (s : State) (p bit : Nat) : TrapLeaves k w s (fireIf s p bit) := by
  unfold Machine.fireIf fireTrigger
  split
  · split
    · exact refl s
    · refine trans (of_cores (t := s.modPart p fun pt => { pt with fired := true }) fun _ => ⟨rfl, rfl, rfl⟩) ?_
      refine foldl (fun u j => ?_) _ _
      exact modCore u j _ fun _ => ⟨rfl, rfl, rfl⟩
  · exact refl s

theorem publishAt (s : State) (slice part scope : Nat) (p : Publication) : TrapLeaves k w s (publishAt s slice part scope p) := by
  unfold Machine.publishAt
  split <;> exact of_cores fun _ => ⟨rfl, rfl, rfl⟩

theorem writeRecord (s : State) (d : Deferred) : TrapLeaves k w s (writeRecord s k w d) := by
  unfold Machine.writeRecord
  split
  · exact refl s
  · split
    · exact refl s
    · refine trans ?_ (modWarp _ _ fun _ => ⟨rfl, rfl, rfl, rfl, rfl, rfl, rfl⟩)
      refine trans (trans ?_ (publishAt _ _ _ _ _)) (of_cores fun _ => ⟨rfl, rfl, rfl⟩)
      exact of_cores fun _ => ⟨rfl, rfl, rfl⟩

/-- Once its gang has halted, a compute core's trap leaves these. -/
theorem trapCompute (s : State) (d : Deferred) :
    TrapLeaves k w (s.modGang k w d.entry fun gn => { gn with trapped := true, stepping := false, status := gn.status.beforeHalt }) (trapCompute s k w d) := by
  unfold Machine.trapCompute
  refine trans (fireIf _ (corePart (s.modGang k w d.entry fun gn => { gn with trapped := true, stepping := false, status := gn.status.beforeHalt }) k) 2) ?_
  dsimp only
  split
  · exact refl _
  · split
    · exact modWarp _ _ fun _ => ⟨rfl, rfl, rfl, rfl, rfl, rfl, rfl⟩
    · exact writeRecord _ _

end TrapLeaves

/-- A fault of a compute core's gang halts the gang where it is, and changes no register (R331). -/
theorem takeTrap_leaves {s : State} {x : Ctx} (hx : ctxOf s = some x) (hk : isCompute x.k = true) (t : Trap) :
    let u := dropAllRefusals (takeTrap x t) x.k
    (gangAt u x.k x.w x.g).map (fun gn => (gn.trapped, gn.pc, gn.mask, gn.mode)) = some (true, x.gn.pc, x.gn.mask, x.gn.mode) ∧
    (warpAt u x.k x.w).map (fun wp => (wp.vregs, wp.sregs, wp.preds, wp.lc, wp.sc, wp.ec)) = some (x.wp.vregs, x.wp.sregs, x.wp.preds, x.wp.lc, x.wp.sc, x.wp.ec) ∧
    ∀ k, k ≠ x.k → (coreAt u k).warps = (coreAt x.s k).warps ∧ (coreAt u k).scratch = (coreAt x.s k).scratch ∧ (coreAt u k).svc = (coreAt x.s k).svc := by
  obtain ⟨hs, -, -, -, -, hwarp, hgang⟩ := ctxOf_some hx
  rw [← hs] at hwarp hgang
  let d : Deferred := { entry := x.g, trap := t, pc := x.gn.pc, resume := x.gn.pc, insn := x.s.insn, ctl := x.s.ctl, gmask := x.gn.mask, mode := x.mode, active := x.active }
  have htake : takeTrap x t = trapCompute x.s x.k x.w d := if_pos hk
  intro u
  obtain ⟨hgangs, hregs, hothers⟩ := (TrapLeaves.trapCompute x.s d).trans (TrapLeaves.modCore (trapCompute x.s x.k x.w d) x.k (fun c => { c with refusals := [] }) fun _ => ⟨rfl, rfl, rfl⟩)
  have hu : u = (trapCompute x.s x.k x.w d).modCore x.k fun c => { c with refusals := [] } := by rw [← htake]; rfl
  rw [hu]
  refine ⟨?_, ?_, fun k hne => ?_⟩
  · rw [hgangs x.g, gangAt_modGang, hgang]
    rfl
  · rw [hregs, State.modGang, warpAt_modWarp, hwarp]
    simp only [Option.map_some, if_true]
  · obtain ⟨hw, hsc, hv⟩ := hothers k hne
    rw [hw, hsc, hv, State.modGang, State.modWarp, coreAt_modCore_ne x.s _ (Ne.symm hne)]
    exact ⟨rfl, rfl, rfl⟩

/-- Settles O7: each row's body begins with the checks of its form, whose first failure is the outcome. -/
theorem faultOrder : Obligations.FaultOrder := by
  unfold Obligations.FaultOrder
  intro s x d a b off c n clr set hx
  refine ⟨fun r hr => ?_, fun t hk => takeTrap_leaves hx hk t⟩
  have hrow : RowStops s x r := by
    simp only [List.mem_append, List.mem_map] at hr
    rcases hr with ((⟨q, hq, rfl⟩ | ⟨q, hq, rfl⟩) | ⟨q, hq, rfl⟩) | hr
    · exact elementRows_stop hx d a b q hq
    · exact operandRows_stop hx d a b n c q hq
    · exact scalarRows_stop hx d a b n q hq
    · exact systemRows_stop hx d a b off c n clr set r hr
  exact hrow.stops.order hrow.indexed

end Sys2Proof.Machine

/-! SUPPORT. Memory's canonical form (log entry 2): what each operation of the machine does to memory. An operation that writes none has an equation of its
memory; one that writes some keeps the form. -/

namespace Sys2Proof.Machine

open Sys2Proof.Safety

@[simp] theorem foldl_mem {α : Type} {f : State → α → State} (h : ∀ s a, (f s a).mem = s.mem) (l : List α) (s : State) : (l.foldl f s).mem = s.mem := by
  induction l generalizing s with
  | nil => rfl
  | cons a l ih => exact (ih _).trans (h s a)

/-! Folds over the changes that leave memory. -/

section
variable {α : Type} (l : List α) (s : State) (n m g : State → α → Nat)

@[simp] theorem foldl_modCore_mem (f : State → α → Core → Core) : (l.foldl (fun s a => s.modCore (n s a) (f s a)) s).mem = s.mem := foldl_mem (f := fun s a => s.modCore (n s a) (f s a)) (fun _ _ => rfl) l s
@[simp] theorem foldl_modSlice_mem (f : State → α → Slice → Slice) : (l.foldl (fun s a => s.modSlice (n s a) (f s a)) s).mem = s.mem := foldl_mem (f := fun s a => s.modSlice (n s a) (f s a)) (fun _ _ => rfl) l s
@[simp] theorem foldl_modPart_mem (f : State → α → Partition → Partition) : (l.foldl (fun s a => s.modPart (n s a) (f s a)) s).mem = s.mem := foldl_mem (f := fun s a => s.modPart (n s a) (f s a)) (fun _ _ => rfl) l s
@[simp] theorem foldl_modWarp_mem (f : State → α → Warp → Warp) : (l.foldl (fun s a => s.modWarp (n s a) (m s a) (f s a)) s).mem = s.mem := foldl_mem (f := fun s a => s.modWarp (n s a) (m s a) (f s a)) (fun _ _ => rfl) l s
@[simp] theorem foldl_modGang_mem (f : State → α → Gang → Gang) : (l.foldl (fun s a => s.modGang (n s a) (m s a) (g s a) (f s a)) s).mem = s.mem := foldl_mem (f := fun s a => s.modGang (n s a) (m s a) (g s a) (f s a)) (fun _ _ => rfl) l s

end

@[simp] theorem setWarp_mem (x : Ctx) (wp : Warp) : (Ctx.setWarp x wp).mem = x.s.mem := by rfl

@[simp] theorem ctxModGang_mem (x : Ctx) (f : Gang → Gang) : (Ctx.modGang x f).mem = x.s.mem := by rfl

@[simp] theorem publishAt_mem (s : State) (slice part scope : Nat) (p : Publication) : (publishAt s slice part scope p).mem = s.mem := by
  unfold publishAt
  split <;> rfl

@[simp] theorem fireTrigger_mem (s : State) (p : Nat) (tag : Word) : (fireTrigger s p tag).mem = s.mem := by
  unfold fireTrigger
  split <;> simp

@[simp] theorem fireIf_mem (s : State) (p bit : Nat) : (fireIf s p bit).mem = s.mem := by
  unfold fireIf
  split <;> simp

@[simp] theorem leaveTvec_mem (s : State) (k w g : Nat) : (leaveTvec s k w g).mem = s.mem := by rfl

@[simp] theorem queueMiss_mem (s : State) (k : Nat) (did : BitVec 16) (va : DWord) : (queueMiss s k did va).mem = s.mem := by rfl

@[simp] theorem setStatus_mem (x : Ctx) (st : GangStatus) : (Ctx.setStatus x st).mem = x.s.mem := by rfl

@[simp] theorem dropAllRefusals_mem (s : State) (k : Nat) : (dropAllRefusals s k).mem = s.mem := by rfl

@[simp] theorem dropRefusals_mem (s : State) (k : Nat) (addr : DWord) : (dropRefusals s k addr).mem = s.mem := by rfl

@[simp] theorem beginWait_mem (x : Ctx) (f : Form) (s : State) (c : WaitCause) : (beginWait x f s c).mem = s.mem := by rfl

@[simp] theorem countDownAt_mem (s : State) (k w age : Nat) (c : Counter) : (countDownAt s k w age c).mem = s.mem := by rfl

@[simp] theorem reportError_mem (s : State) (slice pa : Nat) : (reportError s slice pa).mem = s.mem := by rfl

@[simp] theorem dispositionStore_mem (s : State) (key n : Nat) : (dispositionStore s key n).mem = s.mem := by
  unfold dispositionStore
  refine foldl_mem (fun s e => ?_) _ _
  dsimp only
  (repeat' split) <;> rfl

@[simp] theorem dropDisposals_mem (s : State) (k : Nat) (gone : Nat → Bool) : (dropDisposals s k gone).mem = s.mem := by rfl

@[simp] theorem pushAccess_mem (s : State) (k : Nat) (ac : Access) : (pushAccess s k ac).mem = s.mem := by rfl

@[simp] theorem markRead_mem (s : State) (tree : Option Nat) (keys : List Nat) : (markRead s tree keys).mem = s.mem := by
  unfold markRead
  split <;> rfl

@[simp] theorem modAccess_mem (s : State) (k id : Nat) (f : Access → Access) : (State.modAccess s k id f).mem = s.mem := by rfl

@[simp] theorem dropAccess_mem (s : State) (k id : Nat) : (dropAccess s k id).mem = s.mem := by rfl

@[simp] theorem flushEntries_mem (s : State) (k : Nat) (p : CombineEntry → Bool) : (flushEntries s k p).mem = s.mem := by
  simp [flushEntries]

@[simp] theorem startLoad_mem (x : Ctx) (kind : AccKind) (dest : Dest) (lanes : List LaneAcc) (l1 : Bool) (hit : Option Nat) : (startLoad x kind dest lanes l1 hit).mem = x.s.mem := by
  unfold startLoad
  split <;> simp

@[simp] theorem markTensors_mem (s : State) (keys : List Nat) : (markTensors s keys).mem = s.mem := by
  unfold markTensors
  refine foldl_mem (fun s a => ?_) _ _
  (repeat' split) <;> simp

@[simp] theorem startStore_mem (x : Ctx) (lanes : List LaneAcc) (hit : Option Nat) : (startStore x lanes hit).mem = x.s.mem := by
  unfold startStore
  split <;> simp

@[simp] theorem endGreedy_mem (s : State) (k w : Nat) : (endGreedy s k w).mem = s.mem := by rfl

@[simp] theorem modPort_mem (s : State) (n : Nat) (f : Port → Port) : (State.modPort s n f).mem = s.mem := by rfl

@[simp] theorem rotatePort_mem (s : State) (n : Nat) : (rotatePort s n).mem = s.mem := by rfl

@[simp] theorem sendPacket_mem (s : State) (port : Nat) (pkt : Packet) : (sendPacket s port pkt).mem = s.mem := by
  unfold sendPacket
  split <;> rfl

@[simp] theorem sendRequest_mem (s : State) (key : Nat) (pkt : Packet) : (sendRequest s key pkt).mem = s.mem := by
  unfold sendRequest
  split <;> simp

@[simp] theorem modAccWarp_mem (s : State) (k : Nat) (ac : Access) (f : Warp → Warp) : (modAccWarp s k ac f).mem = s.mem := by rfl

@[simp] theorem partOut_mem (s : State) (k : Nat) (ac : Access) (p : LinePart) (pkt : Packet) : (partOut s k ac p pkt).mem = s.mem := by
  unfold partOut
  split <;> simp

@[simp] theorem laneOut_mem (s : State) (k : Nat) (ac : Access) (la : LaneAcc) : (laneOut s k ac la).mem = s.mem := by
  unfold laneOut
  split <;> simp

@[simp] theorem armMonitor_mem (s : State) (k : Nat) (ac : Access) (line : Nat) : (armMonitor s k ac line).mem = s.mem := by
  unfold armMonitor
  split <;> rfl

@[simp] theorem storeOut_mem (s : State) (k : Nat) (ac : Access) (line : Nat) (lanes : List LaneAcc) : (storeOut s k ac line lanes).mem = s.mem := by
  unfold storeOut
  split <;> simp

@[simp] theorem markLane_mem (s : State) (k id lane : Nat) (f : LaneAcc → LaneAcc) : (markLane s k id lane f).mem = s.mem := by rfl

@[simp] theorem returnAtomic_mem (s : State) (k : Nat) (ac : Access) : (returnAtomic s k ac).mem = s.mem := by rfl

@[simp] theorem seenBy_mem (s : State) (p slice : Nat) : (State.seenBy s p slice).mem = s.mem := by
  unfold State.seenBy
  split <;> rfl

@[simp] theorem answerMiss_mem (s : State) (m : Miss) (r : Except WalkFault TlbEntry) : (answerMiss s m r).mem = s.mem := by
  simp only [answerMiss]
  (repeat' split) <;> simp

@[simp] theorem publishWrites_mem (s : State) (k : Nat) (did : BitVec 16) (scope : Nat) (more : BitVec 2048) : (publishWrites s k did scope more).mem = s.mem :=
  (publishWrites_keeps s k did scope more).1

@[simp] theorem acquire_mem (s : State) (k : Nat) (did : BitVec 16) (scope : Nat) : (acquire s k did scope).mem = s.mem := by
  unfold acquire
  split <;> rfl

@[simp] theorem modQueue_mem (s : State) (k : Nat) (q : EngineQueue) (f : List Command → List Command) : (State.modQueue s k q f).mem = s.mem := by
  unfold State.modQueue
  split <;> rfl

@[simp] theorem modCommand_mem (s : State) (k : Nat) (eq : EngineQueue) (q : Command) (f : Command → Command) : (modCommand s k eq q f).mem = s.mem := by simp [modCommand]

@[simp] theorem dropCommand_mem (s : State) (k : Nat) (eq : EngineQueue) (q : Command) : (dropCommand s k eq q).mem = s.mem := by simp [dropCommand]

@[simp] theorem dropPages_mem (s : State) (cs : List Command) : (dropPages s cs).mem = s.mem := by rfl

@[simp] theorem askPages_mem (s : State) (k : Nat) (did : BitVec 16) (vas : List DWord) : (askPages s k did vas).mem = s.mem := by
  simp [askPages]

@[simp] theorem sendFault_mem (s : State) (eq : EngineQueue) (q : Command) (cause detail : Nat) (addr : DWord) : (sendFault s eq q cause detail addr).mem = s.mem := by rfl

@[simp] theorem unblock_mem (s : State) (p q slice : Nat) : (unblock s p q slice).mem = s.mem := by
  simp only [unblock]
  (repeat' split) <;> simp

@[simp] theorem wakeQueues_mem (s : State) (p key : Nat) : (wakeQueues s p key).mem = s.mem := by
  simp only [wakeQueues]
  simp

@[simp] theorem enterWarp_mem (s : State) (k w : Nat) (wp : Warp) (entry : DWord) (scope : Nat) : (enterWarp s k w wp entry scope).mem = s.mem := by simp [enterWarp]

@[simp] theorem quarantine_mem (s : State) (region : Nat) : (quarantine s region).mem = s.mem := by rfl

@[simp] theorem linkWarp_mem (x : Ctx) (d : Reg) : (linkWarp x d).mem = x.s.mem := by rfl

@[simp] theorem withMode_mem (x : Ctx) (wp : Warp) (m : Word) : (Ctx.withMode x wp m).mem = x.s.mem := by rfl

@[simp] theorem takeUp_mem (x : Ctx) (op : EngineOp) : (takeUp x op).mem = x.s.mem := by
  unfold takeUp
  split <;> rfl

@[simp] theorem completeMq_mem (s : State) (k : Nat) (q : Command) (f : Core → Matrix → Matrix) : (completeMq s k q f).mem = s.mem := by rfl

@[simp] theorem superWait_mem (x : Ctx) (f : Form) (op : SvcOp) : (superWait x f op).mem = x.s.mem := by rfl

@[simp] theorem deliverMsg_mem (s : State) (t : Nat) (m : Word) : (deliverMsg s t m).mem = s.mem := by rfl

@[simp] theorem removeEntries_mem (s : State) (p : Nat) (gone : TlbEntry → Bool) (drop : BitVec 16 → Nat → Bool) : (removeEntries s p gone drop).mem = s.mem := by simp [removeEntries]

@[simp] theorem dropCommands_mem (s : State) (k : Nat) (did : BitVec 16) (ws : List (Nat × Warp)) : (dropCommands s k did ws).mem = s.mem := by simp [dropCommands]

@[simp] theorem wipeKeys_mem (s : State) (p : Nat) (did : BitVec 16) : (wipeKeys s p did).mem = s.mem := by
  unfold wipeKeys
  split <;> rfl

@[simp] theorem domainReset_mem (s : State) (k : Nat) (sl : Slot) : (domainReset s k sl).mem = s.mem := by simp [domainReset]

@[simp] theorem writeSlot_mem (s : State) (p k n : Nat) (new : Slot) : (writeSlot s p k n new).mem = s.mem := by
  simp only [writeSlot]
  (repeat' split) <;> simp

@[simp] theorem haltBlock_mem (s : State) (k w : Nat) : (haltBlock s k w).mem = s.mem := by
  unfold haltBlock
  refine foldl_mem (fun s a => ?_) _ _
  simp

@[simp] theorem modHead_mem (s : State) (slice : Nat) (eq : EngineQueue) (q : Command) (f : Command → Command) : (modHead s slice eq q f).mem = s.mem := by simp [modHead]

@[simp] theorem startPool_mem (s : State) (slice : Nat) (q : Command) : (startPool s slice q).mem = s.mem := by rfl

@[simp] theorem failCommand_mem (s : State) (slice : Nat) (eq : EngineQueue) (q : Command) (cause detail : Nat) (addr : DWord) (status : Option Nat) : (failCommand s slice eq q cause detail addr status).mem = s.mem := by simp [failCommand]

@[simp] theorem startCollective_mem (s : State) (slice : Nat) (q : Command) : (startCollective s slice q).mem = s.mem := by
  unfold startCollective
  split <;> rfl

@[simp] theorem sendLine_mem (s : State) (slice : Nat) (g : Group) (number line offset : Nat) (bs : List Byte) : (sendLine s slice g number line offset bs).mem = s.mem := by
  unfold sendLine
  split <;> simp

@[simp] theorem endCommand_mem (s : State) (slice : Nat) (q : Command) (status : Nat) : (endCommand s slice q status).mem = s.mem := by rfl

@[simp] theorem nextChunk_mem (s : State) (slice : Nat) (q : Command) (n status : Nat) : (nextChunk s slice q n status).mem = s.mem := by
  unfold nextChunk
  split <;> rfl

/-- A bin that has been placed leaves memory. -/
theorem placeLoose_mem {s t : State} {k i : Nat} (h : placeLoose s k i = some t) : t.mem = s.mem := by
  unfold placeLoose at h
  dsimp only at h
  (repeat' split at h) <;> cases h
  exact enterWarp_mem _ _ _ _ _ _

@[simp] theorem launchBin_mem (s : State) (k i : Nat) : (launchBin s k i).mem = s.mem := by
  unfold launchBin
  dsimp only
  generalize (match AMap.get? (coreAt s k).bins i with | some b => !olderUnit s k i (partClk s k) b.did | none => false) = first
  split
  next t ht => exact placeLoose_mem (Option.filter_eq_some_iff.mp ht).1
  next => rfl

@[simp] theorem enterBin_mem (s : State) (k i : Nat) (entry : DWord) (did : BitVec 16) (tree : Option Nat) (args : Word × Word) (more : Bool) : (enterBin s k i entry did tree args more).mem = s.mem := by
  simp only [enterBin]
  (repeat' split) <;> simp

@[simp] theorem placeBlock_mem (s : State) (k : Nat) (g : Grid) : (placeBlock s k g).mem = s.mem := by
  simp only [placeBlock]
  (repeat' split) <;> simp

@[simp] theorem bindTree_mem (s : State) (p : Nat) (g : Grid) : (bindTree s p g).mem = s.mem := by
  unfold bindTree
  split <;> rfl

@[simp] theorem releaseUnit_mem (s : State) (k : Nat) (tree : Option Nat) (dids : List (BitVec 16)) : (releaseUnit s k tree dids).mem = s.mem := by
  unfold releaseUnit
  refine foldl_mem (fun s e => ?_) _ _
  dsimp only
  split <;> simp

@[simp] theorem closeSaved_mem (s : State) (k w age : Nat) : (closeSaved s k w age).mem = s.mem := by rfl

@[simp] theorem leaveLane_mem (s : State) (p slice l : Nat) : (leaveLane s p slice l).mem = s.mem := by
  unfold leaveLane
  split <;> rfl

@[simp] theorem enterLane_mem (s : State) (p slice l q : Nat) : (enterLane s p slice l q).mem = s.mem := by rfl

@[simp] theorem checkBlocked_mem (s : State) (p slice : Nat) : (checkBlocked s p slice).mem = s.mem := by rfl

@[simp] theorem tickDispatch_mem (s : State) : (tickDispatch s).mem = s.mem := by rfl

@[simp] theorem openWork_mem (s : State) (p q o : Nat) : (openWork s p q o).mem = s.mem := by rfl

@[simp] theorem takeImage_mem (s : State) (i : FirmwareImage) : (takeImage s i).mem = s.mem := by rfl

@[simp] theorem firmwareUp_mem (s : State) (n : Nat) : (firmwareUp s n).mem = s.mem := by rfl

@[simp] theorem startFirmware_mem (s : State) (n : Nat) : (startFirmware s n).mem = s.mem := (firmwareKeeps_start s n).1

@[simp] theorem notifyLowest_mem (s : State) (p : Nat) (m : Word) : (notifyLowest s p m).mem = s.mem := by rfl

@[simp] theorem passReturn_mem (s : State) (k w g : Nat) : (passReturn s k w g).mem = s.mem := by
  unfold passReturn
  split <;> rfl

@[simp] theorem killGate_mem (s : State) (k w g : Nat) (wp : Warp) (gn : Gang) (fr : GateFrame) (rest : List GateFrame) : (killGate s k w g wp gn fr rest).mem = s.mem := by rfl

@[simp] theorem scrubEffect_mem (x : Ctx) (m : BitVec 8) (first b n : Nat) : (scrubEffect x m first b n).mem = x.s.mem := by
  unfold scrubEffect
  (repeat' split) <;> simp

@[simp] theorem scrubRecent_mem (x : Ctx) (s : State) (first : Nat) : (scrubRecent x s first).mem = s.mem := by
  unfold scrubRecent
  split <;> rfl

@[simp] theorem abandonLoads_mem (s : State) (k w : Nat) (age : Nat) : (abandonLoads s k w age).mem = s.mem := by rfl

@[simp] theorem preemptCore_mem (s : State) (did : BitVec 16) (k : Nat) : (preemptCore s did k).mem = s.mem := by
  simp only [preemptCore]
  (repeat' split) <;> simp

@[simp] theorem unpack_mem (s : State) (k n : Nat) (sv : Saved) (m : Move) : (unpack s k n sv m).mem = s.mem := by
  unfold unpack
  split <;> rfl

@[simp] theorem startSlice_mem (s : State) (n : Nat) : (startSlice s n).mem = s.mem := (startSlice_keeps s n).1

@[simp] theorem measureShape_mem (s : State) (p : Nat) : (measureShape s p).mem = s.mem := by rfl

@[simp] theorem revoke_mem (s : State) (p : Nat) (fs : List Nat) : (revoke s p fs).mem = s.mem := by
  unfold revoke
  simp only [foldl_mem, flushEntries_mem, removeEntries_mem, implies_true]
  refine foldl_mem (fun s e => ?_) _ _
  split <;> rfl

@[simp] theorem measureFrames_mem (s : State) (p : Nat) (did : BitVec 16) (fs : List Nat) : (measureFrames s p did fs).mem = s.mem := by rfl

@[simp] theorem stirGroup_mem (s : State) (key : Nat) (g : Group) : (stirGroup s key g).mem = s.mem := by
  unfold stirGroup
  (repeat' split) <;> simp

@[simp] theorem popPacket_mem (s : State) (port : Nat) : (popPacket s port).mem = s.mem := by rfl

@[simp] theorem performPart_mem (s : State) (k id line : Nat) (h : HomeData) : (performPart s k id line h).mem = s.mem := by rfl

@[simp] theorem extendPart_mem (s : State) (p i : Nat) (x : Digest) : (extendPart s p i x).mem = s.mem := by rfl

@[simp] theorem installKeys_mem (s : State) (p : Nat) (did : BitVec 16) (first : Nat) (keys : List (BitVec 256)) : (installKeys s p did first keys).mem = s.mem := by rfl

@[simp] theorem beginUnlock_mem (s : State) (k : Nat) (token : Option Digest) : (beginUnlock s k token).mem = s.mem := by
  simp [beginUnlock]

@[simp] theorem recordToken_mem (s : State) (token : Option Digest) : (recordToken s token).mem = s.mem := by
  unfold recordToken
  split <;> rfl

@[simp] theorem returnedMember_mem (s : State) (p : Nat) : (returnedMember s p).mem = s.mem := by rfl

@[simp] theorem assignCxl_mem (s : State) (p : Nat) : (assignCxl s p).mem = s.mem := by simp only [assignCxl]

@[simp] theorem closeRecord_mem (s : State) (k w : Nat) : (closeRecord s k w).mem = s.mem := by rfl

@[simp] theorem enterHandler_mem (s : State) (k w g key : Nat) (h : DWord) : (enterHandler s k w g key h).mem = s.mem := by rfl

@[simp] theorem tickQuad_mem (s : State) (k q : Nat) (es : List (Nat × Nat)) : (tickQuad s k q es).mem = s.mem := by rfl

@[simp] theorem mergeQuad_mem (s : State) (k q : Nat) : (mergeQuad s k q).mem = s.mem := by rfl

@[simp] theorem tickCore_mem (s : State) (k : Nat) : (tickCore s k).mem = s.mem := by rfl

@[simp] theorem tickRefresh_mem (s : State) : (tickRefresh s).mem = s.mem := by rfl

end Sys2Proof.Machine

/-! SUPPORT. The operations that write memory (traps, wakes, home writes, copies, engines, services): each keeps memory's canonical form. -/

namespace Sys2Proof.Machine

open Sys2Proof.Safety

@[simp] theorem cellsWrite_form {m : List Host.Cell} (h : Memory.wf m = true) (a : Nat) (bs : List Byte) : Memory.wf (cellsWrite m a bs) = true := wf_cellsWrite h a bs
@[simp] theorem cellsClear_form {m : List Host.Cell} (h : Memory.wf m = true) (a n : Nat) : Memory.wf (cellsClear m a n) = true := wf_cellsClear h a n
@[simp] theorem memPutNat_wf {s : State} (h : Memory.wf s.mem = true) (key n v : Nat) : Memory.wf (memPutNat s key n v).mem = true := wf_memPutNat h key n v

@[simp] theorem foldl_wf {α : Type} {f : State → α → State} {s : State} (h : Memory.wf s.mem = true) (hf : ∀ s a, Memory.wf s.mem = true → Memory.wf (f s a).mem = true)
    (l : List α) : Memory.wf (l.foldl f s).mem = true :=
   List.foldlRecOn (motive := fun s => Memory.wf s.mem = true) l f h fun s h a _ => hf s a h

theorem ite_wf {c : Prop} [Decidable c] {s t : State} (h : Memory.wf s.mem = true) (h' : Memory.wf t.mem = true) : Memory.wf (if c then s else t).mem = true := by
  split
  · exact h
  · exact h'

/-- What every change of a home's surroundings keeps (PFrame), memory's form keeps. -/
theorem frame_canon : HomeFrame fun s t => Memory.wf s.mem = true → Memory.wf t.mem = true where
  refl _ h := h
  trans h h' hs := h' (h hs)
  core _ _ _ h := h
  slice _ _ _ h := h
  part _ _ _ _ h := h
  put _ _ _ h := wf_memPut h _ _
  disposals _ _ h := h


@[simp] theorem writeRecord_wf (s : State) (k w : Nat) (d : Deferred) (h : Memory.wf s.mem = true) : Memory.wf (writeRecord s k w d).mem = true := frame_canon.writeRecord s k w d h

@[simp] theorem trapCompute_wf (s : State) (k w : Nat) (d : Deferred) (h : Memory.wf s.mem = true) : Memory.wf (trapCompute s k w d).mem = true := frame_canon.trapCompute s k w d h

@[simp] theorem enterTvec_mem (s : State) (k w g : Nat) (tcause : Word) (tval epc : DWord) (rest : Nat) : (enterTvec s k w g tcause tval epc rest).mem = s.mem := by rfl

@[simp] theorem takeTrapAt_wf (x : Ctx) (s : State) (t : Trap) (resume : DWord) (h : Memory.wf s.mem = true) : Memory.wf (takeTrapAt x s t resume).mem = true := by
  unfold takeTrapAt
  split
  · exact trapCompute_wf _ _ _ _ h
  · simp [h]

@[simp] theorem takeTrap_wf (x : Ctx) (t : Trap) (h : Memory.wf x.s.mem = true) : Memory.wf (takeTrap x t).mem = true := by simp [takeTrap, h]

@[simp] theorem trapAfter_wf (x : Ctx) (s : State) (t : Trap) (h : Memory.wf s.mem = true) : Memory.wf (trapAfter x s t).mem = true := by simp [trapAfter, h]

@[simp] theorem retireTo_wf (x : Ctx) (f : Form) (s : State) (pc : DWord) (r : Nat → Word) (extra : Nat) (h : Memory.wf s.mem = true) : Memory.wf (retireTo x f s pc r extra).mem = true := by
  unfold retireTo
  dsimp only
  split <;> simp [h]

@[simp] theorem retire_wf (x : Ctx) (f : Form) (s : State) (r : Nat → Word) (h : Memory.wf s.mem = true) : Memory.wf (retire x f s r).mem = true := retireTo_wf x f s _ r 0 h

@[simp] theorem endStep_wf (x : Ctx) (s : State) (h : Memory.wf s.mem = true) : Memory.wf (endStep x s).mem = true := by
  unfold endStep
  split <;> simp [h]

@[simp] theorem wakeTo_wf (s : State) (k w g : Nat) (pc : DWord) (h : Memory.wf s.mem = true) : Memory.wf (wakeTo s k w g pc).mem = true := frame_canon.wakeTo s k w g pc h

@[simp] theorem wake_wf (s : State) (k w g : Nat) (h : Memory.wf s.mem = true) : Memory.wf (wake s k w g).mem = true := frame_canon.wake s k w g h

@[simp] theorem faultWaiting_wf (s : State) (k w g : Nat) (t : Trap) (h : Memory.wf s.mem = true) : Memory.wf (faultWaiting s k w g t).mem = true := frame_canon.faultWaiting s k w g t h

@[simp] theorem endSleep_wf (s : State) (q : Cursor) (status : Nat) (h : Memory.wf s.mem = true) : Memory.wf (endSleep s q status).mem = true := frame_canon.endSleep s q status h

@[simp] theorem wakeWatchers_wf (s : State) (line : Nat) (h : Memory.wf s.mem = true) : Memory.wf (wakeWatchers s line).mem = true := frame_canon.wakeWatchers s line h

@[simp] theorem mailboxStore_wf (s : State) (key n : Nat) (h : Memory.wf s.mem = true) : Memory.wf (mailboxStore s key n).mem = true := frame_canon.mailboxStore s key n h

@[simp] theorem homeWrite_wf (s : State) (key : Nat) (bs : List Byte) (h : Memory.wf s.mem = true) : Memory.wf (homeWrite s key bs).mem = true := frame_canon.homeWrite s key bs h

@[simp] theorem homeWriteNat_wf (s : State) (key n v : Nat) (h : Memory.wf s.mem = true) : Memory.wf (homeWriteNat s key n v).mem = true := frame_canon.homeWriteNat s key n v h

@[simp] theorem recordOut_wf (s : State) (k w : Nat) (wp : Warp) (d : Deferred) (rest : List Deferred) (h : Memory.wf s.mem = true) : Memory.wf (recordOut s k w wp d rest).mem = true := by
  simp only [recordOut]
  (repeat' split) <;> simp [h]

@[simp] theorem homeFill_wf (s : State) (key lines : Nat) (h : Memory.wf s.mem = true) : Memory.wf (homeFill s key lines).mem = true := by
  simp only [homeFill]
  refine foldl_wf ?_ (fun s l h => wakeWatchers_wf s l h) _
  exact foldl_wf h (fun s i h => memPutNat_wf h _ _ _) _

@[simp] theorem engineWrite_wf (s : State) (slice part : Nat) (did : BitVec 16) (key : Nat) (bs : List Byte) (h : Memory.wf s.mem = true) : Memory.wf (engineWrite s slice part did key bs).mem = true := frame_canon.engineWrite s slice part did key bs h

@[simp] theorem watchDone_wf (s : State) (k : Nat) (ac : Access) (h : Memory.wf s.mem = true) : Memory.wf (watchDone s k ac).mem = true := frame_canon.watchDone s k ac h

@[simp] theorem retireAccess_wf (x : Ctx) (f : Form) (s : State) (hit : Option Nat) (h : Memory.wf s.mem = true) : Memory.wf (retireAccess x f s hit).mem = true := by
  unfold retireAccess
  split <;> simp [h]

@[simp] theorem retireLocal_wf (x : Ctx) (f : Form) (s : State) (hit : Option Nat) (h : Memory.wf s.mem = true) : Memory.wf (retireLocal x f s hit).mem = true := by
  unfold retireLocal
  split <;> simp [h]

@[simp] theorem endBarrier_wf (s : State) (k w g : Nat) (kind : BarWait) (word : Nat) (h : Memory.wf s.mem = true) : Memory.wf (endBarrier s k w g kind word).mem = true := by
  unfold endBarrier
  split <;> simp [h]

@[simp] theorem wakeBarrier_wf (s : State) (k o : Nat) (h : Memory.wf s.mem = true) : Memory.wf (wakeBarrier s k o).mem = true := by
  unfold wakeBarrier
  refine foldl_wf h (fun s a h => ?_) _
  (repeat' split) <;> simp [h]

@[simp] theorem tryComplete_wf (s : State) (k o : Nat) (b : BarObj) (h : Memory.wf s.mem = true) : Memory.wf (tryComplete s k o b).mem = true := by
  unfold tryComplete
  split <;> simp [h]

@[simp] theorem barLand_wf (s : State) (k o n : Nat) (err : Bool) (h : Memory.wf s.mem = true) : Memory.wf (barLand s k o n err).mem = true := by simp [barLand, h]

@[simp] theorem engineArrive_wf (s : State) (k o : Nat) (err : Bool) (h : Memory.wf s.mem = true) : Memory.wf (engineArrive s k o err).mem = true := by
  simp only [engineArrive]
  (repeat' split) <;> simp [h]

@[simp] theorem transferTo_wf (x : Ctx) (f : Form) (s : State) (ds : List Dst) (h : Memory.wf s.mem = true) : Memory.wf (transferTo x f s ds).mem = true := by
  unfold transferTo
  split <;> simp [h]

@[simp] theorem laneTransfer_wf (x : Ctx) (f : Form) (s : State) (target : Nat → DWord) (h : Memory.wf s.mem = true) : Memory.wf (laneTransfer x f s target).mem = true := by simp [laneTransfer, h]

@[simp] theorem settleSync_wf (s : State) (k w : Nat) (h : Memory.wf s.mem = true) : Memory.wf (settleSync s k w).mem = true := by
  simp only [settleSync]
  (repeat' split) <;> simp +contextual [h]

@[simp] theorem afterGangs_wf (s : State) (k w : Nat) (h : Memory.wf s.mem = true) : Memory.wf (afterGangs s k w).mem = true := by simp [afterGangs, h]

@[simp] theorem stirLine_wf (s : State) (key : Nat) (h : Memory.wf s.mem = true) : Memory.wf (stirLine s key).mem = true := by
  unfold stirLine
  (repeat' split)
  · exact h
  · exact wakeWatchers_wf _ _ (memPutNat_wf h _ _ _)
  · exact h

@[simp] theorem finishLoad_wf (s : State) (k : Nat) (ac : Access) (h : Memory.wf s.mem = true) : Memory.wf (finishLoad s k ac).mem = true := by
  unfold finishLoad
  split <;> simp [h]

@[simp] theorem podStir_wf (s : State) (line : Nat) (h : Memory.wf s.mem = true) : Memory.wf (podStir s line).mem = true := by
  unfold podStir
  (repeat' split) <;> simp [h]

@[simp] theorem storeTensor_wf (s : State) (id : Nat) (t : Tensor) (line : Nat) (lanes : List LaneAcc) (h : Memory.wf s.mem = true) : Memory.wf (storeTensor s id t line lanes).mem = true := by simp [storeTensor, h]

theorem performStore_wf {s t : State} {k line : Nat} {did : BitVec 16} {lanes : List LaneAcc} (h : Memory.wf s.mem = true) (ht : performStore s k line did lanes = some t) :
    Memory.wf t.mem = true := by
  have hall (la : LaneAcc) (s : State) (h : Memory.wf s.mem = true) : Memory.wf (homeWrite s la.pa la.bytes).mem = true := homeWrite_wf s _ _ h
  unfold performStore at ht
  dsimp only at ht
  split at ht
  · split at ht <;> cases ht
    · refine foldl_wf h (fun s la h => ?_) _
      split <;> simp [h]
    · simp [h]
  · split at ht <;> cases ht
    · simp [h]
    · exact foldl_wf h (fun s la => hall la s) _
  · cases ht
    exact foldl_wf h (fun s la => hall la s) _

@[simp] theorem performAt_wf (s : State) (k : Nat) (did : BitVec 16) (line key n : Nat) (f : Nat → Option Nat) (keep : Bool) (h : Memory.wf s.mem = true) :
    Memory.wf (performAt s k did line key n f keep).2.2.mem = true := by
  unfold performAt
  dsimp only
  (repeat' split) <;> simp [h]

@[simp] theorem atomAt_wf (s : State) (k : Nat) (ac : Access) (la : LaneAcc) (key : Nat) (h : Memory.wf s.mem = true) : Memory.wf (atomAt s k ac la key).2.2.mem = true := by
  unfold atomAt
  dsimp only
  split <;> simp [h]

@[simp] theorem finishRed_wf (s : State) (k id : Nat) (h : Memory.wf s.mem = true) : Memory.wf (finishRed s k id).mem = true := frame_canon.finishRed s k id h

@[simp] theorem afterAtomic_wf (s : State) (k : Nat) (ac : Access) (la : LaneAcc) (bs : List Byte) (h : Memory.wf s.mem = true) : Memory.wf (afterAtomic s k ac la bs).mem = true := frame_canon.afterAtomic s k ac la bs h

@[simp] theorem timeOutLane_wf (k id : Nat) (s : State) (la : LaneAcc) (h : Memory.wf s.mem = true) : Memory.wf (timeOutLane k id s la).mem = true := by
  simp only [timeOutLane]
  (repeat' split) <;> simp [h]

@[simp] theorem outsideRead_mem (s : State) (k key n : Nat) : (outsideRead s k key n).2.2.mem = s.mem := by
  unfold outsideRead
  dsimp only
  split <;> simp

theorem engineRead_wf {s : State} {k key n : Nat} {r : List Byte × List Nat × State} (h : Memory.wf s.mem = true) (hr : engineRead s k key n = some r) :
    Memory.wf r.2.2.mem = true := by
  unfold engineRead at hr
  dsimp only at hr
  (repeat' split at hr) <;> cases hr <;> simp [h]

theorem engineReadAll_wf {s : State} {k fuel key n : Nat} {r : List Byte × List Nat × State} (h : Memory.wf s.mem = true) (hr : engineReadAll s k fuel key n = some r) :
    Memory.wf r.2.2.mem = true := by
  induction fuel generalizing s key n r with
  | zero => cases hr; exact h
  | succ fuel ih =>
    unfold engineReadAll at hr
    dsimp only at hr
    split at hr
    · cases hr
      exact h
    · split at hr
      · cases hr
      next bs ps t ht =>
        obtain ⟨u, hu, rfl⟩ := Option.map_eq_some_iff.mp hr
        have hall := ih (s := t) (engineRead_wf h ht) hu
        exact hall

/-- A fold of steps that may fail and that each keep a property. -/
theorem foldl_bind_keeps {α β : Type} {P : β → Prop} {f : β → α → Option β} (hf : ∀ q a r, P q → f q a = some r → P r) (l : List α) {acc : Option β} {r : β}
    (h : ∀ q, acc = some q → P q) (hr : l.foldl (fun acc a => acc.bind fun q => f q a) acc = some r) : P r := by
  induction l generalizing acc with
  | nil => exact h _ hr
  | cons a l ih =>
    refine ih (fun q hq => ?_) hr
    obtain ⟨p, hp, hq⟩ := Option.bind_eq_some_iff.mp hq
    exact hf p a q (h p hp) hq

theorem content_wf {s : State} {w : CisternWrite} {r : List Byte × List Nat × State} (h : Memory.wf s.mem = true) (hr : CisternWrite.content s w = some r) :
    Memory.wf r.2.2.mem = true := by
  unfold CisternWrite.content at hr
  split at hr
  · cases hr
    exact h
  · refine foldl_bind_keeps (P := fun q => Memory.wf q.2.2.mem = true) (fun q a r hq hr => ?_) _ (by rintro _ ⟨⟩; exact h) hr
    obtain ⟨u, hu, rfl⟩ := Option.map_eq_some_iff.mp hr
    have hall := engineReadAll_wf (s := q.2.2) hq hu
    exact hall

theorem readParts_wf {s : State} {k : Nat} {parts : List (Nat × Nat)} {r : List Byte × List Nat × State} (h : Memory.wf s.mem = true) (hr : readParts s k parts = some r) :
    Memory.wf r.2.2.mem = true := by
  unfold readParts at hr
  refine foldl_bind_keeps (P := fun q => Memory.wf q.2.2.mem = true) (fun q a r hq hr => ?_) _ (by rintro _ ⟨⟩; exact h) hr
  obtain ⟨u, hu, rfl⟩ := Option.map_eq_some_iff.mp hr
  have hall := engineRead_wf (s := q.2.2) hq hu
  exact hall

@[simp] theorem engineStore_wf (s : State) (k key : Nat) (did : BitVec 16) (lanes : List LaneAcc) (bad : List Nat) (h : Memory.wf s.mem = true) : Memory.wf (engineStore s k key did lanes bad).mem = true := by
  unfold engineStore
  split
  next t ht =>
    have ht := performStore_wf h ht
    split
    · exact foldl_wf (f := fun s w => memMark s _ 4) ht (fun s w h => h) _
    · exact ht
  next => dsimp only; split <;> simp [h]

@[simp] theorem laneWrite_wf (s : State) (slice key n v : Nat) (h : Memory.wf s.mem = true) : Memory.wf (laneWrite s slice key n v).mem = true := by
  unfold laneWrite
  split <;> simp [h]

@[simp] theorem completePacket_wf (s : State) (p slice : Nat) (did : BitVec 16) (pkt : BitVec 512) (status : Nat) (wrote : BitVec 2048) (h : Memory.wf s.mem = true) : Memory.wf (completePacket s p slice did pkt status wrote).mem = true := by
  simp only [completePacket]
  (repeat' split) <;> simp [h]

@[simp] theorem addTree_wf (s : State) (tree : Option Nat) (n : Int) (h : Memory.wf s.mem = true) : Memory.wf (addTree s tree n).mem = true := by
  simp only [addTree]
  (repeat' split) <;> simp [h]

@[simp] theorem cisternWrite_wf (s : State) (slice part : Nat) (did : BitVec 16) (off : Nat) (bs : List Byte) (skip : List Nat) (h : Memory.wf s.mem = true) : Memory.wf (cisternWrite s slice part did off bs skip).mem = true := by
  simp only [cisternWrite, publishWide_mem]
  exact foldl_wf h (fun s i h => wf_memPut h _ _) _

@[simp] theorem cisternDone_wf (s : State) (w : CisternWrite) (ok : Bool) (h : Memory.wf s.mem = true) : Memory.wf (cisternDone s w ok).mem = true := by
  unfold cisternDone
  (repeat' split) <;> simp [h]

@[simp] theorem finishCopy_wf (s : State) (k q : Nat) (h : Memory.wf s.mem = true) : Memory.wf (finishCopy s k q).mem = true := by
  unfold finishCopy
  (repeat' split) <;> simp [h]

@[simp] theorem copyLand_wf (s : State) (cmd : Command) (n : Nat) (err : Bool) (h : Memory.wf s.mem = true) : Memory.wf (copyLand s cmd n err).mem = true := by
  unfold copyLand
  split <;> simp [h]

@[simp] theorem landPiece_wf (s : State) (k q : Nat) (cmd : Command) (p : Piece) (h : Memory.wf s.mem = true) : Memory.wf (landPiece s k q cmd p).mem = true := by simp [landPiece, h]

@[simp] theorem superDone_wf (s : State) (k : Nat) (d : Reg) (v : Nat) (h : Memory.wf s.mem = true) : Memory.wf (superDone s k d v).mem = true := by simp [superDone, h]

@[simp] theorem finishDebug_wf (s : State) (k a status : Nat) (h : Memory.wf s.mem = true) : Memory.wf (finishDebug s k a status).mem = true := by simp [finishDebug, h]

@[simp] theorem engineWriteAll_wf (s : State) (slice : Nat) (q : Command) (bs : List Byte) (bad : List (Nat × Nat)) (pieces : List (Nat × Nat × DWord)) (h : Memory.wf s.mem = true) : Memory.wf (engineWriteAll s slice q bs bad pieces).mem = true := by
  simp only [engineWriteAll]
  refine foldl_wf ?_ (fun s p h => ?_) _
  · split <;> simp [h]
  · split <;> simp [h]

@[simp] theorem finishPool_wf (s : State) (slice : Nat) (q : Command) (gath : Bool) (h : Memory.wf s.mem = true) : Memory.wf (finishPool s slice q gath).mem = true := by
  simp only [finishPool]
  (repeat' split) <;> simp [h]

@[simp] theorem mapSnaps_wf (s : State) (mine : Nat → Bool) (f : Group → Group) (h : Memory.wf s.mem = true) : Memory.wf (mapSnaps s mine f).mem = true := by simp [mapSnaps, h]

@[simp] theorem memberRead_mem (s : State) (m : Member) (off n : Nat) : (memberRead s m off n).2.2.mem = s.mem := by
  unfold memberRead
  split <;> rfl

@[simp] theorem membersRead_mem (off n : Nat) (ms : List Member) (acc : List (List Byte) × Bool × State) :
    (ms.foldl (fun acc m => (acc.1 ++ [(memberRead acc.2.2 m off n).1], acc.2.1 || (memberRead acc.2.2 m off n).2.1, (memberRead acc.2.2 m off n).2.2)) acc).2.2.mem = acc.2.2.mem := by
  induction ms generalizing acc with
  | nil => rfl
  | cons m ms ih => exact (ih _).trans (memberRead_mem _ m off n)

@[simp] theorem performMcred_wf (s : State) (slice : Nat) (q : Command) (g : Group) (h : Memory.wf s.mem = true) : Memory.wf (performMcred s slice q g).mem = true := by
  simp only [performMcred]
  (repeat' split) <;> simp [h, membersRead_mem]

@[simp] theorem memberWrite_wf (s : State) (slice : Nat) (g : Group) (m : Member) (off first : Nat) (bs : List Byte) (bad : List Nat) (h : Memory.wf s.mem = true) : Memory.wf (memberWrite s slice g m off first bs bad).mem = true := by
  unfold memberWrite
  split
  · exact h
  · refine foldl_wf h (fun s i h => ?_) _
    dsimp only
    (repeat' split) <;> simp [h]

@[simp] theorem performMcst_wf (s : State) (slice : Nat) (q : Command) (g : Group) (bs : List Byte) (bad : List Nat) (h : Memory.wf s.mem = true) : Memory.wf (performMcst s slice q g bs bad).mem = true := by
  simp only [performMcst]
  (repeat' split) <;> simp +contextual [h]

@[simp] theorem performWbcast_wf (s : State) (slice : Nat) (q : Command) (g : Group) (bs : List Byte) (bad : List Nat) (h : Memory.wf s.mem = true) : Memory.wf (performWbcast s slice q g bs bad).mem = true := by
  simp only [performWbcast]
  (repeat' split) <;> simp [h]

@[simp] theorem unitRetired_wf (s : State) (tree : Option Nat) (n : Nat) (h : Memory.wf s.mem = true) : Memory.wf (unitRetired s tree n).mem = true := by simp [unitRetired, h]

theorem serveGrow_wf {s t : State} {k q : Nat} {sl : Slot} (h : Memory.wf s.mem = true) (ht : serveGrow s k q sl = some t) : Memory.wf t.mem = true := by
  unfold serveGrow at ht
  dsimp only at ht
  split at ht
  · cases ht
  · obtain ⟨_, _, ht⟩ := Option.bind_eq_some_iff.mp ht
    (repeat' split at ht) <;> cases ht <;> simp [h]

@[simp] theorem enterLanes_mem (k : Nat) (did : BitVec 16) (tree : Option Nat) (entry : Nat → DWord) (args : Nat → Word × Word) (ls : List Nat) (s : State) :
    (enterLanes s k did tree entry args ls).1.mem = s.mem := by
  induction ls generalizing s with
  | nil => rfl
  | cons l ls ih =>
    unfold enterLanes
    split
    · rfl
    · exact (ih _).trans (enterBin_mem _ _ _ _ _ _ _ _)

@[simp] theorem retireWarp_wf (s : State) (k w : Nat) (wp : Warp) (h : Memory.wf s.mem = true) : Memory.wf (retireWarp s k w wp).mem = true := by
  simp only [retireWarp]
  (repeat' split) <;> simp [h]

@[simp] theorem applySetup_wf (s : State) (p slice : Nat) (h : Memory.wf s.mem = true) : Memory.wf (applySetup s p slice).mem = true := by
  unfold applySetup
  split
  · exact h
  · dsimp only
    split
    · exact h
    · refine foldl_wf ?_ (fun s q h => ?_) _
      · exact h
      · (repeat' split) <;> simp [h]

@[simp] theorem parsed_wf (x : Parse) (s : State) (h : Memory.wf s.mem = true) : Memory.wf (parsed x s).mem = true := by simp [parsed, h]

@[simp] theorem tryFirmware_mem (n tries : Nat) (s : State) : (tryFirmware n tries s).mem = s.mem := by
  induction tries generalizing s with
  | zero =>
    simp only [tryFirmware]
    (repeat' split) <;> simp
  | succ tries ih =>
    simp only [tryFirmware]
    split
    · rfl
    · exact ih _

@[simp] theorem complete_wf (x : Parse) (s : State) (status : Nat) (h : Memory.wf s.mem = true) : Memory.wf (complete x s status).mem = true := by simp [complete, h]

@[simp] theorem journalAdd_wf (s : State) (slice p : Nat) (e : JEntry) (h : Memory.wf s.mem = true) : Memory.wf (journalAdd s slice p e).mem = true := by
  simp only [journalAdd]
  (repeat' split) <;> simp [h]

@[simp] theorem blockQueue_wf (x : Parse) (s : State) (key : Nat) (operand : DWord) (h : Memory.wf s.mem = true) : Memory.wf (blockQueue x s key operand).mem = true := by
  simp only [blockQueue]
  (repeat' split) <;> simp [h]

@[simp] theorem hgmbDone_wf (s : State) (k : Nat) (lo status : Nat) (d : Reg) (h : Memory.wf s.mem = true) : Memory.wf (hgmbDone s k lo status d).mem = true := by simp [hgmbDone, h]

@[simp] theorem performCistern_wf (s : State) (w : CisternWrite) (bs : List Byte) (bad : List Nat) (h : Memory.wf s.mem = true) : Memory.wf (performCistern s w bs bad).mem = true := by simp +contextual [performCistern, h]

@[simp] theorem writeFrame_wf (s : State) (k w depth : Nat) (caller : BitVec 16) (h : Memory.wf s.mem = true) : Memory.wf (writeFrame s k w depth caller).mem = true := by
  unfold writeFrame
  split <;> simp [h]

@[simp] theorem passGate_wf (s : State) (k w g : Nat) (d : Reg) (e : GateEntry) (h : Memory.wf s.mem = true) : Memory.wf (passGate s k w g d e).mem = true := by
  unfold passGate
  split <;> simp [h]

@[simp] theorem saveDomain_wf (s : State) (p k n : Nat) (sl : Slot) (pa : Nat) (h : Memory.wf s.mem = true) : Memory.wf (saveDomain s p k n sl pa).mem = true := by
  simp only [saveDomain, dropDisposals_mem, modCore_mem, dropCommands_mem]
  exact homeWrite_wf _ _ _ (wf_memZero (by simp [h]) _ _)

@[simp] theorem wakeSleepers_wf (s : State) (k w : Nat) (h : Memory.wf s.mem = true) : Memory.wf (wakeSleepers s k w).mem = true := by
  simp only [wakeSleepers]
  (repeat' split) <;> simp +contextual [h]

@[simp] theorem replayLoad_wf (m : Move) (s : State) (p : Nat) (ac : Access) (h : Memory.wf s.mem = true) : Memory.wf (replayLoad m s p ac).mem = true := by
  simp only [replayLoad]
  (repeat' split) <;> simp [h]

@[simp] theorem rewriteRecord_wf (s : State) (k w : Nat) (h : Memory.wf s.mem = true) : Memory.wf (rewriteRecord s k w).mem = true := by
  unfold rewriteRecord
  (repeat' split) <;> simp [h]

@[simp] theorem rewriteFrames_wf (s : State) (k w : Nat) (h : Memory.wf s.mem = true) : Memory.wf (rewriteFrames s k w).mem = true := by
  simp only [rewriteFrames]
  (repeat' split) <;> simp +contextual [h]

@[simp] theorem restoreDomain_wf (s : State) (p k n : Nat) (sv : Saved) (m : Move) (h : Memory.wf s.mem = true) : Memory.wf (restoreDomain s p k n sv m).mem = true := by
  have hws (l : List Nat) (s : State) (h : Memory.wf s.mem = true) : Memory.wf (l.foldl (fun s w => rewriteFrames (rewriteRecord (wakeSleepers s k w) k w) k w) s).mem = true :=
    foldl_wf h (fun s w h => rewriteFrames_wf _ _ _ (rewriteRecord_wf _ _ _ (wakeSleepers_wf _ _ _ h))) l
  simp only [restoreDomain]
  rw [foldl_modWarp_mem]
  refine List.foldlRecOn (motive := fun q : State × List (Nat × Nat) => Memory.wf q.1.mem = true) _ _ ?_ fun q hq ac _ => replayLoad_wf m q.1 p ac hq
  simp [hws, h]

@[simp] theorem clearRegions_wf (s : State) (n : Nat) (h : Memory.wf s.mem = true) : Memory.wf (clearRegions s n).mem = true := by
  rw [clearRegions_eq]
  refine foldl_wf h (fun s r h => ?_) _
  unfold clearRegion
  split <;> simp [h]

@[simp] theorem resizeNext_wf (s : State) (p : Nat) (goal : List Nat) (h : Memory.wf s.mem = true) : Memory.wf (resizeNext s p goal).mem = true := by
  simp only [resizeNext]
  (repeat' split) <;> simp [h]

@[simp] theorem zeroAbove_wf (s : State) (p g : Nat) (h : Memory.wf s.mem = true) : Memory.wf (zeroAbove s p g).mem = true := wf_memZero h _ _

@[simp] theorem interleaved_wf (s : State) (p : Nat) (rz : Resize) (h : Memory.wf s.mem = true) : Memory.wf (interleaved s p rz).mem = true := by
  simp only [interleaved]
  apply resizeNext_wf
  have hr := foldl_wf (f := fun s n => resetSlice (clearRegions s n) n none) (s := s.modPart p fun pt => { pt with slices := rz.target, resize := none, current := pt.current.filter fun q => !(rz.old.filter fun n => !rz.target.contains n).contains (regionSlice (2 * q)) }) h (fun s n h => by simp [h]) (rz.old.filter fun n => !rz.target.contains n)
  split
  · exact hr
  · exact zeroAbove_wf _ _ _ hr

@[simp] theorem zeroFrame_wf (s : State) (p f : Nat) (h : Memory.wf s.mem = true) : Memory.wf (zeroFrame s p f).mem = true := frame_canon.zeroFrame (fun _ _ key n h => wf_memZero h key n) s p f h

@[simp] theorem handOver_wf (s : State) (p f : Nat) (new : PotEntry) (zero : Bool) (h : Memory.wf s.mem = true) : Memory.wf (handOver s p f new zero).mem = true := by
  unfold handOver
  split <;> simp [h]

@[simp] theorem absent_wf (s : State) (key m : Nat) (h : Memory.wf s.mem = true) : Memory.wf (absent s key m).mem = true := by simp [absent, h]

@[simp] theorem storeDone_wf (s : State) (k id line : Nat) (h : Memory.wf s.mem = true) : Memory.wf (storeDone s k id line).mem = true := by
  simp only [storeDone]
  (repeat' split) <;> simp [h]

@[simp] theorem failPart_wf (s : State) (k : Nat) (ac : Access) (line : Nat) (h : Memory.wf s.mem = true) : Memory.wf (failPart s k ac line).mem = true := frame_canon.failPart s k ac line h

@[simp] theorem failLane_wf (s : State) (k : Nat) (ac : Access) (la : LaneAcc) (h : Memory.wf s.mem = true) : Memory.wf (failLane s k ac la).mem = true := frame_canon.failLane s k ac la h

@[simp] theorem answerHeld_wf (s : State) (port : Nat) (h : Memory.wf s.mem = true) : Memory.wf (answerHeld s port).mem = true := frame_canon.answerHeld s port h

@[simp] theorem performWindow_wf (s : State) (port : Nat) (pkt : Packet) (key : Nat) (h : Memory.wf s.mem = true) : Memory.wf (performWindow s port pkt key).mem = true := by
  simp only [performWindow]
  (repeat' split) <;> simp +contextual [h]

@[simp] theorem eraseExport_wf (s : State) (x : Export) (h : Memory.wf s.mem = true) : Memory.wf (eraseExport s x).mem = true := by simp +contextual [eraseExport, h]

@[simp] theorem scrubProtected_wf (s : State) (h : Memory.wf s.mem = true) : Memory.wf (scrubProtected s).mem = true := by simp +contextual [scrubProtected, h]

@[simp] theorem answerUnlock_wf (s : State) (r : Option Req) (status : Nat) (h : Memory.wf s.mem = true) : Memory.wf (answerUnlock s r status).mem = true := by
  unfold answerUnlock
  split <;> simp [h]

@[simp] theorem bootWith_wf (s : State) (p : Nat) (bytes : List Byte) (digest : Digest) (h : Memory.wf s.mem = true) : Memory.wf (bootWith s p bytes digest).mem = true := by
  simp [bootWith, h]

@[simp] theorem resetPartition_wf (s : State) (p : Nat) (tries : Nat) (h : Memory.wf s.mem = true) : Memory.wf (resetPartition s p tries).mem = true := by
  simp only [resetPartition, modPart_mem]
  refine foldl_wf (foldl_wf ?_ (fun s f h => handOver_wf s p f _ _ h) _) (fun s key h => ?_) _
  · simp [h]
  · split <;> simp [h]

@[simp] theorem killGang_wf (s : State) (k w g : Nat) (h : Memory.wf s.mem = true) : Memory.wf (killGang s k w g).mem = true := by
  unfold killGang
  (repeat' split) <;> simp [h]

end Sys2Proof.Machine

/-! SUPPORT. What an answer may be: `Runs` (a next state that keeps memory's form, or the one named fault where no gang stands), and how the bodies of the
instructions and services come to it. -/

namespace Sys2Proof.Machine

open Sys2Proof.Safety

/-- The answer is a next state whose memory is canonical if the old one is, or the named fault where the cursor names no live gang. -/
def Runs (s : State) (o : Host.Outcome State Fault Refusal) : Prop :=
  (∃ t, o = .next t ∧ (Memory.wf s.mem = true → Memory.wf t.mem = true)) ∨ (o = .fault .noGang ∧ ctxOf s = none)

/-- A state that the body answers keeps memory's form. -/
def Keeps {ε : Type} (s : State) (e : Except ε State) : Prop := ∀ t, e = .ok t → Memory.wf s.mem = true → Memory.wf t.mem = true

section
variable {ε α : Type} {s t : State}

@[simp] theorem runs_next : Runs s (.next t) ↔ (Memory.wf s.mem = true → Memory.wf t.mem = true) := by simp [Runs]

theorem runs_ite {c : Prop} [Decidable c] {o o' : Host.Outcome State Fault Refusal} (h : c → Runs s o) (h' : ¬c → Runs s o') : Runs s (if c then o else o') := by
  split
  · exact h ‹_›
  · exact h' ‹_›

@[simp] theorem keeps_ok : Keeps (ε := ε) s (.ok t) ↔ (Memory.wf s.mem = true → Memory.wf t.mem = true) := by simp [Keeps]

@[simp] theorem keeps_pure : Keeps (ε := ε) s (pure t) ↔ (Memory.wf s.mem = true → Memory.wf t.mem = true) := keeps_ok

@[simp] theorem keeps_error (e : ε) : Keeps s (.error e) ↔ True := by simp [Keeps]

@[simp] theorem keeps_bind {e : Except ε α} {k : α → Except ε State} : Keeps s (e >>= k) ↔ ∀ a, e = .ok a → Keeps s (k a) := by
  cases e <;> simp [Keeps, bind, Except.bind]

@[simp] theorem keeps_map {e : Except ε α} {f : α → State} : Keeps s (f <$> e) ↔ ∀ a, e = .ok a → Memory.wf s.mem = true → Memory.wf (f a).mem = true := by
  cases e <;> simp [Keeps, Functor.map, Except.map]

@[simp] theorem keeps_ite {c : Prop} [Decidable c] {e e' : Except ε State} : Keeps s (if c then e else e') ↔ (c → Keeps s e) ∧ (¬c → Keeps s e') := by
  split <;> simp_all

theorem keeps_of {e : Except ε State} (h : Memory.wf s.mem = true → Keeps s e) : Keeps s e := fun t ht hs => h hs t ht hs

@[simp] theorem keeps_trapOf {c d : Nat} : Keeps s (trapOf c d) ↔ True := keeps_error _

end

/-- A body keeps memory's form, so does the run of it: a trap, a hold or a wait writes no memory but a trap's record. -/
theorem run_runs {s : State} {body : Ctx → Except Stop State} (h : ∀ x, Keeps x.s (body x)) : Runs s (run s body) := by
  unfold run
  split
  next hx => exact Or.inr ⟨rfl, hx⟩
  next x hx =>
    have hs : x.s = s := (ctxOf_some hx).1
    subst hs
    unfold settle
    split <;> simp +contextual
    next t ht => exact h x t ht

/-! What may come between: a hold for the combining buffer, for a table or for a launch. -/

theorem flushFor_mem {x : Ctx} {ranges : List (Nat × Nat)} {same : CombineEntry → Bool} {t : State} (h : flushFor x ranges same = some t) : t.mem = x.s.mem := by
  simp only [flushFor, Option.ite_none_right_eq_some, Option.some.injEq] at h
  obtain ⟨-, rfl⟩ := h
  simp

theorem fetchTable_mem {x : Ctx} {lanes : Mask} {addr : Nat → DWord} {t : State} (h : fetchTable x lanes addr = some t) : t.mem = x.s.mem := by
  simp only [fetchTable, Option.ite_none_left_eq_some, Option.some.injEq] at h
  obtain ⟨-, rfl⟩ := h
  rfl

theorem launchDrain_mem {x : Ctx} {scope : Nat} {t : State} (h : launchDrain x scope = some t) : t.mem = x.s.mem := by
  simp only [launchDrain, Option.ite_none_right_eq_some, Option.some.injEq] at h
  obtain ⟨-, rfl⟩ := h
  simp

end Sys2Proof.Machine

/-! SUPPORT. The operations that instructions and services share: each runs, or keeps memory's form. -/

namespace Sys2Proof.Machine

open Sys2Proof.Safety

@[simp] theorem laneOp_keeps (x : Ctx) (f : Form) (d : Reg) (n : Nat) (r : Nat → Nat) : Keeps x.s (laneOp x f d n r) := by simp +contextual [laneOp]

@[simp] theorem elemOp_keeps (x : Ctx) (f : Form) (d : Reg) (e : Nat → Nat → Nat → Nat) : Keeps x.s (elemOp x f d e) := by simp +contextual [elemOp]

@[simp] theorem scalarOp_keeps (x : Ctx) (f : Form) (d : Reg) (r : Nat) : Keeps x.s (scalarOp x f d r) := by simp +contextual [scalarOp]

@[simp] theorem sfuOp_keeps (f : SFun) (x : Ctx) (d a : Reg) : Keeps x.s (sfuOp f x d a) := by simp +contextual [sfuOp]

@[simp] theorem vectorLoad_runs (op size n : Nat) (kind : AccKind) (kindDetail : Nat → Option Nat) (d a : Reg) (off : BitVec 8) (s : State) : Runs s (vectorLoad op size n kind kindDetail d a off s) := by
  unfold vectorLoad
  refine run_runs fun x => ?_
  simp +contextual
  intros
  split
  next t ht => simp +contextual [flushFor_mem ht]
  next => simp +contextual

@[simp] theorem vectorStore_runs (op size n : Nat) (dOk : Reg → Bool) (d a : Reg) (off : BitVec 8) (s : State) : Runs s (vectorStore op size n dOk d a off s) := by
  unfold vectorStore
  refine run_runs fun x => ?_
  simp +contextual
  intros
  split
  next t ht => simp +contextual [flushFor_mem ht]
  next => simp +contextual

@[simp] theorem fetchOp_runs (op : Nat) (aop : AtomOp) (d a b : Reg) (s : State) : Runs s (fetchOp op aop d a b s) := by
  unfold fetchOp
  refine run_runs fun x => ?_
  simp +contextual
  intros
  split
  next t ht => simp +contextual [flushFor_mem ht]
  next => simp +contextual

@[simp] theorem scratchLoad_runs (op size n : Nat) (d a : Reg) (off : BitVec 8) (s : State) : Runs s (scratchLoad op size n d a off s) := by
  unfold scratchLoad
  refine run_runs fun x => ?_
  simp +contextual

@[simp] theorem scratchStore_runs (op size n : Nat) (dOk : Reg → Bool) (d a : Reg) (off : BitVec 8) (s : State) : Runs s (scratchStore op size n dOk d a off s) := by
  unfold scratchStore
  refine run_runs fun x => ?_
  simp +contextual

@[simp] theorem fenceOp_runs (op : Nat) (rel acq : Bool) (n : BitVec 16) (s : State) : Runs s (fenceOp op rel acq n s) := by
  unfold fenceOp
  refine run_runs fun x => ?_
  dsimp only
  (repeat' split) <;> simp +contextual

@[simp] theorem enterQueue_keeps (x : Ctx) (f : Form) (eq : EngineQueue) (op : EngineOp) (group : List Word) (barrier : Option Nat) : Keeps x.s (enterQueue x f eq op group barrier) := by simp +contextual [enterQueue]

@[simp] theorem startCopy_runs (op : Nat) (eop : EngineOp) (q : BitVec 8) (a : Reg) (s : State) : Runs s (startCopy op eop q a s) := by
  unfold startCopy
  refine run_runs fun x => ?_
  simp only [keeps_bind, keeps_ite]
  intros
  simp +contextual
  intros
  split <;> simp

@[simp] theorem enterMq_keeps (x : Ctx) (f : Form) (op : EngineOp) (group : List Word) (barrier : Option Nat) (after : Matrix → Matrix) : Keeps x.s (enterMq x f op group barrier after) := by simp +contextual [enterMq]

@[simp] theorem csrOp_runs (op kind : Nat) (d a b : Reg) (s : State) : Runs s (csrOp op kind d a b s) := by
  unfold csrOp
  refine run_runs fun x => ?_
  simp +contextual

@[simp] theorem tlbi_runs (a b : Option Reg) (s : State) : Runs s (tlbi a b s) := by
  unfold tlbi
  refine run_runs fun x => ?_
  simp +contextual

@[simp] theorem poolOp_runs (op : Nat) (gath : Bool) (d a : Reg) (s : State) : Runs s (poolOp op gath d a s) := by
  unfold poolOp
  refine run_runs fun x => ?_
  simp +contextual

@[simp] theorem collective_runs (op : Nat) (eop : EngineOp) (d a : Reg) (s : State) : Runs s (collective op eop d a s) := by
  unfold collective
  refine run_runs fun x => ?_
  simp +contextual

@[simp] theorem pickOp_runs (kind op : Nat) (d a b : Reg) (s : State) : Runs s (pickOp kind op d a b s) := by
  unfold pickOp
  refine run_runs fun x => ?_
  simp +contextual

@[simp] theorem setupKernel_keeps (r : Req) (s : State) : Keeps s (setupKernel r s) := by simp +contextual [setupKernel]

@[simp] theorem startResize_keeps (r : Req) (s : State) : Keeps s (startResize r s) := by simp +contextual [startResize]

@[simp] theorem submitManifest_keeps (r : Req) (s : State) : Keeps s (submitManifest r s) := by simp +contextual [submitManifest]

@[simp] theorem rotateKeys_keeps (r : Req) (s : State) : Keeps s (rotateKeys r s) := by simp +contextual [rotateKeys]

@[simp] theorem registerMember_keeps (r : Req) (s : State) : Keeps s (registerMember r s) := by simp +contextual [registerMember]

@[simp] theorem withdrawMember_keeps (r : Req) (s : State) : Keeps s (withdrawMember r s) := by simp +contextual [withdrawMember]

@[simp] theorem defineTensor_keeps (r : Req) (s : State) : Keeps s (defineTensor r s) := by simp +contextual [defineTensor]

@[simp] theorem bindSlot_keeps (r : Req) (s : State) : Keeps s (bindSlot r s) := by
  simp only [bindSlot]
  (repeat' split) <;> simp +contextual

@[simp] theorem registerKey_keeps (r : Req) (s : State) : Keeps s (registerKey r s) := by simp +contextual [registerKey]

@[simp] theorem extendRegister_keeps (r : Req) (s : State) : Keeps s (extendRegister r s) := by simp +contextual [extendRegister]

@[simp] theorem reportMeasures_keeps (r : Req) (s : State) : Keeps s (reportMeasures r s) := by simp +contextual [reportMeasures]

@[simp] theorem exportTo_keeps (r : Req) (s : State) (did : BitVec 16) (sv : Saved) (keys : List KeySlot) (policy : List Byte) : Keeps s (exportTo r s did sv keys policy) := by
  unfold exportTo
  (repeat' split) <;> simp +contextual

@[simp] theorem exportDomain_keeps (r : Req) (s : State) : Keeps s (exportDomain r s) := by
  simp only [exportDomain]
  (repeat' split) <;> simp +contextual

@[simp] theorem importDomain_keeps (r : Req) (s : State) : Keeps s (importDomain r s) := by
  simp only [importDomain, keeps_bind]
  intros
  split
  · simp
  · simp only [keeps_bind, keeps_pure]
    intros
    refine homeWrite_wf _ _ _ (wf_memZero ?_ _ _)
    simp only [installKeys_mem, modPart_mem]
    refine foldl_wf ?_ (fun s q h => handOver_wf _ _ _ _ _ (homeWrite_wf _ _ _ h)) _
    simp_all

@[simp] theorem drawChallenge_keeps (r : Req) (s : State) : Keeps s (drawChallenge r s) := by simp +contextual [drawChallenge]

@[simp] theorem loadCistern_runs (r : Req) (s : State) : Runs s (loadCistern r s) := by
  unfold loadCistern
  (repeat' split) <;> simp +contextual

@[simp] theorem respond_runs (s : State) (req : Nat) (e : Spdm) (code : Nat) (body : List Byte) : Runs s (respond s req e code body) := by simp +contextual [respond]

@[simp] theorem spdmError_runs (s : State) (req n : Nat) : Runs s (spdmError s req n) := by simp +contextual [spdmError]

@[simp] theorem poolRun_runs (op : EngineOp) (slice : Nat) (s : State) : Runs s (poolRun op slice s) := by
  unfold poolRun
  (repeat' split) <;> simp +contextual

@[simp] theorem badWord_keeps (w : Word) (e : DecodeError) (x : Ctx) : Keeps x.s (badWord w e x) := by
  simp only [badWord, keeps_bind]
  intros
  split
  · simp
  · split <;> simp

/-! Answers of services, and operations given a step to take. -/

/-- A state that goes with an answer keeps memory's form. -/
def Offers (s : State) (o : Option (Nat × State)) : Prop := ∀ n t, o = some (n, t) → Memory.wf s.mem = true → Memory.wf t.mem = true

@[simp] theorem offers_none {s : State} : Offers s none ↔ True := by simp [Offers]

@[simp] theorem offers_some {s t : State} {n : Nat} : Offers s (some (n, t)) ↔ (Memory.wf s.mem = true → Memory.wf t.mem = true) := by simp [Offers]

theorem answer_offers {f : Req → State → Except Nat State} {r : Req} {s : State} (h : Keeps s (f r s)) : Offers s (answer f r s) := by
  unfold answer
  split
  next t ht => exact offers_some.mpr (h t ht)
  next => simp

theorem answerFree_offers {f : Req → State → Except Nat State} {r : Req} {s : State} (h : Keeps s (f r s)) : Offers s (answerFree f r s) := by
  unfold answerFree
  split
  next t ht => exact offers_some.mpr (h t ht)
  next => simp

theorem serviceEvent_runs {k num : Nat} {body : Req → State → Option (Nat × State)} {s : State} (h : ∀ r, Offers s (body r s)) : Runs s (serviceEvent k num body s) := by
  unfold serviceEvent
  split
  · simp
  next r hr =>
    split
    · simp +contextual
    · split
      · simp
      next n t ht => exact runs_next.mpr fun hs => hgmbDone_wf t _ _ _ _ (h r n t ht hs)

theorem mqEvent_kept {k : Nat} {s : State} {f : Command → Option State} (h : ∀ q t, f q = some t → Memory.wf s.mem = true → Memory.wf t.mem = true) : Runs s (mqEvent k s f) := by
  unfold mqEvent
  split
  · simp
  next q hq =>
    split
    next t ht => exact runs_next.mpr (h q t ht)
    next => simp

theorem csrEvent_runs {k : Nat} {mine : Nat → Bool} {f : State → Nat → Nat → Word → State} {s : State} (h : ∀ t n v, Memory.wf s.mem = true → Memory.wf (f s t n v).mem = true) :
    Runs s (csrEvent k mine f s) := by
  unfold csrEvent
  split
  · dsimp only
    (repeat' split)
    · simp
    · simp +contextual
    · exact runs_next.mpr fun hs => superDone_wf _ _ _ _ (h _ _ _ hs)
  · simp

@[simp] theorem setOwner_offers (r : Req) (s : State) : Offers s (setOwner r s) := by
  unfold setOwner
  split
  · simp
  · dsimp only
    split
    · simp
    · exact offers_some.mpr fun hs => foldl_wf (by simp [hs]) (fun s f h => handOver_wf s _ _ _ _ h) _

@[simp] theorem sealFrames_offers (r : Req) (s : State) : Offers s (sealFrames r s) := by
  unfold sealFrames
  split
  · simp
  · split
    · simp
    · dsimp only
      (repeat' split)
      · simp
      · simp
      · exact offers_some.mpr fun hs => foldl_wf (by simp [hs]) (fun s f h => handOver_wf s _ _ _ _ h) _

@[simp] theorem pairRegions_offers (r : Req) (s : State) : Offers s (pairRegions r s) := by
  simp only [pairRegions]
  (repeat' split) <;> simp

@[simp] theorem exportWindow_offers (r : Req) (s : State) : Offers s (exportWindow r s) := by
  simp only [exportWindow]
  (repeat' split) <;> simp

theorem negotiated_runs {s : State} {req : Nat} {f : Spdm → Host.Outcome State Fault Refusal} (h : ∀ e, Runs s (f e)) : Runs s (negotiated s req f) :=
  runs_ite (fun _ => h _) fun _ => spdmError_runs s req 4

theorem unlockService_inl {scope : Nat} {finish : State → Option Digest → State} (hf : ∀ s t, Memory.wf s.mem = true → Memory.wf (finish s t).mem = true) {r : Option Req} {k : Nat}
    {s t : State} {st : Nat} (h : unlockService scope finish r k s = .inl (some (st, t))) (hs : Memory.wf s.mem = true) : Memory.wf t.mem = true := by
  unfold unlockService at h
  split at h
  · split at h
    · cases h
    · split at h
      · cases h
        exact hf _ _ (scrubProtected_wf s hs)
      · cases h
  · split at h
    · cases h
    · split at h <;> cases h
      exact hs

theorem unlockService_inr {scope : Nat} {finish : State → Option Digest → State} {r : Option Req} {k : Nat} {s t : State} (h : unlockService scope finish r k s = .inr t) : t.mem = s.mem := by
  unfold unlockService at h
  (repeat' split at h) <;> cases h <;> simp

theorem unlockEvent_runs {k num scope : Nat} {refuse : Option Nat} {finish : State → Option Digest → State} {s : State}
    (hf : ∀ s t, Memory.wf s.mem = true → Memory.wf (finish s t).mem = true) : Runs s (unlockEvent k num scope refuse finish s) := by
  unfold unlockEvent
  split
  · simp
  · split
    · simp +contextual
    · split
      next t ht => exact runs_next.mpr fun hs => (unlockService_inr ht).symm ▸ hs
      next => simp
      next t ht => exact runs_next.mpr fun hs => answerUnlock_wf t _ _ (unlockService_inl hf ht hs)

/-! Packets: an effect that keeps memory's form. -/

theorem journaled_wf {x : Parse} {s : State} {result : Word} {eff : State → Nat × State × Bool} (h : Memory.wf (eff s).2.1.mem = true) (hs : Memory.wf s.mem = true) :
    Memory.wf (journaled x s result eff).mem = true := by
  simp only [journaled]
  (repeat' split) <;> simp [h, hs]

@[simp] theorem seedEffect_wf (x : Parse) (s : State) (h : Memory.wf s.mem = true) : Memory.wf (seedEffect x s).2.1.mem = true := by
  simp only [seedEffect]
  (repeat' split) <;> simp [h]

@[simp] theorem cisternEffect_mem (x : Parse) (s : State) : (cisternEffect x s).2.1.mem = s.mem := by
  simp only [cisternEffect]
  (repeat' split) <;> simp

end Sys2Proof.Machine

/-! SUPPORT. Every instruction's meaning runs. -/

namespace Sys2Proof.Machine

open Sys2Proof.Safety

@[simp] theorem execMov_runs (d a : Reg) (s : State) : Runs s (execMov d a s) := run_runs fun _ => laneOp_keeps _ _ _ _ _

@[simp] theorem execMovi_runs (d : Reg) (n : BitVec 16) (s : State) : Runs s (execMovi d n s) := run_runs fun _ => laneOp_keeps _ _ _ _ _

@[simp] theorem execMovh_runs (d : Reg) (n : BitVec 16) (s : State) : Runs s (execMovh d n s) := run_runs fun _ => laneOp_keeps _ _ _ _ _

@[simp] theorem execAdd_runs (d a b : Reg) (s : State) : Runs s (execAdd d a b s) := run_runs fun _ => elemOp_keeps _ _ _ _

@[simp] theorem execSub_runs (d a b : Reg) (s : State) : Runs s (execSub d a b s) := run_runs fun _ => elemOp_keeps _ _ _ _

@[simp] theorem execMul_runs (d a b : Reg) (s : State) : Runs s (execMul d a b s) := run_runs fun _ => elemOp_keeps _ _ _ _

@[simp] theorem execMulh_runs (d a b : Reg) (s : State) : Runs s (execMulh d a b s) := run_runs fun _ => elemOp_keeps _ _ _ _

@[simp] theorem execMad_runs (d a b : Reg) (s : State) : Runs s (execMad d a b s) := run_runs fun _ => elemOp_keeps _ _ _ _

@[simp] theorem execNeg_runs (d a : Reg) (s : State) : Runs s (execNeg d a s) := run_runs fun _ => elemOp_keeps _ _ _ _

@[simp] theorem execAbs_runs (d a : Reg) (s : State) : Runs s (execAbs d a s) := run_runs fun _ => elemOp_keeps _ _ _ _

@[simp] theorem execMin_runs (d a b : Reg) (s : State) : Runs s (execMin d a b s) := run_runs fun _ => elemOp_keeps _ _ _ _

@[simp] theorem execMax_runs (d a b : Reg) (s : State) : Runs s (execMax d a b s) := run_runs fun _ => elemOp_keeps _ _ _ _

@[simp] theorem execDiv_runs (d a b : Reg) (s : State) : Runs s (execDiv d a b s) := run_runs fun _ => elemOp_keeps _ _ _ _

@[simp] theorem execRem_runs (d a b : Reg) (s : State) : Runs s (execRem d a b s) := run_runs fun _ => elemOp_keeps _ _ _ _

@[simp] theorem execClamp_runs (d a b : Reg) (s : State) : Runs s (execClamp d a b s) := run_runs fun _ => elemOp_keeps _ _ _ _

@[simp] theorem execSel_runs (d a b : Reg) (s : State) : Runs s (execSel d a b s) := run_runs fun _ => laneOp_keeps _ _ _ _ _

@[simp] theorem execLd8_runs (d a : Reg) (off : BitVec 8) (s : State) : Runs s (execLd8 d a off s) := vectorLoad_runs ..

@[simp] theorem execLd16_runs (d a : Reg) (off : BitVec 8) (s : State) : Runs s (execLd16 d a off s) := vectorLoad_runs ..

@[simp] theorem execLd32_runs (d a : Reg) (off : BitVec 8) (s : State) : Runs s (execLd32 d a off s) := vectorLoad_runs ..

@[simp] theorem execLd64_runs (d a : Reg) (off : BitVec 8) (s : State) : Runs s (execLd64 d a off s) := vectorLoad_runs ..

@[simp] theorem execLd128_runs (d a : Reg) (off : BitVec 8) (s : State) : Runs s (execLd128 d a off s) := vectorLoad_runs ..

@[simp] theorem execLdw_runs (d a : Reg) (off : BitVec 8) (s : State) : Runs s (execLdw d a off s) := vectorLoad_runs ..

@[simp] theorem execSt8_runs (d a : Reg) (off : BitVec 8) (s : State) : Runs s (execSt8 d a off s) := vectorStore_runs ..

@[simp] theorem execSt16_runs (d a : Reg) (off : BitVec 8) (s : State) : Runs s (execSt16 d a off s) := vectorStore_runs ..

@[simp] theorem execSt32_runs (d a : Reg) (off : BitVec 8) (s : State) : Runs s (execSt32 d a off s) := vectorStore_runs ..

@[simp] theorem execSt64_runs (d a : Reg) (off : BitVec 8) (s : State) : Runs s (execSt64 d a off s) := vectorStore_runs ..

@[simp] theorem execSt128_runs (d a : Reg) (off : BitVec 8) (s : State) : Runs s (execSt128 d a off s) := vectorStore_runs ..

@[simp] theorem execSld_runs (d a : Reg) (off : BitVec 8) (s : State) : Runs s (execSld d a off s) := by
  unfold execSld
  refine run_runs fun x => ?_
  simp +contextual
  intros
  split
  next t ht => simp +contextual [flushFor_mem ht]
  next => simp +contextual

@[simp] theorem execSst_runs (d a : Reg) (off : BitVec 8) (s : State) : Runs s (execSst d a off s) := by
  unfold execSst
  refine run_runs fun x => ?_
  simp +contextual
  intros
  split
  next t ht => simp +contextual [flushFor_mem ht]
  next => simp +contextual

@[simp] theorem execPref_runs (h : BitVec 8) (a : Reg) (off : BitVec 8) (s : State) : Runs s (execPref h a off s) := by
  unfold execPref
  refine run_runs fun x => ?_
  simp +contextual

@[simp] theorem execFetchAdd_runs (d a b : Reg) (s : State) : Runs s (execFetchAdd d a b s) := fetchOp_runs ..

@[simp] theorem execFetchMin_runs (d a b : Reg) (s : State) : Runs s (execFetchMin d a b s) := fetchOp_runs ..

@[simp] theorem execFetchMax_runs (d a b : Reg) (s : State) : Runs s (execFetchMax d a b s) := fetchOp_runs ..

@[simp] theorem execFetchAnd_runs (d a b : Reg) (s : State) : Runs s (execFetchAnd d a b s) := fetchOp_runs ..

@[simp] theorem execFetchOr_runs (d a b : Reg) (s : State) : Runs s (execFetchOr d a b s) := fetchOp_runs ..

@[simp] theorem execFetchXor_runs (d a b : Reg) (s : State) : Runs s (execFetchXor d a b s) := fetchOp_runs ..

@[simp] theorem execFetchXchg_runs (d a b : Reg) (s : State) : Runs s (execFetchXchg d a b s) := fetchOp_runs ..

@[simp] theorem execCas_runs (d a b : Reg) (s : State) : Runs s (execCas d a b s) := fetchOp_runs ..

@[simp] theorem execRed_runs (op : BitVec 8) (a b : Reg) (s : State) : Runs s (execRed op a b s) := by
  unfold execRed
  refine run_runs fun x => ?_
  simp only [keeps_bind, keeps_ite]
  intros
  simp only [keeps_pure]
  refine ⟨fun _ => by simp +contextual, fun _ _ _ _ _ => ⟨fun _ => by simp, fun _ => ?_⟩⟩
  split
  next t ht => simp +contextual [flushFor_mem ht]
  next =>
    split
    · simp +contextual
    · refine keeps_pure.mpr fun hs => retireAccess_wf _ _ _ _ ?_
      split <;> simp [hs]

@[simp] theorem execLds32_runs (d a : Reg) (off : BitVec 8) (s : State) : Runs s (execLds32 d a off s) := by
  unfold execLds32
  refine run_runs fun x => ?_
  simp +contextual

@[simp] theorem execLds64_runs (d a : Reg) (off : BitVec 8) (s : State) : Runs s (execLds64 d a off s) := by
  unfold execLds64
  refine run_runs fun x => ?_
  simp +contextual

@[simp] theorem execLds128_runs (d a : Reg) (off : BitVec 8) (s : State) : Runs s (execLds128 d a off s) := scratchLoad_runs ..

@[simp] theorem execSts32_runs (d a : Reg) (off : BitVec 8) (s : State) : Runs s (execSts32 d a off s) := by
  unfold execSts32
  refine run_runs fun x => ?_
  simp +contextual

@[simp] theorem execSts64_runs (d a : Reg) (off : BitVec 8) (s : State) : Runs s (execSts64 d a off s) := by
  unfold execSts64
  refine run_runs fun x => ?_
  simp +contextual

@[simp] theorem execSts128_runs (d a : Reg) (off : BitVec 8) (s : State) : Runs s (execSts128 d a off s) := scratchStore_runs ..

@[simp] theorem execBinit_runs (a b : Reg) (s : State) : Runs s (execBinit a b s) := by
  unfold execBinit
  refine run_runs fun x => ?_
  simp +contextual

@[simp] theorem execBarv_runs (d a : Reg) (s : State) : Runs s (execBarv d a s) := by
  unfold execBarv
  refine run_runs fun x => ?_
  simp +contextual

@[simp] theorem execBexp_runs (a b : Reg) (s : State) : Runs s (execBexp a b s) := by
  unfold execBexp
  refine run_runs fun x => ?_
  simp +contextual

@[simp] theorem execBwait_runs (d a b : Reg) (s : State) : Runs s (execBwait d a b s) := by
  unfold execBwait
  refine run_runs fun x => ?_
  simp +contextual

@[simp] theorem execBwaity_runs (d a : Reg) (off : BitVec 8) (s : State) : Runs s (execBwaity d a off s) := by
  unfold execBwaity
  refine run_runs fun x => ?_
  simp +contextual

@[simp] theorem execBwaitt_runs (d a b : Reg) (s : State) : Runs s (execBwaitt d a b s) := by
  unfold execBwaitt
  refine run_runs fun x => ?_
  simp +contextual

@[simp] theorem execBwaittTimeout_runs (k w g : Nat) (s : State) : Runs s (execBwaittTimeout k w g s) := by
  unfold execBwaittTimeout
  (repeat' split) <;> simp +contextual

@[simp] theorem execWatch_runs (d a : Reg) (off : BitVec 8) (s : State) : Runs s (execWatch d a off s) := by
  unfold execWatch
  refine run_runs fun x => ?_
  simp +contextual
  intros
  split
  next t ht => simp +contextual [flushFor_mem ht]
  next => simp +contextual

@[simp] theorem execWsleep_runs (d a : Reg) (s : State) : Runs s (execWsleep d a s) := by
  unfold execWsleep
  refine run_runs fun x => ?_
  dsimp only
  (repeat' split) <;> simp +contextual

@[simp] theorem execFence_runs (n : BitVec 16) (s : State) : Runs s (execFence n s) := by
  unfold execFence
  refine run_runs fun x => ?_
  simp +contextual

@[simp] theorem execRel_runs (n : BitVec 16) (s : State) : Runs s (execRel n s) := by
  unfold execRel
  refine run_runs fun x => ?_
  simp +contextual

@[simp] theorem execAcq_runs (n : BitVec 16) (s : State) : Runs s (execAcq n s) := fenceOp_runs ..

@[simp] theorem execWaitc_runs (c : Reg) (n : BitVec 16) (s : State) : Runs s (execWaitc c n s) := by
  unfold execWaitc
  refine run_runs fun x => ?_
  dsimp only
  (repeat' split) <;> simp +contextual

@[simp] theorem execQfence_runs (n : BitVec 16) (s : State) : Runs s (execQfence n s) := by
  unfold execQfence
  refine run_runs fun x => ?_
  dsimp only
  (repeat' split) <;> simp +contextual

@[simp] theorem execPack_runs (d a b : Reg) (s : State) : Runs s (execPack d a b s) := by
  unfold execPack
  refine run_runs fun x => ?_
  simp +contextual

@[simp] theorem execUnpack_runs (d a b : Reg) (s : State) : Runs s (execUnpack d a b s) := by
  unfold execUnpack
  refine run_runs fun x => ?_
  simp +contextual

@[simp] theorem execIll_runs (s : State) : Runs s (execIll s) := by
  unfold execIll
  refine run_runs fun x => ?_
  simp

@[simp] theorem execNop_runs (s : State) : Runs s (execNop s) := by
  unfold execNop
  refine run_runs fun x => ?_
  simp +contextual

@[simp] theorem execBra_runs (off : BitVec 24) (s : State) : Runs s (execBra off s) := by
  unfold execBra
  refine run_runs fun x => ?_
  simp +contextual

@[simp] theorem execSbra_runs (c : Reg) (off : BitVec 16) (s : State) : Runs s (execSbra c off s) := by
  unfold execSbra
  refine run_runs fun x => ?_
  simp +contextual

@[simp] theorem execBrx_runs (a : Reg) (s : State) : Runs s (execBrx a s) := by
  unfold execBrx
  refine run_runs fun x => ?_
  simp +contextual

@[simp] theorem execCall_runs (d : Reg) (off : BitVec 16) (s : State) : Runs s (execCall d off s) := by
  unfold execCall
  refine run_runs fun x => ?_
  simp +contextual

@[simp] theorem execCallx_runs (d a : Reg) (s : State) : Runs s (execCallx d a s) := by
  unfold execCallx
  refine run_runs fun x => ?_
  simp +contextual

@[simp] theorem execRet_runs (a : Reg) (s : State) : Runs s (execRet a s) := by
  unfold execRet
  refine run_runs fun x => ?_
  simp +contextual

@[simp] theorem execJoin_runs (off : BitVec 16) (s : State) : Runs s (execJoin off s) := by
  unfold execJoin
  refine run_runs fun x => ?_
  simp +contextual

@[simp] theorem execMeet_runs (s : State) : Runs s (execMeet s) := by
  unfold execMeet
  refine run_runs fun x => keeps_of fun hs => ?_
  have hr := retireTo_wf x.noStep (ctlForm 0x09) x.s x.gn.pc (fun _ => 0#32) 0 hs
  simp only [keeps_bind]
  intros
  split <;> simp [hs, hr]

@[simp] theorem execSwitch_runs (d : Reg) (n : BitVec 16) (s : State) : Runs s (execSwitch d n s) := by
  unfold execSwitch
  refine run_runs fun x => ?_
  simp only [keeps_bind]
  intros
  split
  next t ht => simp [fetchTable_mem ht]
  next => simp +contextual

@[simp] theorem execWsync_runs (n : BitVec 16) (s : State) : Runs s (execWsync n s) := by
  unfold execWsync
  refine run_runs fun x => ?_
  simp +contextual

@[simp] theorem execExit_runs (s : State) : Runs s (execExit s) := by
  unfold execExit
  refine run_runs fun x => keeps_of fun hs => ?_
  have hr := retire_wf x.noStep { op := 0x0C } x.s (fun _ => 0) hs
  simp only [keeps_bind, keeps_pure]
  exact fun _ _ _ => endStep_wf x _ (afterGangs_wf _ x.k x.w hr)

@[simp] theorem execTrap_runs (n : BitVec 16) (s : State) : Runs s (execTrap n s) := by
  unfold execTrap
  refine run_runs fun x => ?_
  simp +contextual

@[simp] theorem execYield_runs (n : BitVec 16) (s : State) : Runs s (execYield n s) := by
  unfold execYield
  refine run_runs fun x => ?_
  simp +contextual

@[simp] theorem execExec_runs (a : Reg) (s : State) : Runs s (execExec a s) := by
  unfold execExec
  refine run_runs fun x => ?_
  cases hst : x.gn.stack <;> simp +contextual

@[simp] theorem execAnd_runs (d a b : Reg) (s : State) : Runs s (execAnd d a b s) := run_runs fun _ => laneOp_keeps _ _ _ _ _

@[simp] theorem execOr_runs (d a b : Reg) (s : State) : Runs s (execOr d a b s) := run_runs fun _ => laneOp_keeps _ _ _ _ _

@[simp] theorem execXor_runs (d a b : Reg) (s : State) : Runs s (execXor d a b s) := run_runs fun _ => laneOp_keeps _ _ _ _ _

@[simp] theorem execNot_runs (d a : Reg) (s : State) : Runs s (execNot d a s) := run_runs fun _ => laneOp_keeps _ _ _ _ _

@[simp] theorem execShl_runs (d a b : Reg) (s : State) : Runs s (execShl d a b s) := run_runs fun _ => elemOp_keeps _ _ _ _

@[simp] theorem execShr_runs (d a b : Reg) (s : State) : Runs s (execShr d a b s) := run_runs fun _ => elemOp_keeps _ _ _ _

@[simp] theorem execSar_runs (d a b : Reg) (s : State) : Runs s (execSar d a b s) := run_runs fun _ => elemOp_keeps _ _ _ _

@[simp] theorem execRol_runs (d a b : Reg) (s : State) : Runs s (execRol d a b s) := run_runs fun _ => elemOp_keeps _ _ _ _

@[simp] theorem execFsh_runs (d a b : Reg) (s : State) : Runs s (execFsh d a b s) := run_runs fun _ => elemOp_keeps _ _ _ _

@[simp] theorem execClz_runs (d a : Reg) (s : State) : Runs s (execClz d a s) := run_runs fun _ => elemOp_keeps _ _ _ _

@[simp] theorem execPopc_runs (d a : Reg) (s : State) : Runs s (execPopc d a s) := run_runs fun _ => elemOp_keeps _ _ _ _

@[simp] theorem execBrev_runs (d a : Reg) (s : State) : Runs s (execBrev d a s) := run_runs fun _ => elemOp_keeps _ _ _ _

@[simp] theorem execBfx_runs (d a b : Reg) (s : State) : Runs s (execBfx d a b s) := run_runs fun _ => elemOp_keeps _ _ _ _

@[simp] theorem execBfi_runs (d a b : Reg) (s : State) : Runs s (execBfi d a b s) := run_runs fun _ => elemOp_keeps _ _ _ _

@[simp] theorem execCmp_runs (c : BitVec 5) (p : BitVec 3) (a b : Reg) (s : State) : Runs s (execCmp c p a b s) := by
  unfold execCmp
  refine run_runs fun x => ?_
  simp +contextual

@[simp] theorem execPlog_runs (t : BitVec 4) (p : BitVec 3) (a b : Reg) (s : State) : Runs s (execPlog t p a b s) := by
  unfold execPlog
  refine run_runs fun x => ?_
  simp +contextual

@[simp] theorem execCvt_runs (d a : Reg) (part : BitVec 3) (t : BitVec 5) (s : State) : Runs s (execCvt d a part t s) := run_runs fun _ => laneOp_keeps _ _ _ _ _

@[simp] theorem execRnd_runs (d a : Reg) (s : State) : Runs s (execRnd d a s) := run_runs fun _ => elemOp_keeps _ _ _ _

@[simp] theorem execRcp_runs (d a : Reg) (s : State) : Runs s (execRcp d a s) := run_runs fun _ => sfuOp_keeps _ _ _ _

@[simp] theorem execRsq_runs (d a : Reg) (s : State) : Runs s (execRsq d a s) := run_runs fun _ => sfuOp_keeps _ _ _ _

@[simp] theorem execSqrt_runs (d a : Reg) (s : State) : Runs s (execSqrt d a s) := run_runs fun _ => elemOp_keeps _ _ _ _

@[simp] theorem execEx2_runs (d a : Reg) (s : State) : Runs s (execEx2 d a s) := run_runs fun _ => sfuOp_keeps _ _ _ _

@[simp] theorem execLg2_runs (d a : Reg) (s : State) : Runs s (execLg2 d a s) := run_runs fun _ => sfuOp_keeps _ _ _ _

@[simp] theorem execSin_runs (d a : Reg) (s : State) : Runs s (execSin d a s) := run_runs fun _ => sfuOp_keeps _ _ _ _

@[simp] theorem execCos_runs (d a : Reg) (s : State) : Runs s (execCos d a s) := run_runs fun _ => sfuOp_keeps _ _ _ _

@[simp] theorem execTanh_runs (d a : Reg) (s : State) : Runs s (execTanh d a s) := run_runs fun _ => sfuOp_keeps _ _ _ _

@[simp] theorem execFcls_runs (d a : Reg) (s : State) : Runs s (execFcls d a s) := run_runs fun _ => elemOp_keeps _ _ _ _

@[simp] theorem execAddc_runs (d a b : Reg) (s : State) : Runs s (execAddc d a b s) := by
  unfold execAddc
  refine run_runs fun x => ?_
  simp +contextual

@[simp] theorem execMode_runs (d a : Reg) (s : State) : Runs s (execMode d a s) := by
  unfold execMode
  refine run_runs fun x => ?_
  simp +contextual

@[simp] theorem execModef_runs (f : BitVec 8) (n : BitVec 16) (s : State) : Runs s (execModef f n s) := by
  unfold execModef
  refine run_runs fun x => ?_
  simp +contextual

@[simp] theorem execCpy_runs (q : BitVec 8) (a : Reg) (s : State) : Runs s (execCpy q a s) := startCopy_runs ..

@[simp] theorem execCpyo_runs (q : BitVec 8) (a : Reg) (s : State) : Runs s (execCpyo q a s) := startCopy_runs ..

@[simp] theorem execMldb_runs (a : Reg) (s : State) : Runs s (execMldb a s) := by
  unfold execMldb
  refine run_runs fun x => ?_
  simp +contextual

@[simp] theorem execMmac_runs (set : BitVec 8) (a : Reg) (s : State) : Runs s (execMmac set a s) := by
  unfold execMmac
  refine run_runs fun x => ?_
  simp +contextual

@[simp] theorem execMrd_runs (clr set : Bool) (a : Reg) (s : State) : Runs s (execMrd clr set a s) := by
  unfold execMrd
  refine run_runs fun x => ?_
  simp +contextual

@[simp] theorem execMzero_runs (n : BitVec 16) (s : State) : Runs s (execMzero n s) := by
  unfold execMzero
  refine run_runs fun x => ?_
  simp +contextual

@[simp] theorem execManch_runs (set : BitVec 8) (a : Reg) (s : State) : Runs s (execManch set a s) := by
  unfold execManch
  refine run_runs fun x => ?_
  simp +contextual

@[simp] theorem execEpi_runs (a : Reg) (s : State) : Runs s (execEpi a s) := by
  unfold execEpi
  refine run_runs fun x => ?_
  simp +contextual

@[simp] theorem execMfence_runs (a : Reg) (s : State) : Runs s (execMfence a s) := by
  unfold execMfence
  refine run_runs fun x => ?_
  simp +contextual

@[simp] theorem execMtest_runs (s : State) : Runs s (execMtest s) := by
  unfold execMtest
  refine run_runs fun x => ?_
  simp +contextual

@[simp] theorem execMstat_runs (d : Reg) (n : BitVec 16) (s : State) : Runs s (execMstat d n s) := by
  unfold execMstat
  refine run_runs fun x => ?_
  simp +contextual

@[simp] theorem execCsrr_runs (d a : Reg) (s : State) : Runs s (execCsrr d a s) := by
  unfold execCsrr
  refine run_runs fun x => ?_
  simp +contextual

@[simp] theorem execCsrw_runs (d a b : Reg) (s : State) : Runs s (execCsrw d a b s) := by
  unfold execCsrw
  refine run_runs fun x => ?_
  simp +contextual

@[simp] theorem execCsrs_runs (d a b : Reg) (s : State) : Runs s (execCsrs d a b s) := by
  unfold execCsrs
  refine run_runs fun x => ?_
  simp +contextual

@[simp] theorem execCsrc_runs (d a b : Reg) (s : State) : Runs s (execCsrc d a b s) := csrOp_runs ..

@[simp] theorem execTret_runs (s : State) : Runs s (execTret s) := by
  unfold execTret
  refine run_runs fun x => ?_
  simp +contextual

@[simp] theorem execWfi_runs (s : State) : Runs s (execWfi s) := by
  unfold execWfi
  refine run_runs fun x => ?_
  simp +contextual

@[simp] theorem execSipi_runs (a b : Reg) (s : State) : Runs s (execSipi a b s) := by
  unfold execSipi
  refine run_runs fun x => ?_
  simp +contextual

@[simp] theorem execTlbiAll_runs (s : State) : Runs s (execTlbiAll s) := by
  unfold execTlbiAll
  refine run_runs fun x => ?_
  simp +contextual

@[simp] theorem execTlbiDom_runs (a : Reg) (s : State) : Runs s (execTlbiDom a s) := by
  unfold execTlbiDom
  refine run_runs fun x => ?_
  simp +contextual

@[simp] theorem execTlbiVa_runs (a b : Reg) (s : State) : Runs s (execTlbiVa a b s) := by
  unfold execTlbiVa
  refine run_runs fun x => ?_
  simp +contextual

@[simp] theorem execTlbiVaall_runs (b : Reg) (s : State) : Runs s (execTlbiVaall b s) := tlbi_runs ..

@[simp] theorem execDslw_runs (a b : Reg) (s : State) : Runs s (execDslw a b s) := by
  unfold execDslw
  refine run_runs fun x => ?_
  simp +contextual

@[simp] theorem execWswap_runs (d : Reg) (n : BitVec 16) (s : State) : Runs s (execWswap d n s) := by
  unfold execWswap
  refine run_runs fun x => ?_
  simp +contextual

@[simp] theorem execHgmb_runs (d a : Reg) (s : State) : Runs s (execHgmb d a s) := by
  unfold execHgmb
  refine run_runs fun x => ?_
  simp +contextual

@[simp] theorem execSnap_runs (n : BitVec 16) (s : State) : Runs s (execSnap n s) := by
  unfold execSnap
  refine run_runs fun x => ?_
  simp +contextual

@[simp] theorem execBrk_runs (n : BitVec 16) (s : State) : Runs s (execBrk n s) := by
  unfold execBrk
  refine run_runs fun x => ?_
  dsimp only
  (repeat' split) <;> simp +contextual

@[simp] theorem execGath_runs (d a : Reg) (s : State) : Runs s (execGath d a s) := by
  unfold execGath
  refine run_runs fun x => ?_
  simp +contextual

@[simp] theorem execPool_runs (d a : Reg) (s : State) : Runs s (execPool d a s) := poolOp_runs ..

@[simp] theorem execMcred_runs (d a : Reg) (s : State) : Runs s (execMcred d a s) := by
  unfold execMcred
  refine run_runs fun x => ?_
  simp +contextual

@[simp] theorem execMcst_runs (d a : Reg) (s : State) : Runs s (execMcst d a s) := collective_runs ..

@[simp] theorem execAgq_runs (d : Reg) (n : BitVec 16) (s : State) : Runs s (execAgq d n s) := by
  unfold execAgq
  refine run_runs fun x => ?_
  simp +contextual

@[simp] theorem execWbcast_runs (d a : Reg) (s : State) : Runs s (execWbcast d a s) := by
  unfold execWbcast
  refine run_runs fun x => ?_
  simp +contextual

@[simp] theorem execDgst_runs (d a : Reg) (s : State) : Runs s (execDgst d a s) := by
  unfold execDgst
  refine run_runs fun x => ?_
  simp +contextual

@[simp] theorem execTopen_runs (d a : Reg) (s : State) : Runs s (execTopen d a s) := by
  unfold execTopen
  refine run_runs fun x => ?_
  simp +contextual

@[simp] theorem execTcommit_runs (d a : Reg) (s : State) : Runs s (execTcommit d a s) := by
  unfold execTcommit
  refine run_runs fun x => ?_
  simp +contextual

@[simp] theorem execVgrow_runs (d : Reg) (n : BitVec 16) (s : State) : Runs s (execVgrow d n s) := by
  unfold execVgrow
  refine run_runs fun x => ?_
  dsimp only
  (repeat' split) <;> simp +contextual

@[simp] theorem execVshrink_runs (d : Reg) (n : BitVec 16) (s : State) : Runs s (execVshrink d n s) := by
  unfold execVshrink
  refine run_runs fun x => ?_
  simp +contextual

@[simp] theorem execSpawn_runs (d a b : Reg) (s : State) : Runs s (execSpawn d a b s) := by
  unfold execSpawn
  refine run_runs fun x => keeps_of fun hs => ?_
  have htree (n : Int) : Memory.wf (addTree (publishWrites x.s x.k x.did 2) x.wp.tree n).mem = true := addTree_wf _ _ _ (by simpa using hs)
  simp only [keeps_bind, keeps_ite, keeps_pure]
  intros
  refine ⟨fun _ => by simp [hs], fun _ => ⟨fun _ _ _ => ?_, fun _ => ?_⟩⟩ <;>
  · split
    next t ht => simp only [keeps_pure, launchDrain_mem (Option.ite_none_right_eq_some.mp ht).2, imp_self]
    next =>
      split
      · exact keeps_bind.mpr fun _ h => nomatch h
      · split
        · refine keeps_pure.mpr fun _ => retire_wf x _ _ _ ?_
          simp only [modGang_mem, modCore_mem, enterLanes_mem, htree, hs]
        · refine keeps_pure.mpr fun _ => ?_
          simp only [modGang_mem, modCore_mem, enterLanes_mem, htree, hs]

@[simp] theorem execGrid_runs (a : Reg) (s : State) : Runs s (execGrid a s) := by
  unfold execGrid
  refine run_runs fun x => ?_
  simp only [keeps_bind]
  intros
  split
  · simp
  · split
    next t ht => simp [launchDrain_mem ht]
    next => simp +contextual

@[simp] theorem execGate_runs (d : Reg) (n : BitVec 16) (s : State) : Runs s (execGate d n s) := by
  unfold execGate
  refine run_runs fun x => ?_
  simp +contextual

@[simp] theorem execGret_runs (s : State) : Runs s (execGret s) := by
  unfold execGret
  refine run_runs fun x => ?_
  simp +contextual

@[simp] theorem execTreeq_runs (d : Reg) (n : BitVec 16) (s : State) : Runs s (execTreeq d n s) := by
  unfold execTreeq
  refine run_runs fun x => ?_
  simp +contextual

@[simp] theorem execScrub_runs (m : BitVec 8) (a b : Reg) (s : State) : Runs s (execScrub m a b s) := by
  unfold execScrub
  refine run_runs fun x => ?_
  have hend (t : State) (ht : Memory.wf t.mem = true) : Memory.wf (if m.getLsbD 0 = true then scrubRecent x t (scrubFirst x m a) else t).mem = true := ite_wf (by simpa) ht
  simp only [keeps_bind, keeps_ite, keeps_pure]
  intros
  refine ⟨fun _ _ _ => ⟨fun _ _ h => (nomatch h), fun _ => ?_⟩, fun _ => ⟨fun _ _ h => (nomatch h), fun _ => ?_⟩⟩ <;>
  · refine ⟨fun _ t ht hs => hend t (enterMq_keeps _ _ _ _ _ _ t ht (by simpa using hs)), fun _ t ht hs => hend t ?_⟩
    cases ht
    simp [hs]

@[simp] theorem execDpre_runs (d a b : Reg) (s : State) : Runs s (execDpre d a b s) := by
  unfold execDpre
  refine run_runs fun x => ?_
  simp +contextual

@[simp] theorem execCtxs_runs (a b : Reg) (s : State) : Runs s (execCtxs a b s) := by
  unfold execCtxs
  refine run_runs fun x => ?_
  simp +contextual

@[simp] theorem execCtxl_runs (a b : Reg) (s : State) : Runs s (execCtxl a b s) := by
  unfold execCtxl
  refine run_runs fun x => ?_
  simp only [keeps_bind]
  intros
  (repeat' split) <;> simp_all

@[simp] theorem execVote_runs (d a : Reg) (op : BitVec 8) (s : State) : Runs s (execVote d a op s) := by
  unfold execVote
  refine run_runs fun x => ?_
  simp +contextual

@[simp] theorem execPickIdx_runs (d a b : Reg) (s : State) : Runs s (execPickIdx d a b s) := pickOp_runs ..

@[simp] theorem execPickUp_runs (d a b : Reg) (s : State) : Runs s (execPickUp d a b s) := pickOp_runs ..

@[simp] theorem execPickDn_runs (d a b : Reg) (s : State) : Runs s (execPickDn d a b s) := pickOp_runs ..

@[simp] theorem execPickXor_runs (d a b : Reg) (s : State) : Runs s (execPickXor d a b s) := pickOp_runs ..

@[simp] theorem execScan_runs (d a : Reg) (op : BitVec 8) (s : State) : Runs s (execScan d a op s) := run_runs fun _ => laneOp_keeps _ _ _ _ _

@[simp] theorem execScanx_runs (d a : Reg) (op : BitVec 8) (s : State) : Runs s (execScanx d a op s) := run_runs fun _ => laneOp_keeps _ _ _ _ _

@[simp] theorem execRedx_runs (d a : Reg) (op : BitVec 8) (s : State) : Runs s (execRedx d a op s) := by
  unfold execRedx
  refine run_runs fun x => ?_
  simp +contextual

@[simp] theorem execMatchEq_runs (d a : Reg) (s : State) : Runs s (execMatchEq d a s) := run_runs fun _ => laneOp_keeps _ _ _ _ _

@[simp] theorem execV2s_runs (d a b : Reg) (s : State) : Runs s (execV2s d a b s) := by
  unfold execV2s
  refine run_runs fun x => ?_
  simp +contextual

@[simp] theorem execVmovx_runs (d a b : Reg) (s : State) : Runs s (execVmovx d a b s) := by
  unfold execVmovx
  refine run_runs fun x => ?_
  simp +contextual

@[simp] theorem execVstx_runs (d a b : Reg) (s : State) : Runs s (execVstx d a b s) := by
  unfold execVstx
  refine run_runs fun x => ?_
  simp +contextual

@[simp] theorem execSmov_runs (d a : Reg) (s : State) : Runs s (execSmov d a s) := run_runs fun _ => scalarOp_keeps _ _ _ _

@[simp] theorem execSmovi_runs (d : Reg) (n : BitVec 16) (s : State) : Runs s (execSmovi d n s) := run_runs fun _ => scalarOp_keeps _ _ _ _

@[simp] theorem execSmovh_runs (d : Reg) (n : BitVec 16) (s : State) : Runs s (execSmovh d n s) := by
  unfold execSmovh
  refine run_runs fun x => ?_
  simp +contextual

@[simp] theorem execSadd_runs (d a b : Reg) (s : State) : Runs s (execSadd d a b s) := run_runs fun _ => scalarOp_keeps _ _ _ _

@[simp] theorem execSsub_runs (d a b : Reg) (s : State) : Runs s (execSsub d a b s) := run_runs fun _ => scalarOp_keeps _ _ _ _

@[simp] theorem execSmul_runs (d a b : Reg) (s : State) : Runs s (execSmul d a b s) := run_runs fun _ => scalarOp_keeps _ _ _ _

@[simp] theorem execSmulh_runs (d a b : Reg) (s : State) : Runs s (execSmulh d a b s) := run_runs fun _ => scalarOp_keeps _ _ _ _

@[simp] theorem execSand_runs (d a b : Reg) (s : State) : Runs s (execSand d a b s) := run_runs fun _ => scalarOp_keeps _ _ _ _

@[simp] theorem execSor_runs (d a b : Reg) (s : State) : Runs s (execSor d a b s) := run_runs fun _ => scalarOp_keeps _ _ _ _

@[simp] theorem execSxor_runs (d a b : Reg) (s : State) : Runs s (execSxor d a b s) := run_runs fun _ => scalarOp_keeps _ _ _ _

@[simp] theorem execSshl_runs (d a b : Reg) (s : State) : Runs s (execSshl d a b s) := run_runs fun _ => scalarOp_keeps _ _ _ _

@[simp] theorem execSshr_runs (d a b : Reg) (s : State) : Runs s (execSshr d a b s) := run_runs fun _ => scalarOp_keeps _ _ _ _

@[simp] theorem execSsar_runs (d a b : Reg) (s : State) : Runs s (execSsar d a b s) := run_runs fun _ => scalarOp_keeps _ _ _ _

@[simp] theorem execSseq_runs (d a b : Reg) (s : State) : Runs s (execSseq d a b s) := run_runs fun _ => scalarOp_keeps _ _ _ _

@[simp] theorem execSslt_runs (d a b : Reg) (s : State) : Runs s (execSslt d a b s) := run_runs fun _ => scalarOp_keeps _ _ _ _

@[simp] theorem execSsltn_runs (d a b : Reg) (s : State) : Runs s (execSsltn d a b s) := run_runs fun _ => scalarOp_keeps _ _ _ _

end Sys2Proof.Machine

/-! SUPPORT. The steps of the surroundings run: accesses, copies, engines, scheduling. -/

namespace Sys2Proof.Machine

open Sys2Proof.Safety

@[simp] theorem execLoadSectorLand_runs (k id sector : Nat) (s : State) : Runs s (execLoadSectorLand k id sector s) := by
  simp only [execLoadSectorLand]
  (repeat' split) <;> simp +contextual

@[simp] theorem execScratchpadLoadReturn_runs (k id : Nat) (s : State) : Runs s (execScratchpadLoadReturn k id s) := by
  unfold execScratchpadLoadReturn
  (repeat' split) <;> simp +contextual

@[simp] theorem execStoreAck_runs (k id : Nat) (s : State) : Runs s (execStoreAck k id s) := by
  unfold execStoreAck
  (repeat' split) <;> simp +contextual

@[simp] theorem execHomeLoad_runs (k id line : Nat) (s : State) : Runs s (execHomeLoad k id line s) := by
  simp only [execHomeLoad]
  (repeat' split) <;> simp +contextual

@[simp] theorem execHomeStore_runs (k id line : Nat) (s : State) : Runs s (execHomeStore k id line s) := by
  unfold execHomeStore
  split
  · simp
  · split
    · simp
    · dsimp only
      split
      · simp
      next t ht =>
        have hwf := fun h : Memory.wf s.mem = true => performStore_wf (by simpa using h) ht
        split
        · split <;> simp +contextual [hwf]
        · exact runs_next.mpr hwf

@[simp] theorem execHomeAtomic_runs (k id lane : Nat) (s : State) : Runs s (execHomeAtomic k id lane s) := by
  unfold execHomeAtomic
  split
  · simp
  · split
    · simp
    · refine runs_ite (fun _ => by simp) fun _ => ?_
      dsimp only
      split
      · simp +contextual
      · simp +contextual
      · exact runs_next.mpr fun hs => afterAtomic_wf _ _ _ _ _ (atomAt_wf _ _ _ _ _ (by simp [hs]))

@[simp] theorem execAtomicReturn_runs (k id : Nat) (s : State) : Runs s (execAtomicReturn k id s) := by
  unfold execAtomicReturn
  (repeat' split) <;> simp +contextual

@[simp] theorem execRemoteAtomicTimeout_runs (k id : Nat) (s : State) : Runs s (execRemoteAtomicTimeout k id s) := by
  have hall (k id : Nat) (ls : List LaneAcc) (s : State) (h : Memory.wf s.mem = true) : Memory.wf (ls.foldl (timeOutLane k id) s).mem = true :=
    foldl_wf h (fun s la h => timeOutLane_wf k id s la h) ls
  unfold execRemoteAtomicTimeout
  split
  · simp
  · split
    · simp
    · dsimp only
      split
      · split <;> simp +contextual [hall]
      · exact runs_next.mpr (hall _ _ _ _)

@[simp] theorem execCombiningEntryExpiry_runs (k i : Nat) (s : State) : Runs s (execCombiningEntryExpiry k i s) := by
  unfold execCombiningEntryExpiry
  (repeat' split) <;> simp +contextual

@[simp] theorem execMonitorDrop_runs (k w g : Nat) (s : State) : Runs s (execMonitorDrop k w g s) := by
  unfold execMonitorDrop
  (repeat' split) <;> simp +contextual

@[simp] theorem execWsleepTimeout_runs (k w g : Nat) (s : State) : Runs s (execWsleepTimeout k w g s) := by
  unfold execWsleepTimeout
  (repeat' split) <;> simp +contextual

@[simp] theorem execTranslationWalk_runs (slice : Nat) (s : State) : Runs s (execTranslationWalk slice s) := by
  simp only [execTranslationWalk]
  (repeat' split) <;> simp +contextual

@[simp] theorem execTranslationAnswer_runs (slice idx : Nat) (s : State) : Runs s (execTranslationAnswer slice idx s) := by
  simp only [execTranslationAnswer]
  (repeat' split) <;> simp +contextual

@[simp] theorem execRelDrainDone_runs (k w g : Nat) (s : State) : Runs s (execRelDrainDone k w g s) := by
  unfold execRelDrainDone
  (repeat' split) <;> simp +contextual

@[simp] theorem execAcqWaitDone_runs (k w g : Nat) (s : State) : Runs s (execAcqWaitDone k w g s) := by
  unfold execAcqWaitDone
  (repeat' split) <;> simp +contextual

@[simp] theorem execQfenceRelease_runs (k id : Nat) (s : State) : Runs s (execQfenceRelease k id s) := by
  unfold execQfenceRelease
  split
  · simp
  · refine runs_next.mpr fun hs => foldl_wf ?_ (fun s q h => ?_) _
    · exact hs
    · split <;> simp [h]

@[simp] theorem execEngineFaultDeliver_runs (k w : Nat) (s : State) : Runs s (execEngineFaultDeliver k w s) := by
  unfold execEngineFaultDeliver
  (repeat' split) <;> simp +contextual

@[simp] theorem execRefreshWindow_runs (die : Nat) (s : State) : Runs s (execRefreshWindow die s) := by
  unfold execRefreshWindow
  (repeat' split) <;> simp +contextual

@[simp] theorem execCisternScrub_runs (die : Nat) (sound : Bool) (s : State) : Runs s (execCisternScrub die sound s) := by
  simp only [execCisternScrub]
  (repeat' split) <;> simp +contextual

@[simp] theorem execCopyStart_runs (k q : Nat) (s : State) : Runs s (execCopyStart k q s) := by
  unfold execCopyStart
  (repeat' split) <;> simp +contextual

@[simp] theorem execCopyChunk_runs (k q : Nat) (s : State) : Runs s (execCopyChunk k q s) := by
  simp only [execCopyChunk]
  (repeat' split) <;> simp +contextual

@[simp] theorem execCopyPieceLand_runs (k q off : Nat) (s : State) : Runs s (execCopyPieceLand k q off s) := by
  unfold execCopyPieceLand
  split
  · simp
  · split
    · simp
    · dsimp only
      split
      · simp
      · split
        · simp
        next bs bad t ht => exact runs_next.mpr fun hs => landPiece_wf _ _ _ _ _ (engineRead_wf hs ht)

@[simp] theorem execCopyoPieceAck_runs (k q off : Nat) (s : State) : Runs s (execCopyoPieceAck k q off s) := by
  simp only [execCopyoPieceAck]
  (repeat' split) <;> simp +contextual

@[simp] theorem execMldbRun_runs (k : Nat) (s : State) : Runs s (execMldbRun k s) := by
  refine mqEvent_kept fun q t ht hs => ?_
  split at ht <;> cases ht
  exact hs

@[simp] theorem execMmacRun_runs (k : Nat) (s : State) : Runs s (execMmacRun k s) := by
  refine mqEvent_kept fun q t ht hs => ?_
  dsimp only at ht
  split at ht <;> cases ht
  exact hs

@[simp] theorem execMzeroRun_runs (k : Nat) (s : State) : Runs s (execMzeroRun k s) := by
  refine mqEvent_kept fun q t ht hs => ?_
  split at ht <;> cases ht
  exact hs

@[simp] theorem execManchRun_runs (k : Nat) (s : State) : Runs s (execManchRun k s) := by
  refine mqEvent_kept fun q t ht hs => ?_
  split at ht <;> cases ht
  exact hs

@[simp] theorem execEpiRun_runs (k : Nat) (s : State) : Runs s (execEpiRun k s) := by
  refine mqEvent_kept fun q t ht hs => ?_
  split at ht <;> cases ht
  exact hs

@[simp] theorem execMrdRun_runs (k : Nat) (s : State) : Runs s (execMrdRun k s) := by
  refine mqEvent_kept fun q t ht hs => ?_
  dsimp only at ht
  split at ht <;> cases ht
  exact hs

@[simp] theorem execMtestRun_runs (k : Nat) (fails : BitVec 8) (s : State) : Runs s (execMtestRun k fails s) := by
  refine mqEvent_kept fun q t ht hs => ?_
  dsimp only at ht
  split at ht <;> cases ht
  exact hs

@[simp] theorem execMfenceRun_runs (k : Nat) (fail : Bool) (s : State) : Runs s (execMfenceRun k fail s) := by
  refine mqEvent_kept fun q t ht hs => ?_
  dsimp only at ht
  split at ht
  · cases ht
    split
    · exact engineArrive_wf _ _ _ _ hs
    · exact hs
  · cases ht

@[simp] theorem execScrubMatrixRun_runs (k : Nat) (s : State) : Runs s (execScrubMatrixRun k s) := by
  refine mqEvent_kept fun q t ht hs => ?_
  dsimp only at ht
  split at ht <;> cases ht
  exact hs

@[simp] theorem execSelfTestIdle_runs (k : Nat) (fail : Bool) (s : State) : Runs s (execSelfTestIdle k fail s) := by
  simp only [execSelfTestIdle]
  (repeat' split) <;> simp +contextual

@[simp] theorem execIsctlWrite_runs (k : Nat) (s : State) : Runs s (execIsctlWrite k s) := csrEvent_runs fun _ _ _ hs => hs

@[simp] theorem execIpendWrite_runs (k : Nat) (s : State) : Runs s (execIpendWrite k s) := csrEvent_runs fun _ _ _ hs => hs

@[simp] theorem execWatchRegWrite_runs (k : Nat) (s : State) : Runs s (execWatchRegWrite k s) := csrEvent_runs fun _ _ _ hs => hs

@[simp] theorem execCsrWrite_runs (k : Nat) (s : State) : Runs s (execCsrWrite k s) := csrEvent_runs fun _ _ _ hs => hs

@[simp] theorem execWfiWake_runs (k : Nat) (s : State) : Runs s (execWfiWake k s) := by
  unfold execWfiWake
  (repeat' split) <;> simp +contextual

@[simp] theorem execSipiDeliver_runs (k : Nat) (s : State) : Runs s (execSipiDeliver k s) := by
  unfold execSipiDeliver
  (repeat' split) <;> simp +contextual

@[simp] theorem execDebugHalt_runs (k : Nat) (s : State) : Runs s (execDebugHalt k s) := by
  simp only [execDebugHalt]
  (repeat' split) <;> simp +contextual

@[simp] theorem execDebugResume_runs (k : Nat) (s : State) : Runs s (execDebugResume k s) := by
  have hall (ws : List Nat) (f : Warp → Warp) (k : Nat) (s : State) (h : Memory.wf s.mem = true) : Memory.wf (ws.foldl (fun s w => afterGangs (s.modWarp k w f) k w) s).mem = true :=
    foldl_wf h (fun s w h => afterGangs_wf (s.modWarp k w f) k w h) ws
  unfold execDebugResume
  split
  · simp
  · exact runs_next.mpr fun hs => finishDebug_wf _ _ _ _ (hall _ _ _ s hs)

@[simp] theorem execDebugStep_runs (k : Nat) (s : State) : Runs s (execDebugStep k s) := by
  unfold execDebugStep
  (repeat' split) <;> simp +contextual

@[simp] theorem execDebugDump_runs (k : Nat) (s : State) : Runs s (execDebugDump k s) := by
  unfold execDebugDump
  (repeat' split) <;> simp +contextual

@[simp] theorem execDebugArm_runs (k : Nat) (s : State) : Runs s (execDebugArm k s) := by
  unfold execDebugArm
  (repeat' split) <;> simp +contextual

@[simp] theorem execDebugRead_runs (k : Nat) (s : State) : Runs s (execDebugRead k s) := by
  unfold execDebugRead
  (repeat' split) <;> simp +contextual

@[simp] theorem execDebugBadCommand_runs (k : Nat) (s : State) : Runs s (execDebugBadCommand k s) := by
  unfold execDebugBadCommand
  (repeat' split) <;> simp +contextual

@[simp] theorem execPoolRowArrive_runs (slice row : Nat) (s : State) : Runs s (execPoolRowArrive slice row s) := by
  unfold execPoolRowArrive
  split
  · simp
  · dsimp only
    split
    · simp
    · split
      · simp
      · simp
      · split
        · simp
        next bs bad t ht => exact runs_next.mpr fun hs => by simpa using readParts_wf hs ht

@[simp] theorem execGathRun_runs (slice : Nat) (s : State) : Runs s (execGathRun slice s) := poolRun_runs ..

@[simp] theorem execPoolRun_runs (slice : Nat) (s : State) : Runs s (execPoolRun slice s) := poolRun_runs ..

@[simp] theorem execMcredRun_runs (slice : Nat) (s : State) : Runs s (execMcredRun slice s) := by
  simp only [execMcredRun]
  (repeat' split) <;> simp +contextual

@[simp] theorem execMcstRun_runs (slice : Nat) (s : State) : Runs s (execMcstRun slice s) := by
  unfold execMcstRun
  split
  · simp
  · split
    · simp
    · split
      · simp
      · dsimp only
        split
        · simp
        · split
          · simp
          · simp
          · split
            · simp
            next bs bad t ht => exact runs_next.mpr fun hs => performMcst_wf _ _ _ _ _ _ (by simpa using readParts_wf hs ht)

@[simp] theorem execWbcastRun_runs (slice : Nat) (s : State) : Runs s (execWbcastRun slice s) := by
  unfold execWbcastRun
  split
  · simp
  · split
    · simp
    · split
      · simp
      · dsimp only
        split
        · simp
        · split
          · simp
          · simp
          · split
            · simp
            next bs bad t ht => exact runs_next.mpr fun hs => performWbcast_wf _ _ _ _ _ _ (by simpa using readParts_wf hs ht)

@[simp] theorem execDgstRun_runs (slice : Nat) (s : State) : Runs s (execDgstRun slice s) := by
  unfold execDgstRun
  split
  · simp
  · dsimp only
    refine runs_ite (fun _ => by simp) fun _ => runs_ite (fun _ => by simp +contextual [apply_ite]) fun _ => runs_ite (fun _ => by simp) fun _ => runs_ite (fun _ => by simp) fun _ =>
      runs_ite (fun _ => by simp) fun _ => runs_ite (fun _ => by simp) fun _ => runs_ite (fun _ => by simp) fun _ => by simp

@[simp] theorem execEngineCommandComplete_runs (slice : Nat) (eq : EngineQueue) (s : State) : Runs s (execEngineCommandComplete slice eq s) := by
  unfold execEngineCommandComplete
  (repeat' split) <;> simp +contextual

@[simp] theorem execVgrowGrant_runs (k q : Nat) (s : State) : Runs s (execVgrowGrant k q s) := by
  unfold execVgrowGrant
  refine runs_ite (fun _ => by simp) fun _ => ?_
  split
  next t ht =>
    obtain ⟨⟨_, sl⟩, _, hsl⟩ := List.exists_of_findSome?_eq_some ht
    dsimp only at hsl
    split at hsl
    · exact runs_next.mpr fun hs => serveGrow_wf hs hsl
    · cases hsl
  next => simp

@[simp] theorem execBinTimerExpiry_runs (k i : Nat) (s : State) : Runs s (execBinTimerExpiry k i s) := by
  simp only [execBinTimerExpiry]
  (repeat' split) <;> simp +contextual

@[simp] theorem execLooseWarpPlace_runs (k i : Nat) (s : State) : Runs s (execLooseWarpPlace k i s) := by
  unfold execLooseWarpPlace
  split
  · simp
  · split
    · cases ht : placeLoose s k i with
      | none => simp
      | some t => simp [placeLoose_mem ht]
    · simp

@[simp] theorem execLaunchRequest_runs (slice lane : Nat) (s : State) : Runs s (execLaunchRequest slice lane s) := by
  unfold execLaunchRequest
  (repeat' split) <;> simp +contextual

@[simp] theorem execDispatchBlock_runs (p : Nat) (s : State) : Runs s (execDispatchBlock p s) := by
  unfold execDispatchBlock
  (repeat' split) <;> simp +contextual

@[simp] theorem execWarpRetire_runs (k w : Nat) (s : State) : Runs s (execWarpRetire k w s) := by
  unfold execWarpRetire
  (repeat' split) <;> simp +contextual

@[simp] theorem execQuantumEnd_runs (slice : Nat) (s : State) : Runs s (execQuantumEnd slice s) := by
  unfold execQuantumEnd
  (repeat' split) <;> simp +contextual

@[simp] theorem execPacketFetch_runs (slice lane : Nat) (s : State) : Runs s (execPacketFetch slice lane s) := by
  simp only [execPacketFetch]
  (repeat' split) <;> simp +contextual

@[simp] theorem execPacketNop_runs (slice lane : Nat) (s : State) : Runs s (execPacketNop slice lane s) := by
  unfold execPacketNop
  (repeat' split) <;> simp +contextual

@[simp] theorem execPacketSeed_runs (slice lane : Nat) (s : State) : Runs s (execPacketSeed slice lane s) := by
  unfold execPacketSeed
  split
  · simp
  · exact runs_next.mpr fun hs => journaled_wf (seedEffect_wf _ _ hs) hs

@[simp] theorem execPacketSignal_runs (slice lane : Nat) (s : State) : Runs s (execPacketSignal slice lane s) := by
  unfold execPacketSignal
  split
  · simp
  · exact runs_next.mpr fun hs => journaled_wf (hs) hs

@[simp] theorem execPacketWaitsig_runs (slice lane : Nat) (s : State) : Runs s (execPacketWaitsig slice lane s) := by
  unfold execPacketWaitsig
  (repeat' split) <;> simp +contextual

@[simp] theorem execPacketCistern_runs (slice lane : Nat) (s : State) : Runs s (execPacketCistern slice lane s) := by
  unfold execPacketCistern
  split
  · simp
  · exact runs_next.mpr fun hs => journaled_wf (by rwa [cisternEffect_mem]) hs

@[simp] theorem execPacketQuery_runs (slice lane : Nat) (s : State) : Runs s (execPacketQuery slice lane s) := by
  unfold execPacketQuery
  split
  · simp
  · refine runs_ite (fun _ => by simp +contextual) fun _ => ?_
    dsimp only
    split
    · simp +contextual
    · refine runs_ite (fun _ => by simp +contextual) fun _ => ?_
      exact runs_next.mpr fun hs => complete_wf _ _ _ (laneWrite_wf _ _ _ _ _ (by split <;> simp [hs]))

@[simp] theorem execFirmwareRestart_runs (p : Nat) (s : State) : Runs s (execFirmwareRestart p s) := by
  unfold execFirmwareRestart
  (repeat' split) <;> simp +contextual

@[simp] theorem execCisternWriteStart_runs (i : Nat) (s : State) : Runs s (execCisternWriteStart i s) := by
  unfold execCisternWriteStart
  split
  · simp
  next w hw =>
    dsimp only
    refine runs_ite (fun _ => by simp) fun _ => ?_
    split
    · simp
    next bs bad t ht =>
      have hwf (hs : Memory.wf s.mem = true) : Memory.wf t.mem = true := by
        split at ht
        · exact content_wf hs ht
        · cases ht
          exact hs
      have hdone (hs : Memory.wf s.mem = true) : Memory.wf (if regionOf s w.part (w.offset / 2 ^ 26) = true then performCistern t w bs bad else t).mem = true := by
        exact ite_wf (by simp [hwf hs]) (hwf hs)
      split
      · exact runs_next.mpr fun hs => cisternDone_wf _ _ _ (hdone hs)
      · split
        · exact runs_next.mpr fun hs => hgmbDone_wf _ _ _ _ _ (cisternDone_wf _ _ _ (hdone hs))
        · exact runs_next.mpr fun hs => cisternDone_wf _ _ _ (hdone hs)

@[simp] theorem execGateProceed_runs (k w : Nat) (s : State) : Runs s (execGateProceed k w s) := by
  unfold execGateProceed
  (repeat' split) <;> simp +contextual

@[simp] theorem execGretProceed_runs (k w : Nat) (s : State) : Runs s (execGretProceed k w s) := by
  unfold execGretProceed
  (repeat' split) <;> simp +contextual

@[simp] theorem execWarpHalt_runs (k w : Nat) (s : State) : Runs s (execWarpHalt k w s) := by
  unfold execWarpHalt
  (repeat' split) <;> simp +contextual

end Sys2Proof.Machine

/-! SUPPORT. The steps of the surroundings run: work, packets, services, fabric, management. -/

namespace Sys2Proof.Machine

open Sys2Proof.Safety

@[simp] theorem execDpreComplete_runs (k : Nat) (s : State) : Runs s (execDpreComplete k s) := by
  unfold execDpreComplete
  (repeat' split) <;> simp +contextual

@[simp] theorem execBatchReopen_runs (k : Nat) (s : State) : Runs s (execBatchReopen k s) := by
  simp only [execBatchReopen]
  (repeat' split) <;> simp +contextual

@[simp] theorem execUnitScrubDone_runs (k : Nat) (u : PowerUnit) (s : State) : Runs s (execUnitScrubDone k u s) := by
  unfold execUnitScrubDone
  (repeat' split) <;> simp +contextual

@[simp] theorem execUnitWake_runs (k : Nat) (u : PowerUnit) (s : State) : Runs s (execUnitWake k u s) := by
  unfold execUnitWake
  (repeat' split) <;> simp +contextual

@[simp] theorem execUnitPowerDown_runs (k : Nat) (u : PowerUnit) (s : State) : Runs s (execUnitPowerDown k u s) := by
  simp only [execUnitPowerDown]
  (repeat' split) <;> simp +contextual

@[simp] theorem execKernelSetup_runs (k : Nat) (s : State) : Runs s (execKernelSetup k s) := serviceEvent_runs fun r => answer_offers (setupKernel_keeps r s)

@[simp] theorem execResize_runs (k : Nat) (s : State) : Runs s (execResize k s) := serviceEvent_runs fun r => answer_offers (startResize_keeps r s)

@[simp] theorem execReinterleaveGroup_runs (p : Nat) (s : State) : Runs s (execReinterleaveGroup p s) := by
  unfold execReinterleaveGroup
  (repeat' split) <;> simp +contextual

@[simp] theorem execSetOwner_runs (k : Nat) (s : State) : Runs s (execSetOwner k s) := by
  unfold execSetOwner
  split
  · simp
  · split
    · split <;> simp +contextual
    · exact serviceEvent_runs fun r => setOwner_offers r s

@[simp] theorem execSealFrames_runs (k : Nat) (s : State) : Runs s (execSealFrames k s) := by
  unfold execSealFrames
  split
  · simp
  · split
    · split <;> simp +contextual
    · exact serviceEvent_runs fun r => sealFrames_offers r s

@[simp] theorem execManifestSubmit_runs (k : Nat) (s : State) : Runs s (execManifestSubmit k s) := serviceEvent_runs fun r => answer_offers (submitManifest_keeps r s)

@[simp] theorem execCisternPairing_runs (k : Nat) (s : State) : Runs s (execCisternPairing k s) := serviceEvent_runs fun r => pairRegions_offers r s

@[simp] theorem execCisternLoad_runs (k : Nat) (s : State) : Runs s (execCisternLoad k s) := by
  unfold execCisternLoad
  (repeat' split) <;> simp +contextual

@[simp] theorem execKeyRotateRequest_runs (k : Nat) (s : State) : Runs s (execKeyRotateRequest k s) := serviceEvent_runs fun r => answer_offers (rotateKeys_keeps r s)

@[simp] theorem execPeerWindow_runs (k : Nat) (s : State) : Runs s (execPeerWindow k s) := serviceEvent_runs fun r => exportWindow_offers r s

@[simp] theorem execGroupRegister_runs (k : Nat) (s : State) : Runs s (execGroupRegister k s) := serviceEvent_runs fun r => answer_offers (registerMember_keeps r s)

@[simp] theorem execGroupWithdraw_runs (k : Nat) (s : State) : Runs s (execGroupWithdraw k s) := serviceEvent_runs fun r => answer_offers (withdrawMember_keeps r s)

@[simp] theorem execMemberAbsent_runs (group member : Nat) (s : State) : Runs s (execMemberAbsent group member s) := by simp +contextual [execMemberAbsent]

@[simp] theorem execMemberReturn_runs (group member : Nat) (meas : BitVec 384) (s : State) : Runs s (execMemberReturn group member meas s) := by simp +contextual [execMemberReturn]

@[simp] theorem execTensorDefine_runs (k : Nat) (s : State) : Runs s (execTensorDefine k s) := serviceEvent_runs fun r => answer_offers (defineTensor_keeps r s)

@[simp] theorem execFrameReceive_runs (port : Nat) (frame : Frame) (s : State) : Runs s (execFrameReceive port frame s) := by
  simp only [execFrameReceive]
  (repeat' split) <;> simp +contextual

@[simp] theorem execFrameReplay_runs (port : Nat) (s : State) : Runs s (execFrameReplay port s) := by
  simp only [execFrameReplay]
  (repeat' split) <;> simp +contextual

@[simp] theorem execPortRetrain_runs (port : Nat) (s : State) : Runs s (execPortRetrain port s) := by
  simp only [execPortRetrain]
  (repeat' split) <;> simp +contextual

@[simp] theorem execKeyRotation_runs (port : Nat) (s : State) : Runs s (execKeyRotation port s) := by simp +contextual [execKeyRotation]

@[simp] theorem execFabricReadResponse_runs (port : Nat) (pkt : Packet) (s : State) : Runs s (execFabricReadResponse port pkt s) := by
  simp only [execFabricReadResponse]
  (repeat' split) <;> simp +contextual

@[simp] theorem execFabricWriteAck_runs (port : Nat) (pkt : Packet) (s : State) : Runs s (execFabricWriteAck port pkt s) := by
  simp only [execFabricWriteAck]
  (repeat' split) <;> simp +contextual

@[simp] theorem execFabricAtomicResponse_runs (port : Nat) (pkt : Packet) (s : State) : Runs s (execFabricAtomicResponse port pkt s) := by
  simp only [execFabricAtomicResponse]
  (repeat' split) <;> simp +contextual

@[simp] theorem execPortDown_runs (port : Nat) (s : State) : Runs s (execPortDown port s) := by
  simp only [execPortDown]
  (repeat' split) <;> simp +contextual

@[simp] theorem execFabricErrorResponse_runs (port : Nat) (pkt : Packet) (s : State) : Runs s (execFabricErrorResponse port pkt s) := by
  simp only [execFabricErrorResponse]
  (repeat' split) <;> simp +contextual

@[simp] theorem execWindowAccess_runs (port : Nat) (pkt : Packet) (s : State) : Runs s (execWindowAccess port pkt s) := by
  unfold execWindowAccess
  (repeat' split) <;> simp +contextual

@[simp] theorem execFabricMulticastLine_runs (port : Nat) (pkt : Packet) (s : State) : Runs s (execFabricMulticastLine port pkt s) := by
  simp only [execFabricMulticastLine]
  (repeat' split) <;> simp +contextual

@[simp] theorem execCxlHostRequest_runs (part region : Nat) (s : State) : Runs s (execCxlHostRequest part region s) := by
  simp only [execCxlHostRequest]
  (repeat' split) <;> simp +contextual

@[simp] theorem execCxlRegionReclaim_runs (part region : Nat) (s : State) : Runs s (execCxlRegionReclaim part region s) := by
  unfold execCxlRegionReclaim
  (repeat' split) <;> simp +contextual

@[simp] theorem execBindKeySlot_runs (k : Nat) (s : State) : Runs s (execBindKeySlot k s) := serviceEvent_runs fun r => answer_offers (bindSlot_keeps r s)

@[simp] theorem execRegisterOwnerKey_runs (k : Nat) (s : State) : Runs s (execRegisterOwnerKey k s) := serviceEvent_runs fun r => answer_offers (registerKey_keeps r s)

@[simp] theorem execExtendMeasurement_runs (k : Nat) (s : State) : Runs s (execExtendMeasurement k s) := serviceEvent_runs fun r => answer_offers (extendRegister_keeps r s)

@[simp] theorem execMeasurementReport_runs (k : Nat) (s : State) : Runs s (execMeasurementReport k s) := serviceEvent_runs fun r => answer_offers (reportMeasures_keeps r s)

@[simp] theorem execMigrationExport_runs (k : Nat) (s : State) : Runs s (execMigrationExport k s) := serviceEvent_runs fun r => answerFree_offers (exportDomain_keeps r s)

@[simp] theorem execMigrationReceipt_runs (part : Nat) (did : BitVec 16) (s : State) : Runs s (execMigrationReceipt part did s) := by
  unfold execMigrationReceipt
  (repeat' split) <;> simp +contextual

@[simp] theorem execMigrationImport_runs (k : Nat) (s : State) : Runs s (execMigrationImport k s) := serviceEvent_runs fun r => answerFree_offers (importDomain_keeps r s)

@[simp] theorem execDebugChallenge_runs (k : Nat) (s : State) : Runs s (execDebugChallenge k s) := serviceEvent_runs fun r => answer_offers (drawChallenge_keeps r s)

@[simp] theorem execDebugUnlock_runs (k : Nat) (s : State) : Runs s (execDebugUnlock k s) := unlockEvent_runs fun s t hs => by simpa using hs

@[simp] theorem execReturnModule_runs (k : Nat) (s : State) : Runs s (execReturnModule k s) := unlockEvent_runs fun s t hs => by simpa using hs

@[simp] theorem execSpdmGetVersion_runs (req : Nat) (s : State) : Runs s (execSpdmGetVersion req s) := respond_runs ..

@[simp] theorem execSpdmGetCapabilities_runs (req : Nat) (s : State) : Runs s (execSpdmGetCapabilities req s) := by
  unfold execSpdmGetCapabilities
  (repeat' split) <;> simp +contextual

@[simp] theorem execSpdmNegotiateAlgorithms_runs (req : Nat) (supported : Bool) (s : State) : Runs s (execSpdmNegotiateAlgorithms req supported s) := by
  unfold execSpdmNegotiateAlgorithms
  (repeat' split) <;> simp +contextual

@[simp] theorem execSpdmGetDigests_runs (req : Nat) (s : State) : Runs s (execSpdmGetDigests req s) := negotiated_runs fun _ => respond_runs _ _ _ _ _

@[simp] theorem execSpdmGetCertificate_runs (req slot : Nat) (s : State) : Runs s (execSpdmGetCertificate req slot s) := by
  refine negotiated_runs fun _ => ?_
  split <;> simp

@[simp] theorem execSpdmChallenge_runs (req : Nat) (nonce : BitVec 384) (s : State) : Runs s (execSpdmChallenge req nonce s) := negotiated_runs fun _ => respond_runs _ _ _ _ _

@[simp] theorem execSpdmGetMeasurements_runs (req part : Nat) (did : BitVec 16) (nonce : BitVec 384) (s : State) : Runs s (execSpdmGetMeasurements req part did nonce s) := by
  refine negotiated_runs fun _ => ?_
  split <;> simp

@[simp] theorem execSpdmKeyExchange_runs (req session : Nat) (s : State) : Runs s (execSpdmKeyExchange req session s) := negotiated_runs fun _ => respond_runs _ _ _ _ _

@[simp] theorem execSpdmFinish_runs (req : Nat) (s : State) : Runs s (execSpdmFinish req s) := by
  unfold execSpdmFinish
  split
  · exact runs_next.mpr id
  · simp

@[simp] theorem execSpdmEndSession_runs (req : Nat) (s : State) : Runs s (execSpdmEndSession req s) := by
  unfold execSpdmEndSession
  (repeat' split) <;> simp +contextual

@[simp] theorem execSpdmKeyDelivery_runs (session : Nat) (slot : BitVec 8) (key : BitVec 256) (s : State) : Runs s (execSpdmKeyDelivery session slot key s) := by
  unfold execSpdmKeyDelivery
  split
  · simp
  · refine runs_ite (fun _ => by simp) fun _ => runs_next.mpr id

@[simp] theorem execPartitionForm_runs (part : Nat) (rect : Rect) (boot : BootResult) (s : State) : Runs s (execPartitionForm part rect boot s) := by
  have hall (ns : List Nat) (s : State) (hs : Memory.wf s.mem = true) : Memory.wf (ns.foldl (fun s n => resetSlice (clearRegions s n) n (some part)) s).mem = true :=
    foldl_wf hs (fun s n h => by simpa using clearRegions_wf s n h) ns
  unfold execPartitionForm
  dsimp only
  refine runs_ite (fun _ => by simp) fun _ => ?_
  split
  · refine runs_next.mpr fun hs => ?_
    simp [hall, hs]
  · refine runs_next.mpr fun hs => ite_wf (bootWith_wf _ _ _ _ ?_) ?_ <;> simp [hall, hs]

@[simp] theorem execBootRetry_runs (part : Nat) (boot : BootResult) (s : State) : Runs s (execBootRetry part boot s) := by
  simp only [execBootRetry]
  (repeat' split) <;> simp +contextual

@[simp] theorem execPartitionReset_runs (part : Nat) (s : State) : Runs s (execPartitionReset part s) := by
  unfold execPartitionReset
  (repeat' split) <;> simp +contextual

@[simp] theorem execSensorSample_runs (slice : Nat) (reading : Sensor) (s : State) : Runs s (execSensorSample slice reading s) := by
  unfold execSensorSample
  (repeat' split) <;> simp +contextual

@[simp] theorem execPowerQuotaUpdate_runs (q : Nat) (s : State) : Runs s (execPowerQuotaUpdate q s) := by
  unfold execPowerQuotaUpdate
  (repeat' split) <;> simp +contextual

@[simp] theorem execPowerLimitSet_runs (watts : Nat) (s : State) : Runs s (execPowerLimitSet watts s) := by
  unfold execPowerLimitSet
  (repeat' split) <;> simp +contextual

@[simp] theorem execFirmwareUpdate_runs (image : FirmwareImage) (s : State) : Runs s (execFirmwareUpdate image s) := by
  unfold execFirmwareUpdate
  (repeat' split) <;> simp +contextual

@[simp] theorem execModuleReset_runs (s : State) : Runs s (execModuleReset s) := by
  unfold execModuleReset
  exact runs_next.mpr fun hs => wf_filter hs _

@[simp] theorem execDeferredTrapRecord_runs (k w : Nat) (s : State) : Runs s (execDeferredTrapRecord k w s) := by
  unfold execDeferredTrapRecord
  (repeat' split) <;> simp +contextual

@[simp] theorem execNotificationDrain_runs (n : Nat) (s : State) : Runs s (execNotificationDrain n s) := by
  unfold execNotificationDrain
  (repeat' split) <;> simp +contextual

@[simp] theorem execServiceInterrupt_runs (k : Nat) (s : State) : Runs s (execServiceInterrupt k s) := by
  unfold execServiceInterrupt
  (repeat' split) <;> simp +contextual

@[simp] theorem execDispositionResume_runs (k w : Nat) (s : State) : Runs s (execDispositionResume k w s) := by
  unfold execDispositionResume
  (repeat' split) <;> simp +contextual

@[simp] theorem execDispositionKill_runs (k w : Nat) (s : State) : Runs s (execDispositionKill k w s) := by
  unfold execDispositionKill
  (repeat' split) <;> simp +contextual

@[simp] theorem execDispositionHandler_runs (k w : Nat) (s : State) : Runs s (execDispositionHandler k w s) := by
  simp only [execDispositionHandler]
  (repeat' split) <;> simp +contextual

@[simp] theorem execMemoryError_runs (slice pa : Nat) (s : State) : Runs s (execMemoryError slice pa s) := by
  unfold execMemoryError
  (repeat' split) <;> simp +contextual

@[simp] theorem execStallRunout_runs (k w g : Nat) (s : State) : Runs s (execStallRunout k w g s) := by simp +contextual [execStallRunout]

@[simp] theorem execYieldRunout_runs (k w g : Nat) (s : State) : Runs s (execYieldRunout k w g s) := by simp +contextual [execYieldRunout]

@[simp] theorem execAgeingThreshold_runs (k w g : Nat) (s : State) : Runs s (execAgeingThreshold k w g s) := by simp +contextual [execAgeingThreshold]

@[simp] theorem execMeetParkExpiry_runs (k w g : Nat) (s : State) : Runs s (execMeetParkExpiry k w g s) := by
  unfold execMeetParkExpiry
  (repeat' split) <;> simp +contextual

end Sys2Proof.Machine

/-! SUPPORT. Every instruction and event runs; so does every step of the machine, whatever it comes from. -/

namespace Sys2Proof.Machine

open Sys2Proof.Safety

theorem exec_runs (i : Instr) (s : State) : Runs s (exec i s) := by
  cases i <;> simp [exec]

/-- Settles O6: each meaning and each event runs (`exec_runs`), and `run`, which every meaning goes through, faults only where no gang stands. -/
theorem execAnswers : Obligations.ExecAnswers := fun i s =>
  (exec_runs i s).imp (fun ⟨t, ht, _⟩ => ⟨t, ht⟩) id

/-- What runs and goes on keeps memory's form. -/
theorem Runs.wf {s t : State} {o : Host.Outcome State Fault Refusal} (h : Runs s o) (ho : o = .next t) (hs : Memory.wf s.mem = true) : Memory.wf t.mem = true := by
  obtain ⟨u, hu, hkeep⟩ | ⟨hf, -⟩ := h
  · cases hu.symm.trans ho
    exact hkeep hs
  · cases hf.symm.trans ho

/-! ## Issue -/

theorem fetchFails_runs (x : Ctx) (e : Stop) : ∃ t, fetchFails x e = .next t ∧ (Memory.wf x.s.mem = true → Memory.wf t.mem = true) := by
  have hsettle (e : Stop) : ∃ t, settle x (.error e) = .next t ∧ (Memory.wf x.s.mem = true → Memory.wf t.mem = true) := by
    cases e <;> exact ⟨_, rfl, fun hs => by simp [hs]⟩
  unfold fetchFails
  split
  · split
    · exact ⟨_, rfl, id⟩
    · exact hsettle _
  · exact hsettle _

theorem issue_wf {s t : State} {cur : Cursor} (h : issue s cur = .next t) (hs : Memory.wf s.mem = true) : Memory.wf t.mem = true := by
  unfold issue at h
  split at h
  · cases h
    exact hs
  next x hx =>
    dsimp only at h
    split at h
    next e he =>
      obtain ⟨u, hu, hkeep⟩ := fetchFails_runs { x with s := { s with cur := cur, insn := (fetchWords x).2, ctl := (fetchWords x).1 } } e
      cases hu.symm.trans h
      exact hkeep hs
    next w hw =>
      split at h
      · exact (exec_runs _ _).wf h hs
      · exact (run_runs fun x => badWord_keeps _ _ x).wf h hs

/-! ## A cycle -/

@[simp] theorem expireBins_wf (s : State) (k : Nat) (hs : Memory.wf s.mem = true) : Memory.wf (expireBins s k).mem = true := by
  refine foldl_wf hs (fun s b hs => ?_) _
  split
  next t ht => exact (execBinTimerExpiry_runs k b.1 s).wf ht hs
  next => exact hs

@[simp] theorem standGang_wf (s : State) (k w g : Nat) (hs : Memory.wf s.mem = true) : Memory.wf (standGang s k w g).mem = true := by
  unfold standGang
  split
  · split
    · dsimp only
      split
      next t ht =>
        split
        · have hwf := issue_wf ht hs
          exact ite_wf hwf hs
        · exact hs
      next => exact hs
    · exact hs
  · exact hs

@[simp] theorem standQuad_wf (s : State) (k q : Nat) (hs : Memory.wf s.mem = true) : Memory.wf (standQuad s k q).mem = true :=
  foldl_wf hs (fun s a hs => standGang_wf s k a.1 a.2 hs) _

@[simp] theorem expireQuad_wf (s : State) (k q : Nat) (hs : Memory.wf s.mem = true) : Memory.wf (expireQuad s k q).mem = true := by
  refine foldl_wf hs (fun s a hs => ?_) _
  have hnext {f : Nat → Nat → Nat → State → Host.Outcome State Fault Refusal} (hf : ∀ k w g s, Runs s (f k w g s)) (s : State) (hs : Memory.wf s.mem = true) :
      Memory.wf (match f k a.1 a.2 s with | .next s' => s' | _ => s).mem = true := by
    split
    next t ht => exact (hf _ _ _ _).wf ht hs
    next => exact hs
  exact hnext execWsleepTimeout_runs _ (hnext execBwaittTimeout_runs _ (hnext execMeetParkExpiry_runs _ hs))

theorem beginCycle_wf (s : State) (hs : Memory.wf s.mem = true) : Memory.wf (beginCycle s).1.mem = true := by
  unfold beginCycle
  extract_lets k q expired ticked off stood es picks order counted last
  have hticked : Memory.wf ticked.mem = true := ite_wf (s := tickCore (expireBins expired k) k) (by simp [expired, hs]) (by simp [expired, hs])
  have hstood : Memory.wf stood.mem = true := ite_wf hticked (standQuad_wf _ _ _ hticked)
  have hlast : last.mem = stood.mem := by
    unfold last
    generalize picks = ps
    cases ps <;> rfl
  exact hlast ▸ hstood

@[simp] theorem stirPods_wf (s : State) (hs : Memory.wf s.mem = true) : Memory.wf (stirPods s).mem = true :=
  foldl_wf (foldl_wf hs (fun s g h => by simpa using h) _) (fun s l h => podStir_wf s l h) _

@[simp] theorem turnOver_wf (s : State) (hs : Memory.wf s.mem = true) : Memory.wf (turnOver s).mem = true :=
  ite_wf (s := stirPods (tickDispatch (tickRefresh s))) (by simp [hs]) hs

/-! ## The events that a cycle may run -/

/-- Every step of the list runs. -/
def AllRun (l : List Act) : Prop := ∀ f ∈ l, ∀ s, Runs s (f s)

section
variable {α : Type} {f : Act} {l l' : List Act}

@[simp] theorem allRun_nil : AllRun [] ↔ True := by simp [AllRun]

@[simp] theorem allRun_cons : AllRun (f :: l) ↔ (∀ s, Runs s (f s)) ∧ AllRun l := by simp [AllRun]

@[simp] theorem allRun_append : AllRun (l ++ l') ↔ AllRun l ∧ AllRun l' := by simp [AllRun, or_imp, forall_and]

@[simp] theorem allRun_map {as : List α} {g : α → Act} : AllRun (as.map g) ↔ ∀ a ∈ as, ∀ s, Runs s (g a s) := by simp [AllRun]

@[simp] theorem allRun_flatMap {as : List α} {g : α → List Act} : AllRun (as.flatMap g) ↔ ∀ a ∈ as, AllRun (g a) := by
  simp only [AllRun, List.mem_flatMap]
  exact ⟨fun h a ha f hf => h f ⟨a, ha, hf⟩, fun h f ⟨a, ha, hf⟩ => h a ha f hf⟩

@[simp] theorem allRun_ite {c : Prop} [Decidable c] : AllRun (if c then l else l') ↔ (c → AllRun l) ∧ (¬c → AllRun l') := by
  split <;> simp_all

end

@[simp] theorem accessEvents_run (k : Nat) (ac : Access) : AllRun (accessEvents k ac) := by simp [accessEvents]

@[simp] theorem gangEvents_run (k w g : Nat) : AllRun (gangEvents k w g) := by simp [gangEvents]

@[simp] theorem warpEvents_run (k w : Nat) (wp : Warp) : AllRun (warpEvents k w wp) := by simp [warpEvents]

@[simp] theorem copyEvents_run (k q : Nat) (off : Bool) (cmd : Command) : AllRun (copyEvents k q off cmd) := by simp [copyEvents]

@[simp] theorem markerEvents_run (cs : List Command) : AllRun (markerEvents cs) := by
  intro f hf s
  obtain ⟨q, -, hq⟩ := List.mem_filterMap.mp hf
  split at hq <;> cases hq
  exact execQfenceRelease_runs _ _ s

@[simp] theorem serviceEvents_run (k : Nat) : AllRun (serviceEvents k) := by simp [serviceEvents]

@[simp] theorem coreEvents_run (s : State) (k : Nat) : AllRun (coreEvents s k) := by simp [coreEvents]

@[simp] theorem sliceEvents_run (s : State) (n : Nat) (off : Bool) : AllRun (sliceEvents s n off) := by simp [sliceEvents]

@[simp] theorem portEvents_run (n : Nat) (p : Port) : AllRun (portEvents n p) := by
  unfold portEvents
  split <;> simp

@[simp] theorem reclaimEvents_run (s : State) : AllRun (reclaimEvents s) := by simp [reclaimEvents]

@[simp] theorem scrubEvents_run (s : State) : AllRun (scrubEvents s) := by simp [scrubEvents]

theorem candidates_run (s : State) (k : Nat) : AllRun (candidates s k) := by
  unfold candidates
  refine allRun_append.mpr ⟨by simp, ?_⟩
  split
  · simp
  · simp

theorem nextEvent_runs {s : State} {f : Act} (h : nextEvent s = some f) (t : State) : Runs t (f t) := by
  have hf := List.mem_of_find?_eq_some h
  refine candidates_run s (s.turn / 8) f ?_ t
  simp only [rotate, List.mem_append] at hf
  exact hf.elim List.mem_of_mem_drop List.mem_of_mem_take

/-- Settles O5: a step is an instruction's or an event's meaning, which runs (`exec_runs`), or the turn of a cycle, and memory is written by `memPut` and `memZero`
alone, which keep its form. -/
theorem memoryStaysCanonical : Obligations.MemoryStaysCanonical := by
  intro s t hs h
  unfold step at h
  split at h
  next i rest hagenda => exact (exec_runs i _).wf h hs
  next =>
    split at h
    next cur rest hpair => exact issue_wf h hs
    next =>
      split at h
      · have hcycle := beginCycle_wf s hs
        split at h
        next s' cur rest hbegin =>
          rw [hbegin] at hcycle
          exact issue_wf h hcycle
        next s' hbegin =>
          rw [hbegin] at hcycle
          cases h
          exact hcycle
      · split at h
        next f hf => exact (nextEvent_runs hf _).wf h (turnOver_wf s hs)
        next =>
          cases h
          exact turnOver_wf s hs

end Sys2Proof.Machine
